-- ==== Sys2Proof/Word.lean ====
section
/-! DEFINITION. The word types of the module and the sparse map that holds large, mostly empty tables.

A word is 64 bits, a sector 32 bytes (00_scope, Terms used throughout). -/
namespace Sys2Proof

/-- One byte. -/
abbrev Byte := BitVec 8

/-- The unit of mailbox transfer and of command lengths: 64 bits. -/
abbrev Word := BitVec 64

/-- A sparse map: pairs with strictly rising keys; a key that is not listed holds a default. -/
abbrev SMap (α : Type) := List (Nat × α)

/-- A logical cluster by its global number (R10). -/
abbrev Cl := Fin 384

/-- A region, 12 × die + g (R254). -/
abbrev Rg := Fin 24

/-- A memory partition: 0 to 11 are hp00 to hp11, 12 to 15 are fp0 to fp3 (11_memory_system). -/
abbrev Pt := Fin 16

/-- A fabric port in the order px+, px−, py+, py−, pz+, pz−, pa, pb (R435). -/
abbrev FPort := Fin 8

/-- A PCIe port, e0 or e1. -/
abbrev HPort := Fin 2

end Sys2Proof
end

