-- ==== Sys2Proof/Syntax.lean ====
section
/-! DEFINITION. The commands of the block: one constructor for each row of the operation table, with the operands
that its rule and its encoding give it. -/
namespace Sys2Proof

/-- The fields of a vector instruction on cluster `cl` (R209): VD, PM, M, VS1, VS2, X. -/
structure VArgs where
  cl : Cl
  vd : BitVec 5 := 0
  pm : BitVec 3 := 0
  m : Bool := false
  vs1 : BitVec 5 := 0
  vs2 : BitVec 5 := 0
  x : Bool := false
  deriving DecidableEq, Repr

/-- Why a cluster is fenced (R529). -/
inductive FenceReason where
  | tileMemory | islandTimeout | internalCheck
  deriving DecidableEq, Repr

/-- What memory returns with a line: errors as (sector of the line, symbol position, changed bits), of which one without a
changed bit is none (R409, R410), and how many times in a row the far tier's link ECC failed (R415). -/
structure MemError where
  symbols : List (Fin 8 × Fin 36 × Byte) := []
  link : Nat := 0
  deriving DecidableEq, Repr

/-- A turn of a bank's scheduler: the bank, and what memory returns to the read inside a partial HBM write that it picks (R394,
R402). -/
structure BankTurn where
  bank : BitVec 13
  found : MemError := {}
  deriving DecidableEq, Repr

/-- A packet of 64 bytes (R431): route header, transaction field, payload with byte 12 lowest, CRC. -/
structure Packet where
  header : Word
  txn : BitVec 32
  payload : BitVec 384
  crc : BitVec 32
  deriving DecidableEq, Repr

/-- A packet as it arrives on a fabric port, with what the FEC says of it: symbols corrected, or uncorrectable; and
whether it is the first packet of a replay (R428), which the implicit numbers of R426 tell. -/
structure RxPacket where
  packet : Packet
  corrected : BitVec 5 := 0
  uncorrectable : Bool := false
  replayed : Bool := false
  deriving DecidableEq, Repr

/-- A command as the mailbox frames it (R507): the words after its header. -/
structure HostCmd where
  port : HPort
  tag : BitVec 16 := 0
  flags : BitVec 16 := 0
  words : List Word := []
  deriving DecidableEq, Repr

/-- Who writes a register, and where (R18, R499): an agent that addresses the register space of the device writes the 64-bit
register of that number, which stands at eight times the number; a host through BAR0 writes one word at that offset, and in the same
access the words `more` after it, or so few bytes that they make no whole words; the sideband controller writes the debug window's
ADDR whatever the number (R629). -/
inductive RegWriter where
  | device
  | bar0 (port : HPort) (more : List Word)
  | bar0Part (port : HPort)
  | sideband
  deriving DecidableEq, Repr

/-- One quantity the coolant sensors read; none when the sensor reads open or out of its scale (R620). -/
abbrev Reading := Option Nat

/-- The inputs of a health sample (R478, R596, R620): hottest junction in degrees and its die, input voltage and power,
coolant temperatures in degrees, flow in 0.01 L/min, leak wire; and the far tier's error counts since the last sample
(R416). -/
structure Sensors where
  junction : Byte := 0
  die : Fin 6 := 0
  mv : BitVec 16 := 0
  watts : BitVec 16 := 0
  inlet : Reading := some 0
  outlet : Reading := some 0
  flow : Reading := some 0
  leak : Bool := false
  farErrors : List (Fin 4 × Nat) := []
  deriving DecidableEq, Repr

/-- The commands. -/
inductive Instr where
  /-- VADD (R171): Vector SI addition of two sources, or of a source and a scalar, under block normalisation. -/
  | vadd (a : VArgs)
  /-- VSUB (R171): Vector SI subtraction of the second operand from the first. -/
  | vsub (a : VArgs)
  /-- VMUL (R171): Vector SI multiplication, formed exactly and then rounded once. -/
  | vmul (a : VArgs)
  /-- VFMA (R171): Vector SI fused multiply-add a×b+d with a single rounding. -/
  | vfma (a : VArgs)
  /-- VFMS (R171): Vector SI fused multiply-subtract a×b−d with a single rounding. -/
  | vfms (a : VArgs)
  /-- VNFMA (R171): Vector SI negated fused multiply-add −(a×b)+d with a single rounding. -/
  | vnfma (a : VArgs)
  /-- VDIV (R171): Vector SI division, with the defined results for zero divisors. -/
  | vdiv (a : VArgs)
  /-- VRCP (R171): Vector SI reciprocal. -/
  | vrcp (a : VArgs)
  /-- VSQRT (R171): Vector SI square root. -/
  | vsqrt (a : VArgs)
  /-- VRSQRT (R171): Vector SI reciprocal square root. -/
  | vrsqrt (a : VArgs)
  /-- VMAX (R171): Vector SI elementwise maximum. -/
  | vmax (a : VArgs)
  /-- VMIN (R171): Vector SI elementwise minimum. -/
  | vmin (a : VArgs)
  /-- VABS (R171): Vector SI absolute value; NaR stays NaR. -/
  | vabs (a : VArgs)
  /-- VNEG (R171): Vector SI negation. -/
  | vneg (a : VArgs)
  /-- VMULP2 (R171): Vector SI scaling by the power of two 2^n taken from an x register. -/
  | vmulp2 (a : VArgs)
  /-- VEXP (R173): Vector SI e^a within the stated error bound. -/
  | vexp (a : VArgs)
  /-- VEXP2 (R173): Vector SI 2^a within the stated error bound. -/
  | vexp2 (a : VArgs)
  /-- VLN (R173): Vector SI natural logarithm. -/
  | vln (a : VArgs)
  /-- VLOG2 (R173): Vector SI base-2 logarithm. -/
  | vlog2 (a : VArgs)
  /-- VTANH (R173): Vector SI hyperbolic tangent. -/
  | vtanh (a : VArgs)
  /-- VSIGM (R173): Vector SI logistic sigmoid. -/
  | vsigm (a : VArgs)
  /-- VERF (R173): Vector SI error function. -/
  | verf (a : VArgs)
  /-- VBCAST_VS (R171): Broadcasts an SI scalar operand into the active elements of a register group. -/
  | vbcastVs (a : VArgs)
  /-- VMV (R171): Copies the bits and the scale plane of touched blocks, the whole chain in strict mode. -/
  | vmv (a : VArgs)
  /-- VSEL (R175): Selects a or b per element under a selector predicate, then forms the destination blocks. -/
  | vsel (a : VArgs) (sel : BitVec 3)
  /-- VCMP_EQ (R174): SI equality comparison that writes predicate bits. -/
  | vcmpEq (a : VArgs)
  /-- VCMP_NE (R174): SI not-equal comparison that writes predicate bits; true for NaR. -/
  | vcmpNe (a : VArgs)
  /-- VCMP_LT (R174): SI less-than comparison that writes predicate bits. -/
  | vcmpLt (a : VArgs)
  /-- VCMP_LE (R174): SI less-or-equal comparison that writes predicate bits. -/
  | vcmpLe (a : VArgs)
  /-- VCMP_GT (R174): SI greater-than comparison that writes predicate bits. -/
  | vcmpGt (a : VArgs)
  /-- VCMP_GE (R174): SI greater-or-equal comparison that writes predicate bits. -/
  | vcmpGe (a : VArgs)
  /-- VIADD (R176): Integer addition that wraps modulo 2^EW. -/
  | viadd (a : VArgs)
  /-- VISUB (R176): Integer subtraction that wraps modulo 2^EW. -/
  | visub (a : VArgs)
  /-- VIMUL (R176): Low EW bits of the integer product. -/
  | vimul (a : VArgs)
  /-- VIMULH (R176): High EW bits of the signed integer product. -/
  | vimulh (a : VArgs)
  /-- VIMULHU (R176): High EW bits of the unsigned integer product. -/
  | vimulhu (a : VArgs)
  /-- VAND (R176): Bitwise AND of integer elements. -/
  | vand (a : VArgs)
  /-- VOR (R176): Bitwise OR of integer elements. -/
  | vor (a : VArgs)
  /-- VXOR (R176): Bitwise XOR of integer elements. -/
  | vxor (a : VArgs)
  /-- VSLL (R176): Logical left shift by b mod EW. -/
  | vsll (a : VArgs)
  /-- VSRL (R176): Logical right shift by b mod EW. -/
  | vsrl (a : VArgs)
  /-- VSRA (R176): Arithmetic right shift by b mod EW. -/
  | vsra (a : VArgs)
  /-- VIMIN (R176): Signed integer minimum. -/
  | vimin (a : VArgs)
  /-- VIMAX (R176): Signed integer maximum. -/
  | vimax (a : VArgs)
  /-- VIMINU (R176): Unsigned integer minimum. -/
  | viminu (a : VArgs)
  /-- VIMAXU (R176): Unsigned integer maximum. -/
  | vimaxu (a : VArgs)
  /-- VICMP_EQ (R176): Integer equality comparison that writes predicate bits. -/
  | vicmpEq (a : VArgs)
  /-- VICMP_NE (R176): Integer not-equal comparison that writes predicate bits. -/
  | vicmpNe (a : VArgs)
  /-- VICMP_LT (R176): Signed integer less-than comparison. -/
  | vicmpLt (a : VArgs)
  /-- VICMP_LE (R176): Signed integer less-or-equal comparison. -/
  | vicmpLe (a : VArgs)
  /-- VICMP_LTU (R176): Unsigned integer less-than comparison. -/
  | vicmpLtu (a : VArgs)
  /-- VICMP_LEU (R176): Unsigned integer less-or-equal comparison. -/
  | vicmpLeu (a : VArgs)
  /-- VIDX (R176): Writes each active element's group index modulo 2^EW. -/
  | vidx (a : VArgs)
  /-- VISPLAT_VX (R176): Broadcasts an integer scalar into the active elements. -/
  | visplatVx (a : VArgs)
  /-- VWID (R177): Widens SI elements to twice the width, exactly. -/
  | vwid (a : VArgs)
  /-- VNAR (R177): Narrows SI elements to half the width, with one rounding. -/
  | vnar (a : VArgs)
  /-- VIWID (R177): Widens integer elements by sign extension. -/
  | viwid (a : VArgs)
  /-- VIWIDU (R177): Widens integer elements by zero extension. -/
  | viwidu (a : VArgs)
  /-- VINAR (R177): Narrows integer elements to their low EW bits. -/
  | vinar (a : VArgs)
  /-- VCVT_SI_I (R177): Converts integer codes to SI values. -/
  | vcvtSiI (a : VArgs)
  /-- VCVT_I_SI (R177): Converts SI values to the nearest integer codes, saturating at the range ends. -/
  | vcvtISi (a : VArgs)
  /-- PAND (R178): Predicate AND. -/
  | pand (a : VArgs)
  /-- POR (R178): Predicate OR. -/
  | por (a : VArgs)
  /-- PXOR (R178): Predicate XOR. -/
  | pxor (a : VArgs)
  /-- PANDN (R178): Predicate first AND NOT second. -/
  | pandn (a : VArgs)
  /-- PNOT (R178): Predicate NOT. -/
  | pnot (a : VArgs)
  /-- PSET (R178): Sets the predicate bits below VL to one. -/
  | pset (a : VArgs)
  /-- PCLR (R178): Clears the predicate bits below VL. -/
  | pclr (a : VArgs)
  /-- VREDSUM (R187): Sums the active elements and an initial value into element 0 of the destination. -/
  | vredsum (a : VArgs)
  /-- VREDMAX (R189): Maximum reduction into element 0 of the destination. -/
  | vredmax (a : VArgs)
  /-- VREDMIN (R189): Minimum reduction into element 0 of the destination. -/
  | vredmin (a : VArgs)
  /-- VIREDSUM (R190): Integer sum reduction modulo 2^EW into element 0. -/
  | viredsum (a : VArgs)
  /-- VIREDMAX (R190): Signed integer maximum reduction into element 0. -/
  | viredmax (a : VArgs)
  /-- VIREDMIN (R190): Signed integer minimum reduction into element 0. -/
  | viredmin (a : VArgs)
  /-- VSEGSUM (R191): Segmented sum over the segments that head predicate bits mark. -/
  | vsegsum (a : VArgs)
  /-- VSEGMAX (R191): Segmented maximum reduction. -/
  | vsegmax (a : VArgs)
  /-- VSEGMIN (R191): Segmented minimum reduction. -/
  | vsegmin (a : VArgs)
  /-- VCOMPRESS (R193): Packs the active elements into the lowest destination positions. -/
  | vcompress (a : VArgs)
  /-- VEXPAND (R194): Scatters consecutive source elements to the active destination positions. -/
  | vexpand (a : VArgs)
  /-- VPERM (R198): Gathers elements by an index group, with zero and PERM_OOR for indices at or beyond VL. -/
  | vperm (a : VArgs)
  /-- VSLIDEUP (R199): Slides the elements up by n positions. -/
  | vslideup (a : VArgs)
  /-- VSLIDEDN (R199): Slides the elements down by n positions. -/
  | vslidedn (a : VArgs)
  /-- VPSUM_POPC (R196): Counts the active set bits of a predicate into an x register. -/
  | vpsumPopc (a : VArgs)
  /-- VPSUM_ANY (R196): Returns 1 when any active bit of a predicate is set. -/
  | vpsumAny (a : VArgs)
  /-- VPSUM_ALL (R196): Returns 1 when every active bit of a predicate is set. -/
  | vpsumAll (a : VArgs)
  /-- VPSUM_FIRST (R196): Returns the least active index with its predicate bit set, or −1. -/
  | vpsumFirst (a : VArgs)
  /-- VSMAX (R197): Writes the largest active element to an x register and its scale to VEC_SSCALE. -/
  | vsmax (a : VArgs)
  /-- VMVX (R197): Writes element 0 to an x register. -/
  | vmvx (a : VArgs)
  /-- VSETCFG (R161): Sets EW, GRP and VL and returns the new VL. -/
  | vsetcfg (a : VArgs)
  /-- VLD (R201): Loads a register group from tile memory with conversion. -/
  | vld (a : VArgs)
  /-- VST (R201): Stores a register group to tile memory with conversion. -/
  | vst (a : VArgs)
  /-- VLDRES (R205): Fills a register group with one residue level from residue records. -/
  | vldres (a : VArgs)
  /-- VSTRES (R206): Writes one residue record per block of a register group. -/
  | vstres (a : VArgs)
  /-- SUMMARY_DELIVERY (R195): A vector result destined for an x register arrives L cycles after the last beat of its instruction. -/
  | summaryDelivery (cl : Cl)
  /-- TAHR_BASE_INSTRUCTION (R215): Tahr executes one RV64IMC instruction. -/
  | tahrBaseInstruction (cl : Cl)
  /-- CSR_INSTRUCTION (R636): Tahr reads or writes a listed CSR, or faults on an unlisted or read-only one. -/
  | csrInstruction (cl : Cl) (f3 : BitVec 3) (rd : BitVec 5) (rs1 : BitVec 5) (csr : BitVec 12)
  /-- EBREAK (R215): Halts Tahr for the debugger when the debug scope is open, and is illegal otherwise. -/
  | ebreak (cl : Cl)
  /-- FENCE (R217): Orders nothing beyond the kernel ordering rules. -/
  | fence (cl : Cl)
  /-- FENCE_I (R217): Invalidates the Tahr instruction cache. -/
  | fenceI (cl : Cl)
  /-- TARR (R221): Enqueues an array command from tile memory. -/
  | tarr (cl : Cl) (rs1 : BitVec 5)
  /-- TARRSYNC (R221): Starts a wait for the kernel's array commands to complete. -/
  | tarrsync (cl : Cl) (rd : BitVec 5)
  /-- TARRSYNC_RESUME (R221): Once the kernel's array commands have completed, returns ARR_STAT to x[rd]. -/
  | tarrsyncResume (cl : Cl)
  /-- TPROD (R221): Signals a scoreboard slot of a cluster. -/
  | tprod (cl : Cl) (rs1 : BitVec 5) (rs2 : BitVec 5)
  /-- TWAITS (R221): Starts a wait for a committed slot count to reach an amount. -/
  | twaits (cl : Cl) (rs1 : BitVec 5) (rs2 : BitVec 5)
  /-- TWAITS_RESUME (R221): Once the slot holds enough, subtracts the amount and continues. -/
  | twaitsResume (cl : Cl)
  /-- TGUARD (R221): Resolves a region guard TRUE or FALSE. -/
  | tguard (cl : Cl) (rs1 : BitVec 5) (rs2 : BitVec 5)
  /-- TEND (R221): Ends the vector-kernel task with a result value. -/
  | tend (cl : Cl) (rs1 : BitVec 5)
  /-- CYCLE_BUDGET_EXCEEDED (R224): The kernel's cycle budget expires and the kernel faults with cause 4. -/
  | cycleBudgetExceeded (cl : Cl)
  /-- ARRAY_COMMAND_FETCH (R135): The array fetches the next command of an array task into its queue when an entry is free. -/
  | arrayCommandFetch (cl : Cl)
  /-- ARR_MODE (R141): Sets the strict and half-limb modes of the array. -/
  | arrMode (cl : Cl)
  /-- ARR_CLEAR (R139): Clears accumulator entries and records the current mode in them. -/
  | arrClear (cl : Cl)
  /-- ARR_LOAD_SHADOW (R147): Starts loading a stationary limb or residue level into the shadow tile. -/
  | arrLoadShadow (cl : Cl)
  /-- SHADOW_LOAD_DONE (R147): A shadow load finishes and the shadow tile becomes ready for a swap. -/
  | shadowLoadDone (cl : Cl)
  /-- ARR_SWAP (R128): Exchanges the active and shadow tiles along the stagger. -/
  | arrSwap (cl : Cl)
  /-- ARR_STREAM (R142): Runs the passes of the moving operand against the active tile. -/
  | arrStream (cl : Cl)
  /-- ARR_DRAIN (R148): Rounds accumulator entries into output blocks and residue records. -/
  | arrDrain (cl : Cl)
  /-- TASK_DISPATCH (R232): The scheduler chooses a ready task each cycle and starts it on its unit. -/
  | taskDispatch (cl : Cl)
  /-- SIGNAL_ARRIVAL (R234): A remote signal reaches its target cluster's slot. -/
  | signalArrival (cl : Cl) (k : Nat)
  /-- TASK_COMPLETE (R234): A firing ends: its signals are applied and its completion record is written. -/
  | taskComplete (cl : Cl) (entry : BitVec 7)
  /-- SPEC_COMMIT_WRITES_DONE (R249): The held sectors of a commit have been written, so thresholds and held signals take effect. -/
  | specCommitWritesDone (cl : Cl) (entry : BitVec 7)
  /-- HOLD_PEAK_RESET (R257): A write of 1 to the PEAK field sets PEAK to the current held-sector count. -/
  | holdPeakReset (rg : Rg)
  /-- STEP_START (R517): Markhor starts a step from the budget when no step runs, and signals the segment-0 gates. -/
  | stepStart
  /-- SEGMENT_FINISH (R272): A region reports a segment finished; after all 24 have reported, Markhor opens the next segment's gates. -/
  | segmentFinish (rg : Rg)
  /-- STEP_BOUNDARY (R47): A step ends: committed transactions, epoch switches, snapshots and counter latches take place. -/
  | stepBoundary
  /-- CLUSTER_FENCE (R287): A cluster is fenced; the module quiesces and acts on the step's state. -/
  | clusterFence (cl : Cl) (reason : FenceReason)
  /-- REPLACEMENT (R286): The placer re-places the loaded graph over the remaining clusters. -/
  | replacement
  /-- SOLVER_CALL_START (R332): Nyala takes the next queued call, checks it and begins its first wave. -/
  | solverCallStart (rg : Rg)
  /-- NYALA_WAVE_INPUT_DONE (R337): A wave's input transfer completes. -/
  | nyalaWaveInputDone (rg : Rg)
  /-- NYALA_WAVE_COMPUTE_DONE (R337): A wave's compute ends and its output transfer is requested. -/
  | nyalaWaveComputeDone (rg : Rg)
  /-- NYALA_CALL_DONE (R323): The last outputs and records are written and the call completes. -/
  | nyalaCallDone (rg : Rg)
  /-- SOLVER_DEADLINE (R321): A call's deadline expires and each instance returns its last complete iterate. -/
  | solverDeadline (rg : Rg) (k : Nat)
  /-- JACOBI_ROUND (R370): Nyala applies one round of disjoint Jacobi rotations, and checks convergence at the end of a sweep. -/
  | jacobiRound (rg : Rg)
  /-- REDUCE_SCATTER_START (R349): All TRIGGER tasks of a class-4 stage have completed, so the layer reduce-scatter starts. -/
  | reduceScatterStart (op : BitVec 16)
  /-- DISTRIBUTION_START (R354): The update TRIGGER tasks have completed, so the owned shards are distributed. -/
  | distributionStart (op : BitVec 16)
  /-- FACTOR_REDUCTION_START (R364): On a due step after the factor update, factors are sent to the block owners. -/
  | factorReductionStart (block : BitVec 16)
  /-- NEWTON_NORMALISATION (R365): Medlar forms and normalises Z and starts the Newton iterations. -/
  | newtonNormalisation (rg : Rg)
  /-- MEDLAR_ITERATION_DECISION (R368): After a root group's iteration, Medlar converges, continues, pauses or falls back. -/
  | medlarIterationDecision (rg : Rg)
  /-- TAG_GRANT (R396): A region grants one tag per region-network cycle in priority order. -/
  | tagGrant (rg : Rg)
  /-- SORTER_ACCEPT (R397): A partition sorter accepts requests from its ports in port order. -/
  | sorterAccept (pt : Pt)
  /-- BANK_SCHEDULE (R402): A bank scheduler issues the next eligible request to memory. -/
  | bankSchedule (pt : Pt) (bank : BankTurn)
  /-- MEMORY_READ_RETURN (R397): Read data returns from memory, is checked and corrected, and is delivered. -/
  | memoryReadReturn (pt : Pt) (err : MemError)
  /-- WATCHDOG_PROMOTION (R403): A tagged request older than 6,400 ticks is promoted. -/
  | watchdogPromotion (pt : Pt)
  /-- REGULATOR_REFILL (R405): Each class bucket gains RATE×LPT credits at each partition tick. -/
  | regulatorRefill (pt : Pt)
  /-- SCRUB_READ (R416): The scrub engine reads the next line every GAP ticks. -/
  | scrubRead (pt : Pt) (err : MemError)
  /-- HBM_INIT_DONE (R418): The HBM zero fill completes and INIT_BUSY clears. -/
  | hbmInitDone
  /-- LINK_TRAINING_DONE (R429): A fabric link completes training and comes UP. -/
  | linkTrainingDone (p : FPort)
  /-- LINK_ALIGNMENT_LOST (R429): FEC alignment is lost and the link goes DOWN. -/
  | linkAlignmentLost (p : FPort)
  /-- LINK_ACK_TIMEOUT (R429): 10 µs pass with data unacknowledged and no link control, so the link goes DOWN. -/
  | linkAckTimeout (p : FPort)
  /-- LINK_CONTROL_RECEIVE (R427): A link-control packet delivers acknowledgements, credits and flags. -/
  | linkControlReceive (p : FPort) (rx : RxPacket)
  /-- LINK_CONTROL_SEND (R427): The receiver sends a link-control packet by count or by the 100 ns timer. -/
  | linkControlSend (p : FPort)
  /-- PORT_SLOT_SEND (R441): An output port chooses and sends one packet per slot. -/
  | portSlotSend (p : FPort)
  /-- PACKET_RECEIVE (R435): A router accepts a data packet, checks it, and routes, delivers or drops it. -/
  | packetReceive (p : FPort) (rx : RxPacket)
  /-- DESC (R455): A receiver takes a stream descriptor and accepts or refuses the stream. -/
  | desc
  /-- DATA (R455): A receiver writes a stream data packet and acknowledges every 1,024 packets. -/
  | data
  /-- ACK (R455): A source receives progress on a stream and completes the stream or service at the end. -/
  | ack
  /-- NACK (R452): A source receives a refusal and skips or handles the destination. -/
  | nack
  /-- CUT (R451): A source receives a multicast cut and repairs it with unicasts. -/
  | cut
  /-- STREAM_STALL_TIMEOUT (R456): A stream without ACK progress for 2 ms is resent once, or made unreachable. -/
  | streamStallTimeout (stream : BitVec 12)
  /-- EPOCH_PREPARE (R444): A module answers READY, NOT_READY or BUSY to a prepared generation. -/
  | epochPrepare
  /-- EPOCH_REPLY (R444): The initiator collects a reply to an epoch message and advances the switch. -/
  | epochReply
  /-- EPOCH_SWITCH (R444): A module flips its active bank at its next safe point and replies SWITCHED. -/
  | epochSwitch
  /-- EPOCH_POLL (R445): A module reports DRAIN and PASSED of the old epoch. -/
  | epochPoll
  /-- EPOCH_POLL_REPLY (R444): The initiator records a module's drain counts for the round. -/
  | epochPollReply
  /-- EPOCH_RELEASE (R444): A module moves the old bank to standby and replies RELEASED. -/
  | epochRelease
  /-- EPOCH_ABORT (R444): A module drops its READY for the generation. -/
  | epochAbort
  /-- EPOCH_PREPARE_TIMEOUT (R444): No reply to PREPARE within 10 ms, so the initiator aborts. -/
  | epochPrepareTimeout
  /-- EPOCH_POLL_ROUND (R444): The initiator sends the next poll round at least 10 µs after the last. -/
  | epochPollRound
  /-- DRAIN_TIMEOUT (R447): The old epoch has not drained 100 ms after SWITCH. -/
  | drainTimeout
  /-- HEARTBEAT (R466): A partner heartbeat is received and pairing is re-evaluated. -/
  | heartbeat
  /-- PARTNER_HEARTBEAT_SEND (R466): Every 100 µs a heartbeat is sent on each UP partner port. -/
  | partnerHeartbeatSend
  /-- PARTNER_LOST (R466): 1 ms passes without a partner heartbeat. -/
  | partnerLost
  /-- VERIFY_DIGEST (R463): The partner compares a chunk digest with its own and answers. -/
  | verifyDigest
  /-- VERIFY_RESULT (R463): The restored module records a comparison result and completes verification at the end. -/
  | verifyResult
  /-- CHUNK_DIGEST_DONE (R463): A digest engine finishes hashing a chunk. -/
  | chunkDigestDone
  /-- HEALTH_SAMPLE (R478): Every 1 ms the health monitor samples its inputs and computes the risk score. -/
  | healthSample (sensors : Sensors)
  /-- SNAPSHOT_FREEZE_DONE (R481): The freeze copy into staging completes and the send begins. -/
  | snapshotFreezeDone
  /-- LEVEL3_FREEZE (R486): At the next task boundary dispatch stops and a level 3 freeze runs. -/
  | level3Freeze
  /-- SNAPSHOT_MIRROR_DONE (R482): A mirror to the host buffers completes. -/
  | snapshotMirrorDone
  /-- PRIVATE_FILL_DONE (R489): The private image has fully arrived and is checked. -/
  | privateFillDone (data : List Byte)
  /-- FILL_STALL_TIMEOUT (R490): No fill stream progresses for 10 ms, so the restore is aborted. -/
  | fillStallTimeout
  /-- MBX_IN_WRITE (R505): A word arrives at the inbound mailbox and is framed into a command. -/
  | mbxInWrite (port : HPort) (word : Word) (take : Bool)
  /-- MBX_OUT_READ (R509): A read takes the next outbound completion word. -/
  | mbxOutRead (port : HPort)
  /-- RESYNC (R506): A write of MBX_CTRL.RESYNC restarts inbound framing. -/
  | resync (port : HPort)
  /-- MBX_DB_HEARTBEAT (R534): A host heartbeat makes the port's host PRESENT. -/
  | mbxDbHeartbeat (port : HPort)
  /-- MBX_DB_STEP (R518): Adds to the step budget, or is ignored. -/
  | mbxDbStep (port : HPort) (value : BitVec 16)
  /-- MBX_DB_IRQ (R500): Re-arms MSI-X vectors. -/
  | mbxDbIrq (port : HPort) (bits : BitVec 4)
  /-- WINDOW_READ (R501): A BAR2 read reaches device memory through the window. -/
  | windowRead (port : HPort) (off : BitVec 36) (len : Nat)
  /-- WINDOW_WRITE (R501): A BAR2 write reaches device memory through the window. -/
  | windowWrite (port : HPort) (off : BitVec 36) (data : List (Option Byte))
  /-- REGISTER_WRITE (R18): A write to any register without a row of its own, under its access codes. The number is a register's for
  `device` and, in its low 16 bits, the byte offset in the 64 KiB of BAR0 for a host. -/
  | registerWrite (w : RegWriter) (addr : BitVec 45) (value : Word)
  /-- HOST_HEARTBEAT_TIMEOUT (R534): 3 s pass without a heartbeat and the host becomes LOST. -/
  | hostHeartbeatTimeout (port : HPort)
  /-- PCIE_PORT_RESET (R537): A hot reset, FLR or PERST# resets one PCIe port. -/
  | pciePortReset (port : HPort) (perst : Bool)
  /-- CFG_BEGIN (R521): Opens a configuration transaction owned by the port. -/
  | cfgBegin (c : HostCmd)
  /-- CFG_SET (R522): Stages values for settable registers after checks. -/
  | cfgSet (c : HostCmd)
  /-- CFG_COMMIT (R524): Re-checks the staged words and commits the transaction. -/
  | cfgCommit (c : HostCmd)
  /-- CFG_ROLLBACK (R521): Discards the staged values. -/
  | cfgRollback (c : HostCmd)
  /-- CFG_STATUS (R521): Returns the transaction status. -/
  | cfgStatus (c : HostCmd)
  /-- CFG_APPLY (R524): A committing transaction is applied at a safe point. -/
  | cfgApply
  /-- CFG_IDLE_TIMEOUT (R525): 10 s without owner activity rolls the transaction back. -/
  | cfgIdleTimeout
  /-- REG_READ (R520): Returns consecutive live register words. -/
  | regRead (c : HostCmd)
  /-- STAT_CLEAR (R520): Writes a W1C mask to one register. -/
  | statClear (c : HostCmd)
  /-- GRAPH_LOAD (R267): Unloads the old graph, checks the new package and places it. -/
  | graphLoad (c : HostCmd)
  /-- GRAPH_UNLOAD (R516): Removes the loaded graph. -/
  | graphUnload (c : HostCmd)
  /-- PLACE_REPORT (R516): Returns words of the placement report. -/
  | placeReport (c : HostCmd)
  /-- STEP_RUN (R517): Adds N steps to the budget and completes when they have run. -/
  | stepRun (c : HostCmd)
  /-- STEP_HALT (R517): Sets the step budget to zero. -/
  | stepHalt (c : HostCmd)
  /-- QUIESCE (R517): Stops steps at the boundary, or quiesces at once. -/
  | quiesce (c : HostCmd)
  /-- DMA_COPY (R519): Starts a PCIe DMA byte copy between host and device memory. -/
  | dmaCopy (c : HostCmd)
  /-- DMA_COPY_DONE (R519): A PCIe DMA copy finishes and posts its completion. -/
  | dmaCopyDone (port : HPort) (k : Fin 4) (data : List Byte) (bad : Option Nat)
  /-- SLV_PROBLEM_LOAD (R301): Checks a multibody problem image and installs it. -/
  | slvProblemLoad (c : HostCmd)
  /-- SLV_PROBLEM_INFO (R300): Returns a slot's signature, dimensions and installation. -/
  | slvProblemInfo (c : HostCmd)
  /-- SLV_CONTEXT_CLEAR (R327): Empties a solver context on every engine. -/
  | slvContextClear (c : HostCmd)
  /-- CURSOR_SET (R471): Writes the 512-byte cursor block. -/
  | cursorSet (c : HostCmd)
  /-- SNAP_NOW (R480): Makes a snapshot due and completes when it commits. -/
  | snapNow (c : HostCmd)
  /-- SNAP_MIRROR_BUF (R482): Registers or unregisters a host mirror buffer. -/
  | snapMirrorBuf (c : HostCmd)
  /-- RESTORE_BEGIN (R489): Opens a restore and enters FILLING. -/
  | restoreBegin (c : HostCmd)
  /-- FILL_SEND (R489): Sends shared or private state to a restore target. -/
  | fillSend (c : HostCmd)
  /-- RESTORE_PRIVATE_HOST (R489): Reads a mirrored private image from host memory into quarter 3. -/
  | restorePrivateHost (c : HostCmd)
  /-- RESTORE_COMMIT (R489): Installs the filled state and enters FILLED. -/
  | restoreCommit (c : HostCmd)
  /-- VERIFY_START (R489): Starts chunk verification against a peer. -/
  | verifyStart (c : HostCmd)
  /-- EVT_READ (R530): Returns event records from the log. -/
  | evtRead (c : HostCmd)
  /-- EVT_MASK (R532): Sets the port's event mask for vector 1. -/
  | evtMask (c : HostCmd)
  /-- CNT_READ (R611): Returns live or boundary-copy counters. -/
  | cntRead (c : HostCmd)
  /-- CNT_CLEAR (R612): Clears the named sets of live counters. -/
  | cntClear (c : HostCmd)
  /-- PHASE_NOTICE (R608): Markhor applies a notice that a phase became active or idle. -/
  | phaseNotice (ph : Fin 7) (active : Bool)
  /-- PWR_STATE (R586): Requests a power-state change, fabric port settings or a power cap. -/
  | pwrState (c : HostCmd)
  /-- POWER_STATE_ENTRY (R587): Once the step boundary and the snapshot phase allow, the module quiesces and switches the domains. -/
  | powerStateEntry
  /-- REGION_DOMAIN_SWITCH (R576): Up to four region domains switch in each 2 ms. -/
  | regionDomainSwitch
  /-- COMPUTE_RESET (R591): Quiesces and restarts the region domains and the volatile state. -/
  | computeReset (c : HostCmd)
  /-- COMPUTE_RESET_GRACE_EXPIRY (R591): After 10 ms the firings still running are stopped and the reset proceeds. -/
  | computeResetGraceExpiry
  /-- ATTEST (R561): Returns a signed attestation report or a certificate. -/
  | attest (c : HostCmd)
  /-- UNLOCK_CHALLENGE (R564): Issues a fresh debug-unlock nonce. -/
  | unlockChallenge (c : HostCmd)
  /-- UNLOCK_TOKEN (R566): Checks an unlock token and opens debug scopes. -/
  | unlockToken (c : HostCmd)
  /-- DEBUG_LOCK (R567): Closes every scope and erases the challenge record. -/
  | debugLock (c : HostCmd)
  /-- IDENT (R568): Returns identity, versions and boot state. -/
  | ident (c : HostCmd)
  /-- IDENT_FUSEMAP (R569): Returns the fused cluster map and the fenced clusters. -/
  | identFusemap (c : HostCmd)
  /-- FW_BEGIN (R555): Opens a firmware session and erases the target bank. -/
  | fwBegin (c : HostCmd)
  /-- FW_WRITE (R555): Writes image data into the target bank. -/
  | fwWrite (c : HostCmd)
  /-- FW_COMMIT (R556): Checks the bank for consistency and makes it bootable. -/
  | fwCommit (c : HostCmd)
  /-- FW_ABORT (R557): Ends the session, leaving the bank not bootable. -/
  | fwAbort (c : HostCmd)
  /-- FW_SESSION_TIMEOUT (R557): 60 s without owner commands ends the firmware session. -/
  | fwSessionTimeout
  /-- LOG_READ (R570): Returns boot log records or runtime log bytes. -/
  | logRead (c : HostCmd)
  /-- MODULE_RESET (R571): Accepts a module reset request with an optional one-shot bank. -/
  | moduleReset (c : HostCmd)
  /-- MODULE_RESET_EXECUTE (R571): Once the outbound streams are empty or 10 ms pass, the module resets. -/
  | moduleResetExecute (strap : Byte)
  /-- POWER_ON_RESET (R592): The input stays in range for 10 ms, so power-on reset sequences and the boot ROM starts. -/
  | powerOnReset (strap : Byte)
  /-- BOOT_LOAD_DONE (R546): The bank is read and checked; INIT starts or RECOVERY is entered. -/
  | bootLoadDone
  /-- BOOT_READY (R550): INIT completes and the module enters READY. -/
  | bootReady
  /-- BOOT_WATCHDOG (R551): INIT exceeds 10 s and the module resets. -/
  | bootWatchdog (strap : Byte)
  /-- POWER_INPUT_LOST (R592): The input leaves range for 1 ms and the module goes Off. -/
  | powerInputLost (mv : BitVec 16) (high : Bool)
  /-- ISLAND_TIMEOUT (R580): A crossing handshake has no acknowledgement within 1,000 ticks. -/
  | islandTimeout (snd : Fin 100) (rcv : Fin 100)
  /-- DROOP (R597): A supply droop halves an island's clock for 256 cycles. -/
  | droop (rg : Rg)
  /-- CAGE_OVERCURRENT (R623): A cable drawing over 16 W has its cage supply cut. -/
  | cageOvercurrent (p : FPort)
  /-- EXT_RST_ASSERT (R626): EXT_RST_N held low for 100 µs holds the module in reset. -/
  | extRstAssert
  /-- EXT_RST_RELEASE (R626): Release of EXT_RST_N starts a module reset. -/
  | extRstRelease (strap : Byte)
  /-- DEBUG_DATA_ACCESS (R629): A sideband DATA access moves one word at ADDR and advances ADDR. -/
  | debugDataAccess (write : Option Word)
  /-- ARR_STREAM_LAST_UPDATE (R126): An array stream makes its last entry update, cycle p+6 in fast mode or 4p+8 in strict mode after its first pass. -/
  | arrStreamLastUpdate (cl : Cl)
  /-- ARR_DRAIN_WRITTEN (R149): An array drain writes its last output block and residue record, after 4r+3 or 16r+3 cycles plus records. -/
  | arrDrainWritten (cl : Cl)
  /-- PLACEMENT_FINISHED (R267): A placement or re-placement finishes and GRAPH_LOAD completes, or the step goes on with the new placement. -/
  | placementFinished
  /-- LINK_TRAINING_START (R429): A DOWN fabric link detects its neighbour's signal and begins 802.3 training, entering TRAINING. -/
  | linkTrainingStart (p : FPort)
  /-- INIT_CHECK_FAILED (R551): An internal check fails during INIT, and the module takes an automatic module reset. -/
  | initCheckFailed (strap : Byte)
  /-- PERST_DEASSERT (R622): Release of PERST# lets the port's PCIe link train and come up again. -/
  | perstDeassert (port : HPort)
  /-- BAR0_MISSIZED_READ (R499): A BAR0 read of the wrong size or alignment returns zero and sets MBX_STAT.SIZE_ERR. -/
  | bar0MissizedRead (port : HPort)
  deriving DecidableEq, Repr

end Sys2Proof
end

