-- ==== Sys2Proof/Decode.lean ====
section
/-! DEFINITION. The command that a word spells by the operation table's bits, and the vector instruction that a
32-bit word of a kernel spells (06 R209 to R214). -/
namespace Sys2Proof

/-- No row of the operation table gives bits, so no word spells a command. -/
def decodeTableWord (_ _ : Nat) : Option Instr := none

/-- The fields of a vector instruction word on cluster c (R209): VD [11:7], PM [14:12], M [15], VS1 [20:16],
VS2 [25:21], X [31]. -/
def vectorArgs (c : Cl) (w : BitVec 32) : VArgs :=
  { cl := c, vd := w.extractLsb' 7 5, pm := w.extractLsb' 12 3, m := w.getLsbD 15, vs1 := w.extractLsb' 16 5,
    vs2 := w.extractLsb' 21 5, x := w.getLsbD 31 }

/-- Major opcode 0x5B by FN (R211): VSEL names its selector predicate as FN − 0x18. -/
def vectorSi (fn : Nat) (a : VArgs) : Instr :=
  match fn with
  | 0x00 => .vadd a
  | 0x01 => .vsub a
  | 0x02 => .vmul a
  | 0x03 => .vfma a
  | 0x04 => .vfms a
  | 0x05 => .vnfma a
  | 0x06 => .vdiv a
  | 0x07 => .vrcp a
  | 0x08 => .vsqrt a
  | 0x09 => .vrsqrt a
  | 0x0A => .vmax a
  | 0x0B => .vmin a
  | 0x0C => .vabs a
  | 0x0D => .vneg a
  | 0x0E => .vmulp2 a
  | 0x0F => .vexp a
  | 0x10 => .vexp2 a
  | 0x11 => .vln a
  | 0x12 => .vlog2 a
  | 0x13 => .vtanh a
  | 0x14 => .vsigm a
  | 0x15 => .verf a
  | 0x16 => .vbcastVs a
  | 0x17 => .vmv a
  | n => .vsel a (BitVec.ofNat 3 (n - 0x18))

/-- Major opcode 0x2B by FN (R212): 0x1E and 0x1F are reserved. -/
def vectorInt (fn : Nat) (a : VArgs) : Option Instr :=
  match fn with
  | 0x00 => some (.viadd a)
  | 0x01 => some (.visub a)
  | 0x02 => some (.vimul a)
  | 0x03 => some (.vimulh a)
  | 0x04 => some (.vimulhu a)
  | 0x05 => some (.vand a)
  | 0x06 => some (.vor a)
  | 0x07 => some (.vxor a)
  | 0x08 => some (.vsll a)
  | 0x09 => some (.vsrl a)
  | 0x0A => some (.vsra a)
  | 0x0B => some (.vimin a)
  | 0x0C => some (.vimax a)
  | 0x0D => some (.viminu a)
  | 0x0E => some (.vimaxu a)
  | 0x0F => some (.vicmpEq a)
  | 0x10 => some (.vicmpNe a)
  | 0x11 => some (.vicmpLt a)
  | 0x12 => some (.vicmpLe a)
  | 0x13 => some (.vicmpLtu a)
  | 0x14 => some (.vicmpLeu a)
  | 0x15 => some (.vidx a)
  | 0x16 => some (.visplatVx a)
  | 0x17 => some (.vwid a)
  | 0x18 => some (.vnar a)
  | 0x19 => some (.viwid a)
  | 0x1A => some (.viwidu a)
  | 0x1B => some (.vinar a)
  | 0x1C => some (.vcvtSiI a)
  | 0x1D => some (.vcvtISi a)
  | _ => none

/-- VPSUM by its sub-operation in VS2 (R196): 4 to 7, and a value in [25:24], are reserved. -/
def vectorPsum (a : VArgs) : Option Instr :=
  match a.vs2.toNat with
  | 0 => some (.vpsumPopc a)
  | 1 => some (.vpsumAny a)
  | 2 => some (.vpsumAll a)
  | 3 => some (.vpsumFirst a)
  | _ => none

/-- Major opcode 0x7B by FN (R213); the reduction rows are named by their I bit. -/
def vectorCtl (fn : Nat) (a : VArgs) : Option Instr :=
  match fn with
  | 0x00 => some (.vcmpEq a)
  | 0x01 => some (.vcmpNe a)
  | 0x02 => some (.vcmpLt a)
  | 0x03 => some (.vcmpLe a)
  | 0x04 => some (.vcmpGt a)
  | 0x05 => some (.vcmpGe a)
  | 0x06 => some (.pand a)
  | 0x07 => some (.por a)
  | 0x08 => some (.pxor a)
  | 0x09 => some (.pandn a)
  | 0x0A => some (.pnot a)
  | 0x0B => some (.pset a)
  | 0x0C => some (.pclr a)
  | 0x0D => some (if a.x then .viredsum a else .vredsum a)
  | 0x0E => some (if a.x then .viredmax a else .vredmax a)
  | 0x0F => some (if a.x then .viredmin a else .vredmin a)
  | 0x10 => some (.vsegsum a)
  | 0x11 => some (.vsegmax a)
  | 0x12 => some (.vsegmin a)
  | 0x13 => some (.vcompress a)
  | 0x14 => some (.vexpand a)
  | 0x15 => some (.vperm a)
  | 0x16 => some (.vslideup a)
  | 0x17 => some (.vslidedn a)
  | 0x18 => vectorPsum a
  | 0x19 => some (.vsmax a)
  | 0x1A => some (.vmvx a)
  | 0x1B => some (.vsetcfg a)
  | 0x1C => some (.vld a)
  | 0x1D => some (.vst a)
  | 0x1E => some (.vldres a)
  | 0x1F => some (.vstres a)
  | _ => none

/-- The vector instruction that a word of a kernel on cluster c spells, by its major opcode (R210) and FN [30:26];
none for another opcode and for a reserved FN or sub-operation (R214). -/
def vectorWord (c : Cl) (w : BitVec 32) : Option Instr :=
  let a := vectorArgs c w
  let fn := (w.extractLsb' 26 5).toNat
  match (w.extractLsb' 0 7).toNat with
  | 0x2B => vectorInt fn a
  | 0x5B => some (vectorSi fn a)
  | 0x7B => vectorCtl fn a
  | _ => none

end Sys2Proof
end

