-- ==== Sys2Proof/Config.lean ====
section
/-! DEFINITION. What the module's maker fixes and what the spec leaves open.

Every constant marked opaque is a free value: it has no body, so nothing proved rests on what it is.
The numbers of the log entries stand beside them. -/
namespace Sys2Proof.Config

/-- A free 64-bit value by nonce and position: undefined memory bytes, undefined entries, counts of
untimed cycles, undefined request words (log entry 1). -/
opaque freeWord : Nat → Nat → Word

/-- The part of the allowed interval that an approximating unit picks, as a function of the operation,
the element width and the operands, so that equal operands give equal bits (R81, R172, R173; log entry 11). -/
opaque approxPick : Nat → Nat → List Int → Nat

/-- The further bits of resolution of that pick (log entry 11). -/
opaque approxBits : Nat → Nat → List Int → Nat

/-- Whether a line filled earlier is still held by the instruction cache (R218; log entry 12). -/
opaque icacheHolds : Nat → Bool

/-- Which of 512 held lines a fill replaces (R218; log entry 12). -/
opaque icacheVictim : Nat → Nat

/-- Both signatures and the key slot of a signed object verify (R544: RFC 8032 and FIPS 204; log entry 13). -/
opaque sigVerifies : List Byte → Nat → Bool

/-- The bytes that signing appends to an object (R544, R559; log entry 13). -/
opaque sigBlock : List Byte → Nat → List Byte

/-- The certificates of R560 (log entry 13). -/
opaque certBody : Nat → List Byte

/-- A 256-bit random nonce of UNLOCK_CHALLENGE (R564; log entry 13). -/
opaque randomNonce : Nat → BitVec 256

/-- The bytes of a fused or flashed item that the spec names and does not give (R540, R541; log entry 8). -/
opaque uid : BitVec 128

/-- A byte of the images that the maker put into bank A: kind and offset (R541; log entry 9). -/
opaque flashByte : Nat → Nat → Byte

/-- The two spare slots of a region, the second counted among the 17 others (R4, R540; log entry 8). -/
opaque spares : Nat → Fin 18 × Fin 17

/-- The slots that the fuses enable, by region: all 18 but two (R4). -/
def fuseMap (r : Nat) : BitVec 18 :=
  let a := (spares r).1.val
  let b := (spares r).2.val
  BitVec.allOnes 18 ^^^ (1#18 <<< a) ^^^ (1#18 <<< (if b < a then b else b + 1))

/-- The ROM version that IDENT reports (R568; log entry 8). -/
opaque romVersion : Byte

/-- One word of the task descriptor that the region scheduler writes for a placement: arguments are the
package's identifying bytes and the fenced clusters, the cluster, the entry and the word
(R225, R275, R276: the derivation is not given; log entry 14). -/
opaque taskWord : Nat → Nat → Nat → Nat → Word

/-- The number of task entries a placement uses on a cluster, at most 128 (log entry 14). -/
opaque taskCount : Nat → Nat → Nat

/-- The initial count of a slot below 239 (R277; log entry 14). -/
opaque slotInit : Nat → Nat → Nat → BitVec 16

/-- BASE and LINES of a buffer (R241; log entry 14). -/
opaque bufInit : Nat → Nat → Nat → Word

/-- The two words of a dual-store binding (R345; log entry 14). -/
opaque dualWord : Nat → Nat → Nat → Nat → Word

/-- The offset of a cluster's completion ring (R256; log entry 14). -/
opaque cringBase : Nat → Nat → BitVec 18

/-- How often a re-arming task entry fires in a step (R272; log entry 14). -/
opaque entryFires : Nat → Nat → Nat → Nat

/-- How many proposals the placer has for a package and fenced clusters, less one (R276; log entry 14). -/
opaque attempts : Nat → Nat

/-- Whether a task entry is the closing entry of its segment (R272; log entry 14). -/
opaque entryClosing : Nat → Nat → Nat → Bool

/-- The stage that a task entry belongs to, among those of its cluster (R232, R272, R349, R608; log entry 14). -/
opaque entryStage : Nat → Nat → Nat → Nat

/-- Expected bytes per micro-batch of an operation's stage in a partition, the sum of the rates of regulator classes 0 to
13 there, their bursts, and the class of a cluster whose stage sends the partition nothing (R285; log entry 14). -/
opaque stageBytes : Nat → Nat → Nat → Nat
opaque rateSum : Nat → Nat → Nat
opaque classBurst : Nat → Nat → Nat → Nat
opaque spareClass : Nat → Nat → Nat → Nat → Nat

/-- The command lists, stacks and constants of a stage that the region scheduler puts into the tile memory of one of
its clusters at placement: offset and bytes of each piece (R270, R275; log entry 14). -/
opaque tilePieces : Nat → Nat → Nat → List (Nat × List Byte)

/-- Where the code of an operation's kernel stands in a cluster's tile memory, and the value that a relocation asks for
(R265; log entry 14). -/
opaque codeAddr : Nat → Nat → Nat → Nat
opaque relocValue : Nat → Nat → Nat → Nat → Nat

/-- The credit slot, the data slot and the ring of the channel that carries a tensor between a producer and a consumer, and
whether its depth is lowered to 1 (R277, R278; log entry 14). -/
opaque chanCredit : Nat → Nat → Nat → Nat → Nat
opaque chanData : Nat → Nat → Nat → Nat → Nat
opaque chanRing : Nat → Nat → Nat → Nat → Nat
opaque chanLow : Nat → Nat → Nat → Nat → Bool

/-- Whether an operation, added to the segment that begins with another, breaks a limit of R270 that no allocation can
meet (R269; log entry 14). -/
opaque limitBreak : Nat → Nat → Nat → Bool

/-- The PARTITION field of a tensor without a partition (R291; log entry 129), and the weights of a segment whose WORK
values are all 0 (R273; log entry 128), by package. -/
opaque homePart : Nat → Nat → Nat
opaque zeroWork : Nat → Nat → Nat

/-- The offset that placement proposes for a tensor's home in the area that R282 gives it, and that of a tile home on one
cluster, by package (R281, R282, R284; log entry 14). -/
opaque tensorBase : Nat → Nat → Nat
opaque tileOffset : Nat → Nat → Nat → Nat

/-- Where share k of n of a SLICE tensor begins, in units of 64 elements, by package (R275; log entry 14). -/
opaque shareCut : Nat → Nat → Nat → Nat → Nat

/-- The offset that placement proposes for a stretch of HBM of the curvature work, by package, kind and number (R362 to R366,
R370; log entry 14). -/
opaque curvBase : Nat → Nat → Nat → Nat

/-- Whether a task entry is the one that updates a factor at the end of a statistics step, and the block of the factor with the
row and the column where the n-th drain of a statistics task adds (R361, R362; log entry 16). -/
opaque updatesFactor : Nat → Nat → Nat → Bool
opaque statOrigin : Nat → Nat → Nat → Nat → Nat × Nat × Nat

/-- The guard of a CURVATURE entry's statistics in a region, and of the root iterations of a region, by number; above
63 where the region has none (R359, R367; log entry 14). -/
opaque statGuard : Nat → Nat → Nat → Nat
opaque iterGuard : Nat → Nat → Nat

/-- Whether a fence of this reason enters the persistent fault record (R28; log entry 21). -/
opaque recordsFence : Nat → Bool

/-- By how many units what a Nyala engine forms differs from the quantity, by what is formed, what it depends on and a number within it
(R310 to R314, R318, R328 to R330: the order of the operations that round is not given; log entry 15). -/
opaque nyalaCode : Nat → List Int → Nat → Int

/-- Whether an accumulator overflows on the main path (R317; log entry 15). -/
opaque nyalaOverflows : List Int → Bool

/-- By how many units, and at which binary point beside its own, an element of V of the Jacobi work differs from the quantity: by the root
power, then significands and exponents of the element of Q and of its eigenvalue (R318, R370; log entry 16). -/
opaque jacobiRoot : Nat → List Int → Int × Int

/-- The four bytes in which a context holds a value of the fallback path that is no code of its class (R305: the form is not
given; log entry 147). -/
opaque ctxWord : List Int → Nat

/-- The entries of the debug directory before the zero entry that ends it (R629: its contents are not given; log
entry 17). -/
opaque debugDir : List (BitVec 128)

/-- One text byte of the runtime log (R570; log entry 18). -/
opaque logByte : Nat → Byte

end Sys2Proof.Config
end

