-- ==== Sys2Proof/Machine/SI.lean ====
section
/-! DEFINITION. Scale-integer arithmetic (02_scale_integer_arithmetic): exact values, carriers, rounding to
nearest even, block normalisation, residue chains, and the enclosures of the approximated functions. -/
namespace Sys2Proof.Machine

/-- An exact value n ÷ d × 2^e; d is read as 1 when it is 0. NaR is the absence of one (`Option Ex`). -/
structure Ex where
  n : Int
  d : Nat := 1
  e : Int := 0
  deriving DecidableEq, Repr

/-- The conditions of a unit: bits 0 to 15 in the layout of VEC_STAT (R181), bit 16 CMD_ERR (R140). -/
abbrev Cond := BitVec 17

abbrev cNarIn : Cond := 0x1
abbrev cNarGen : Cond := 0x2
abbrev cDiv0 : Cond := 0x4
abbrev cSat : Cond := 0x8
abbrev cUflow : Cond := 0x10
abbrev cInexact : Cond := 0x20
abbrev cInfMap : Cond := 0x40
abbrev cNanMap : Cond := 0x80
abbrev cResidueOvf : Cond := 0x100
abbrev cNarLost : Cond := 0x200
abbrev cNarBlock : Cond := 0x400
abbrev cFmtInvalid : Cond := 0x800
abbrev cStrictCvt : Cond := 0x1000
abbrev cStrictRange : Cond := 0x2000
abbrev cPermOor : Cond := 0x4000
abbrev cIllOp : Cond := 0x8000
abbrev cCmdErr : Cond := 0x10000

/-- Several units' conditions together. -/
def orAll (cs : List Cond) : Cond := cs.foldl (· ||| ·) 0

/-- 2 to the power i, 1 for negative i. -/
def pow2 (i : Int) : Nat := 2 ^ i.toNat

/-- The divisor of an exact value, never 0. -/
def Ex.den (x : Ex) : Nat := if x.d = 0 then 1 else x.d

def Ex.zero : Ex := { n := 0 }

def Ex.neg (x : Ex) : Ex := { x with n := -x.n }

/-- Exact sum: both operands aligned to the smaller exponent (R59). -/
def Ex.add (x y : Ex) : Ex :=
  let e := min x.e y.e
  { n := x.n * pow2 (x.e - e) * y.den + y.n * pow2 (y.e - e) * x.den, d := x.den * y.den, e := e }

def Ex.sub (x y : Ex) : Ex := x.add y.neg

/-- Exact product (R58). -/
def Ex.mul (x y : Ex) : Ex := { n := x.n * y.n, d := x.den * y.den, e := x.e + y.e }

/-- Exact quotient by a non-zero divisor. -/
def Ex.div (x y : Ex) : Ex :=
  { n := if y.n < 0 then -(x.n * y.den) else x.n * y.den, d := x.den * y.n.natAbs, e := x.e - y.e }

def Ex.abs (x : Ex) : Ex := { x with n := x.n.natAbs }

/-- The sign of x − y. -/
def Ex.cmp (x y : Ex) : Int := (x.sub y).n

def Ex.lt (x y : Ex) : Bool := decide (x.cmp y < 0)
def Ex.le (x y : Ex) : Bool := decide (x.cmp y ≤ 0)
def Ex.eq (x y : Ex) : Bool := decide (x.cmp y = 0)

/-- n ÷ d rounded to nearest, ties to even (R62). -/
def rneDiv (n : Int) (d : Nat) : Int :=
  let q := n.fdiv d
  let r := n - q * d
  if 2 * r < d then q else if (d : Int) < 2 * r then q + 1 else if q % 2 = 0 then q else q + 1

/-- x in units of 2^k, rounded to nearest even. -/
def Ex.roundAt (x : Ex) (k : Int) : Int := rneDiv (x.n * pow2 (x.e - k)) (x.den * pow2 (k - x.e))

/-- x in units of 2^k, truncated toward minus infinity. -/
def Ex.floorAt (x : Ex) (k : Int) : Int :=
  (x.n * pow2 (x.e - k)).fdiv (x.den * pow2 (k - x.e) : Nat)

/-- The value of c units of 2^k. -/
def unitsOf (c k : Int) : Ex := { n := c, e := k }

/-- ⌊log₂ of the magnitude of a non-zero value⌋. -/
def Ex.log2 (x : Ex) : Int :=
  let a := x.n.natAbs
  let k : Int := (Nat.log2 a : Int) - (Nat.log2 x.den : Int)
  if a * pow2 (-k) < x.den * pow2 k then k - 1 + x.e else k + x.e

/-! ### Carriers (R50) -/

/-- A carrier of SI mantissas. -/
inductive Carrier where
  | half
  | limb (l : Nat)
  | elem (w : Nat)
  deriving DecidableEq, Repr

/-- W of R50. -/
def Carrier.width : Carrier → Nat
  | .half => 4
  | .limb l => 8 * l
  | .elem w => w

/-- F = W − 2. -/
def Carrier.frac (c : Carrier) : Int := (c.width : Int) - 2

/-- The largest value of L limbs: all limbs 127. -/
def limbMax : Nat → Nat
  | 0 => 0
  | l + 1 => limbMax l * 256 + 127

/-- The largest mantissa magnitude of R50. -/
def Carrier.mmax : Carrier → Nat
  | .half => 7
  | .limb l => limbMax l
  | .elem w => 2 ^ (w - 1) - 1

/-- ±max: ±Mmax at block exponent 127 (R66). -/
def Carrier.maxVal (c : Carrier) (negative : Bool) : Ex :=
  { n := if negative then -(c.mmax : Int) else c.mmax, e := 127 - c.frac }

/-- The two's-complement value of a code of w bits. -/
def signedOf (w : Nat) (c : Nat) : Int :=
  let c := c % 2 ^ w
  if w = 0 then 0 else if c < 2 ^ (w - 1) then (c : Int) else (c : Int) - 2 ^ w

/-- The w-bit code of an integer, wrapped. -/
def codeOf (w : Nat) (i : Int) : Nat := (i % 2 ^ w).toNat

/-- An element-form code as a mantissa, none for NaR (R53). -/
def elemMant (w c : Nat) : Option Int :=
  let m := signedOf w c
  if m = -(2 ^ (w - 1)) then none else some m

/-- A mantissa as an element-form code; NaR is −2^(w−1). -/
def elemCode (w : Nat) : Option Int → Nat
  | none => codeOf w (-(2 ^ (w - 1)))
  | some m => codeOf w m

/-- A limb sequence as a mantissa (R54, R55): limb 0 first. -/
def limbMant (ls : List Byte) : Option Int :=
  match ls with
  | [] => some 0
  | l0 :: _ => if l0 = 0x80#8 then none else some (ls.foldl (fun a l => a * 256 + l.toInt) 0)

/-- Canonical limbs of a mantissa in range, most significant first (R56). -/
def recodeLimbs : Nat → Int → List Byte
  | 0, _ => []
  | l + 1, m =>
    let d := (m + 128) % 256 - 128
    recodeLimbs l ((m - d) / 256) ++ [BitVec.ofInt 8 d]

/-- R56: limbs of a mantissa; out of range it saturates and sets SAT. -/
def recode (l : Nat) : Option Int → List Byte × Cond
  | none => (0x80#8 :: List.replicate (l - 1) 0, 0)
  | some m =>
    let mx : Int := limbMax l
    if m > mx then (recodeLimbs l mx, cSat)
    else if m < -mx then (recodeLimbs l (-mx), cSat)
    else (recodeLimbs l m, 0)

/-- R49: the block exponent of a scale code other than 0xFF. -/
def scaleExp (s : Nat) : Int := (s : Int) - 127

/-- The scale code of a block exponent from −127 to 127. -/
def scaleCode (e : Int) : Nat := (e + 127).toNat

/-- R51, R53: the value of a mantissa in a block of scale code s. -/
def mantVal (c : Carrier) (s : Nat) (m : Option Int) : Option Ex :=
  if s = 255 then none else m.map fun m => unitsOf m (scaleExp s - c.frac)

/-! ### Blocks -/

/-- A block of mantissas (none = NaR) at one block exponent. -/
structure Blk where
  e : Int
  m : List (Option Int)
  deriving DecidableEq, Repr

def Blk.zero (len : Nat) : Blk := { e := -127, m := List.replicate len (some 0) }

/-- An element of a block to form: its exact value, none for NaR, whether it is active, and whether R66 settles
it (a division by zero, whose ±max is no rounded value). -/
structure Elem where
  val : Option Ex
  active : Bool := true
  settled : Bool := false
  deriving DecidableEq, Repr

/-- The least block exponent at which a non-zero value fits after rounding: ⌊log₂⌋ or one more (R60). -/
def needExp (c : Carrier) (x : Ex) : Int :=
  let k := x.log2
  if (x.roundAt (k - c.frac)).natAbs ≤ c.mmax then k else k + 1

/-- What one element asks of the block exponent: −127 for zero and NaR. -/
def elemNeed (c : Carrier) : Option Ex → Int
  | none => -127
  | some x => if x.n = 0 then -127 else needExp c x

/-- R60: the block exponent of a list of exact values. -/
def blockExp (c : Carrier) (vs : List (Option Ex)) : Int :=
  min 127 (vs.foldl (fun a v => max a (elemNeed c v)) (-127))

/-- The exact magnitude lies above Mmax at block exponent 127 (R63, R93), whatever it rounds to. -/
def Ex.above (x : Ex) (c : Carrier) : Bool := (c.maxVal false).lt x.abs

/-- One element rounded at block exponent e: the mantissa and its conditions (R61 to R64). A magnitude above
Mmax at exponent 127 saturates even where it would round to Mmax (R63, R93). -/
def roundElem (c : Carrier) (e : Int) (el : Elem) : Option Int × Cond :=
  match el.val with
  | none => (none, 0)
  | some x =>
    let m := x.roundAt (e - c.frac)
    if m.natAbs > c.mmax || (e = 127 && x.above c) then
      (some (if x.n < 0 then -(c.mmax : Int) else c.mmax), cSat)
    else if (unitsOf m (e - c.frac)).eq x then (some m, 0)
    else if m = 0 && el.active then (some 0, cUflow ||| cInexact)
    else (some m, cInexact)

/-- R60 to R64: a block formed from exact values. -/
def formBlock (c : Carrier) (els : List Elem) : Blk × Cond :=
  let e := blockExp c (els.map (·.val))
  let rs := els.map (roundElem c e)
  ({ e := e, m := rs.map (·.1) }, orAll (rs.map (·.2)))

/-- The values that a block holds. -/
def Blk.vals (c : Carrier) (b : Blk) : List (Option Ex) :=
  b.m.map fun m => m.map fun m => unitsOf m (b.e - c.frac)

/-- One level of a residue chain (R94) at exponent e: the block and what it leaves of each element. A saturated
element and a NaR leave nothing. -/
def chainLevel (c : Carrier) (e : Int) (vs : List (Option Ex)) : Blk × List (Option Ex) × Bool :=
  let rs := vs.map fun v => roundElem c e { val := v }
  let rest := (vs.zip rs).map fun (v, r) =>
    match v, r.1 with
    | some x, some m => if r.2 = cSat then some Ex.zero else some (x.sub (unitsOf m (e - c.frac)))
    | _, _ => some Ex.zero
  ({ e := e, m := rs.map (·.1) }, rest, rs.any fun r => r.2 = cSat)

def anyLeft (vs : List (Option Ex)) : Bool := vs.any fun v => match v with | some x => x.n ≠ 0 | none => false

/-- The further levels of a chain, at most fuel of them: R94 ends them at nothing left, or after a level of
exponent −127 (`low`: the last of them was one). -/
def chainMore (c : Carrier) : Nat → Bool → List (Option Ex) → List Blk × List (Option Ex)
  | 0, _, vs => ([], vs)
  | fuel + 1, low, vs =>
    if anyLeft vs && !low then
      let (b, rest, _) := chainLevel c (blockExp c vs) vs
      let (bs, left) := chainMore c fuel (b.e = -127) rest
      (b :: bs, left)
    else ([], vs)

/-- The primary block at exponent e, the residue levels and what stays unheld (R94), with SAT where an element
saturates. -/
def formChain (c : Carrier) (fuel : Nat) (e : Int) (vs : List (Option Ex)) : Blk × List Blk × List (Option Ex) × Cond :=
  let (b, rest, sat) := chainLevel c e vs
  let (bs, left) := chainMore c fuel false rest
  (b, bs, left, if sat then cSat else 0)

/-- Whether some element holds nothing although its exact value was not zero (R64): pairs of value and rest. -/
def lostWhole (ps : List (Option Ex × Option Ex)) : Bool :=
  ps.any fun (v, l) => match v, l with
    | some x, some r => x.n ≠ 0 && r.eq x
    | _, _ => false

/-- The exact sum of an element over the levels of a chain; NaR when any level is NaR. -/
def sumLevels (vs : List (Option Ex)) : Option Ex :=
  vs.foldl (fun a v => match a, v with | some x, some y => some (x.add y) | _, _ => none) (some Ex.zero)

/-! ### Strict precision (R77, R170) -/

/-- Significant bits and least normal exponent of PREC 1 to 3. -/
def precOf : Nat → Option (Int × Int)
  | 1 => some (53, -1022)
  | 2 => some (24, -126)
  | 3 => some (11, -14)
  | _ => none

/-- A value rounded to PREC with its subnormal threshold; nothing for PREC 0. -/
def roundPrec (prec : Nat) (x : Ex) : Ex × Cond :=
  match precOf prec with
  | none => (x, 0)
  | some (p, emin) =>
    if x.n = 0 then (x, 0) else
    let u := max x.log2 emin - (p - 1)
    let m := x.roundAt u
    let y := unitsOf m u
    if y.eq x then (y, 0) else if m = 0 then (y, cUflow ||| cInexact) else (y, cInexact)

/-! ### Roots -/

/-- ⌊√n⌋ by bits, from bit i down. -/
def isqrtFrom : Nat → Nat → Nat → Nat
  | 0, n, r => if (r + 1) * (r + 1) ≤ n then r + 1 else r
  | i + 1, n, r =>
    let t := r + 2 ^ (i + 1)
    isqrtFrom i n (if t * t ≤ n then t else r)

def isqrt (n : Nat) : Nat := isqrtFrom (Nat.log2 n / 2 + 1) n 0

/-- √x of a positive value, truncated at some 300 significant bits, with a sticky bit below them so that
every rounding of the module decides as the exact root does. -/
def Ex.sqrt (x : Ex) : Ex :=
  let k := x.log2
  let h := k.fdiv 2
  let t := x.mul { n := 1, e := -2 * h }
  let s := t.floorAt (-640)
  let r := isqrt s.toNat
  let inexact := decide ((r : Int) * r ≠ s) || !((unitsOf s (-640)).eq t)
  { n := 2 * r + (if inexact then 1 else 0), e := h - 321 }

/-! ### Enclosures of the transcendental functions (R173): fixed point with `fp` fraction bits -/

abbrev fp : Int := 400

def fx (x : Ex) : Int := x.floorAt (-fp)
def fmul (a b : Int) : Int := (a * b).fdiv (2 ^ 400)
def fdivf (a b : Int) : Int := (a * 2 ^ 400).fdiv b

/-- Σ z^(2i+1) ÷ (2i+1): the inverse hyperbolic tangent. -/
def atanhSum : Nat → Int → Int → Nat → Int → Int
  | 0, _, _, _, acc => acc
  | fuel + 1, z2, t, i, acc => atanhSum fuel z2 (fmul t z2) (i + 1) (acc + t.fdiv (2 * i + 1))

def fxAtanh (z : Int) : Int := atanhSum 140 (fmul z z) z 0 0

/-- ln 2. -/
def fxLn2 : Int := 2 * fxAtanh (fdivf 1 3)

/-- Σ r^i ÷ i! for 0 ≤ r < 1. -/
def expSum : Nat → Int → Int → Nat → Int → Int
  | 0, _, _, _, acc => acc
  | fuel + 1, r, t, i, acc => expSum fuel r ((fmul t r).fdiv (i + 1)) (i + 1) (acc + t)

/-- 2^k × e^r from a fixed-point argument in units of ln 2. -/
def expParts (k r : Int) : Ex := { n := expSum 90 r (2 ^ 400) 0 0, e := k - fp }

/-- A value clamped to magnitudes at which the result of exp is already past every range. -/
def clampEx (x : Ex) (b : Int) : Ex :=
  if (unitsOf b 0).lt x then unitsOf b 0 else if x.lt (unitsOf (-b) 0) then unitsOf (-b) 0 else x

def exExp (x : Ex) : Ex :=
  let v := fx (clampEx x 2000)
  let k := v.fdiv fxLn2
  expParts k (v - k * fxLn2)

def exExp2 (x : Ex) : Ex :=
  let v := fx (clampEx x 2000)
  let k := v.fdiv (2 ^ 400)
  expParts k (fmul (v - k * 2 ^ 400) fxLn2)

/-- ln of a positive value. -/
def fxLn (x : Ex) : Int :=
  let k := x.log2
  let m := fx (x.mul { n := 1, e := -k })
  k * fxLn2 + 2 * fxAtanh (fdivf (m - 2 ^ 400) (m + 2 ^ 400))

def exLn (x : Ex) : Ex := unitsOf (fxLn x) (-fp)
def exLog2 (x : Ex) : Ex := unitsOf (fdivf (fxLn x) fxLn2) (-fp)

def isSmall (x : Ex) : Bool := x.abs.lt { n := 1, e := -40 }

/-- tanh: near 0 by x − x³ ÷ 3, so that the relative error stays small. -/
def exTanh (x : Ex) : Ex :=
  if isSmall x then (x.sub ((x.mul (x.mul x)).div (unitsOf 3 0)))
  else
    let t := exExp ((clampEx x 500).mul (unitsOf 2 0))
    (t.sub (unitsOf 1 0)).div (t.add (unitsOf 1 0))

def exSigm (x : Ex) : Ex :=
  let t := exExp x
  t.div (t.add (unitsOf 1 0))

/-- 1 ÷ √π, with π by Machin's formula (atan 1/5 and 1/239). -/
def atanSum : Nat → Int → Int → Nat → Int → Int
  | 0, _, _, _, acc => acc
  | fuel + 1, z2, t, i, acc => atanSum fuel z2 (-(fmul t z2)) (i + 1) (acc + t.fdiv (2 * i + 1))

def fxAtanInv (q : Int) : Int := atanSum 100 (fmul (fdivf 1 q) (fdivf 1 q)) (fdivf 1 q) 0 0

def fxPi : Int := 4 * (4 * fxAtanInv 5 - fxAtanInv 239)

def twoOverRootPi : Ex := (unitsOf 2 0).div (unitsOf fxPi (-fp)).sqrt

/-- Σ (−1)^n x^(2n+1) ÷ (n! (2n+1)). -/
def erfSum : Nat → Int → Int → Nat → Int → Int
  | 0, _, _, _, acc => acc
  | fuel + 1, x2, t, i, acc => erfSum fuel x2 (-((fmul t x2).fdiv (i + 1))) (i + 1) (acc + t.fdiv (2 * i + 1))

def exErf (x : Ex) : Ex :=
  if isSmall x then (x.sub ((x.mul (x.mul x)).div (unitsOf 3 0))).mul twoOverRootPi
  else if (unitsOf 8 0).lt x.abs then unitsOf (if x.n < 0 then -1 else 1) 0
  else
    let v := fx x
    (unitsOf (erfSum 400 (fmul v v) v 0 0) (-fp)).mul twoOverRootPi

/-- A value within 2^−q × bound of y: the free value of log entry 11. The numerator runs from −r to r for a
free r, so that every rational of the interval is one of the choices. -/
def approxWithin (op ew : Nat) (args : List Int) (y bound : Ex) (q : Nat) : Ex :=
  let r := 1 + Config.approxBits op ew args
  let t : Int := (Config.approxPick op ew args % (2 * r + 1) : Nat) - (r : Int)
  y.add (bound.mul { n := t, d := r, e := -(q : Int) })

end Sys2Proof.Machine
end

