-- ==== Sys2Proof/Machine/Formats.lean ====
section
/-! DEFINITION. Storage formats and their descriptors (03_formats_and_conversion R89 to R91, R97 to R105): the
constants of the table, what a code is worth, and which code a value is stored as. -/
namespace Sys2Proof.Machine

/-- A field of a word: bits [lo + len − 1 : lo]. -/
def fld {w : Nat} (x : BitVec w) (lo len : Nat) : Nat := x.toNat / 2 ^ lo % 2 ^ len

/-- One bit of a word. -/
def bit {w : Nat} (x : BitVec w) (i : Nat) : Bool := x.getLsbD i

/-- One entry of the format-descriptor table, words 0 to 3 (R104): word k is bits [64k + 63 : 64k]. -/
abbrev Desc := BitVec 256

/-- Word 0 of R104 from its fields. -/
def descWord0 (kind signed specials ew exp man : Nat) (bias : Int) (block scale nat frac : Nat) : Desc :=
  BitVec.ofNat 256 (kind + signed * 2 ^ 3 + specials * 2 ^ 4 + ew * 2 ^ 8 + exp * 2 ^ 16 + man * 2 ^ 20 +
    codeOf 12 bias * 2 ^ 28 + block * 2 ^ 40 + scale * 2 ^ 42 + nat * 2 ^ 44 + frac * 2 ^ 48 + 2 ^ 63)

/-- R89: the constants of entries 0x00 to 0x1F. -/
def builtinDesc : Nat → Desc
  | 0x01 => descWord0 1 1 1 64 11 52 1023 0 0 7 0
  | 0x02 => descWord0 1 1 1 32 8 23 127 0 0 3 0
  | 0x03 => descWord0 1 1 1 16 5 10 15 0 0 2 0
  | 0x04 => descWord0 1 1 1 16 8 7 127 0 0 2 0
  | 0x05 => descWord0 1 1 2 8 4 3 7 2 1 1 0
  | 0x06 => descWord0 1 1 1 8 5 2 15 2 1 1 0
  | 0x07 => descWord0 1 1 0 6 3 2 3 2 1 1 0
  | 0x08 => descWord0 1 1 0 6 2 3 1 2 1 1 0
  | 0x09 => descWord0 1 1 0 4 2 1 1 2 1 1 0
  | 0x0A => descWord0 2 1 0 8 0 0 0 2 1 1 6
  | 0x0B => descWord0 2 1 0 8 0 0 0 0 0 1 0
  | 0x0C => descWord0 2 0 0 8 0 0 0 0 0 2 0
  | 0x0D => descWord0 2 1 0 16 0 0 0 0 0 2 0
  | 0x0E => descWord0 2 1 0 32 0 0 0 0 0 4 0
  | 0x0F => descWord0 2 1 0 4 0 0 0 0 0 0 0
  | 0x10 => descWord0 4 1 0 8 0 0 0 2 1 1 0
  | 0x11 => descWord0 4 1 0 16 0 0 0 2 1 2 0
  | 0x12 => descWord0 4 1 0 24 0 0 0 2 1 3 0
  | 0x13 => descWord0 4 1 0 32 0 0 0 2 1 4 0
  | 0x14 => descWord0 4 1 0 40 0 0 0 2 1 5 0
  | 0x15 => descWord0 4 1 0 48 0 0 0 2 1 6 0
  | 0x16 => descWord0 4 1 0 56 0 0 0 2 1 7 0
  | 0x17 => descWord0 4 1 0 64 0 0 0 2 1 8 0
  | 0x18 => descWord0 5 1 0 4 0 0 0 2 1 0 0
  | _ => 0

/-- The kinds of R104. -/
inductive Kind where
  | empty | float | integer | table | siLimb | siHalf | reserved
  deriving DecidableEq, Repr

def kindOf : Nat → Kind
  | 0 => .empty | 1 => .float | 2 => .integer | 3 => .table | 4 => .siLimb | 5 => .siHalf | _ => .reserved

/-- A descriptor, its fields taken apart. -/
structure Fmt where
  index : Nat
  kind : Kind
  signed : Bool
  specials : Nat
  ew : Nat
  exp : Nat
  man : Nat
  bias : Int
  /-- elements of a storage block, 0 when unscaled -/
  block : Nat
  scale : Nat
  nat : Nat
  frac : Nat
  valid : Bool
  tbl : List Int
  tblExp : Int
  nanIdx : Nat
  nanEn : Bool
  deriving DecidableEq, Repr

/-- R104: the fields of an entry. -/
def fmtOf (index : Nat) (d : Desc) : Fmt :=
  { index := index, kind := kindOf (fld d 0 3), signed := bit d 3, specials := fld d 4 2, ew := fld d 8 7,
    exp := fld d 16 4, man := fld d 20 6, bias := signedOf 12 (fld d 28 12),
    block := match fld d 40 2 with | 0 => 0 | 1 => 16 | 2 => 32 | _ => 64,
    scale := fld d 42 2, nat := fld d 44 4, frac := fld d 48 6, valid := bit d 63,
    tbl := (List.range 16).map fun k => signedOf 8 (fld d (64 + 8 * k) 8),
    tblExp := signedOf 8 (fld d 192 8), nanIdx := fld d 200 4, nanEn := bit d 204 }

/-- An index that may be referenced (R108). -/
def Fmt.usable (f : Fmt) : Bool := f.valid && f.kind ≠ .empty && f.kind ≠ .reserved

def Fmt.isSI (f : Fmt) : Bool := f.kind = .siLimb || f.kind = .siHalf

/-- Block-scaled or in SI form (R88). -/
def Fmt.blocked (f : Fmt) : Bool := f.block ≠ 0

/-- The carrier of an SI form, or the natural carrier of a storage format (R89). -/
def Fmt.carrier (f : Fmt) : Carrier := if f.nat = 0 then .half else .limb f.nat

/-- Bytes of one storage block, or of one SI block (R86, R104). -/
def Fmt.blkBytes (f : Fmt) : Nat :=
  match f.kind with
  | .siLimb => 32 * f.nat
  | .siHalf => 16
  | _ => f.block * f.ew / 8 + (if f.scale = 2 then 1 else 0)

/-- R105: what a programmable descriptor must satisfy. -/
def descOk (d : Desc) : Bool :=
  let f := fmtOf 0x20 d
  (f.kind = .float || f.kind = .integer || f.kind = .table) && 1 ≤ f.ew && f.ew ≤ 8
  && f.specials ≠ 3 && f.scale ≠ 3
  && fld d 6 2 = 0 && fld d 15 1 = 0 && fld d 26 2 = 0 && fld d 54 9 = 0 && fld d 205 51 = 0
  && (f.kind ≠ .float || (f.ew = (if f.signed then 1 else 0) + f.exp + f.man && 1 ≤ f.exp
        && (f.specials ≠ 1 || 2 ≤ f.exp)))
  && (f.kind ≠ .integer || (f.exp = 0 && f.man = 0 && 2 ≤ f.ew))
  && (f.kind ≠ .table || (f.ew ≤ 4 && f.specials = 0))
  && ((fld d 40 2 = 0) == (f.scale = 0))
  && ((0 < f.nat && f.nat ≤ 8) || (f.nat = 0 && f.ew ≤ 4))
  && f.valid

/-! ### What a code is worth -/

/-- A source element: a value, an infinity, a NaN, an SI NaR, or a byte marked uncorrectable (R413). -/
inductive LV where
  | val (x : Ex)
  | inf (negative : Bool)
  | nan
  | nar
  | ue
  deriving DecidableEq, Repr

/-- The value of a code before its block scale (R89, R91). -/
def Fmt.value (f : Fmt) (code : Nat) : LV :=
  match f.kind with
  | .float =>
    let m := code % 2 ^ f.man
    let e := code / 2 ^ f.man % 2 ^ f.exp
    let negative := f.signed && code / 2 ^ (f.man + f.exp) % 2 = 1
    let top := 2 ^ f.exp - 1
    if f.specials = 1 && e = top then (if m = 0 then .inf negative else .nan)
    else if f.specials = 2 && e = top && m = 2 ^ f.man - 1 then .nan
    else
      let (q, k) : Nat × Int :=
        if e = 0 then (m, 1 - f.bias - f.man) else (2 ^ f.man + m, (e : Int) - f.bias - f.man)
      .val (unitsOf (if negative then -(q : Int) else q) k)
  | .integer => .val (unitsOf (if f.signed then signedOf f.ew code else (code % 2 ^ f.ew : Nat)) (-(f.frac : Int)))
  | .table =>
    if f.nanEn && code = f.nanIdx then .nan else .val (unitsOf (f.tbl.getD code 0) f.tblExp)
  | _ => .nan

/-- R91: the value under the block's scale code. -/
def LV.scaled (v : LV) (s : Nat) : LV :=
  if s = 255 then .nan else match v with
    | .val x => .val { x with e := x.e + scaleExp s }
    | v => v

/-! ### Which code a value is stored as (R97 to R102) -/

/-- The largest finite magnitude code of a float. -/
def Fmt.maxFinite (f : Fmt) : Nat :=
  match f.specials with
  | 1 => (2 ^ f.exp - 1) * 2 ^ f.man - 1
  | 2 => 2 ^ (f.exp + f.man) - 2
  | _ => 2 ^ (f.exp + f.man) - 1

/-- The magnitude code of a positive value rounded to nearest even, as if no exponent were too large. -/
def Fmt.magCode (f : Fmt) (x : Ex) : Nat :=
  let emin := 1 - f.bias
  let k := x.log2
  if k < emin then (x.roundAt (emin - f.man)).toNat
  else ((k - emin + 1) * 2 ^ f.man + (x.roundAt (k - f.man) - 2 ^ f.man)).toNat

/-- Whether a magnitude lies above the largest finite value: a block-scaled element as it is (R101), another after its
rounding to code c (R98); log entry 112. -/
def Fmt.above (f : Fmt) (x : Ex) (c : Nat) : Bool :=
  if f.block = 0 then decide (f.maxFinite < c)
  else match f.value f.maxFinite with
    | .val y => y.lt x
    | _ => false

/-- A value stored to a float. `maxed`: the SI value is ±Mmax at scale code 0xFE; `scaled`: the format is
block-scaled, so a magnitude above the largest finite one takes that one (R101). -/
def Fmt.storeFloat (f : Fmt) (infOnSat maxed : Bool) (x : Ex) : Nat × Cond :=
  if x.n = 0 then (0, 0) else
  let c := f.magCode x.abs
  let sign := if x.n < 0 && f.signed then 2 ^ (f.exp + f.man) else 0
  let infCode := (2 ^ f.exp - 1) * 2 ^ f.man
  if c = 0 then (0, cUflow ||| cInexact)
  else if x.n < 0 && !f.signed then (0, cSat)
  else if infOnSat && maxed && f.specials = 1 then (sign + infCode, cSat)
  else if f.above x.abs c then (sign + (if infOnSat && f.specials = 1 then infCode else f.maxFinite), cSat)
  else match f.value c with
    | .val y => (sign + c, if y.eq x.abs then 0 else cInexact)
    | _ => (sign + c, 0)

/-- A value stored to an integer kind. -/
def Fmt.storeInt (f : Fmt) (x : Ex) : Nat × Cond :=
  let q := x.roundAt (-(f.frac : Int))
  let lo : Int := if f.signed then -(2 ^ (f.ew - 1)) else 0
  let hi : Int := if f.signed then 2 ^ (f.ew - 1) - 1 else 2 ^ f.ew - 1
  if q < lo then (codeOf f.ew lo, cSat) else if q > hi then (codeOf f.ew hi, cSat)
  else if (unitsOf q (-(f.frac : Int))).eq x then (codeOf f.ew q, 0)
  else if q = 0 then (0, cUflow ||| cInexact) else (codeOf f.ew q, cInexact)

/-- The entries of a code table that take part in a store: index and value (R102). -/
def Fmt.entries (f : Fmt) : List (Nat × Int) :=
  ((List.range (2 ^ f.ew)).map fun i => (i, f.tbl.getD i 0)).filter fun p => !(f.nanEn && p.1 = f.nanIdx)

/-- The better of two entries for v: nearer, then smaller in magnitude, then the lower index. -/
def betterEntry (v : Ex) (exp : Int) (a b : Nat × Int) : Nat × Int :=
  let da := ((unitsOf a.2 exp).sub v).abs
  let db := ((unitsOf b.2 exp).sub v).abs
  if db.lt da then b
  else if da.lt db then a
  else if b.2.natAbs < a.2.natAbs then b else a

/-- R102. -/
def Fmt.storeTable (f : Fmt) (x : Ex) : Nat × Cond :=
  match f.entries with
  | [] => (0, 0)
  | a :: rest =>
    let w := rest.foldl (betterEntry x f.tblExp) a
    let hi := rest.foldl (fun m p => max m p.2) a.2
    let lo := rest.foldl (fun m p => min m p.2) a.2
    let v := unitsOf w.2 f.tblExp
    let cond :=
      if (unitsOf hi f.tblExp).lt x || x.lt (unitsOf lo f.tblExp) then cSat
      else if x.n ≠ 0 && w.2 = 0 then cUflow ||| cInexact
      else if v.eq x then 0 else cInexact
    (w.1, cond)

/-- A non-NaR value, already divided by its block's scale, as a code. -/
def Fmt.storeVal (f : Fmt) (infOnSat maxed : Bool) (x : Ex) : Nat × Cond :=
  match f.kind with
  | .float => f.storeFloat infOnSat maxed x
  | .integer => f.storeInt x
  | .table => f.storeTable x
  | _ => (0, 0)

/-- The NaN code of a format, where it has one (R98). The E5M2 element takes 0x7F. -/
def Fmt.nanCode (f : Fmt) : Option Nat :=
  match f.kind with
  | .float =>
    if f.index = 0x06 then some 0x7F
    else if f.specials = 1 && 1 ≤ f.man then some ((2 ^ f.exp - 1) * 2 ^ f.man + 2 ^ (f.man - 1))
    else if f.specials = 2 then some (2 ^ (f.exp + f.man) - 1)
    else none
  | .table => if f.nanEn then some f.nanIdx else none
  | _ => none

/-- NaR stored to a format without block scale (R98). -/
def Fmt.storeNar (f : Fmt) : Nat × Cond :=
  match f.nanCode with
  | some c => (c, cNarIn)
  | none =>
    if f.kind = .integer && f.signed then (codeOf f.ew (-(2 ^ (f.ew - 1))), cNarIn ||| cNarLost)
    else (0, cNarIn ||| cNarLost)

/-- emax of R99. -/
def Fmt.emax (f : Fmt) : Option Int :=
  match f.kind with
  | .float =>
    if f.specials = 1 then some ((2 : Int) ^ f.exp - 2 - f.bias)
    else some ((2 : Int) ^ f.exp - 1 - f.bias)
  | .integer => some ((f.ew : Int) - 2 - f.frac)
  | .table =>
    let m := f.entries.foldl (fun m p => max m p.2.natAbs) 0
    if m = 0 then none else some ((Nat.log2 m : Int) + f.tblExp)
  | _ => none

def clampExp (x : Int) : Int := min 127 (max (-127) x)

/-- R99: the exponent of one storage block's scale. `er` are the exponents of its source SI blocks. -/
def Fmt.blockScaleExp (f : Fmt) (strict : Bool) (vals : List (Option Ex)) (er : List Int) : Int :=
  match f.emax with
  | none => -127
  | some emax =>
    if strict then
      let ks := vals.filterMap fun v => v.bind fun x => if x.n = 0 then none else some x.log2
      match ks with
      | [] => -127
      | k :: ks => clampExp (ks.foldl max k - emax)
    else match er with
      | [] => -127
      | e :: es => clampExp (es.foldl max e - emax)

/-- An element to store: its exact value (none = NaR) and whether it is ±Mmax at scale code 0xFE. -/
structure OutEl where
  val : Option Ex
  maxed : Bool := false
  deriving DecidableEq, Repr

def OutEl.zero : OutEl := { val := some Ex.zero }

/-- One storage block of a block-scaled format: scale code, element codes, conditions (R98 to R102). -/
def Fmt.storeBlock (f : Fmt) (strict infOnSat : Bool) (els : List OutEl) (er : List Int) :
    Nat × List Nat × Cond :=
  if els.any (·.val.isNone) && f.nanCode.isNone then
    (255, els.map fun _ => 0, cNarIn ||| cNarBlock)
  else
    let x := f.blockScaleExp strict (els.map (·.val)) er
    let rs := els.map fun el => match el.val with
      | none => f.storeNar
      | some v => f.storeVal infOnSat el.maxed { v with e := v.e - x }
    (scaleCode x, rs.map (·.1), orAll (rs.map (·.2)))

end Sys2Proof.Machine
end

