-- ==== Sys2Proof/Machine/Convert.lean ====
section
/-! DEFINITION. Conversion on the way (03_formats_and_conversion R86 to R103, R109): walks, blocks of a transfer,
residue records, and a whole DMA conversion as a list of masked byte writes. -/
namespace Sys2Proof.Machine

/-- A masked byte write: address, the bits it changes, their values. -/
structure WByte where
  addr : Nat
  mask : Byte := 0xFF
  data : Byte
  deriving DecidableEq, Repr

def WByte.apply (w : WByte) (old : Byte) : Byte := (old &&& ~~~w.mask) ||| (w.data &&& w.mask)

/-- Where a conversion reads: a byte, and whether it is marked uncorrectable (R413). -/
structure Src where
  byte : Nat → Byte
  bad : Nat → Bool := fun _ => false

/-- A little-endian number of n bytes (R13). -/
def leBytes (rd : Nat → Byte) (a : Nat) : Nat → Nat
  | 0 => 0
  | n + 1 => (rd a).toNat + 256 * leBytes rd (a + 1) n

/-- The n little-endian bytes of a number. -/
def bytesOf : Nat → Nat → List Byte
  | 0, _ => []
  | n + 1, v => BitVec.ofNat 8 v :: bytesOf n (v / 256)

/-- Whole bytes written from an address on. -/
def writesAt (a : Nat) (bs : List Byte) : List WByte := bs.zipIdx.map fun (b, i) => { addr := a + i, data := b }

/-- The len bits from bit address p on (R90). -/
def bitsAt (rd : Nat → Byte) (p len : Nat) : Nat :=
  leBytes rd (p / 8) ((p % 8 + len + 7) / 8) / 2 ^ (p % 8) % 2 ^ len

/-- A field of len bits written at bit address p. -/
def bitsWrite (p len v : Nat) : List WByte :=
  let n := (p % 8 + len + 7) / 8
  let m := bytesOf n ((2 ^ len - 1) * 2 ^ (p % 8))
  let d := bytesOf n (v % 2 ^ len * 2 ^ (p % 8))
  (m.zip d).zipIdx.map fun ((m, d), i) => { addr := p / 8 + i, mask := m, data := d }

/-! ### Walks (R228) -/

/-- One side of a transfer. -/
structure Side where
  fmt : Fmt
  addr : Nat
  n0 : Nat
  n1 : Nat := 1
  n2 : Nat := 1
  s1 : Int := 0
  s2 : Int := 0
  scaleAddr : Nat := 0
  /-- element t of the walk lies at bit t × EW from the address, its blocks following the runs (R344) -/
  dense : Bool := false
  deriving DecidableEq, Repr

def Side.count (s : Side) : Nat := s.n0 * s.n1 * s.n2

/-- Where run r starts. -/
def Side.runStart (s : Side) (r : Nat) : Int :=
  (s.addr : Int) + (r / s.n1 : Nat) * s.s2 + (r % s.n1 : Nat) * s.s1

/-- Storage blocks of one run. -/
def Side.blocksPerRun (s : Side) : Nat := if s.fmt.block = 0 then 0 else (s.n0 + s.fmt.block - 1) / s.fmt.block

/-- The first byte of storage block k of run r. -/
def Side.blockAddr (s : Side) (r k : Nat) : Int := s.runStart r + (k * s.fmt.blkBytes : Nat)

/-- The scale byte of storage block k of run r. -/
def Side.scaleAt (s : Side) (r k : Nat) : Nat :=
  if s.fmt.scale = 2 then (s.blockAddr r k).toNat else s.scaleAddr + r * s.blocksPerRun + k

/-- The bit address of element i of run r, for a storage format. -/
def Side.elemBit (s : Side) (r i : Nat) : Nat :=
  if s.dense then 8 * s.addr + (r * s.n0 + i) * s.fmt.ew
  else if s.fmt.block = 0 then ((s.runStart r) * 8).toNat + i * s.fmt.ew
  else
    let k := i / s.fmt.block
    ((s.blockAddr r k) * 8).toNat + (if s.fmt.scale = 2 then 8 else 0) + i % s.fmt.block * s.fmt.ew

/-- The scale code of the block of element i of run r; 0x7F for an unscaled format. -/
def Side.scale (s : Side) (m : Src) (r i : Nat) : Nat :=
  if s.fmt.block = 0 then 127 else (m.byte (s.scaleAt r (i / s.fmt.block))).toNat

/-- The byte addresses of element i of run r. -/
def Side.elemBytes (s : Side) (r i : Nat) : List Nat :=
  match s.fmt.kind with
  | .siLimb => (List.range s.fmt.nat).map fun l => ((s.blockAddr r (i / 32)).toNat) + 32 * l + i % 32
  | .siHalf => [(s.blockAddr r (i / 32)).toNat + i % 32 / 2]
  | _ =>
    let p := s.elemBit r i
    (List.range ((p % 8 + s.fmt.ew + 7) / 8)).map fun k => p / 8 + k

/-- The mantissa of an element of an SI form (R54, R86). -/
def Side.siMant (s : Side) (m : Src) (r i : Nat) : Option Int :=
  match s.fmt.kind with
  | .siHalf =>
    let b := (m.byte ((s.blockAddr r (i / 32)).toNat + i % 32 / 2)).toNat
    let c := if i % 2 = 0 then b % 16 else b / 16
    if c = 8 then none else some (signedOf 4 c)
  | _ => limbMant ((s.elemBytes r i).map m.byte)

/-- Element i of run r as the converter reads it. -/
def Side.read (s : Side) (m : Src) (r i : Nat) : LV :=
  let marked := (s.elemBytes r i).any m.bad || (s.fmt.block ≠ 0 && m.bad (s.scaleAt r (i / s.fmt.block)))
  if marked then .ue
  else
    let sc := s.scale m r i
    if s.fmt.isSI then match mantVal s.fmt.carrier sc (s.siMant m r i) with
      | some x => .val x
      | none => .nar
    else (s.fmt.value (bitsAt m.byte (s.elemBit r i) s.fmt.ew)).scaled sc

/-! ### Elements into a carrier (R92, R93) -/

def lvCond : LV → Cond
  | .val _ => 0
  | .inf _ => cInfMap
  | .nan => cNanMap
  | .nar => cNarIn
  | .ue => cNanMap

def lvVal (c : Carrier) : LV → Option Ex
  | .val x => some x
  | .inf negative => some (c.maxVal negative)
  | _ => none

/-- A saturation of an infinity is its mapping, not SAT: ±Mmax fits at exponent 127. -/
def lvConds (vs : List LV) : Cond := orAll (vs.map lvCond)

/-- The data bytes of a block in limb-major or half-limb order (R86). -/
def blkData (c : Carrier) (ms : List (Option Int)) : List Byte :=
  match c with
  | .half =>
    (List.range ((ms.length + 1) / 2)).map fun k =>
      let lo := codeOf 4 ((ms.getD (2 * k) (some 0)).getD (-8))
      let hi := codeOf 4 ((ms.getD (2 * k + 1) (some 0)).getD (-8))
      BitVec.ofNat 8 (lo + 16 * hi)
  | .limb l =>
    let rows := ms.map fun m => (recode l m).1
    (List.range l).flatMap fun j => rows.map fun r => r.getD j 0
  | .elem w => ms.flatMap fun m => bytesOf (w / 8) (elemCode w m)

/-- A list padded to n elements. -/
def padTo {α : Type} (n : Nat) (d : α) (xs : List α) : List α := xs ++ List.replicate (n - xs.length) d

/-- R95: the bytes of one residue record of a carrier. -/
def recBytes (c : Carrier) : Nat := match c with | .half => 64 | .limb l => 32 + 32 * l | .elem _ => 64

/-- MASK of a record (R95, R206). DESIGN CHOICE, log entry 141: a NaR element counts as non-zero. -/
def maskOf (ms : List (Option Int)) : Nat :=
  ms.zipIdx.foldl (fun a (m, k) => a + (if m = some 0 then 0 else 2 ^ k)) 0

/-- A record: header, then block data (R95). -/
def recordBytes (c : Carrier) (idx level : Nat) (b : Blk) : List Byte :=
  let ms := padTo 32 (some 0) b.m
  let header := idx % 2 ^ 32 + level % 32 * 2 ^ 32 + scaleCode b.e * 2 ^ 40 + maskOf ms * 2 ^ 48
  bytesOf 32 header ++ padTo (recBytes c - 32) 0 (blkData c ms)

/-- A record read back. -/
structure Rec where
  idx : Nat
  level : Nat
  scale : Nat
  mant : List (Option Int)
  deriving DecidableEq, Repr

/-- The mantissas of a block of 32 elements at an address, in limb or half-limb form (R86). -/
def readMants (rd : Nat → Byte) (c : Carrier) (a : Nat) : List (Option Int) :=
  match c with
  | .half => (List.range 32).map fun i =>
      let b := (rd (a + i / 2)).toNat
      let x := if i % 2 = 0 then b % 16 else b / 16
      if x = 8 then none else some (signedOf 4 x)
  | .limb l => (List.range 32).map fun i => limbMant ((List.range l).map fun j => rd (a + 32 * j + i))
  | .elem w => (List.range 32).map fun i => elemMant w (leBytes rd (a + w / 8 * i) (w / 8))

def readRec (rd : Nat → Byte) (c : Carrier) (a : Nat) : Rec :=
  let h := leBytes rd a 12
  { idx := h % 2 ^ 32, level := h / 2 ^ 32 % 32, scale := h / 2 ^ 40 % 256, mant := readMants rd c (a + 32) }

/-- The values of a record's elements. -/
def Rec.vals (c : Carrier) (r : Rec) : List (Option Ex) := r.mant.map (mantVal c r.scale)

/-- The records of an area in order, at most n, up to the first that stop says ends the reading. -/
def readRecs (rd : Nat → Byte) (c : Carrier) (stop : Rec → Bool) : Nat → Nat → List Rec
  | _, 0 => []
  | a, n + 1 =>
    let r := readRec rd c a
    if stop r then [] else r :: readRecs rd c stop (a + recBytes c) n

/-! ### Blocks into a carrier -/

/-- What forming one block gives: primary, levels for its records, conditions. -/
structure Formed where
  blk : Blk
  levels : List Blk
  cond : Cond
  /-- what the primary and the levels hold together -/
  held : List (Option Ex)
  deriving DecidableEq, Repr

/-- R94, R96: a strict block whose primary has exponent e, with room for `room` records. With room for none it is
rounded as in fast mode. What stays unheld was cut by the room or by the 31 records of R96, or it lies below a record of
exponent −127 (R64). -/
def formExact (c : Carrier) (room : Nat) (e : Int) (xs : List (Option Ex)) : Formed :=
  let (b, bs, left, satc) := formChain c (min 31 room) e xs
  let ended := match bs.getLast? with | some x => x.e = -127 | none => False
  let cut := anyLeft left && (!ended || bs.length = 31)
  let low := anyLeft left && ended
  let cond := satc ||| (if cut then cResidueOvf ||| cInexact else 0) ||| (if low then cInexact ||| cUflow else 0)
    ||| (if cut && lostWhole (xs.zip left) then cUflow else 0)
  let rows := (b :: bs).map fun l => l.vals c
  { blk := b, levels := bs, cond := cond,
    held := (List.range xs.length).map fun i => sumLevels (rows.map fun r => r.getD i (some Ex.zero)) }

/-- Every element fits at block exponent e after rounding there. -/
def fitsAt (c : Carrier) (e : Int) (xs : List (Option Ex)) : Bool :=
  xs.all fun x => match x with
    | some x => (x.roundAt (e - c.frac)).natAbs ≤ c.mmax
    | none => true

/-- The exponent of a block that moves from another carrier: its own where every element fits (R57), else that of R60. -/
def keptExp (c : Carrier) (e : Option Int) (xs : List (Option Ex)) : Int :=
  match e with
  | some e => if fitsAt c e xs then e else blockExp c xs
  | none => blockExp c xs

/-- Values rounded once at block exponent e. -/
def roundBlock (c : Carrier) (e : Int) (xs : List (Option Ex)) : Blk × Cond :=
  let rs := xs.map fun x => roundElem c e { val := x }
  ({ e := e, m := rs.map (·.1) }, orAll (rs.map (·.2)))

/-- R92 in fast mode, R94 and R96 in strict mode; `kept?` is the exponent of the SI block that moves, which R57 keeps
where it can (log entry 111). -/
def formSrc (c : Carrier) (strict : Bool) (room : Nat) (kept? : Option Int) (vs : List LV) : Formed :=
  let xs := vs.map (lvVal c)
  let e := keptExp c kept? xs
  if strict then
    let f := formExact c room e xs
    { f with cond := f.cond ||| lvConds vs }
  else
    let (b, cond) := roundBlock c e xs
    { blk := b, levels := [], cond := cond ||| lvConds vs, held := b.vals c }

/-- R57: a block moved to another carrier; the exponent stays where every element fits. -/
def moveBlock (c c' : Carrier) (e : Option Int) (ms : List (Option Int)) : Blk × Cond :=
  match e with
  | none => ({ e := -127, m := ms.map fun _ => none }, cNarIn)
  | some e =>
    let xs := ms.map fun m => m.map fun m => unitsOf m (e - c.frac)
    let (b, cond) := roundBlock c' (keptExp c' (some e) xs) xs
    (b, (if ms.any (·.isNone) then cNarIn else 0) ||| cond)

/-! ### Whole transfers -/

/-- The conversion control word (R109). -/
structure Cvt where
  src : Nat
  dst : Nat
  limbs : Nat
  strict : Bool
  infOnSat : Bool
  resCap : Nat
  deriving DecidableEq, Repr

def cvtOf (w : Word) : Cvt :=
  { src := fld w 0 6, dst := fld w 8 6, limbs := fld w 16 4, strict := bit w 20, infOnSat := bit w 21,
    resCap := fld w 24 24 }

/-- One chunk of at most 32 elements: run, first element, count. -/
structure Chunk where
  run : Nat
  first : Nat
  len : Nat
  deriving DecidableEq, Repr

/-- The SI blocks of a transfer whose runs are n0 long (R88). -/
def chunksOf (n0 runs : Nat) : List Chunk :=
  (List.range runs).flatMap fun r => (List.range ((n0 + 31) / 32)).map fun k =>
    { run := r, first := 32 * k, len := min 32 (n0 - 32 * k) }

/-- A transfer to convert. -/
structure Xfer where
  cvt : Cvt
  src : Side
  dst : Side
  resAddr : Nat
  deriving DecidableEq, Repr

/-- LIMBS holds a defined value, or an SI side makes it count for nothing (R109). -/
def Xfer.limbsOk (x : Xfer) : Bool := x.src.fmt.isSI || x.dst.fmt.isSI || x.cvt.limbs ≤ 8 || x.cvt.limbs = 15

/-- A byte copy: both sides the same SI form (R638). -/
def Xfer.isCopy (x : Xfer) : Bool := x.src.fmt.isSI && x.dst.fmt.isSI && x.src.fmt.carrier = x.dst.fmt.carrier

/-- The run length that blocks follow (R88). -/
def Xfer.runLen (x : Xfer) : Nat :=
  if x.src.fmt.blocked then x.src.n0 else if x.dst.fmt.blocked then x.dst.n0 else x.src.n0

def Xfer.chunks (x : Xfer) : List Chunk := chunksOf x.runLen (x.src.count / x.runLen)

/-- Element t of a side's walk. -/
def Side.readAt (s : Side) (m : Src) (t : Nat) : LV := s.read m (t / s.n0) (t % s.n0)

def Xfer.chunkVals (x : Xfer) (m : Src) (c : Chunk) : List LV :=
  (List.range c.len).map fun i => x.src.readAt m (c.run * x.runLen + c.first + i)

/-- The intermediate or SI-side carrier (R87, R109). -/
def Xfer.carrier (x : Xfer) : Carrier :=
  if x.src.fmt.isSI then x.src.fmt.carrier
  else if x.dst.fmt.isSI then x.dst.fmt.carrier
  else match x.cvt.limbs with
    | 0 => x.dst.fmt.carrier
    | 15 => .half
    | l => .limb l

/-- Writes of an SI block of the destination, padded with zero elements (R88). -/
def Xfer.writeSI (x : Xfer) (k : Nat) (c : Chunk) (b : Blk) : List WByte :=
  writesAt (x.dst.blockAddr c.run (c.first / 32)).toNat (blkData x.dst.fmt.carrier (padTo 32 (some 0) b.m))
    ++ [{ addr := x.dst.scaleAddr + k, data := BitVec.ofNat 8 (scaleCode b.e) }]

/-- What a conversion does: its writes, its residue records, its conditions. -/
structure Done where
  writes : List WByte
  cond : Cond
  deriving DecidableEq, Repr

/-- R97: the records that a strict store from an SI form takes, those in the order of R95. DESIGN CHOICE, log entry 140:
the order is judged against the last record taken, and a record of LEVEL 0 is none of R95's. -/
def inOrder : Option (Nat × Nat) → List Rec → List Rec
  | _, [] => []
  | last, r :: rest =>
    let ok := match last with
      | none => decide (1 ≤ r.level)
      | some (i, l) => 1 ≤ r.level && (i < r.idx || (i = r.idx && l < r.level))
    if ok then r :: inOrder (some (r.idx, r.level)) rest else inOrder last rest

def Xfer.records (x : Xfer) (m : Src) : List Rec :=
  if x.cvt.strict && x.src.fmt.isSI then
    inOrder none (readRecs m.byte x.src.fmt.carrier (fun r => x.chunks.length ≤ r.idx) x.resAddr x.cvt.resCap)
  else []

/-- The elements of chunk k as a conversion takes them: an element of an SI form with its records. -/
def Xfer.chunkFull (x : Xfer) (m : Src) (recs : List Rec) (c : Chunk) (k : Nat) : List LV :=
  let own := recs.filter fun r => r.idx = k
  (x.chunkVals m c).zipIdx.map fun (v, i) => match v with
    | .val p =>
      match sumLevels (some p :: own.map fun r => (r.vals x.src.fmt.carrier).getD i (some Ex.zero)) with
      | some t => .val t
      | none => .nar
    | v => v

/-- The exponent of the source's SI block of a chunk, none for a storage format and for scale code 0xFF. -/
def Xfer.srcExp (x : Xfer) (m : Src) (c : Chunk) : Option Int :=
  let sc := x.src.scale m c.run c.first
  if !x.src.fmt.isSI || sc = 255 then none else some (scaleExp sc)

/-- A load into an SI form, chunk by chunk, `used` records already written (R92, R94 to R96). A block of another SI form
keeps its exponent as R57 says (log entry 111). -/
def loadChunks (x : Xfer) (m : Src) (own : List Rec) : List (Chunk × Nat) → Nat → Done
  | [], _ => { writes := [], cond := 0 }
  | (c, k) :: rest, used =>
    let car := x.dst.fmt.carrier
    let f := formSrc car x.cvt.strict (x.cvt.resCap - used) (x.srcExp m c) (x.chunkFull m own c k)
    let recs := f.levels.zipIdx.flatMap fun (b, l) =>
      writesAt (x.resAddr + (used + l) * recBytes car) (recordBytes car k (l + 1) b)
    let d := loadChunks x m own rest (used + f.levels.length)
    { writes := x.writeSI k c f.blk ++ recs ++ d.writes, cond := f.cond ||| d.cond }

/-- The bytes of one element of a byte copy: as they are, or the NaR code of R56 for a marked element (R413, R638). -/
def copyElem (x : Xfer) (m : Src) (c : Chunk) (i : Nat) (marked : Bool) : List WByte :=
  let dest := x.dst.elemBytes c.run (c.first + i)
  let src := x.src.elemBytes c.run (c.first + i)
  if x.src.fmt.kind = .siHalf then
    (src.zip dest).map fun (a, d) =>
      { addr := d, mask := if i % 2 = 0 then 0x0F else 0xF0, data := if marked then 0x88 else m.byte a : WByte }
  else if marked then dest.zipIdx.map fun (d, l) => { addr := d, data := if l = 0 then 0x80 else 0 : WByte }
  else (src.zip dest).map fun (a, d) => { addr := d, data := m.byte a : WByte }

/-- A byte copy of an SI form (R638): whole blocks and scale codes (log entry 110); a marked element becomes NaR (R413). -/
def copyChunks (x : Xfer) (m : Src) (cs : List (Chunk × Nat)) : Done :=
  let marked (c : Chunk) (i : Nat) : Bool :=
    (x.src.elemBytes c.run (c.first + i)).any m.bad || m.bad (x.src.scaleAt c.run (c.first / 32))
  { writes := cs.flatMap fun (c, k) =>
      ((List.range 32).flatMap fun i => copyElem x m c i (marked c i))
        ++ [{ addr := x.dst.scaleAddr + k, data := m.byte (x.src.scaleAt c.run (c.first / 32)) }],
    cond := if cs.any fun (c, _) => (List.range c.len).any (marked c) then cNarIn else 0 }

/-- The exact values of a transfer's elements on their way to a storage format, with each chunk's exponent. -/
structure Mid where
  els : List OutEl
  er : Option Int
  cond : Cond
  deriving DecidableEq, Repr

/-- A chunk on its way out: from an SI form with its records in strict mode, or through the converter's own
carrier (R87, R97). -/
def Xfer.mid (x : Xfer) (m : Src) (recs : List Rec) (c : Chunk) (k : Nat) : Mid :=
  let car := x.carrier
  let vs := x.chunkVals m c
  if x.src.fmt.isSI then
    let sc := x.src.scale m c.run c.first
    let els := (x.chunkFull m recs c k).map fun v => match v with
      | .val t => { val := some t, maxed := t.eq (car.maxVal false) || t.eq (car.maxVal true) : OutEl }
      | _ => { val := none : OutEl }
    { els := els, er := if sc = 255 then none else some (scaleExp sc),
      cond := orAll (vs.map fun v => if v = LV.ue then cNanMap else 0) ||| (if sc = 255 then cNarIn else 0) }
  else
    let f := formSrc car x.cvt.strict 31 none vs
    { els := f.held.map fun v =>
        { val := v, maxed := match v with
            | some t => t.eq (car.maxVal false) || t.eq (car.maxVal true)
            | none => false },
      er := some f.blk.e, cond := f.cond }

/-- Storing values to a storage format (R97 to R103). -/
def storeAll (x : Xfer) (els : List OutEl) (ers : List (Option Int)) : Done :=
  let d := x.dst
  if d.fmt.block = 0 then
    let rs := els.zipIdx.map fun (el, t) =>
      let (code, cond) := match el.val with
        | none => d.fmt.storeNar
        | some v => d.fmt.storeVal x.cvt.infOnSat el.maxed v
      (bitsWrite (d.elemBit (t / d.n0) (t % d.n0)) d.fmt.ew code, cond)
    { writes := rs.flatMap (·.1), cond := orAll (rs.map (·.2)) }
  else
    let perRun := (d.n0 + 31) / 32
    let b := d.fmt.block
    let rs := (List.range (d.count / d.n0)).flatMap fun r => (List.range d.blocksPerRun).map fun k =>
      let own := (List.range b).map fun i =>
        if k * b + i < d.n0 then els.getD (r * d.n0 + k * b + i) OutEl.zero else OutEl.zero
      let er := (List.range (if b = 64 then 2 else 1)).filterMap fun h =>
        let j := k * b / 32 + h
        if j < perRun then (ers.getD (r * perRun + j) none) else none
      let (sc, codes, cond) := d.fmt.storeBlock x.cvt.strict x.cvt.infOnSat own er
      let data := codes.zipIdx.flatMap fun (code, i) =>
        if d.dense ∧ d.n0 ≤ k * b + i ∧ r + 1 < d.count / d.n0 then [] else bitsWrite (d.elemBit r (k * b + i)) d.fmt.ew code
      ({ addr := d.scaleAt r k, data := BitVec.ofNat 8 sc : WByte } :: data, cond)
    { writes := rs.flatMap (·.1), cond := orAll (rs.map (·.2)) }

/-- A whole conversion (R87, R92 to R103, R638). -/
def Xfer.run (x : Xfer) (m : Src) : Done :=
  let cs := x.chunks.zipIdx
  if x.isCopy then copyChunks x m cs
  else if x.dst.fmt.isSI then loadChunks x m (x.records m) cs 0
  else
    let recs := x.records m
    let mids := cs.map fun (c, k) => x.mid m recs c k
    let d := storeAll x (mids.flatMap (·.els)) (mids.map (·.er))
    { d with cond := d.cond ||| orAll (mids.map (·.cond)) }

/-! ### What a transfer touches (R385) and its checks (R229) -/

/-- The span of a side's walk: lowest byte and length, over whole storage blocks. -/
def Side.spans (s : Side) : List (Int × Nat) :=
  let len := if s.fmt.block = 0 then (s.n0 * s.fmt.ew + 7) / 8 else s.blocksPerRun * s.fmt.blkBytes
  if s.dense then [((s.addr : Int), (((s.n1 * s.n2 - 1) * s.n0 + s.blocksPerRun * s.fmt.block) * s.fmt.ew + 7) / 8)]
  else (List.range (s.n1 * s.n2)).map fun r => (s.runStart r, len)

/-- The counts of a side's blocks, for its scale array. -/
def Side.scaleSpan (s : Side) : Nat := if s.fmt.scale = 1 then s.blocksPerRun * (s.n1 * s.n2) else 0

/-- R229 for one side: no count is zero; strides of a blocked side are whole storage blocks, and runs stay clear
of each other. -/
def Side.walkOk (s : Side) : Bool :=
  s.n0 ≠ 0 && s.n1 ≠ 0 && s.n2 ≠ 0 &&
  (!s.fmt.blocked ||
    ((s.n1 = 1 || s.s1 % s.fmt.blkBytes = 0) && (s.n2 = 1 || s.s2 % s.fmt.blkBytes = 0) &&
      (List.range (s.n1 * s.n2)).all fun r => (List.range r).all fun q =>
        (s.runStart r - s.runStart q).natAbs ≥ s.blocksPerRun * s.fmt.blkBytes))

end Sys2Proof.Machine
end

