-- ==== Sys2Proof/Machine/StateCompute.lean ====
section
/-! DEFINITION. The state of a cluster's units and of a region (chapters 04 to 10): plain data, one structure for
each unit, with its values after a reset of the volatile class. -/
namespace Sys2Proof.Machine

/-! ### Vector engine (R157 to R185) -/

/-- One vector register: element bits and scale plane (R157). -/
structure VReg where
  data : BitVec 8192 := 0
  scale : BitVec 256 := 0
  deriving DecidableEq, Repr

/-- The vector engine of a cluster. -/
structure Vec where
  v : Vector VReg 32 := Vector.replicate 32 {}
  p : Vector (BitVec 8192) 8 := Vector.replicate 8 0
  /-- VEC_CFG.EW, GRP, VL (R160) -/
  ew : BitVec 2 := 0
  grp : BitVec 2 := 0
  vl : BitVec 14 := 0
  /-- VEC_MODE (R167) -/
  strict : Bool := false
  prec : BitVec 2 := 0
  rdepth : BitVec 2 := 0
  /-- VEC_SSCALE.SCALE (R166) -/
  sscale : Byte := 0x7F
  /-- VEC_STAT (R181) -/
  stat : BitVec 16 := 0
  /-- the per-task copy of the conditions raised (R182) -/
  conds : Cond := 0
  deriving DecidableEq, Repr

/-! ### Matrix array (R117 to R156) -/

/-- One accumulator entry of one column, fast or strict (R72, R73, R139). -/
structure Acc where
  strict : Bool := false
  nar : Bool := false
  value : Int := 0
  /-- Prun or Px, none before the first sum -/
  anchor : Option Int := none
  /-- block-pair sums since the clear, of a strict entry (R146) -/
  count : Nat := 0
  deriving DecidableEq, Repr

/-- The fields of a load that an AUTO stream repeats (R144). -/
structure LoadSrc where
  lb : Nat
  transpose : Bool
  level : Nat
  dataAddr : Nat
  scaleAddr : Nat
  resAddr : Nat
  resCount : Nat
  resBlk0 : Nat
  deriving DecidableEq, Repr

/-- A stationary tile: its blocks in the order of R129, each a scale code and the loaded limb of its elements. -/
structure Tile where
  src : LoadSrc
  limb : Nat
  half : Bool
  blocks : List (Nat × List Int)
  /-- per block: whether an element is NaR (R125) -/
  nar : List Bool
  empty : Bool
  maxExp : Int
  deriving DecidableEq, Repr

/-- A stream or drain still running: its entries, the tile ranges (start, length) it reads and writes (R137). -/
structure ArrRun where
  base : Nat
  rows : Nat
  reads : List (Nat × Nat) := []
  writes : List (Nat × Nat) := []
  /-- an AUTO stream holds the loader until its last internal load has finished (R137, R144) -/
  loads : Bool := false
  deriving DecidableEq, Repr

/-- A queued command of 256 bits, and the mode of the task it came from (R140). -/
structure ArrCmd where
  word : BitVec 256
  taskStrict : Bool
  deriving DecidableEq, Repr

/-- An array task being fetched (R135): its entry, the next command's address, how many are left. -/
structure ArrTask where
  entry : Nat
  addr : Nat
  left : Nat
  strict : Bool
  deriving DecidableEq, Repr

/-- The matrix array of a cluster. -/
structure Arr where
  queue : List ArrCmd := []
  task : Option ArrTask := none
  strict : Bool := false
  half : Bool := false
  active : Option Tile := none
  shadow : Option Tile := none
  /-- a shadow load completed and not swapped yet: SHADOW_FULL (R153) -/
  shadowFull : Bool := false
  /-- the load that runs: the tile it will leave, and the ranges it reads (R147) -/
  loading : Option (Tile × List (Nat × Nat)) := none
  streams : List ArrRun := []
  drains : List ArrRun := []
  /-- rows of 128 accumulator entries that differ from clear fast ones, by entry number -/
  acc : SMap (List Acc) := []
  /-- ARR_STAT in its own layout (R151) -/
  stat : BitVec 7 := 0
  /-- ARR_ERRINFO OP and REASON (R152) -/
  errOp : BitVec 4 := 0
  errReason : BitVec 4 := 0
  /-- the per-task copy of the conditions raised (R84, R154) -/
  conds : Cond := 0
  /-- accumulator rows that the firing in the array has changed (R250) -/
  touched : List Nat := []
  deriving DecidableEq, Repr

/-! ### Tahr (R215 to R224) -/

/-- What Tahr waits for. -/
inductive TWait where
  | sync (rd : BitVec 5)
  | slot (slot : Byte) (amount : Byte)
  | debug
  deriving DecidableEq, Repr

/-- The kernel that runs on Tahr. -/
structure Kernel where
  entry : Nat
  /-- arithmetic-island tick at dispatch, in 10 ns (R219) -/
  start : Nat
  retired : Nat := 0
  deriving DecidableEq, Repr

/-- A summary on its way to an x register (R195). -/
structure Summary where
  rd : BitVec 5
  value : Word
  deriving DecidableEq, Repr

structure Tahr where
  /-- x0 to x31; x0 is never written and reads as zero -/
  x : Vector Word 32 := Vector.replicate 32 0
  pc : Word := 0
  kernel : Option Kernel := none
  wait : Option TWait := none
  /-- cached lines of 64 bytes by line number (R218) -/
  icache : SMap (BitVec 512) := []
  summaries : List Summary := []
  /-- fetches since reset, the argument of the free value of R218 -/
  fetches : Nat := 0
  deriving DecidableEq, Repr

/-! ### Tasks (R225 to R257) -/

/-- The states of a task entry (R225). -/
inductive TState where
  | idle | waiting | running | specRunning | held | faulted
  deriving DecidableEq, Repr

structure TEntry where
  /-- the 16 words of the descriptor (R226, R227) -/
  desc : BitVec 1024 := 0
  state : TState := .idle
  /-- waits as if SPEC = 0 after a squash (R237) -/
  noSpec : Bool := false
  /-- settled since its guard resolved (R242) -/
  settled : Bool := false
  deriving DecidableEq, Repr

/-- A guard with the value a firing counts on. -/
abbrev GSet := List (Nat × Bool)

/-- How far a DMA firing has come. -/
inductive DmaPhase where
  | reading | writing | done
  deriving DecidableEq, Repr

/-- A DMA firing: its engine, what is left to do, what it has read. -/
structure DmaRun where
  engine : Fin 4
  phase : DmaPhase := .reading
  /-- requests still to be answered: reads, then writes -/
  left : Nat := 0
  /-- lines read so far by line address, and their uncorrectable sectors by number -/
  data : SMap (BitVec 2048) := []
  bad : List Nat := []
  deriving DecidableEq, Repr

/-- What a firing does while it runs. -/
inductive Work where
  | array
  | vector
  | dma (d : DmaRun)
  | solver (status : Nat) (iters : Nat)
  deriving DecidableEq, Repr

/-- A firing in flight (R231 to R250). -/
structure Firing where
  entry : Nat
  /-- region-wide dispatch order (R246, R249) -/
  order : Nat
  unit : Work
  guards : GSet := []
  spec : Bool := false
  conds : Cond := 0
  result : BitVec 32 := 0
  status : BitVec 16 := 0
  /-- its work has ended and its completion waits for TASK_COMPLETE -/
  ended : Bool := false
  /-- TASK_COMPLETE has come; a speculative firing is HELD then -/
  final : Bool := false
  /-- its PROD and REMOTE signals entered the held table (R247) -/
  signalled : Bool := false
  /-- guards cleared, sectors of its commit still being written (R249) -/
  committing : Bool := false
  start : Nat := 0
  /-- counts of a speculative firing (R603): 16 × engine + slot, the engines of its cluster and, as engine 8, Nyala -/
  tally : SMap Nat := []
  deriving DecidableEq, Repr

/-- A scoreboard buffer (R241, R256). -/
structure TBuf where
  base : BitVec 16 := 0
  lines : BitVec 16 := 0
  owner : BitVec 7 := 0
  claimed : Bool := false
  deriving DecidableEq, Repr

/-- One cluster. -/
structure Cluster where
  vec : Vec := {}
  arr : Arr := {}
  tahr : Tahr := {}
  table : Vector TEntry 128 := Vector.replicate 128 {}
  /-- MEM_DUAL_i word 0 and word 1 (R345) -/
  dual : Vector (BitVec 128) 128 := Vector.replicate 128 0
  slots : Vector (BitVec 16) 256 := Vector.replicate 256 0
  bufs : Vector TBuf 64 := Vector.replicate 64 {}
  cringBase : BitVec 18 := 0
  head : Byte := 0
  tail : Byte := 0
  /-- TSK_STAT bits 0 to 4 (R255) -/
  tstat : BitVec 5 := 0
  firings : List Firing := []
  /-- MEM_CVT_STAT of engines 0 to 3 in its own layout (R110) -/
  cvt : Vector (BitVec 10) 4 := Vector.replicate 4 0
  /-- fenced, with the reason of the fence event (R28, R529) -/
  fenced : Option Nat := none
  /-- STL_CL_e_c (R607): 8 engines by 16 slots -/
  stl : Vector (BitVec 48) 128 := Vector.replicate 128 0
  deriving DecidableEq, Repr

/-! ### Region: guards and held work (R242 to R257) -/

inductive GState where
  | unresolved | yes | no
  deriving DecidableEq, Repr

structure Guard where
  state : GState := .unresolved
  nbound : Byte := 0
  settled : Byte := 0
  deriving DecidableEq, Repr

/-- A held sector (R246). -/
structure HSector where
  addr : Nat
  mask : BitVec 32
  data : BitVec 256
  cl : Cl
  entry : Nat
  order : Nat
  guards : GSet
  deriving DecidableEq, Repr

/-- What a held-table entry holds (R247). -/
inductive HItem where
  | signal (cl : Nat) (slot : Nat) (amount : Nat)
  | guard (g : Nat) (value : Bool)
  deriving DecidableEq, Repr

structure Held where
  item : HItem
  cl : Cl
  entry : Nat
  order : Nat
  guards : GSet
  deriving DecidableEq, Repr

/-- A signal on its way to another cluster (R234). -/
structure Flight where
  cl : Cl
  slot : Byte
  amount : Byte
  deriving DecidableEq, Repr

end Sys2Proof.Machine
end

