-- ==== Sys2Proof/Machine/Flags.lean ====
section
/-! DEFINITION. Conditions and sticky status: which conditions an operation sets and how each unit's register holds
them (R82 to R84, R110, R151, R181). -/
namespace Sys2Proof.Machine

/-- VEC_STAT takes the conditions of bits 0 to 15 (R181). -/
def Vec.raise (v : Vec) (c : Cond) : Vec := { v with stat := v.stat ||| c.truncate 16, conds := v.conds ||| c }

/-- The bits of a condition word moved to another layout: pairs of source bit and target bit. -/
def mapBits {w : Nat} (c : Cond) (pairs : List (Nat × Nat)) : BitVec w :=
  pairs.foldl (fun a p => if c.getLsbD p.1 then a ||| (1#w <<< p.2) else a) 0

/-- ARR_STAT's bit for each condition (R151). -/
def arrLayout : List (Nat × Nat) := [(0, 0), (3, 1), (4, 2), (5, 3), (13, 4), (8, 5), (16, 6)]

/-- MEM_CVT_STAT's bit for each condition (R110). -/
def cvtLayout : List (Nat × Nat) :=
  [(0, 0), (3, 1), (4, 2), (5, 3), (6, 4), (7, 5), (8, 6), (9, 7), (10, 8), (11, 9)]

def arrBits (c : Cond) : BitVec 7 := mapBits c arrLayout
def cvtBits (c : Cond) : BitVec 10 := mapBits c cvtLayout

def Arr.raise (a : Arr) (c : Cond) : Arr := { a with stat := a.stat ||| arrBits c, conds := a.conds ||| c }

/-- R140, R152: a refused command; ERRINFO holds the first refusal since CMD_ERR was last 0. -/
def Arr.refuse (a : Arr) (op reason : Nat) : Arr :=
  let first := !a.stat.getLsbD 6
  { a.raise cCmdErr with
    errOp := if first then BitVec.ofNat 4 op else a.errOp
    errReason := if first then BitVec.ofNat 4 reason else a.errReason }

/-- A write of ones to W1C bits (R18). -/
def w1c {w : Nat} (old write : BitVec w) : BitVec w := old &&& ~~~write

/-- A counter of w bits that stops at its largest value. -/
def satAdd {w : Nat} (x : BitVec w) (n : Nat) : BitVec w :=
  BitVec.ofNat w (min (2 ^ w - 1) (x.toNat + n))

/-- The condition that a NaR among the operands sets (R66, R67). -/
def narIn (vs : List (Option Ex)) : Cond := if vs.any (·.isNone) then cNarIn else 0

end Sys2Proof.Machine
end

