-- ==== Sys2Proof/Machine/Maps.lean ====
section
/-! DEFINITION. Sparse maps: lists of pairs with strictly rising keys whose unlisted keys hold a default. A write of
the default removes the entry, so that equal maps are equal data. -/
namespace Sys2Proof.Machine

/-- What key k holds, where it is listed. -/
def smFind {α : Type} (m : SMap α) (k : Nat) : Option α := (m.find? fun x => x.1 == k).map (·.2)

/-- What key k holds. -/
def smGet {α : Type} (d : α) (m : SMap α) (k : Nat) : α := (smFind m k).getD d

/-- The map without key k. -/
def smErase {α : Type} (m : SMap α) (k : Nat) : SMap α := m.filter fun x => x.1 != k

/-- An entry at its place among rising keys. -/
def smInsert {α : Type} (k : Nat) (v : α) : SMap α → SMap α
  | [] => [(k, v)]
  | (j, x) :: m => if k < j then (k, v) :: (j, x) :: m else (j, x) :: smInsert k v m

/-- The map with key k listed as v. -/
def smSet {α : Type} (m : SMap α) (k : Nat) (v : α) : SMap α := smInsert k v (smErase m k)

/-- The map with key k holding v; a key that holds the default is not listed. -/
def smPut {α : Type} [DecidableEq α] (d : α) (m : SMap α) (k : Nat) (v : α) : SMap α :=
  if v = d then smErase m k else smSet m k v

end Sys2Proof.Machine
end

