-- ==== Sys2Proof/Machine/Array.lean ====
section
/-! DEFINITION. The matrix array of a cluster as a unit (04_matrix_array): its commands on its own state and a view
of tile memory. A command gives the array's next state and its writes to tile memory. -/
namespace Sys2Proof.Machine

def tileEnd : Nat := 0x600000

/-! ### Accumulator entries -/

def clearRow : List Acc := List.replicate 128 {}

def Arr.row (a : Arr) (m : Nat) : List Acc := smGet clearRow a.acc m
def Arr.setRow (a : Arr) (m : Nat) (r : List Acc) : Arr := { a with acc := smPut clearRow a.acc m r }

/-- ⌊x × 2^k⌋ and whether bits were lost. -/
def shiftFloor (x k : Int) : Int × Bool :=
  if 0 ≤ k then (x * pow2 k, false) else (x.fdiv (pow2 (-k)), decide (x % pow2 (-k) ≠ 0))

/-- R72's loop: the window slides by 8 while the sum does not fit. -/
def fastFit : Nat → Int → Int → Int → Bool → Int × Int × Bool
  | 0, a, s, p, lost => (a + s, p, lost)
  | n + 1, a, s, p, lost =>
    if (a + s).natAbs > 2 ^ 127 - 1 then
      fastFit n (a.fdiv 256) (s.fdiv 256) (p + 8) (lost || a % 256 ≠ 0 || s % 256 ≠ 0)
    else (a + s, p, lost)

/-- R72: a block-pair sum S in units of 2^lsb with product bound P enters a fast entry. -/
def Acc.addFast (e : Acc) (s lsb p : Int) : Acc × Cond :=
  let (a0, p0, l0) := match e.anchor with
    | none => (e.value, p, false)
    | some q => if p > q then
        let (x, l) := shiftFloor e.value (q - p)
        (x, p, l)
      else (e.value, q, false)
  let (s1, l1) := shiftFloor s (lsb - (p0 - 112))
  let (a2, p2, l2) := fastFit 24 a0 s1 p0 false
  ({ e with value := a2, anchor := some p2 }, if l0 || l1 || l2 then cInexact else 0)

/-- R73, R146: a block-pair sum enters a strict entry of a stream with bound Ps. -/
def Acc.addStrict (e : Acc) (s lsb ps : Int) : Acc × Cond :=
  if 2 ^ 31 ≤ e.count then (e, cStrictRange ||| (if s = 0 then 0 else cInexact))
  else
    let (a0, p0, l0) := match e.anchor with
      | none => (e.value, ps, false)
      | some q => if ps > q then
          let (x, l) := shiftFloor e.value (q - ps)
          (x, ps, l)
        else (e.value, q, false)
    let (s1, l1) := shiftFloor s (lsb - (p0 - 288))
    let slides := (a0 + s1).natAbs > 2 ^ 319 - 1
    let (a2, p2, l2) := if slides then
        (a0.fdiv 256 + s1.fdiv 256, p0 + 8, decide (a0 % 256 ≠ 0) || decide (s1 % 256 ≠ 0))
      else (a0 + s1, p0, false)
    ({ e with value := a2, anchor := some p2, count := e.count + 1 },
      if l0 || l1 || l2 then cStrictRange ||| cInexact else 0)

/-- The value of an entry (R72, R73). -/
def Acc.val (e : Acc) : Option Ex :=
  if e.nar then none else match e.anchor with
    | none => some Ex.zero
    | some p => some (unitsOf e.value (p - (if e.strict then 288 else 112)))

/-! ### Command fields (R136) -/

def cw (c : BitVec 256) (word lo len : Nat) : Nat := fld c (64 * word + lo) len

/-- A carrier field: 0 half-limb, 1 to 8 limbs. -/
def carrierOf (n : Nat) : Carrier := if n = 0 then .half else .limb n

/-- Bytes of a block in a carrier (R86). -/
def carBytes (n : Nat) : Nat := if n = 0 then 16 else 32 * n

def rangesMeet (a b : List (Nat × Nat)) : Bool := a.any fun x => b.any fun y => spanHit x y
where spanHit (x y : Nat × Nat) : Bool := x.1 < y.1 + y.2 && y.1 < x.1 + x.2

def inTile (r : Nat × Nat) : Bool := r.1 + r.2 ≤ tileEnd

def rowsMeet (b n : Nat) (r : ArrRun) : Bool := b < r.base + r.rows && r.base < b + n

/-- Why a command is refused, the lowest reason of R140 that applies. -/
def firstReason (cases : List (Bool × Nat)) : Option Nat := (cases.find? (·.1)).map (·.2)

/-! ### Loading a stationary tile (R129 to R133, R147) -/

def loadSrcOf (c : BitVec 256) : LoadSrc :=
  { lb := cw c 0 12 4, transpose := cw c 0 16 1 = 1, level := cw c 0 17 5, dataAddr := cw c 0 40 23,
    scaleAddr := cw c 1 0 23, resAddr := cw c 1 23 23, resCount := cw c 2 0 24, resBlk0 := cw c 2 24 32 }

/-- Blocks of a tile: 256, or 512 in half-limb mode. -/
def tileBlocks (half : Bool) : Nat := if half then 512 else 256

/-- The ranges that a load reads. DESIGN CHOICE, log entry 139: a residue area of no records still lies where RES_ADDR
says, so that an address beyond tile memory refuses the load. -/
def LoadSrc.ranges (l : LoadSrc) (half : Bool) : List (Nat × Nat) :=
  let n := tileBlocks half
  if l.level = 0 then [(l.dataAddr, n * carBytes l.lb), (l.scaleAddr, n)]
  else [(l.resAddr, l.resCount * recBytes (carrierOf l.lb))]

/-- Limb j of a mantissa in a carrier; a half-limb element in 8-bit mode widens by 4 bits (R57, R69). -/
def limbAt (lb j : Nat) (half : Bool) (m : Option Int) : Int :=
  if lb = 0 then
    let x := m.getD (-8)
    if half then x else 16 * x
  else (((recode lb m).1.getD j 0).toInt)

/-- One block read as (scale code, mantissas). -/
def readBlk (rd : Nat → Byte) (lb addr scaleAddr : Nat) : Nat × List (Option Int) :=
  ((rd scaleAddr).toNat, readMants rd (carrierOf lb) addr)

/-- The limb bytes of a block as they stand in memory, without recoding. -/
def rawLimb (rd : Nat → Byte) (lb j : Nat) (half : Bool) (addr : Nat) (ms : List (Option Int)) : List Int :=
  if lb = 0 then ms.map (limbAt 0 j half) else (List.range 32).map fun i => (rd (addr + 32 * j + i)).toInt

/-- R130: 32 source blocks of one q and one K-part, re-blocked to column blocks. -/
def reblock (lb : Nat) (srcs : List (Nat × List (Option Int))) : List (Nat × List (Option Int)) × Cond :=
  let c := carrierOf lb
  let es := (srcs.filter fun s => s.1 ≠ 255).map fun s => scaleExp s.1
  let e := match es with | [] => -127 | e :: es => es.foldl max e
  let cols := (List.range 32).map fun n => srcs.map fun s =>
    let v := mantVal c s.1 (s.2.getD n (some 0))
    roundElem c e { val := v }
  (cols.map fun col => (scaleCode e, col.map (·.1)), orAll (cols.flatMap fun col => col.map (·.2)))

/-- One source block of a tile: its scale code, its mantissas, and limb j as it stands in memory. -/
abbrev TileBlk := Nat × List (Option Int) × List Int

/-- The blocks of a level-0 source as they lie in memory. -/
def plainBlocks (rd : Nat → Byte) (half : Bool) (l : LoadSrc) (j : Nat) : List TileBlk :=
  (List.range (tileBlocks half)).map fun b =>
    let a := l.dataAddr + b * carBytes l.lb
    let (s, ms) := readBlk rd l.lb a (l.scaleAddr + b)
    (s, ms, rawLimb rd l.lb j half a ms)

/-- The blocks of a residue level: the records of the level, zero blocks elsewhere (R133), and whether no record
fills one. The headers are read in order up to the first past the tile (R147). -/
def levelBlocks (rd : Nat → Byte) (half : Bool) (l : LoadSrc) (j : Nat) : List TileBlk × Bool :=
  let n := tileBlocks half
  let c := carrierOf l.lb
  let recs := (readRecs rd c (fun r => l.resBlk0 + n ≤ r.idx) l.resAddr l.resCount).zipIdx
  let own := (recs.filter fun r => r.1.level = l.level && l.resBlk0 ≤ r.1.idx).reverse
  ((List.range n).map fun b => match own.find? fun r => r.1.idx - l.resBlk0 = b with
    | some (r, k) => (r.scale, r.mant, rawLimb rd l.lb j half (l.resAddr + k * recBytes c + 32) r.mant)
    | none => (0, List.replicate 32 (some 0), List.replicate 32 0), own.isEmpty)

/-- R130: the blocks of a source that lies along n, re-blocked along k, and the conditions of the rounding. -/
def turnBlocks (half : Bool) (l : LoadSrc) (j : Nat) (src : List TileBlk) : List TileBlk × Cond :=
  let parts := if half then 4 else 2
  let groups := (List.range 4).map fun q => (List.range parts).map fun h =>
    reblock l.lb ((List.range 32).map fun k =>
      let b := src.getD (4 * (32 * h + k) + q) (0, [], [])
      (b.1, b.2.1))
  let blocks := (List.range 128).flatMap fun n => (List.range parts).map fun h =>
    let g := ((groups.getD (n / 32) []).getD h ([], 0)).1
    let b := g.getD (n % 32) (0, [])
    (b.1, b.2, b.2.map (limbAt l.lb j half))
  (blocks, orAll (groups.flatMap fun g => g.map (·.2)))

/-- A loaded tile and the load's conditions. DEDUCED, log entry 159: a block of scale code 0xFF has no exponent for R145. -/
def loadTile (rd : Nat → Byte) (half : Bool) (l : LoadSrc) (j : Nat) : Tile × Cond :=
  let (src, empty) := if l.level = 0 then (plainBlocks rd half l j, false) else levelBlocks rd half l j
  let (bs, cond) := if l.transpose then turnBlocks half l j src else (src, 0)
  ({ src := l, limb := j, half := half, blocks := bs.map fun b => (b.1, b.2.2),
     nar := bs.map fun b => b.2.1.any (·.isNone), empty := empty, maxExp := maxScale (bs.map (·.1)) }, cond)
where maxScale (ss : List Nat) : Int := (ss.filter (· ≠ 255)).foldl (fun a s => max a (scaleExp s)) (-127)

/-! ### Streams (R118 to R125, R142 to R146) -/

/-- A moving row: per K-part its scale code, its mantissas' NaR mark, and its limbs by limb number. -/
structure MovRow where
  entry : Nat
  parts : List (Nat × Bool × List (List Int))
  deriving DecidableEq, Repr

/-- The limbs of a moving block: limb lists by limb number. -/
def movLimbs (rd : Nat → Byte) (la : Nat) (half : Bool) (addr : Nat) (ms : List (Option Int)) : List (List Int) :=
  (List.range (max 1 la)).map fun i => rawLimb rd la i half addr ms

def movRow (rd : Nat → Byte) (la : Nat) (half : Bool) (mov scale base m : Nat) : MovRow :=
  let parts := if half then 4 else 2
  { entry := base + m
    parts := (List.range parts).map fun h =>
      let b := parts * m + h
      let a := mov + b * carBytes la
      let (s, ms) := readBlk rd la a (scale + b)
      (s, ms.any (·.isNone), movLimbs rd la half a ms) }

/-- A residue row: the record at address a in the place of its block, zero elsewhere (R133). -/
def resRow (rd : Nat → Byte) (la : Nat) (half : Bool) (base : Nat) (r : Rec) (b a : Nat) : MovRow :=
  let parts := if half then 4 else 2
  let zeros := (List.range (max 1 la)).map fun _ => List.replicate 32 (0 : Int)
  { entry := base + b / parts
    parts := (List.range parts).map fun h =>
      if h = b % parts then
        (r.scale, r.mant.any (·.isNone), movLimbs rd la half (a + 32) r.mant)
      else (0, false, zeros) }

def dot (a b : List Int) : Int := (List.zipWith (· * ·) a b).foldl (· + ·) 0

/-- One entry of one column under one pass: the blocks of the row in order (R123 to R125, R633). `ps` is the
stream's bound in strict mode. DEDUCED, log entry 157: the pass that makes an entry NaR enters nothing. -/
def passEntry (t : Tile) (half : Bool) (i : Nat) (ps : Option Int) (row : MovRow) (rowNar : Bool) (n : Nat)
    (e : Acc) : Acc × Cond :=
  let parts := if half then 4 else 2
  let cols := (List.range parts).map fun h =>
    (t.blocks.getD (parts * n + h) (0, []), t.nar.getD (parts * n + h) false)
  let colNar := cols.any fun c => c.1.1 = 255 || ((half || t.limb = 0) && c.2)
  if rowNar || colNar then ({ e with nar := true }, cNarIn)
  else if e.nar then (e, 0)
  else
    ((row.parts.zip cols).foldl (fun (acc : Acc × Cond) (p : (Nat × Bool × List (List Int)) × (Nat × List Int) × Bool) =>
      let (mv, st) := p
      let pb := scaleExp mv.1 + scaleExp st.1.1 + 2
      let s := dot (mv.2.2.getD i []) st.1.2
      let lsb := if half then pb - 6 else pb - 14 - 8 * (i + t.limb : Nat)
      let r := match ps with
        | some ps => acc.1.addStrict s lsb ps
        | none => acc.1.addFast s lsb pb
      (r.1, acc.2 ||| r.2)) (e, 0))

/-- One pass: limb i of a row against the active tile (R142, R143). -/
def Arr.pass (a : Arr) (t : Tile) (i : Nat) (ps : Option Int) (row : MovRow) : Arr :=
  let rowNar := row.parts.any fun p => p.1 = 255 || ((a.half || i = 0) && p.2.1)
  let rs := (a.row row.entry).zipIdx.map fun (e, n) => passEntry t a.half i ps row rowNar n e
  (a.setRow row.entry (rs.map (·.1))).raise (orAll (rs.map (·.2)))

/-- The permitted moving limbs against stationary limb j (R69, R142). -/
def permitted (strict : Bool) (la lb j : Nat) : List Nat :=
  (List.range (max 1 la)).filter fun i => strict || i + j ≤ max (max 1 la) (max 1 lb) - 1

/-- The passes of one stationary limb (R143). -/
def Arr.passes (a : Arr) (t : Tile) (la : Nat) (ps : Option Int) (rows res : List MovRow) : Arr :=
  (permitted a.strict la t.src.lb t.limb).foldl (fun a i =>
    (rows ++ res).foldl (fun a r => a.pass t i ps r) a) a

/-- R144: the stationary limbs from the active one on; each further limb is loaded and swapped in. -/
def Arr.autoLimbs (rd : Nat → Byte) (la : Nat) (ps : Option Int) (rows res : List MovRow) (auto : Bool) :
    Nat → Arr → Tile → Arr
  | 0, a, _ => a
  | n + 1, a, t =>
    let a := a.passes t la ps rows res
    if auto && t.limb + 1 < t.src.lb then
      let (t', c) := loadTile rd a.half t.src (t.limb + 1)
      autoLimbs rd la ps rows res auto n ({ a with active := some t', shadow := some t, shadowFull := false }.raise c) t'
    else a

/-- The fields of a stream. -/
structure StreamCmd where
  la : Nat
  auto : Bool
  capture : Bool
  base : Nat
  rows : Nat
  mov : Nat
  movScale : Nat
  resAddr : Nat
  resCount : Nat
  resBlk0 : Nat
  cap : Nat
  capScale : Nat
  deriving DecidableEq, Repr

def streamOf (c : BitVec 256) : StreamCmd :=
  { la := cw c 0 8 4, auto := cw c 0 12 1 = 1, capture := cw c 0 13 1 = 1, base := cw c 0 16 8, rows := cw c 0 24 9,
    mov := cw c 0 40 23, movScale := cw c 1 0 23, resAddr := cw c 1 23 23, resCount := cw c 2 0 24,
    resBlk0 := cw c 2 24 32, cap := cw c 3 0 23, capScale := cw c 3 23 23 }

def StreamCmd.blocks (s : StreamCmd) (half : Bool) : Nat := s.rows * (if half then 4 else 2)

def StreamCmd.reads (s : StreamCmd) (half : Bool) : List (Nat × Nat) :=
  [(s.mov, s.blocks half * carBytes s.la), (s.movScale, s.blocks half)]
    ++ (if s.resCount = 0 then [] else [(s.resAddr, s.resCount * recBytes (carrierOf s.la))])

def StreamCmd.writes (s : StreamCmd) (half : Bool) : List (Nat × Nat) :=
  if s.capture then [(s.cap, s.blocks half * carBytes s.la), (s.capScale, s.blocks half)] else []

/-! ### Drains (R148) -/

structure DrainCmd where
  dstL : Nat
  prec : Nat
  base : Nat
  rows : Nat
  dst : Nat
  dstScale : Nat
  resAddr : Nat
  resCap : Nat
  resBlk0 : Nat
  deriving DecidableEq, Repr

def drainOf (c : BitVec 256) : DrainCmd :=
  { dstL := cw c 0 8 4, prec := cw c 0 12 3, base := cw c 0 16 8, rows := cw c 0 24 9, dst := cw c 0 40 23,
    dstScale := cw c 1 0 23, resAddr := cw c 1 23 23, resCap := cw c 2 0 24, resBlk0 := cw c 2 24 32 }

def DrainCmd.writes (d : DrainCmd) : List (Nat × Nat) :=
  [(d.dst, 4 * d.rows * carBytes d.dstL), (d.dstScale, 4 * d.rows)]
    ++ (if d.prec = 0 || d.resCap = 0 then [] else [(d.resAddr, d.resCap * recBytes (carrierOf d.dstL))])

/-- Output blocks from block b on, `used` records already written. -/
def drainBlocks (d : DrainCmd) : List (Nat × List (Option Ex)) → Nat → List WByte × Cond
  | [], _ => ([], 0)
  | (b, vs) :: rest, used =>
    let c := carrierOf d.dstL
    let (blk, levels, cond) :=
      if d.prec = 0 then
        let (bl, k) := formBlock c (vs.map fun v => { val := v })
        (bl, [], k)
      else
        let rs := vs.map fun v => match v with
          | some x => let (y, k) := roundPrec d.prec x; (some y, k)
          | none => (none, 0)
        let f := formExact c (d.resCap - used) (blockExp c (rs.map (·.1))) (rs.map (·.1))
        (f.blk, f.levels, f.cond ||| orAll (rs.map (·.2)))
    let own := writesAt (d.dst + b * carBytes d.dstL) (blkData c blk.m)
      ++ [{ addr := d.dstScale + b, data := BitVec.ofNat 8 (scaleCode blk.e) }]
      ++ levels.zipIdx.flatMap fun (bl, l) =>
        writesAt (d.resAddr + (used + l) * recBytes c) (recordBytes c (d.resBlk0 + b) (l + 1) bl)
    let (ws, k) := drainBlocks d rest (used + levels.length)
    (own ++ ws, cond ||| k)

/-! ### The commands -/

/-- What issuing the head of the queue gives. -/
inductive Issue where
  /-- it waits (R137) -/
  | waits
  /-- it ran or was refused: the array without it, and its writes -/
  | done (a : Arr) (writes : List WByte)
  deriving DecidableEq, Repr

/-- R137: a command that reads ranges waits for drains and captures still writing them; one that writes, for
commands still reading them. DESIGN CHOICE, log entry 158: one that writes waits for drains and captures too. -/
def Arr.rangesFree (a : Arr) (reads writes : List (Nat × Nat)) : Bool :=
  !(a.streams ++ a.drains).any (fun r => rangesMeet reads r.writes || rangesMeet writes r.writes)
  && !a.streams.any (fun r => rangesMeet writes r.reads)
  && !(match a.loading with | some l => rangesMeet writes l.2 | none => false)

/-- ARR_MODE (R141). DEDUCED, log entry 156: with the tiles invalid no load counts as completed. -/
def Arr.mode (a : Arr) (c : ArrCmd) : Issue :=
  let strict := cw c.word 0 8 1 = 1
  let half := cw c.word 0 9 1 = 1
  if a.loading.isSome || !a.streams.isEmpty || !a.drains.isEmpty then .waits
  else if strict ≠ c.taskStrict then .done (a.refuse 1 6) []
  else if half ≠ a.half then
    .done { a with strict := strict, half := half, active := none, shadow := none, shadowFull := false } []
  else .done { a with strict := strict } []

/-- ARR_CLEAR (R139). -/
def Arr.clear (a : Arr) (c : ArrCmd) : Issue :=
  let base := cw c.word 0 16 8
  let count := cw c.word 0 24 9
  match firstReason [(count = 0 || 256 < base + count, 2), (a.strict ≠ c.taskStrict, 6)] with
  | some r => .done (a.refuse 2 r) []
  | none =>
    if (a.streams ++ a.drains).any (rowsMeet base count) then .waits
    else .done ((List.range count).foldl (fun a i =>
      a.setRow (base + i) (List.replicate 128 { strict := a.strict })) a) []

/-- The loader is idle: no load runs, and no AUTO stream holds it (R137). -/
def Arr.loaderIdle (a : Arr) : Bool := a.loading.isNone && !a.streams.any (·.loads)

/-- ARR_LOAD_SHADOW (R147): the load starts; SHADOW_LOAD_DONE ends it. -/
def Arr.load (a : Arr) (c : ArrCmd) (rd : Nat → Byte) : Issue :=
  let l := loadSrcOf c.word
  let j := cw c.word 0 8 3
  match firstReason
      [(8 < l.lb, 1), (max 1 l.lb ≤ j || !(l.ranges a.half).all inTile, 2), (l.transpose && a.strict, 4),
       (a.half && l.lb ≠ 0, 6)] with
  | some r => .done (a.refuse 3 r) []
  | none =>
    if !a.loaderIdle || !a.rangesFree (l.ranges a.half) [] then .waits
    else
      let (t, k) := loadTile rd a.half l j
      .done ({ a with loading := some (t, l.ranges a.half) }.raise k) []

/-- ARR_SWAP (R128): an AUTO stream that still loads has not entered its last pass (R137). -/
def Arr.swap (a : Arr) (_ : ArrCmd) : Issue :=
  if !a.loaderIdle then .waits
  else if !a.shadowFull then .done (a.refuse 4 5) []
  else .done { a with active := a.shadow, shadow := a.active, shadowFull := false } []

/-- The moving residue records of a stream that name its blocks, with the block and the record's address (R133). -/
def StreamCmd.records (s : StreamCmd) (half : Bool) (rd : Nat → Byte) : List (Rec × Nat × Nat) :=
  let c := carrierOf s.la
  (readRecs rd c (fun _ => false) s.resAddr s.resCount).zipIdx.filterMap fun (r, k) =>
    if s.resBlk0 ≤ r.idx && r.idx - s.resBlk0 < s.blocks half then
      some (r, r.idx - s.resBlk0, s.resAddr + k * recBytes c)
    else none

/-- A byte copy of tile memory. -/
def copyRange (rd : Nat → Byte) (src dst len : Nat) : List WByte :=
  (List.range len).map fun i => { addr := dst + i, data := rd (src + i) }

/-- ARR_STREAM (R142 to R146, R150). The internal loads of an AUTO stream need the loader, so that the stream waits for
an earlier load that still runs, and they read the ranges of the active tile's source. -/
def Arr.stream (a : Arr) (c : ArrCmd) (rd : Nat → Byte) : Issue :=
  let s := streamOf c.word
  let bad := (List.range s.rows).any fun m => (a.row (s.base + m)).any fun e => e.strict ≠ a.strict
  match firstReason
      [(8 < s.la, 1),
       (s.rows = 0 || 256 < s.base + s.rows || !(s.reads a.half ++ s.writes a.half).all inTile, 2),
       (bad, 3), (a.active.isNone, 5), ((a.half && s.la ≠ 0) || a.strict ≠ c.taskStrict, 6)] with
  | some r => .done (a.refuse 5 r) []
  | none =>
    match a.active with
    | none => .waits
    | some t =>
      let loads := s.auto && !t.empty && t.limb + 1 < t.src.lb
      let reads := s.reads a.half ++ (if loads then t.src.ranges a.half else [])
      if a.drains.any (rowsMeet s.base s.rows) || !a.rangesFree reads (s.writes a.half) || (loads && !a.loaderIdle) then .waits
      else
        let run : ArrRun :=
          { base := s.base, rows := s.rows, reads := reads, writes := s.writes a.half, loads := loads }
        if t.empty then .done { a with streams := a.streams ++ [run] } []
        else
          let rows := (List.range s.rows).map fun m => movRow rd s.la a.half s.mov s.movScale s.base m
          let recs := s.records a.half rd
          let res := recs.map fun (r, b, x) => resRow rd s.la a.half s.base r b x
          let mexp := ((rows.flatMap fun r => r.parts.map (·.1)) ++ recs.map fun r => r.1.scale)
          let ps := if a.strict then some (loadTile.maxScale mexp + t.maxExp + 2) else none
          let a' := Arr.autoLimbs rd s.la ps rows res s.auto 8 a t
          let cap := if s.capture && t.limb = 0 && t.src.level = 0 then
              copyRange rd s.mov s.cap (s.blocks a.half * carBytes s.la)
                ++ copyRange rd s.movScale s.capScale (s.blocks a.half)
            else []
          .done { a' with streams := a'.streams ++ [run] } cap

/-- ARR_DRAIN (R148). -/
def Arr.drain (a : Arr) (c : ArrCmd) : Issue :=
  let d := drainOf c.word
  let bad := (List.range d.rows).any fun m => (a.row (d.base + m)).any fun e => e.strict ≠ a.strict
  match firstReason
      [(8 < d.dstL || 3 < d.prec, 1), (d.rows = 0 || 256 < d.base + d.rows || !d.writes.all inTile, 2), (bad, 3),
       ((d.prec ≠ 0 && !a.strict) || a.strict ≠ c.taskStrict, 6)] with
  | some r => .done (a.refuse 6 r) []
  | none =>
    if a.streams.any (rowsMeet d.base d.rows) || !a.rangesFree [] d.writes then .waits
    else
      let blocks := (List.range d.rows).flatMap fun m => (List.range 4).map fun q =>
        (4 * m + q, (((a.row (d.base + m)).drop (32 * q)).take 32).map Acc.val)
      let (ws, k) := drainBlocks d blocks 0
      let run : ArrRun := { base := d.base, rows := d.rows, writes := d.writes }
      .done ({ a with drains := a.drains ++ [run] }.raise k) ws

/-- The opcode at the head of the queue. -/
def Arr.headOp (a : Arr) : Option Nat := a.queue.head?.map fun c => cw c.word 0 0 4

/-- Takes the head of the queue when its opcode is the given one and its conditions hold (R135, R137); a reserved
opcode at the head is refused by whichever row comes (R140). -/
def Arr.issue (a : Arr) (op : Nat) (fn : Arr → ArrCmd → Issue) : Arr × List WByte :=
  match a.queue with
  | [] => (a, [])
  | c :: rest =>
    let o := cw c.word 0 0 4
    if o = 0 || 6 < o then (({ a with queue := rest }).refuse o 1, [])
    else if o ≠ op then (a, [])
    else match fn { a with queue := rest } c with
      | .waits => (a, [])
      | .done a' ws => (a', ws)

end Sys2Proof.Machine
end

