-- ==== Sys2Proof/Machine/StateMemory.lean ====
section
/-! DEFINITION. The state of the memory system (11_memory_system): requests on their way, partitions with their
sorters, banks, regulators and error records. -/
namespace Sys2Proof.Machine

/-- Who asks for memory with a region's tag: a DMA firing or a write-hold commit (R395); Medlar's accesses are made
whole within its steps. -/
inductive Requester where
  | dma (cl : Cl) (entry : Nat) (engine : Fin 4)
  | commit (cl : Cl) (entry : Nat)
  deriving DecidableEq, Repr

/-- The part of a line that a request writes: sector number in the line, byte mask, data (R394). -/
structure SecWrite where
  sector : Fin 8
  mask : BitVec 32
  data : BitVec 256
  /-- a read of the sector has been accepted since: no later write merges with it (R398) -/
  closed : Bool := false
  /-- the sector as it stood before, to which a write that turns out to be dropped gives it back (R414) -/
  old : BitVec 256 := 0
  deriving DecidableEq, Repr

/-- How a request stands in its partition (R399 to R403). -/
inductive ReqState where
  /-- waiting in its region for a tag -/
  | waits
  /-- tagged or parked, on its way to the sorter -/
  | net
  /-- in the sorter -/
  | sorted
  /-- a read issued to memory -/
  | issued
  deriving DecidableEq, Repr

/-- One request for 1 to 8 sectors of an aligned 256-byte line (R383). -/
structure MReq where
  rg : Rg
  who : Requester
  line : Nat
  /-- sectors read, none for a write -/
  sectors : BitVec 8 := 0
  writes : List SecWrite := []
  cls : Nat
  state : ReqState := .waits
  parked : Bool := false
  /-- a scrub or regulator-free promotion by the watchdog (R403) -/
  promoted : Bool := false
  /-- partition ticks at acceptance (R403) -/
  since : Nat := 0
  /-- what an accepted read will return: 256 bytes, and its sectors that are uncorrectable already (R397, R413) -/
  data : BitVec 2048 := 0
  marks : BitVec 8 := 0
  /-- sectors of a write that a marked sector drops when it is scheduled (R414) -/
  drops : List (Fin 8) := []
  /-- the classes of the writes merged into it, one for each sector (R398, R405) -/
  also : List Nat := []
  /-- its place among the grants of its region: a lower one went out earlier (R396, R401) -/
  order : Nat := 0
  /-- sectors of a pending read that a later accepted write has written whole (R397, R414) -/
  rewritten : BitVec 8 := 0
  deriving DecidableEq, Repr

/-- One regulator class of a partition (R423). -/
structure RegClass where
  rate : BitVec 11 := 0
  burst : BitVec 11 := 0
  credits : BitVec 32 := 0
  stall : BitVec 48 := 0
  deriving DecidableEq, Repr

/-- Erased symbols of a pseudo-channel (R423). -/
structure Erased where
  symA : BitVec 6 := 0
  aValid : Bool := false
  symB : BitVec 6 := 0
  bValid : Bool := false
  deriving DecidableEq, Repr

/-- One memory partition. -/
structure Part where
  selfRefresh : Bool := false
  initBusy : Bool := false
  /-- MEM_ECC_STAT CE, UE, UE_WRITE_DROP, LANE_ERASED, WDOG -/
  ecc : BitVec 5 := 0
  ueAddr : BitVec 48 := 0
  scrubEn : Bool := true
  scrubGap : BitVec 16 := 2048
  scrubPos : BitVec 32 := 0
  /-- partition ticks since which a scrub read has waited for eligible requests, and whether the watchdog has promoted it (R402,
  R403) -/
  scrubSince : Option Nat := none
  scrubPromoted : Bool := false
  ceCnt : BitVec 48 := 0
  ueCnt : BitVec 48 := 0
  wdogCnt : BitVec 48 := 0
  parkCnt : BitVec 48 := 0
  passCnt : BitVec 48 := 0
  erased : Vector Erased 64 := Vector.replicate 64 {}
  classes : Vector RegClass 16 := Vector.replicate 16 {}
  wc : Bool := false
  /-- REG_CMAP_s: 24 words for each of 16 segments -/
  cmap : Vector Word 384 := Vector.replicate 384 0
  /-- the row that each bank holds open, by bank number -/
  openRow : SMap Nat := []
  /-- sectors corrected at each symbol position in this scrub pass: 64 × symbol + pseudo-channel (R412) -/
  corrected : SMap (List Nat) := []
  deriving DecidableEq, Repr

end Sys2Proof.Machine
end

