-- ==== Sys2Proof/Machine/StateGraph.lean ====
section
/-! DEFINITION. The state of a loaded graph and of the step that runs (08_spatial_pipelines_and_placement):
the package's entries and the placement that Markhor derived from it. -/
namespace Sys2Proof.Machine

/-- A TENSORS entry (R262). -/
structure TensorE where
  fmt : Nat
  carrier : Nat
  residency : Nat
  persist : Bool
  hostIo : Bool
  elements : Nat
  initOff : Nat
  deriving DecidableEq, Repr

/-- An OPERATIONS entry (R263); words 4 to 7 are class-specific. -/
structure OperE where
  cls : Nat
  strict : Bool
  segBreak : Bool
  splitK : Bool
  kernel : Nat
  work : Nat
  edgeFirst : Nat
  edgeCount : Nat
  m : Nat
  n : Nat
  k : Nat
  extra : BitVec 256
  deriving DecidableEq, Repr

/-- An EDGES entry (R264). -/
structure EdgeE where
  tensor : Nat
  out : Bool
  role : Nat
  slice : Bool
  arg : Nat
  deriving DecidableEq, Repr

/-- A relocation of a kernel (R265): code offset, kind, argument or neighbour. -/
structure Reloc where
  off : Nat
  kind : Nat
  arg : Nat
  deriving DecidableEq, Repr

/-- A KERNELS entry (R265): its code block and its relocations. -/
structure CodeE where
  code : List Byte
  relocs : List Reloc
  deriving DecidableEq, Repr

/-- The sections of a loaded package (R260): SOLVER, CURVATURE and TRAINING entries stand as their words. -/
structure Package where
  digest : BitVec 256
  packageId : BitVec 32
  microbatches : Nat
  tensors : List TensorE
  opers : List OperE
  edges : List EdgeE
  solver : List (List Word)
  curvature : List (List Word)
  training : List (List Word)
  formats : List (Nat × Desc)
  kernels : List CodeE
  deriving DecidableEq, Repr

/-- A stage (R269 to R274). -/
structure Stage where
  op : Nat
  segment : Nat
  interleaved : Bool
  carrier : Nat
  strict : Bool
  work : Nat
  clusters : List Nat
  deriving DecidableEq, Repr

/-- A tensor's home: base, tier (0 HBM, 1 far, 2 tile, 3 stream), partition or 31, bytes (R291). -/
structure Home where
  base : Nat
  tier : Nat
  part : Nat
  bytes : Nat
  deriving DecidableEq, Repr

/-- A stretch of HBM that placement reserves for the curvature work: what it holds (see `Placement.area`), the block or the
region, the device address. -/
structure CurvArea where
  kind : Nat
  index : Nat
  base : Nat
  deriving DecidableEq, Repr

structure Placement where
  stages : List Stage
  homes : List Home
  segments : Nat
  /-- bit n: cluster n was fenced when the placement was made -/
  fenced : BitVec 384
  areas : List CurvArea
  /-- tile homes: tensor, cluster, tile offset (R282) -/
  tiles : List (Nat × Nat × Nat) := []
  /-- which of the placer's proposals keeps every rule (log entry 14) -/
  attempt : Nat := 0
  deriving DecidableEq, Repr

/-- The tile offset of a tensor on a cluster. -/
def Placement.tileAt (pl : Placement) (t c : Nat) : Nat :=
  ((pl.tiles.find? fun x => x.1 = t && x.2.1 = c).map (·.2.2)).getD 0

/-- Where curvature data lies. By block: 0 F, 1 Z, 5 the staging area, 6 V, 7 S. By region, for its largest block: 2 X, 3 M,
4 T, 8 U (R361, R362, R364, R366, R368, R370). -/
def Placement.area (pl : Placement) (kind i : Nat) : Nat :=
  ((pl.areas.find? fun a => a.kind = kind && a.index = i).map (·.base)).getD 0

/-- The stages of a cluster, by segment. -/
def Placement.stagesOn (pl : Placement) (c : Nat) : List Stage := pl.stages.filter (·.clusters.contains c)

/-- The stage that entry i of a cluster's task table belongs to. -/
def Placement.stageOf (pl : Placement) (key c i : Nat) : Option Stage :=
  let gs := pl.stagesOn c
  gs[Config.entryStage key c i % gs.length]?

/-- The loaded graph; its placement is absent after a failed re-placement (R289). -/
structure Graph where
  pkg : Package
  place : Option Placement
  deriving DecidableEq, Repr

/-- A placement that runs (R267, R288). -/
inductive Placing where
  /-- for a GRAPH_LOAD: port and tag of its completion, address of its image -/
  | load (port : HPort) (tag : BitVec 16) (addr : Nat)
  /-- after a fence -/
  | fence
  deriving DecidableEq, Repr

/-- The step that runs (R47, R272, R287). -/
structure StepRun where
  segment : Nat := 0
  /-- regions that have reported the open segment -/
  reported : List Rg := []
  /-- closing entries that have completed: cluster and segment -/
  closed : List (Nat × Nat) := []
  /-- an optimiser update of the step has committed; a fabric service has sent data -/
  updated : Bool := false
  sent : Bool := false
  /-- ticks at its start -/
  start : Nat := 0
  /-- CURVATURE entries due for roots in this step, and blocks whose computation was still in progress then (R372) -/
  due : List Nat := []
  busy : List Nat := []
  /-- statistics updates that have ended: CURVATURE entry and cluster (R362) -/
  statDone : List (Nat × Nat) := []
  /-- CURVATURE entries whose factors have been updated in this step (R364) -/
  factored : List Nat := []
  deriving DecidableEq, Repr

end Sys2Proof.Machine
end

