-- ==== Sys2Proof/Machine/StateNyala.lean ====
section
/-! DEFINITION. The state of the Nyala engines (09_nyala_solver_engine): problems, contexts, queued and running
calls. -/
namespace Sys2Proof.Machine

/-- An accepted multibody problem: its image, signature and dimensions (R298, R300, R304). -/
structure Problem where
  image : List Word
  signature : Word
  nv : Nat
  nq : Nat
  rows : Nat
  joints : Nat
  /-- the eight bound exponents of R310 in table order -/
  bounds : List Int
  deriving DecidableEq, Repr

/-- A load that waits for the step boundary (R302). -/
structure ProblemLoad where
  slot : Nat
  problem : Problem
  port : HPort
  tag : BitVec 16
  deriving DecidableEq, Repr

/-- A value of a context entry: a code of its class, 0x80000000 for NaR; or a value of the fallback path that is no code (R305, R316, R318; log
entry 147). -/
inductive CtxVal where
  | code (w : BitVec 32)
  | wide (x : Ex)
  deriving DecidableEq, Repr

/-- A context entry with the SIGNATURE that it holds (R303, R324). -/
structure CtxEntry where
  signature : Word
  values : List CtxVal
  deriving DecidableEq, Repr

/-- A context on one engine (R324): its signature, none while it is empty, and its entries by global instance index. -/
structure Ctx where
  signature : Option Word := none
  entries : SMap CtxEntry := []
  deriving DecidableEq, Repr

/-- A queued solver call (R31, R332). -/
structure SolverCall where
  cl : Cl
  entry : Nat
  /-- its deadline has passed in the queue (R321) -/
  expired : Bool := false
  deriving DecidableEq, Repr

/-- A forward record: STATUS, ITER, FALLBACK (R329). -/
structure FwdRec where
  status : Nat := 0
  iter : Nat := 0
  fallback : Bool := false
  deriving DecidableEq, Repr

/-- What the input transfer brings of one instance: its elements, and its forward record in adjoint mode (R329, R337). -/
structure InstIn where
  xs : List (Option Ex)
  fwd : FwdRec := {}
  deriving DecidableEq, Repr

/-- What one instance returns (R319, R323). -/
structure InstOut where
  status : Nat
  iter : Nat
  fallback : Bool := false
  warm : Bool := false
  nar : Bool := false
  refine : Nat := 0
  resMan : Nat := 0
  resScale : Nat := 0
  /-- its output coordinates, and the iterate kept for a context -/
  outs : List (Option Ex)
  iterate : List (Option Ex)
  cond : Cond := 0
  /-- a saturation moved it to the fallback path (R317) -/
  moved : Bool := false
  deriving DecidableEq, Repr

/-- Where the running call stands (R337). -/
inductive NyalaPhase where
  | input | compute | finished
  deriving DecidableEq, Repr

/-- The running call: its 64-byte command, the wave that computes or waits for its input, outcomes of the instances so
far. -/
structure NyalaRun where
  cl : Cl
  entry : Nat
  cmd : BitVec 512
  wave : Nat := 0
  phase : NyalaPhase := .input
  /-- inputs of the wave that computes, and of the next one where they have arrived meanwhile (R337) -/
  inputs : List InstIn := []
  ahead : Option (List InstIn) := none
  outs : List InstOut := []
  /-- instances whose waves have sent their outputs -/
  written : Nat := 0
  /-- the entries that its instances start from, where the signatures are equal; whether they differ (R325) -/
  warm : Option (SMap CtxEntry) := none
  discarded : Bool := false
  /-- ended by its deadline -/
  expired : Bool := false
  deriving DecidableEq, Repr

/-- What a call does to contexts and counters, held while the call is speculative (R333). -/
structure HeldWarm where
  cl : Cl
  entry : Nat
  /-- the context, where the call has one; it loses its entries first after a discard (R325) -/
  ctx : Option Nat := none
  signature : Word := 0
  /-- the context takes the signature and these entries (R326) -/
  update : Bool := false
  entries : List (Nat × List CtxVal) := []
  discard : Bool := false
  falls : Nat := 0
  deadline : Bool := false
  stat : BitVec 5 := 0
  deriving DecidableEq, Repr

/-- One engine. -/
structure Nyala where
  /-- slots installed on this engine (R302), contexts it serves -/
  slots : List Nat := []
  ctxs : SMap Ctx := []
  queue : List SolverCall := []
  run : Option NyalaRun := none
  held : List HeldWarm := []
  /-- SLV_STAT REFUSED, FALLBACK, DEADLINE, WARM_DISCARD, PARTIAL (R335) -/
  stat : BitVec 5 := 0
  errReason : BitVec 4 := 0
  errCluster : BitVec 9 := 0
  errEntry : BitVec 7 := 0
  used : BitVec 11 := 0
  context : BitVec 11 := 0
  dense : BitVec 11 := 0
  warmDiscard : BitVec 48 := 0
  fallback : BitVec 48 := 0
  deadline : BitVec 48 := 0
  calls : BitVec 48 := 0
  deriving DecidableEq, Repr

end Sys2Proof.Machine
end

