-- ==== Sys2Proof/Machine/StateTraining.lean ====
section
/-! DEFINITION. The state of the curvature work (10_training_and_curvature): Medlar units, blocks and staged roots. -/
namespace Sys2Proof.Machine

/-- A Newton computation, running or paused (R365 to R368). -/
structure Newton where
  block : Nat
  /-- iterations completed, and those of the current step -/
  iter : Nat := 0
  stepIters : Nat := 0
  /-- the code of the last iteration (R367) -/
  code : Nat := 0
  /-- false until Z has been normalised (R365) -/
  started : Bool := false
  paused : Bool := false
  deriving DecidableEq, Repr

/-- A matrix in the root store at 3 limbs: each SI block's scale code and elements, none for NaR (R369). -/
abbrev RootMat := List (Nat × List (Option Int))

/-- Jacobi work on a block (R369 to R371): what the root store holds, and how far the sweeps have come. -/
structure Jacobi where
  block : Nat
  n : Nat
  z : RootMat
  q : RootMat
  round : Nat := 0
  sweep : Nat := 0
  /-- converged: V stands in HBM, and the root GEMM runs in that step -/
  gemmStep : Option Nat := none
  deriving DecidableEq, Repr

/-- One Medlar unit. -/
structure Medlar where
  /-- CRV_STAT ROOT_FAIL, JACOBI, OVERRUN, STAT_NAR, DIVERGE (R378) -/
  stat : BitVec 5 := 0
  /-- CRV_ACTIVE BLOCK, ITER, DCODE (R378) -/
  block : BitVec 16 := 0
  iter : Byte := 0
  dcode : Byte := 0
  rootCnt : BitVec 48 := 0
  jacobiCnt : BitVec 48 := 0
  failCnt : BitVec 48 := 0
  overrunCnt : BitVec 48 := 0
  newton : Option Newton := none
  /-- blocks whose Z is formed and that wait, in ascending order (R363) -/
  todo : List Nat := []
  /-- DCODE of each cluster of the root group in this iteration (R367) -/
  codes : List (Nat × Nat) := []
  jacobi : Option Jacobi := none
  deriving DecidableEq, Repr

/-- CRV_BLK_b (R379). -/
structure CrvBlk where
  rootStep : BitVec 32 := 0xFFFFFFFF
  iters : Byte := 0
  jacobi : Bool := false
  lastFailed : Bool := false
  statsStep : BitVec 32 := 0xFFFFFFFF
  /-- on a module that does not own the block: it has been due, and no root has come since (log entry 132) -/
  awaited : Bool := false
  deriving DecidableEq, Repr

/-- A finished root in a staging area (R356, R373). -/
structure Staged where
  block : Nat
  /-- the step in which the block finished -/
  finished : Nat
  iters : Nat
  jacobi : Bool
  /-- formed on this module, to be distributed -/
  own : Bool
  deriving DecidableEq, Repr

end Sys2Proof.Machine
end

