-- ==== Sys2Proof/Machine/StateFabric.lean ====
section
/-! DEFINITION. The state of the Baswen fabric (12_baswen_fabric): packets, links, streams, services, epochs. -/
namespace Sys2Proof.Machine

/-- The states of a link, in the codes of FAB_PORT_STAT.LINK (R429, R468). -/
inductive LinkState where
  | down | training | up | remoteFenced
  deriving DecidableEq, Repr

/-- A packet that waits in a router as it was accepted: the input it came on (8 for injection) and the output it goes
to (R435); the local copy of a multicast has been taken (R448). -/
structure Waiting where
  input : Nat
  output : FPort
  packet : Packet
  /-- the input buffer that it stands in, by the order of acceptance -/
  slot : Nat := 0
  deriving DecidableEq, Repr

/-- A packet that a local endpoint has not yet taken: the input in whose buffer it stands, 8 where it stands in none, and the buffer
(R430, R445). -/
structure Delivered where
  packet : Packet
  input : Nat := 8
  slot : Nat := 0
  deriving DecidableEq, Repr

/-- One fabric port: its link, replay buffer, credits and counters (R425 to R430, R441, R468). -/
structure Port where
  link : LinkState := .down
  /-- FEC_MARGIN (R468) -/
  margin : BitVec 5 := 0
  /-- most symbols corrected in one codeword since the last health sample -/
  most : BitVec 5 := 0
  /-- number of the next new data packet -/
  txNext : BitVec 16 := 0
  /-- unacknowledged data packets, oldest first -/
  replay : List Packet := []
  /-- how many at the end of the replay buffer are to be resent (R428) -/
  resend : Nat := 0
  /-- CREDITS last received, and packets sent of each class since link-up (R427) -/
  credits : Vector Byte 8 := Vector.replicate 8 0
  used : Vector Nat 8 := Vector.replicate 8 0
  /-- the packet that the last NAK named and how many consecutive ones named it (R429) -/
  nakSeq : BitVec 16 := 0
  nakRun : Nat := 0
  /-- number of the data packet expected next, and whether packets are discarded until it comes (R428) -/
  rxNext : BitVec 16 := 0
  discard : Bool := false
  /-- buffers of each class freed since link-up, modulo 256 -/
  freed : Vector Byte 8 := Vector.replicate 8 0
  /-- data packets received since the last link-control packet was sent -/
  sinceCtl : Nat := 0
  /-- slots since the last link-control packet, up to 64 (R426) -/
  ctlSlots : Nat := 64
  /-- round-robin positions: among VCs, and within each VC (R441) -/
  rrVc : Nat := 0
  rr : Vector Nat 4 := Vector.replicate 4 0
  /-- the last packet put on the wire, and the last link-control packet sent -/
  wire : Option Packet := none
  control : Option Packet := none
  retry : BitVec 48 := 0
  fecCorr : BitVec 48 := 0
  fecUncorr : BitVec 48 := 0
  tx : BitVec 48 := 0
  rx : BitVec 48 := 0
  down : BitVec 48 := 0
  /-- cage supply cut until a module reset (R623) -/
  cageCut : Bool := false
  /-- STL_FAB_p_v (R607) -/
  stl : Vector (BitVec 48) 4 := Vector.replicate 4 0
  deriving DecidableEq, Repr

/-- Where the bytes of a stream come from: bytes held by the service itself, with the places of those that an
uncorrectable sector gave (R457), or a range of device memory. -/
inductive Piece where
  | bytes (b : List Byte) (bad : List Nat := [])
  | memory (addr len : Nat)
  deriving DecidableEq, Repr

/-- The payload of a DESC (R454). -/
structure DescF where
  service : Nat
  relay : Bool := false
  first : Bool := false
  root : Bool := false
  rootCount : Nat := 0
  target : Nat := 0
  offset : Nat := 0
  bytes : Nat := 0
  step : Nat := 0
  packageId : BitVec 32 := 0
  deriving DecidableEq, Repr

/-- A stream being sent (R454 to R456). -/
structure TxStream where
  id : Nat
  run : Nat
  vc : Nat
  epoch : Bool
  dest : BitVec 24
  /-- multicast dimension and direction (R448) -/
  mc : Option (Nat × Bool) := none
  desc : DescF
  src : List Piece
  /-- data packets in the stream, the next SEQ to inject (0 is the DESC), and the SEQ below which each receiver has
  written everything -/
  total : Nat
  next : Nat := 0
  acked : List (BitVec 24 × Nat) := []
  /-- destinations that still have to acknowledge -/
  waits : List (BitVec 24) := []
  resent : Bool := false
  /-- destinations that have made ACK progress since the last stall (R456) -/
  heard : List (BitVec 24) := []
  /-- a unicast of R451: beyond a cut, or in place of a relay -/
  repair : Bool := false
  cut : Option (BitVec 24) := none
  poisoned : Bool := false
  deriving DecidableEq, Repr

/-- A stream being received. -/
structure RxStream where
  src : BitVec 24
  id : Nat
  desc : DescF
  /-- data packets written so far; the next SEQ expected -/
  next : Nat := 1
  /-- received whole once, and its effect taken: what is resent is only written again -/
  whole : Bool := false
  /-- data packets that came poisoned -/
  bad : List Nat := []
  /-- where a stream of a reduction lands in the HBM service area (R391, R459) -/
  base : Nat := 0
  /-- bytes held by the service: a list of roots -/
  held : SMap Byte := []
  deriving DecidableEq, Repr

/-- One shard of a reduction: its owner's rank, its first element, and this module's partial of it (R459). -/
structure Shard where
  owner : Nat
  first : Nat
  partials : List Byte
  /-- poisoned elements; bytes received and combined in the dimension that the run stands in -/
  poison : List Nat := []
  got : Nat := 0
  deriving DecidableEq, Repr

/-- A stream that has been fully received into the service area, for a reduction that has not used it (R459). -/
structure Landed where
  src : BitVec 24
  desc : DescF
  base : Nat
  /-- data packets that came poisoned -/
  bad : List Nat
  deriving DecidableEq, Repr

/-- A distribution stream that has arrived: its sender and step, the tensor or the block, the elements of the tensor,
the roots that it announces. -/
structure Arrival where
  src : BitVec 24
  step : Nat
  root : Bool
  target : Nat
  elems : Nat
  /-- the number of roots that its header lists, of a distribution's first stream (R356) -/
  roots : Option Nat
  deriving DecidableEq, Repr

/-- What a service run does (R458). -/
inductive RunKind where
  /-- service 1 of an operation, service 3 of a block: the dimension it stands in, chunks received in it -/
  | reduce (op : Nat) (dim : Nat) (shards : List Shard)
  | factor (block : Nat) (dim : Nat) (shards : List Shard)
  /-- a reduction whose sum is formed and whose streams still go out -/
  | drain
  | distribute (op : Nat)
  /-- the line of a RELAY stream, whose final ACK to the sender waits (R453) -/
  | relay (src : BitVec 24) (id : Nat)
  | snapshot (header : Bool)
  /-- a FILL_SEND: its command and the bytes it sends (R489) -/
  | fill (kind : Nat) (port : HPort) (tag : BitVec 16) (bytes : Nat)
  deriving DecidableEq, Repr

/-- A service run on the module that sends it. -/
structure SRun where
  id : Nat
  kind : RunKind
  step : Nat
  /-- streams that wait for their output port (R451) -/
  queue : List TxStream := []
  /-- destinations skipped, with the TARGET they missed (R451, R452) -/
  skipped : List (BitVec 24 × Nat) := []
  cuts : Nat := 0
  partly : Bool := false
  /-- a factor reduction whose sum the owner does not use: the block was at work when it fell due (R372) -/
  unused : Bool := false
  deriving DecidableEq, Repr

/-- The initiator's epoch switch (R444). -/
inductive EpochPhase where
  | prepare | switching | polling | releasing
  deriving DecidableEq, Repr

structure EpochRun where
  gen : BitVec 16
  phase : EpochPhase := .prepare
  /-- modules that have answered in this phase or round -/
  answered : List (BitVec 24) := []
  round : Nat := 0
  /-- DRAIN and PASSED of this round and of the one before, by module -/
  now : List (BitVec 24 × Nat × Nat) := []
  before : List (BitVec 24 × Nat × Nat) := []
  timedOut : Bool := false
  deriving DecidableEq, Repr

/-- A verification run (R463): on the restored module the peer, and the command that waits. -/
structure Verify where
  port : HPort
  tag : BitVec 16
  peer : BitVec 24
  step : Nat
  chunks : Nat
  sent : Nat := 0
  compared : Nat := 0
  mismatch : Option Nat := none
  deriving DecidableEq, Repr

/-- The module's part of the fabric (R467). -/
structure Fabric where
  replica : Bool := false
  x : BitVec 5 := 0
  y : BitVec 5 := 0
  z : BitVec 4 := 0
  valid : Bool := false
  xn : BitVec 6 := 0
  yn : BitVec 6 := 0
  zn : BitVec 5 := 0
  mirror : Bool := false
  dateline : Byte := 0
  ep : Bool := true
  rtr : Bool := false
  cur : Bool := false
  epochState : BitVec 3 := 0
  activeGen : BitVec 16 := 0
  standbyGen : BitVec 16 := 0
  standbyLoaded : Bool := false
  /-- the generation READY was given for (R444) -/
  readyFor : Option (BitVec 16) := none
  /-- a SWITCH that waits for the next safe point, with the sender and message number of its reply (R444) -/
  switchDue : Option (BitVec 24 × BitVec 24) := none
  passed : Vector (BitVec 32) 2 := Vector.replicate 2 0
  stat : BitVec 12 := 0
  noroute : BitVec 48 := 0
  fencedDrop : BitVec 48 := 0
  cutCnt : BitVec 48 := 0
  resendCnt : BitVec 48 := 0
  /-- route banks: table bytes by offset (R469) -/
  banks : Vector (SMap Byte) 2 := Vector.replicate 2 []
  ports : Vector Port 8 := Vector.replicate 8 {}
  /-- packets that wait for an output, in the order of acceptance -/
  waiting : List Waiting := []
  /-- packets delivered to a local endpoint and not yet taken -/
  inbox : List Delivered := []
  /-- packets accepted so far: the next one's buffer -/
  accepted : Nat := 0
  tx : List TxStream := []
  rx : List RxStream := []
  landed : List Landed := []
  runs : List SRun := []
  nextRun : Nat := 0
  nextStream : Nat := 0
  /-- distribution streams received whole (R355, R356, R461) -/
  arrivals : List Arrival := []
  /-- status of the last distribution that completed: DONE, DONE_PARTIAL or MCAST_CUT (R451, R457) -/
  distStatus : Byte := 0
  /-- 1 ms has passed without a heartbeat, and none has come since (R466) -/
  partnerLost : Bool := false
  epoch : Option EpochRun := none
  verify : Option Verify := none
  deriving DecidableEq, Repr

end Sys2Proof.Machine
end

