-- ==== Sys2Proof/Machine/StateHost.lean ====
section
/-! DEFINITION. The state of health, snapshots, host ports, boot, security, power and performance monitoring
(chapters 13 to 18). -/
namespace Sys2Proof.Machine

/-! ### Health, snapshots, restore (13_failure_survival) -/

/-- The history entry of one health sample: the rise of each input (R478). -/
structure Sample where
  ce : Nat := 0
  ue : Nat := 0
  farCe : Nat := 0
  retries : Nat := 0
  thermal : Nat := 0
  timeouts : Nat := 0
  deriving DecidableEq, Repr

/-- A threshold-log entry (R479). -/
structure LevelLog where
  level : BitVec 2
  score : Byte
  sample : Nat
  deriving DecidableEq, Repr

/-- HLT_SNAP_STAT.PHASE (R494). -/
inductive SnapPhase where
  | idle | freeze | send | mirror
  deriving DecidableEq, Repr

/-- A snapshot in progress (R481). -/
structure Snap where
  seq : Nat
  step : Nat
  midstep : Bool
  /-- the mirror is required (R482), the image was poisoned -/
  mirror : Bool
  poisoned : Bool := false
  /-- it had a send phase (R481) -/
  sent : Bool := false
  deriving DecidableEq, Repr

/-- A host's mirror buffer (R482). -/
structure MirrorBuf where
  port : HPort
  addr : Word
  len : Nat
  deriving DecidableEq, Repr

/-- A snapshot slot of the partner's images (R483). -/
structure Slot where
  step : BitVec 48 := 0
  valid : Bool := false
  seq : BitVec 32 := 0
  deriving DecidableEq, Repr

structure Health where
  pairEn : Bool := false
  pairState : BitVec 3 := 0
  strap : Byte := 0
  feedOvr : BitVec 48 := 0
  feedOvrValid : Bool := false
  peerFeed : BitVec 48 := 0
  peerRisk : Byte := 0
  peerState : BitVec 3 := 0
  score : Byte := 0
  level : BitVec 2 := 0
  t1 : Byte := 64
  t2 : Byte := 128
  t3 : Byte := 192
  points : Vector Byte 10 := Vector.replicate 10 0
  maxSteps : BitVec 16 := 16
  mirrorEvery : BitVec 16 := 8
  phase : SnapPhase := .idle
  /-- ABORTED, DEFER, MIRROR_MISSED, TOO_BIG, POISONED -/
  snapStat : BitVec 5 := 0
  lastStep : BitVec 48 := 0
  lastValid : Bool := false
  committed : BitVec 32 := 0
  mirrored : BitVec 32 := 0
  slotA : Slot := {}
  slotB : Slot := {}
  privBytes : BitVec 48 := 0
  rcv : BitVec 3 := 0
  sharedDone : Bool := false
  privateDone : Bool := false
  lastStatus : BitVec 16 := 0
  rcvStep : BitVec 48 := 0
  snapCnt : BitVec 48 := 0
  mirrorCnt : BitVec 48 := 0
  t3Cnt : BitVec 48 := 0
  fillAbortCnt : BitVec 48 := 0
  /-- newest sample first, at most 1,024; samples taken so far; newest log entry first, at most 256 -/
  window : List Sample := []
  samples : Nat := 0
  log : List LevelLog := []
  /-- rises of the inputs since the last sample, kept apart from the clearable counters (R612) -/
  rise : Sample := {}
  /-- level 2 and level 3 actions are armed; a level 2 action is pending -/
  armed2 : Bool := true
  armed3 : Bool := true
  pending2 : Bool := false
  /-- level 3 freeze that waits for the task boundary (R486) -/
  freeze3 : Bool := false
  cursor : Vector Word 64 := Vector.replicate 64 0
  seq : Nat := 0
  snap : Option Snap := none
  /-- SNAP_NOWs: port, tag, and the sequence number they ride on once the snapshot has begun -/
  snapNow : List (HPort × BitVec 16 × Option Nat) := []
  mirrors : List MirrorBuf := []
  /-- no committed snapshot counts since the pairing (R477) -/
  fresh : Bool := true
  /-- a RESTORE_PRIVATE_HOST in progress -/
  privateHost : Option (HPort × BitVec 16 × Nat) := none
  /-- the slot that a service-4 snapshot is being written into: A false, B true (R483) -/
  receiving : Option Bool := none
  /-- elements of PERSIST tensors received by a shared fill: tensor and count; bytes of a private fill (R489) -/
  filled : List (Nat × Nat) := []
  /-- where the fills of this restore come from: service 5 or 6, source (R490) -/
  fillFrom : List (Nat × BitVec 24) := []
  /-- a due snapshot was deferred (R480) -/
  deferred : Bool := false
  privateGot : Nat := 0
  deriving DecidableEq, Repr

/-! ### Host ports (14_host_ports_and_mailboxes) -/

/-- A framed command that waits to be started. `id` is the number that the module itself knows it by, unique among the
commands of its port that go on (log entry 33). -/
structure Arrived where
  id : BitVec 16 := 0
  cls : Byte
  op : Byte
  tag : BitVec 16
  flags : BitVec 16
  words : List Word
  deriving DecidableEq, Repr

/-- An outstanding command (R508). -/
structure OutCmd where
  id : BitVec 16
  tag : BitVec 16
  cls : Byte
  op : Byte
  notify : Bool
  deriving DecidableEq, Repr

/-- How the inbound words are framed (R505, R506). -/
inductive Frame where
  | header
  /-- the header, the number of its command unless it was refused at once, and the words received of it -/
  | words (head : Word) (id : Option (BitVec 16)) (got : List Word)
  /-- after an overflow: every word is dropped until RESYNC -/
  | dropping
  deriving DecidableEq, Repr

inductive HostState where
  | absent | present | lost
  deriving DecidableEq, Repr

/-- A DMA_COPY that runs or waits for an engine (R519). -/
structure Copy where
  tag : BitVec 16
  host : Word
  device : Nat
  len : Nat
  read : Bool
  deriving DecidableEq, Repr

/-- How a host read completes: its bytes, poisoned (R503), or Unsupported Request (R503). -/
structure HostRead where
  data : List Byte := []
  poisoned : Bool := false
  unsupported : Bool := false
  deriving DecidableEq, Repr

/-- A window access that waits for the HBM fill (R418): its device address and what it moves. -/
inductive WinReq where
  | read (addr len : Nat)
  | write (addr : Nat) (data : List (Option Byte))
  deriving DecidableEq, Repr

structure HostPort where
  fifo : List Word := []
  frame : Frame := .header
  ready : List Arrived := []
  out : List Word := []
  /-- completions held back while the outbound stream is full (R509), with the number of the command that a final one
  ends -/
  held : List (Option (BitVec 16) × List Word) := []
  outstanding : List OutCmd := []
  stat : BitVec 6 := 0
  winBase : BitVec 18 := 0
  host : HostState := .absent
  /-- EVT_MASK: bit c set = code c masked (R532) -/
  evtMask : BitVec 256 := 8
  /-- vectors armed, unmasked event since vector 1 last fired, interrupts sent by vector (R500) -/
  armed : BitVec 4 := 0xF
  eventSince : Bool := false
  fired : Vector Nat 4 := Vector.replicate 4 0
  msix : Vector (BitVec 128) 4 := Vector.replicate 4 (1#128 <<< 96)
  /-- the pending-bit array of R499 -/
  pba : BitVec 4 := 0
  /-- what the last read at the port completed with -/
  reply : HostRead := {}
  /-- window accesses that wait for the fill, in order of arrival (R418) -/
  winWaits : List WinReq := []
  /-- DMA_COPYs in order of arrival; the first four run -/
  copies : List Copy := []
  /-- the link runs at the rate of R552 and not at up to 16 GT/s; PERST# asserted (R622) -/
  fullRate : Bool := true
  perst : Bool := false
  /-- commands that go on after a port reset and whose completions are discarded (R537) -/
  orphans : List OutCmd := []
  deriving DecidableEq, Repr

/-- One staged CFG_SET word (R521). -/
structure StagedWord where
  addr : Nat
  value : Word
  deriving DecidableEq, Repr

structure Txn where
  owner : HPort
  staged : List StagedWord := []
  /-- committing: the tag of its CFG_COMMIT, and whether the interim completion has been posted -/
  commit : Option (BitVec 16) := none
  deriving DecidableEq, Repr

/-- An event record (R528). -/
structure EventRec where
  seq : Word
  d1 : Word := 0
  d2 : Word := 0
  d3 : Word := 0
  d4 : Word := 0
  d5 : Word := 0
  code : BitVec 16
  status : BitVec 16 := 0
  kind : Byte := 0
  index : BitVec 16 := 0
  ticks : BitVec 48
  island : Byte
  deriving DecidableEq, Repr

/-- An outstanding STEP_RUN: steps it still waits for (R517). -/
structure StepWait where
  port : HPort
  tag : BitVec 16
  left : Nat
  deriving DecidableEq, Repr

/-- A QUIESCE or another command that waits for the boundary. -/
structure BoundaryWait where
  port : HPort
  tag : BitVec 16
  immediate : Bool := false
  deriving DecidableEq, Repr

/-! ### Boot and security (15_boot_firmware_security) -/

inductive Boot where
  | rom | load | init | ready | recovery
  deriving DecidableEq, Repr

/-- A flash bank: its written bytes by 2^25 × kind + offset; an unwritten byte reads 0xFF, or, in a bank that still
holds what the maker put there, is a free value (R541, R555; log entry 9). -/
structure Bank where
  images : SMap Byte := []
  factory : Bool := false
  deriving DecidableEq, Repr

/-- The challenge record (R564). -/
structure Challenge where
  nonce : BitVec 256
  resets : Byte := 0
  fails : BitVec 3 := 0
  deriving DecidableEq, Repr

/-- A boot log record (R570). -/
structure BootRec where
  number : Nat
  state : Nat
  bank : Nat
  kind : Nat
  reason : Nat
  status : Nat
  cnt : Nat
  deriving DecidableEq, Repr

structure FwSession where
  owner : HPort
  bank : Bool
  deriving DecidableEq, Repr

structure Security where
  boot : Boot := .ready
  /-- running bank: none, A = false, B = true -/
  bank : Option Bool := none
  /-- the bank of the boot attempt under way (R550) -/
  trying : Option Bool := none
  preferred : Bool := false
  bootable : Vector Bool 2 := Vector.replicate 2 false
  cnt : Vector Byte 2 := Vector.replicate 2 0
  pendingSvn : Vector Bool 2 := Vector.replicate 2 false
  oneShot : Option Bool := none
  banks : Vector Bank 2 := Vector.replicate 2 {}
  /-- fused: security version, revoke bits of image slots 0 to 3 and debug slots 0 and 1 -/
  svn : Nat := 0
  revoked : BitVec 6 := 0
  /-- the fused version that the attestation keys were derived with (R559) -/
  keySvn : Nat := 0
  featureLevel : BitVec 16 := 0
  session : Option FwSession := none
  debugOpen : BitVec 16 := 0
  sinceBoot : BitVec 16 := 0
  challenge : Option Challenge := none
  reports : Nat := 0
  bootLog : List BootRec := []
  bootCount : Nat := 0
  /-- a MODULE_RESET that waits (R571); EXT_RST_N held (R626) -/
  resetDue : Bool := false
  extHeld : Bool := false
  deriving DecidableEq, Repr

/-! ### Power, islands (16_power_clocks_resets) -/

/-- PWR_STAT.STATE (R600). -/
inductive PState where
  | a0 | a1 | a2 | a3
  deriving DecidableEq, Repr

/-- A power transition (R587): its target, whether it stays at once, the command, the outcome of a step cut short. -/
structure Transition where
  target : PState
  immediate : Bool
  port : HPort
  tag : BitVec 16
  /-- step 5 has begun: domains switch -/
  entered : Bool := false
  outcome : Nat := 0
  deriving DecidableEq, Repr

/-- A compute reset in progress (R591). -/
structure CReset where
  port : HPort
  tag : BitVec 16
  /-- step 4 has begun: regions restart -/
  entered : Bool := false
  stopped : Nat := 0
  deriving DecidableEq, Repr

structure Island where
  running : Bool := true
  powered : Bool := true
  timeouts : Byte := 0
  ticks : BitVec 48 := 0
  deriving DecidableEq, Repr

structure Power where
  off : Bool := false
  state : PState := .a0
  transition : Option Transition := none
  creset : Option CReset := none
  level : BitVec 4 := 0
  domains : BitVec 50 := BitVec.allOnes 50
  retention : BitVec 50 := 0
  fabOff : Byte := 0
  capW : BitVec 12 := 3200
  inputMv : BitVec 16 := 0
  inputW : BitVec 16 := 0
  tjMax : Byte := 0
  thrCnt : BitVec 48 := 0
  droopCnt : BitVec 48 := 0
  /-- PWR_COOLANT (R630) -/
  coolant : Word := 0
  leak : Bool := false
  islands : Vector Island 100 := Vector.replicate 100 {}
  /-- crossings with a first timeout and the sender's ticks at it, and dead ones (R580): sender, receiver -/
  retried : List (Fin 100 × Fin 100 × BitVec 48) := []
  dead : List (Fin 100 × Fin 100) := []
  /-- samples since the last rise of the level, at most 10 (R596) -/
  sinceRise : Nat := 10
  /-- droop stretches of each region since the last sample (R597) -/
  droops : Vector Nat 24 := Vector.replicate 24 0
  rstCause : BitVec 3 := 1
  rstComputeCnt : BitVec 48 := 0
  /-- a leak trip has been taken and holds until a dry sample after a reset (R621) -/
  leakHeld : Bool := false
  deriving DecidableEq, Repr

/-! ### Performance monitoring (17_performance_monitoring) -/

/-- One phase timer (R608, R609). -/
structure Phase where
  /-- sources that report the phase active -/
  sources : Nat := 0
  last : BitVec 48 := 0
  total : BitVec 48 := 0
  start : BitVec 48 := BitVec.allOnes 48
  stop : BitVec 48 := BitVec.allOnes 48
  /-- of the running interval: active ticks, first and last active tick as offsets -/
  active : Nat := 0
  first : Option Nat := none
  latest : Nat := 0
  deriving DecidableEq, Repr

structure Perf where
  stepLast : BitVec 48 := 0
  stepNum : BitVec 48 := 0
  stepTotal : BitVec 48 := 0
  stepCnt : BitVec 48 := 0
  phases : Vector Phase 7 := Vector.replicate 7 {}
  /-- Markhor ticks of the running interval -/
  interval : Option Nat := none
  /-- boundary copy: its step, and every counter register that was not 0, by address (R610) -/
  copy : Option (Nat × SMap Word) := none
  /-- STL_SV_e_c: 16 engines by 16 slots -/
  sv : Vector (BitVec 48) 256 := Vector.replicate 256 0
  deriving DecidableEq, Repr

end Sys2Proof.Machine
end

