-- ==== Sys2Proof/Machine/State.lean ====
section
/-! DEFINITION. The whole state of the module as plain data, and its value right after reset.

Every field names the rule that gives it; the unit structures stand in the State* files beside this one. -/
namespace Sys2Proof.Machine

/-- A stretch of memory made zero or undefined as a whole (R245, R388, R418, R593): `nonce` none for zeros, else the
number that the free bytes of the stretch are drawn with (log entry 2). -/
structure Fill where
  base : Nat
  len : Nat
  nonce : Option Nat
  deriving DecidableEq, Repr

/-- What memory holds: bytes written one by one in canonical form (log entry 3), stretches filled as a whole, newest
first, and the HBM sectors that are uncorrectable (R413). -/
structure Memory where
  cells : List Host.Cell := []
  fills : List Fill := []
  ue : List Nat := []
  deriving DecidableEq, Repr

/-- The global memory registers and the format-descriptor table (R104, R422). -/
structure MemGlobal where
  hbmStripe : BitVec 6 := 32
  farStripe : BitVec 9 := 320
  snap : BitVec 10 := 64
  hostRate : BitVec 11 := 64
  svcRate : BitVec 11 := 128
  hostBurst : BitVec 11 := 64
  svcBurst : BitVec 11 := 256
  noTarget : Bool := false
  selfRefresh : Bool := false
  notgtAddr : BitVec 48 := 0
  /-- descriptors 0x20 to 0x3F; the lower ones are the constants of R89 -/
  custom : Vector Desc 32 := Vector.replicate 32 0
  deriving DecidableEq, Repr

/-- A region: guards, held work, Nyala, Medlar (R242 to R257; chapters 09 and 10). -/
structure Region where
  guards : Vector Guard 64 := Vector.replicate 64 {}
  hold : List HSector := []
  held : List Held := []
  peak : BitVec 14 := 0
  guardErr : Bool := false
  /-- dispatch order of the region's next firing (R246) -/
  order : Nat := 0
  /-- the cluster served last, and of each cluster the engine served last, for the round-robin of R396; the first turn is free
  in the spec (log entry 149) -/
  rr : Nat := 15
  rrEngine : Vector Nat 16 := Vector.replicate 16 3
  /-- grants of the region so far: the model's own count, by which its requests are older or newer (R401) -/
  granted : Nat := 0
  nyala : Nyala := {}
  medlar : Medlar := {}
  /-- STL_RG_e_c: 3 engines by 16 slots (R607) -/
  stl : Vector (BitVec 48) 48 := Vector.replicate 48 0
  deriving DecidableEq, Repr

/-- Graph, steps, curvature control and solver problems of the module (chapters 08, 09, 10; R517). -/
structure Run where
  graph : Option Graph := none
  placementId : BitVec 32 := 0
  placing : Option Placing := none
  budget : BitVec 32 := 0
  step : Option StepRun := none
  /-- the next step is one that runs again (R287) -/
  rerun : Bool := false
  /-- a step has completed since the last graph load or compute reset -/
  stepped : Bool := false
  waits : List StepWait := []
  quiescing : List BoundaryWait := []
  /-- a quiesce has stopped dispatch (R252); it ends when a step starts -/
  stopped : Bool := false
  /-- the quiesce waits for firings to end -/
  stopping : Bool := false
  /-- contents that the step needs are lost (R290) -/
  lost : Bool := false
  /-- what became of the step that the last quiesce stopped: 0 none, 1 RERUN, 2 RESTORE_REQUIRED (R287) -/
  outcome : Nat := 0
  /-- fences that no event has reported yet: cluster and reason -/
  fences : List (Cl × Nat) := []
  /-- guard resolutions that wait for the end of a level 3 freeze (R486) -/
  deferred : List (Rg × Nat × Bool) := []
  /-- dispatch has stopped for a level 3 freeze (R486) -/
  paused : Bool := false
  /-- CRV_STEP, CRV_CFG (R377) -/
  crvStep : BitVec 48 := 0
  statsEn : Bool := true
  rootsEn : Bool := true
  jacobiEn : Bool := true
  forcePending : Bool := false
  itersOverride : BitVec 6 := 0
  crvBlk : SMap CrvBlk := []
  staged : List Staged := []
  /-- entries with TRIGGER = 1 that have completed in this step: cluster and entry (R349, R354) -/
  triggered : List (Nat × Nat) := []
  /-- services started in this step: operation, or 65,536 + block -/
  started : List Nat := []
  /-- installed problems by slot, and loads that wait for the boundary (R302) -/
  problems : SMap Problem := []
  loads : List ProblemLoad := []
  /-- SLV_CONTEXT_CLEARs that wait for the boundary: port, tag, context (R327) -/
  clears : List (HPort × BitVec 16 × Nat) := []
  deriving DecidableEq, Repr

/-- The module. -/
structure State where
  /-- the waiting commands, first in, first out: the model's own field -/
  pending : List Instr := []
  /-- the counter that free values are drawn with: the model's own field (log entry 1) -/
  nonce : Nat := 0
  mem : Memory := {}
  glob : MemGlobal := {}
  parts : Vector Part 16 := Vector.replicate 16 {}
  /-- memory requests, oldest first; those accepted by a sorter stand in acceptance order (R395 to R402) -/
  reqs : List MReq := []
  cls : Vector Cluster 384 := Vector.replicate 384 {}
  rgs : Vector Region 24 := Vector.replicate 24 {}
  flights : List Flight := []
  run : Run := {}
  fab : Fabric := {}
  hlt : Health := {}
  ports : Vector HostPort 2 := Vector.replicate 2 {}
  txn : Option Txn := none
  /-- event records, newest first, and the next EVT_SEQ (R527) -/
  events : List EventRec := []
  evtSeq : Word := 1
  sec : Security := {}
  pwr : Power := {}
  perf : Perf := {}
  /-- the persistent fault record's fenced clusters, and its count of symbol erasures (R28, R412) -/
  fenced : List Cl := []
  erasures : Nat := 0
  /-- ADDR of the debug window (R629) -/
  debugAddr : Word := 0
  /-- what the last DATA access moved; none when it was not acknowledged (R629) -/
  debugReply : Option Word := none
  deriving DecidableEq, Repr

/-- Why a step stops with a fault: no command stops, so there is no reason. -/
inductive Fault where
  deriving DecidableEq, Repr

/-- Why a command has no meaning. -/
inductive Refusal where
  /-- Raised by exec for a row without a meaning yet. Safe. -/
  | notModelled (mnemonic : String)
  deriving DecidableEq, Repr

/-- What a command answers. -/
abbrev Res := Host.Outcome State Fault Refusal

/-- The module in READY and A0 after a power-on reset and its boot from bank A: log entries 4 to 10 name the values that
the spec does not give. -/
def State.reset : State :=
  { sec :=
      { bank := some false, bootable := ⟨#[true, false], rfl⟩, banks := ⟨#[{ factory := true }, {}], rfl⟩, bootCount := 1
        bootLog := [{ number := 1, state := 3, bank := 1, kind := 0, reason := 0, status := 0, cnt := 1 }] }
    events := [{ seq := 1, d1 := 0x101, code := 0xC0, kind := 6, ticks := 0, island := 96 }]
    evtSeq := 2 }

end Sys2Proof.Machine
end

