-- ==== Sys2Proof/Machine/Memory.lean ====
section
/-! DEFINITION. Memory: the address ranges of R384, the decode of R389 and R390, and reads and writes of bytes that
keep the canonical form. -/
namespace Sys2Proof.Machine

/-! ### Bytes -/

/-- The fill that covers an address, if any. -/
def fillAt : List Fill → Nat → Option Fill
  | [], _ => none
  | f :: fs, a => if f.base ≤ a ∧ a < f.base + f.len then some f else fillAt fs a

/-- What an unlisted address reads as: zero, or the free byte of an undefined stretch (log entries 2 and 3). -/
def unlisted (fs : List Fill) (a : Nat) : Byte :=
  match fillAt fs a with
  | some ⟨_, _, some n⟩ => (Config.freeWord n a).truncate 8
  | _ => 0

/-- The byte that a list of cells gives an address. -/
def cellGet (unl : Nat → Byte) : List Host.Cell → Nat → Byte
  | [], a => unl a
  | (b, v) :: m, a => if a = b then v else if a < b then unl a else cellGet unl m a

/-- A cell written; the value of an unlisted address removes the entry. -/
def cellPut (unl : Nat → Byte) : List Host.Cell → Nat → Byte → List Host.Cell
  | [], a, x => if x = unl a then [] else [(a, x)]
  | (b, v) :: m, a, x =>
    if a < b then (if x = unl a then (b, v) :: m else (a, x) :: (b, v) :: m)
    else if a = b then (if x = unl a then m else (a, x) :: m)
    else (b, v) :: cellPut unl m a x

/-- Addresses strictly rising from lo on, and no entry equal to what an unlisted address reads as. -/
def cellsWf (unl : Nat → Byte) : Nat → List Host.Cell → Bool
  | _, [] => true
  | lo, (b, v) :: m => decide (lo ≤ b) && decide (v ≠ unl b) && cellsWf unl (b + 1) m

/-- The canonical form of memory. -/
def Memory.wf (m : Memory) : Bool := cellsWf (unlisted m.fills) 0 m.cells

/-- The byte at an address. -/
def Memory.get (m : Memory) (a : Nat) : Byte := cellGet (unlisted m.fills) m.cells a

/-- Memory with one byte written. -/
def Memory.set (m : Memory) (a : Nat) (v : Byte) : Memory := { m with cells := cellPut (unlisted m.fills) m.cells a v }

/-- Memory with masked bytes written in order. -/
def Memory.write (m : Memory) (ws : List WByte) : Memory := ws.foldl (fun m w => m.set w.addr (w.apply (m.get w.addr))) m

/-- A stretch filled as a whole: its cells go, and its uncorrectable sectors end. -/
def Memory.fill (m : Memory) (base len : Nat) (nonce : Option Nat) : Memory :=
  let outside := fun a => decide (a < base) || decide (base + len ≤ a)
  let old := m.fills.filter fun f => !(decide (base ≤ f.base) && decide (f.base + f.len ≤ base + len))
  { cells := m.cells.filter fun c => outside c.1
    fills := if old = [] ∧ nonce = none then [] else { base := base, len := len, nonce := nonce } :: old
    ue := m.ue.filter fun n => outside (32 * n) }

/-! ### Address map (R384 to R391) -/

/-- The ranges of R384. -/
inductive Range where
  | none | hbm | far | tile (n : Nat) | regs
  deriving DecidableEq, Repr

def hbmEnd : Nat := 0x9000000000
def farBase : Nat := 0x10000000000
def farEnd : Nat := 0x28000000000
def tileWindows : Nat := 0xF00000000000
def tileStep : Nat := 0x800000
def regsBase : Nat := 0xFF0000000000
def gib : Nat := 0x40000000

def rangeOf (a : Nat) : Range :=
  if a < hbmEnd then .hbm
  else if a < farBase then .none
  else if a < farEnd then .far
  else if a < tileWindows then .none
  else if a < tileWindows + 384 * tileStep then
    (if (a - tileWindows) % tileStep < tileSize then .tile ((a - tileWindows) / tileStep) else .none)
  else if a < regsBase then .none
  else if a < 2 ^ 48 then .regs
  else .none
where tileSize : Nat := 0x600000

/-- Tile offset 0 of a cluster in the device address map. -/
def tileBase (n : Nat) : Nat := tileWindows + n * tileStep

/-- The partition and partition offset of an address of a tier (R389): partitions, striped GiB of each, GiB of each. -/
def stripeOf (parts striped size a : Nat) : Nat × Nat :=
  if a < parts * striped * gib then
    let u := a / 4096
    (u % parts, u / parts * 4096 + a % 4096)
  else
    let b := a - parts * striped * gib
    (b / ((size - striped) * gib), striped * gib + b % ((size - striped) * gib))

/-- The partition, 0 to 15, and the partition offset of an HBM or far-tier address (R389). -/
def partitionOf (g : MemGlobal) (a : Nat) : Option (Nat × Nat) :=
  match rangeOf a with
  | .hbm => some (stripeOf 12 g.hbmStripe.toNat 48 a)
  | .far =>
    let (p, o) := stripeOf 4 g.farStripe.toNat 384 (a - farBase)
    some (12 + p, o)
  | _ => none

/-- The device address of a partition offset, the inverse of R389. -/
def unstripe (parts striped size p o : Nat) : Nat :=
  if o < striped * gib then (o / 4096 * parts + p) * 4096 + o % 4096
  else parts * striped * gib + p * ((size - striped) * gib) + (o - striped * gib)

def addressOf (g : MemGlobal) (p o : Nat) : Nat :=
  if p < 12 then unstripe 12 g.hbmStripe.toNat 48 p o else farBase + unstripe 4 g.farStripe.toNat 384 (p - 12) o

/-- Row, byte in page, lane group and bank of a partition offset (R390). -/
structure Place where
  row : Nat
  byte : Nat
  lane : Nat
  bank : Nat
  deriving DecidableEq, Repr

def placeOf (p o : Nat) : Place :=
  if p < 12 then
    { row := o / 0x200000, byte := o % 1024
      lane := Nat.xor (o / 1024 % 64) (o / 0x200000 % 64), bank := Nat.xor (o / 0x10000 % 32) (o / 0x8000000 % 32) }
  else
    { row := o / 0x400000, byte := o % 2048
      lane := Nat.xor (o / 2048 % 32) (o / 0x400000 % 32), bank := Nat.xor (o / 0x10000 % 64) (o / 0x8000000 % 64) }

/-- The number of a bank within its partition: 32 or 64 banks to a lane group (R381, R382). -/
def Place.bankNo (p : Nat) (q : Place) : Nat := if p < 12 then q.lane * 32 + q.bank else q.lane * 64 + q.bank

/-- Stack 0 to 23 or package 0 to 31, and pseudo-channel of the stack or channel of the package (R390, R417). -/
def Place.unit (p : Nat) (q : Place) : Nat × Nat :=
  if p < 12 then (2 * p + q.lane / 32, q.lane % 32) else (8 * (p - 12) + q.lane / 4, q.lane % 4)

/-- The lines of 256 bytes that a stretch of bytes touches, as (line address, bytes of the line). -/
def linesOf (a len : Nat) : List Nat :=
  if len = 0 then [] else (List.range ((a % 256 + len + 255) / 256)).map fun k => (a / 256 + k) * 256

/-- Whether a stretch lies wholly inside one range that data movers can reach (R385). -/
def oneRange (lo hi : Nat) : Bool :=
  match rangeOf lo with
  | .hbm => decide (hi < hbmEnd)
  | .far => decide (hi < farEnd)
  | .tile n => decide (hi < tileBase n + 0x600000)
  | _ => false

end Sys2Proof.Machine
end

