-- ==== Sys2Proof/Machine/Ops.lean ====
section
/-! DEFINITION. The named operations over the state: units by number, free values, memory accesses of agents outside
the clusters, events with their interrupts, and mailbox completions. -/
namespace Sys2Proof.Machine

/-- A word of a fixed-length table, where the index has one. -/
def vecAt {α : Type} {n : Nat} (v : Vector α n) (i : Nat) : Option α := v[i]?

/-! ### Units by number -/

/-- The region of a cluster (R10, R254). -/
def rgOf (c : Cl) : Rg := ⟨c.val / 16, by omega⟩

/-- A cluster by its global number, where one has it. -/
def clOf (n : Nat) : Option Cl := if h : n < 384 then some ⟨n, h⟩ else none

def rgAt (n : Nat) : Option Rg := if h : n < 24 then some ⟨n, h⟩ else none

/-- The sixteen clusters of a region. -/
def clustersOf (r : Rg) : List Cl := (List.finRange 16).map fun i => ⟨r.val * 16 + i.val, by omega⟩

def State.cl (s : State) (c : Cl) : Cluster := s.cls[c]
def State.onCl (s : State) (c : Cl) (f : Cluster → Cluster) : State := { s with cls := s.cls.set c (f s.cls[c]) }
def State.rg (s : State) (r : Rg) : Region := s.rgs[r]
def State.onRg (s : State) (r : Rg) (f : Region → Region) : State := { s with rgs := s.rgs.set r (f s.rgs[r]) }
def State.part (s : State) (p : Pt) : Part := s.parts[p]
def State.onPart (s : State) (p : Pt) (f : Part → Part) : State := { s with parts := s.parts.set p (f s.parts[p]) }
def State.port (s : State) (p : HPort) : HostPort := s.ports[p]
def State.onPort (s : State) (p : HPort) (f : HostPort → HostPort) : State :=
  { s with ports := s.ports.set p (f s.ports[p]) }
def State.link (s : State) (p : FPort) : Port := s.fab.ports[p]
def Fabric.onLink (b : Fabric) (p : FPort) (f : Port → Port) : Fabric := { b with ports := b.ports.set p (f b.ports[p]) }
def State.onFab (s : State) (f : Fabric → Fabric) : State := { s with fab := f s.fab }
def State.onHlt (s : State) (f : Health → Health) : State := { s with hlt := f s.hlt }
def State.onRun (s : State) (f : Run → Run) : State := { s with run := f s.run }
def State.onSec (s : State) (f : Security → Security) : State := { s with sec := f s.sec }
def State.onPwr (s : State) (f : Power → Power) : State := { s with pwr := f s.pwr }

/-- Table entry i of a cluster. -/
def Cluster.entry (k : Cluster) (i : Nat) : TEntry := if h : i < 128 then k.table[i] else {}
def Cluster.onEntry (k : Cluster) (i : Nat) (f : TEntry → TEntry) : Cluster :=
  if h : i < 128 then { k with table := k.table.set i (f k.table[i]) } else k

/-- The state with the next free-value nonce. -/
def State.draw (s : State) : Nat × State := (s.nonce, { s with nonce := s.nonce + 1 })

/-! ### Events (R527 to R532) and MSI-X (R500) -/

/-- A vector fires: it disarms, and its interrupt is sent or, while its table entry masks it, left pending. -/
def HostPort.fire (p : HostPort) (v : Fin 4) : HostPort :=
  let q := { p with armed := p.armed &&& ~~~(1#4 <<< v.val) }
  if (p.msix[v]).getLsbD 96 then { q with pba := q.pba ||| (1#4 <<< v.val) }
  else { q with fired := q.fired.set v (q.fired[v] + 1) }

/-- Each armed vector whose condition holds fires (R500). -/
def HostPort.poll (p : HostPort) : HostPort :=
  let a := if p.armed.getLsbD 0 && !p.out.isEmpty then p.fire 0 else p
  let b := if a.armed.getLsbD 1 && a.eventSince then { a.fire 1 with eventSince := false } else a
  if b.armed.getLsbD 2 && b.stat != 0 then b.fire 2 else b

/-- An event of a code enters the log: it counts for vector 1 of a port that does not mask it (R531, R532). -/
def HostPort.notice (p : HostPort) (code : Nat) : HostPort :=
  if code < 256 && !p.evtMask.getLsbD code then { p with eventSince := true }.poll else p

def State.onPorts (s : State) (f : HostPort → HostPort) : State := { s with ports := s.ports.map f }

/-- What the health monitor counts of an event (R599). -/
def Health.counts (h : Health) (code : Nat) : Health :=
  if code = 0x72 ∨ code = 0x73 then { h with rise := { h.rise with thermal := h.rise.thermal + 1 } }
  else if code = 0x74 then { h with rise := { h.rise with timeouts := h.rise.timeouts + 1 } }
  else h

/-- The source of an event: SRC_KIND, SRC_INDEX and the island that counts it (R528). -/
structure Source where
  kind : Nat
  index : Nat
  island : Fin 100

def fromMarkhor : Source := { kind := 6, index := 0, island := 96 }
def fromModule : Source := { kind := 0, index := 0, island := 98 }
def fromSloe : Source := { kind := 0, index := 0, island := 80 }
def fromCluster (c : Cl) : Source := { kind := 1, index := c.val, island := ⟨(rgOf c).val, by omega⟩ }
def fromRegion (r : Rg) : Source := { kind := 2, index := r.val, island := ⟨r.val, by omega⟩ }
/-- The island of a partition (R403). -/
def partIsland (p : Pt) : Fin 100 := if p.val < 12 then ⟨48 + 2 * p.val, by omega⟩ else ⟨72 + 2 * (p.val - 12), by omega⟩
def fromPart (p : Pt) : Source := { kind := 3, index := p.val, island := partIsland p }
def fromLink (p : FPort) : Source := { kind := 4, index := p.val, island := ⟨84 + p.val, by omega⟩ }
def fromPort (p : HPort) : Source := { kind := 5, index := p.val, island := 96 }

/-- An event enters the log (R527, R528). -/
def State.event (s : State) (src : Source) (code : Nat) (d : List Word := []) (status : Nat := 0) : State :=
  let e : EventRec :=
    { seq := s.evtSeq, d1 := d.getD 0 0, d2 := d.getD 1 0, d3 := d.getD 2 0, d4 := d.getD 3 0, d5 := d.getD 4 0
      code := BitVec.ofNat 16 code, status := BitVec.ofNat 16 status, kind := BitVec.ofNat 8 src.kind
      index := BitVec.ofNat 16 src.index, ticks := s.pwr.islands[src.island].ticks
      island := BitVec.ofNat 8 src.island.val }
  { s.onPorts (·.notice code) with
    events := (e :: s.events).take 4096, evtSeq := s.evtSeq + 1, hlt := s.hlt.counts code }

/-- A word from fields given as (value, lowest bit). -/
def packBits (fs : List (Nat × Nat)) : Word := BitVec.ofNat 64 (fs.foldl (fun a f => a + f.1 * 2 ^ f.2) 0)

def b2n (b : Bool) : Nat := if b then 1 else 0

/-! ### Completions (R509) -/

/-- What a command answers with: STATUS, DETAIL, result words. -/
structure Reply where
  status : Nat := 0
  detail : Nat := 0
  words : List Word := []
  deriving DecidableEq, Repr

def done : Reply := {}
def rejectedBusy : Reply := { status := 0x10 }
def rejectedTxn : Reply := { status := 0x11 }
def rejected (detail : Nat) : Reply := { status := 0x12, detail := detail }

/-- The words of a completion: its header, word 1, and its results. -/
def completion (cls op : Byte) (tag : BitVec 16) (flags : Nat) (r : Reply) : List Word :=
  packBits [(cls.toNat, 56), (op.toNat, 48), (r.words.length + 1, 32), (tag.toNat, 16), (flags, 0)]
    :: packBits [(r.status, 0), (r.detail, 16)] :: r.words

/-- A posted final completion frees its tag (R508). -/
def HostPort.freed (p : HostPort) (id : Option (BitVec 16)) : HostPort :=
  match id with
  | none => p
  | some i => { p with outstanding := p.outstanding.filter fun o => o.id != i }

/-- A completion enters the outbound stream, or is held back while the stream has no room for it (R509). A final one
names its command. -/
def HostPort.post (p : HostPort) (id : Option (BitVec 16)) (ws : List Word) : HostPort :=
  if p.held.isEmpty && decide (p.out.length + ws.length ≤ 16384) then ({ p with out := p.out ++ ws }.freed id).poll
  else { p with held := p.held ++ [(id, ws)] }

/-- Completions held back enter the stream as room appears. -/
def HostPort.release : HostPort → List (Option (BitVec 16) × List Word) → HostPort
  | p, [] => { p with held := [] }
  | p, (id, ws) :: hs =>
    if p.out.length + ws.length ≤ 16384 then HostPort.release ({ p with out := p.out ++ ws }.freed id) hs
    else { p with held := (id, ws) :: hs }

/-- A command of a port that still waits for its final completion. -/
def HostPort.openCmd (p : HostPort) (id : BitVec 16) : Option OutCmd :=
  p.outstanding.find? fun o => o.id == id && !p.held.any fun h => h.1 == some id

/-- The event of a final completion that asked for one (R507). -/
def State.notify (s : State) (p : HPort) (asked : Bool) (ws : List Word) : State :=
  if asked then s.event (fromPort p) 0x60 [ws.getD 0 0, ws.getD 1 0, BitVec.ofNat 64 p.val] else s

/-- A command of a port completes: its final completion is posted, and recorded as an event when it asked for that
(R507). The completion of a command that a port reset cut off is discarded (R537). -/
def State.finish (s : State) (p : HPort) (id : BitVec 16) (r : Reply) (flags : Nat := 0) : State :=
  match (s.port p).openCmd id with
  | some o =>
    let ws := completion o.cls o.op o.tag flags r
    (s.onPort p (·.post (some id) ws)).notify p o.notify ws
  | none => s.onPort p fun q => { q with orphans := q.orphans.filter fun o => o.id != id }

/-- A command that goes on gets an interim completion (R510). -/
def State.interim (s : State) (p : HPort) (id : BitVec 16) : State :=
  match (s.port p).openCmd id with
  | some o => s.onPort p (·.post none (completion o.cls o.op o.tag 1 done))
  | none => s

/-- A bit of MBX_STAT is set (R499). -/
def State.mbxStat (s : State) (p : HPort) (bit : Nat) : State :=
  s.onPort p fun q => { q with stat := q.stat ||| (1#6 <<< bit) }.poll

/-! ### Memory by address (R386, R389, R417) -/

/-- NO_TARGET with the first address that had none (R386, R422). -/
def State.noTarget (s : State) (a : Nat) : State :=
  if s.glob.noTarget then s else { s with glob := { s.glob with noTarget := true, notgtAddr := BitVec.ofNat 48 a } }

/-- The detail word of a memory event (R417). -/
def memDetail (kind : Nat) (p : Pt) (o sym : Nat) : Word :=
  let q := placeOf p.val o
  packBits [(kind, 0), (p.val, 4), ((q.unit p.val).1, 8), ((q.unit p.val).2, 13), (sym, 20)]

/-- The partition of an address, with the offset in it. -/
def State.partAt (s : State) (a : Nat) : Option (Pt × Nat) :=
  match partitionOf s.glob a with
  | some (p, o) => if h : p < 16 then some (⟨p, h⟩, o) else none
  | none => none

/-- The bytes of a stretch of memory. -/
def Memory.bytes (m : Memory) (a len : Nat) : List Byte := (List.range len).map fun i => m.get (a + i)

/-- Whether a stretch meets an uncorrectable sector. -/
def Memory.marked (m : Memory) (a len : Nat) : Bool := m.ue.any fun n => decide (32 * n < a + len) && decide (a < 32 * n + 32)

/-- A little-endian word of memory. -/
def Memory.word (m : Memory) (a : Nat) : Word := BitVec.ofNat 64 (leBytes m.get a 8)

/-- The bytes of words, little-endian (R13). -/
def wordBytes (ws : List Word) : List Byte := ws.flatMap fun w => bytesOf 8 w.toNat

/-- The words of bytes, little-endian. -/
def bytesWord : List Byte → Nat
  | [] => 0
  | b :: bs => b.toNat + 256 * bytesWord bs

def bytesWords (n : Nat) (bs : List Byte) : List Word :=
  (List.range n).map fun i => BitVec.ofNat 64 (bytesWord ((bs.drop (8 * i)).take 8))

end Sys2Proof.Machine
end

