-- ==== Sys2Proof/Machine/Bus.lean ====
section
/-! DEFINITION. Accesses of agents that hold no region tags, and of Medlar (11 R386, R394 to R397, R404, R405, R413, R414, R418,
R421): what they meet, what they are charged, how uncorrectable sectors answer. -/
namespace Sys2Proof.Machine

/-! ### What an access meets (R386, R418, R421, R501 to R503, R580, R583) -/

inductive Reach where
  | reached | noTarget | asleep
  /-- the HBM fill of R418 is under way -/
  | waits
  deriving DecidableEq, Repr

/-- A partition behind a crossing that has failed answers as no target (R580). -/
def State.cutOff (s : State) (p : Pt) : Bool :=
  let mine (i : Fin 100) : Bool := decide (i.val / 2 = 24 + p.val)
  s.pwr.dead.any fun x => mine x.1 || mine x.2

/-- The target of a device address for a window, a PCIe DMA engine, a service or Sloe. -/
def State.reach (s : State) (a : Nat) : Reach :=
  match rangeOf a with
  | .tile n => if s.pwr.state = .a0 ∧ s.pwr.domains.getLsbD (n / 16) then .reached else .noTarget
  | .hbm | .far =>
    (match s.partAt a with
     | some (p, _) =>
       if (s.part p).selfRefresh then .asleep
       else if !s.pwr.domains.getLsbD (24 + p.val) || s.cutOff p then .noTarget
       else if (s.part p).initBusy then .waits
       else .reached
     | none => .noTarget)
  | _ => .noTarget

/-- A stretch cut at the 4 KiB pages, within which addresses have one target: address, offset in the stretch, bytes. -/
def pagesOf (a len : Nat) : List (Nat × Nat × Nat) :=
  ((List.range (len / 4096 + 2)).map fun k =>
    let lo := max a ((a / 4096 + k) * 4096)
    let hi := min (a + len) ((a / 4096 + k + 1) * 4096)
    (lo, lo - a, hi - lo)).filter fun x => x.2.2 != 0

/-- Whether a request to an address waits: for the fill, or for its memory to wake (R418, R421). -/
def State.waitsAt (s : State) (a : Nat) : Bool := s.reach a == .asleep || s.reach a == .waits

/-- The same for a stretch. -/
def State.busWaits (s : State) (a len : Nat) : Bool := (pagesOf a len).any fun g => s.waitsAt g.1

/-- Memory is filling or asleep: the accesses of services and Sloe wait (R418, R421). -/
def State.memBusy (s : State) : Bool := s.glob.selfRefresh || s.parts.toList.any (·.initBusy)

/-! ### Regulator classes and their charges (R404, R405, R407) -/

/-- A regulator class: RATE and BURST of classes 14 and 15 come from MEM_QOS (R407). -/
def State.classAt (s : State) (p : Pt) (i : Nat) : RegClass :=
  let c := (vecAt (s.part p).classes i).getD {}
  if i = 14 then { c with rate := s.glob.hostRate, burst := s.glob.hostBurst }
  else if i = 15 then { c with rate := s.glob.svcRate, burst := s.glob.svcBurst }
  else c

/-- Credits move in a class. -/
def Part.charge (p : Part) (c : Nat) (n : Int) : Part :=
  if h : c < 16 then { p with classes := p.classes.set c { p.classes[c] with credits := BitVec.ofInt 32 (p.classes[c].credits.toInt - n) } }
  else p

/-- The lines that a stretch touches, each with how many of its sectors. -/
def stretchLines (a len : Nat) : List (Nat × Nat) :=
  (linesOf a len).map fun l => (l, (min (a + len) (l + 256) - 1) / 32 - max a l / 32 + 1)

/-- Byte writes by line in the order they come: the line and how many sectors of it are written one after another. -/
def writeLines (ws : List WByte) : List (Nat × Nat) :=
  ((ws.foldl (fun (acc : List (Nat × Nat × Nat)) w =>
    let n := w.addr / 32
    match acc with
    | (l, k, m) :: rest => if n = m then acc else if 256 * (n / 8) = l then (l, k + 1, n) :: rest else (256 * (n / 8), 1, n) :: acc
    | [] => [(256 * (n / 8), 1, n)]) []).map fun x => (x.1, x.2.1)).reverse

/-- A line's access is charged 128 credits for each sector. DESIGN CHOICE, log entry 164: an access that the model makes at once has
had its credits, or has gone without them under R406 and is not charged. -/
def State.chargeLine (s : State) (cls : Nat → Nat) (l : Nat × Nat) : State :=
  match s.partAt l.1 with
  | some (p, _) =>
    let n : Int := 128 * (l.2 : Int)
    if n ≤ (s.classAt p (cls l.1)).credits.toInt then s.onPart p (·.charge (cls l.1) n) else s
  | none => s

/-- The class of each line is charged for its sectors (R405). -/
def State.charged (s : State) (cls : Nat → Nat) (ls : List (Nat × Nat)) : State :=
  { s with parts := (ls.foldl (fun s l => s.chargeLine cls l) s).parts }

/-- The class that REG_CMAP gives a cluster's requests of a segment in the partition of a line (R404). -/
def State.cmapClass (s : State) (seg c line : Nat) : Nat :=
  match s.partAt line with
  | some (p, _) =>
    let w := seg % 16 * 24 + c / 16
    if h : w < 384 then fld ((s.part p).cmap[w]) (4 * (c % 16)) 4 else 0
  | none => 0

/-- The classes of PCIe DMA and BAR2, and of the fabric services and Sloe (R404). -/
def hostClass : Nat → Nat := fun _ => 14
def svcClass : Nat → Nat := fun _ => 15

/-! ### Uncorrectable sectors (R413, R414) -/

/-- An uncorrectable read of a sector (R413, R415): counted, its first address kept, an event raised. In HBM the sector stays so
until it is written whole; `fresh` says that it has not been since the read was accepted. -/
def State.markSector (s : State) (p : Pt) (o sector : Nat) (fresh : Bool := true) : State :=
  let s := (s.onPart p fun x =>
    { x with
      ueCnt := x.ueCnt + 1, ecc := x.ecc ||| 2
      ueAddr := if x.ecc.getLsbD 1 then x.ueAddr else BitVec.ofNat 48 (32 * sector) }).onHlt fun h =>
    { h with rise := { h.rise with ue := h.rise.ue + 1 } }
  let s := if p.val < 12 && fresh then
      { s with mem := { s.mem with ue := if s.mem.ue.contains sector then s.mem.ue else s.mem.ue ++ [sector] } }
    else s
  s.event (fromPart p) 0x10 [memDetail (if p.val < 12 then 1 else 4) p o 63, BitVec.ofNat 64 (32 * sector)]

/-- The uncorrectable sectors that a reader meets in a stretch are counted and reported (R413). -/
def State.ueReads (s : State) (a len : Nat) : State :=
  (s.mem.ue.filter fun n => decide (32 * n < a + len) && decide (a < 32 * n + 32)).foldl (fun s n =>
    match s.partAt (32 * n) with
    | some (p, o) => s.markSector p o n
    | none => s) s

/-- A partial write to an uncorrectable sector is dropped (R414). -/
def State.dropWrite (s : State) (sector : Nat) : State :=
  match s.partAt (32 * sector) with
  | some (p, o) =>
    (s.onPart p fun q => { q with ecc := q.ecc ||| 4 }).event (fromPart p) 0x10
      [memDetail 2 p o 63, BitVec.ofNat 64 (32 * sector)]
  | none => s

/-- Whether byte writes cover a sector whole. -/
def wholeSector (ws : List WByte) (n : Nat) : Bool := (List.range 32).all fun i => ws.any fun w => w.addr == 32 * n + i && w.mask == 0xFF

/-- Masked bytes of one sector: all 32 end an error; fewer are a read-modify-write in HBM, whose read of an uncorrectable sector
counts and drops them (R394, R413, R414). -/
def State.writeSector (s : State) (sector : Nat) (ws : List WByte) : State :=
  if s.mem.ue.contains sector then
    if wholeSector ws sector then
      { s with mem := { s.mem.write ws with ue := s.mem.ue.filter (· != sector) } }
    else (s.ueReads (32 * sector) 32).dropWrite sector
  else { s with mem := s.mem.write ws }

/-! ### Reads and writes -/

/-- An agent reads a stretch: its class is charged, uncorrectable sectors are counted. -/
def State.busRead (s : State) (cls : Nat → Nat) (a len : Nat) : State := (s.charged cls (stretchLines a len)).ueReads a len

/-- The sectors that byte writes touch. -/
def writtenSectors (ws : List WByte) : List Nat := (ws.map fun w => w.addr / 32).eraseDups

/-- A pending read learns that sectors of its line have been written whole since it was accepted. -/
def MReq.rewrite (q : MReq) (ns : List Nat) : MReq :=
  { q with rewritten := ns.foldl (fun m n => if n / 8 = q.line / 256 then m ||| (1#8 <<< (n % 8)) else m) q.rewritten }

/-- Pending reads learn which sectors byte writes cover whole. -/
def State.rewrote (s : State) (ws : List WByte) : State :=
  if s.reqs.isEmpty then s
  else { s with reqs := s.reqs.map fun q => q.rewrite ((writtenSectors ws).filter (wholeSector ws)) }

/-- An agent writes bytes, sector by sector; the caller has checked the targets. -/
def State.busWrite (s : State) (cls : Nat → Nat) (ws : List WByte) : State :=
  let t := (s.charged cls (writeLines ws)).rewrote ws
  if t.mem.ue.isEmpty then { t with mem := t.mem.write ws }
  else (writtenSectors ws).foldl (fun s n => s.writeSector n (ws.filter fun w => w.addr / 32 == n)) t

/-- A fabric service or Sloe writes bytes: those without a target are not written, and the first of them is recorded (R386). -/
def State.svcWrite (s : State) (ws : List WByte) : State :=
  let lands (w : WByte) : Bool := s.reach w.addr == .reached
  let g := match ws.find? fun w => !lands w with
    | some w => (s.noTarget w.addr).glob
    | none => s.glob
  ({ s with glob := g } : State).busWrite svcClass (ws.filter lands)

/-- A fabric service or Sloe reads a stretch, as far as it has a target (R386). -/
def State.svcRead (s : State) (a len : Nat) : State :=
  (pagesOf a len).foldl (fun s g =>
    if s.reach g.1 == .reached then s.busRead svcClass g.1 g.2.2 else s.noTarget g.1) s

end Sys2Proof.Machine
end

