-- ==== Sys2Proof/Machine/Crypto.lean ====
section
/-! DEFINITION. The two check functions the module computes itself: SHA3-256 (FIPS 202) over byte strings and the
CRC-32 of packets (12_baswen_fabric). -/
namespace Sys2Proof.Machine

abbrev Lanes := List (BitVec 64)

def lane (s : Lanes) (x y : Nat) : BitVec 64 := s.getD (x % 5 + 5 * (y % 5)) 0

def lanesOf (f : Nat → Nat → BitVec 64) : Lanes := (List.range 25).map fun i => f (i % 5) (i / 5)

/-- The rotation offset of lane (x, y), walked as FIPS 202 gives it: t from 0 to 23. -/
def rotTable : List (Nat × Nat) :=
  ((List.range 24).foldl (fun (acc : (Nat × Nat) × List (Nat × Nat)) t =>
    let (p, l) := acc
    ((p.2, (2 * p.1 + 3 * p.2) % 5), l ++ [(p.1 + 5 * p.2, (t + 1) * (t + 2) / 2 % 64)])) ((1, 0), [])).2

def rotOf (i : Nat) : Nat := ((rotTable.find? fun p => p.1 = i).map (·.2)).getD 0

/-- The round constants' bit by the degree-8 shift register. -/
def lfsrStep (r : Nat) : Nat :=
  let r := r * 2
  if r ≥ 256 then (r % 256) ^^^ 0x71 else r

def rcBits : List Bool := ((List.range 255).foldl (fun (acc : Nat × List Bool) _ =>
  (lfsrStep acc.1, (acc.1 % 2 = 1) :: acc.2)) (1, [])).2.reverse

def roundConst (ir : Nat) : BitVec 64 :=
  (List.range 7).foldl (fun a j =>
    if rcBits.getD ((j + 7 * ir) % 255) false then a ||| (1#64 <<< (2 ^ j - 1)) else a) 0

def keccakRound (s : Lanes) (ir : Nat) : Lanes :=
  let c (x : Nat) := (List.range 5).foldl (fun a y => a ^^^ lane s x y) 0
  let cs := (List.range 5).map c
  let d := (List.range 5).map fun x => (cs.getD ((x + 4) % 5) 0) ^^^ ((cs.getD ((x + 1) % 5) 0).rotateLeft 1)
  let s1 := lanesOf fun x y => lane s x y ^^^ d.getD x 0
  let s2 := lanesOf fun x y =>
    let x0 := (x + 3 * y) % 5
    (lane s1 x0 x).rotateLeft (rotOf (x0 + 5 * x))
  let s3 := lanesOf fun x y => lane s2 x y ^^^ (~~~(lane s2 (x + 1) y) &&& lane s2 (x + 2) y)
  match s3 with
  | [] => []
  | a :: rest => (a ^^^ roundConst ir) :: rest

def keccakF (s : Lanes) : Lanes := (List.range 24).foldl keccakRound s

/-- Eight bytes as a lane. -/
def laneOf (bs : List Byte) : BitVec 64 :=
  bs.zipIdx.foldl (fun a (b, i) => a ||| ((b.zeroExtend 64) <<< (8 * i))) 0

def absorbBlock (s : Lanes) (blk : List Byte) : Lanes :=
  keccakF (s.zipIdx.map fun (l, i) => if i < 17 then l ^^^ laneOf ((blk.drop (8 * i)).take 8) else l)

/-- Absorbs whole blocks of 136 bytes; fuel bounds their number. -/
def absorb : Nat → Lanes → List Byte → Lanes
  | 0, s, _ => s
  | n + 1, s, bs =>
    if bs.length < 136 then
      let pad := bs ++ [0x06#8] ++ List.replicate (135 - bs.length) 0
      absorbBlock s (pad.take 135 ++ [pad.getD 135 0 ||| 0x80#8])
    else absorb n (absorbBlock s (bs.take 136)) (bs.drop 136)

/-- SHA3-256 as 32 bytes. -/
def sha3 (bs : List Byte) : List Byte :=
  let s := absorb (bs.length / 136 + 1) (List.replicate 25 0) bs
  (List.range 32).map fun i => (s.getD (i / 8) 0).extractLsb' (8 * (i % 8)) 8

/-- A digest as a 256-bit number, byte 0 lowest. -/
def sha3Num (bs : List Byte) : BitVec 256 :=
  (sha3 bs).zipIdx.foldl (fun a (b, i) => a ||| ((b.zeroExtend 256) <<< (8 * i))) 0

/-- CRC-32 (IEEE 802.3), reflected: one byte. -/
def crcByte (c : BitVec 32) (b : Byte) : BitVec 32 :=
  (List.range 8).foldl (fun c _ =>
    if c.getLsbD 0 then (c >>> 1) ^^^ 0xEDB88320#32 else c >>> 1) (c ^^^ b.zeroExtend 32)

def crc32 (bs : List Byte) : BitVec 32 := ~~~(bs.foldl crcByte (BitVec.allOnes 32))

end Sys2Proof.Machine
end

