-- ==== Sys2Proof/Machine/Graph.lean ====
section
/-! DEFINITION. Graph packages (08 R259 to R265, R634, R635): the image taken apart, and the load checks of R267 that
need no other chapter. -/
namespace Sys2Proof.Machine

/-- A word of the image at a byte offset. -/
abbrev ImgWord := Nat → Word

/-- A section of the directory (R260). -/
structure Section where
  type : Nat
  count : Nat
  off : Nat
  len : Nat
  reserved : Nat
  deriving DecidableEq, Repr

def sectionAt (w : ImgWord) (i : Nat) : Section :=
  let a := w (64 + 16 * i)
  let b := w (72 + 16 * i)
  { type := fld a 0 8, count := fld a 8 24, reserved := fld a 32 32, off := fld b 0 32, len := fld b 32 32 }

def sectionsOf (w : ImgWord) : List Section := (List.range (fld (w 8) 48 16)).map (sectionAt w)

def findSection (ss : List Section) (t : Nat) : Option Section := ss.find? fun s => s.type = t

/-- Bytes of one entry of a section type; 0 where the length is free. -/
def entrySize : Nat → Nat
  | 1 => 40
  | 2 => 32
  | 3 => 64
  | 4 => 16
  | 5 => 16
  | 6 => 32
  | 7 => 32
  | 8 => 32
  | _ => 0

def overlaps (a b : Nat × Nat) : Bool := a.1 < b.1 + b.2 && b.1 < a.1 + a.2 && a.2 ≠ 0 && b.2 ≠ 0

/-- DETAIL 0x04 (R635). -/
def sectionsBad (w : ImgWord) (total : Nat) : Bool :=
  let n := fld (w 8) 48 16
  let ss := sectionsOf w
  let head := 64 + 16 * n
  n = 0 || 16 < n
  || ss.any (fun s => s.type = 0 || 9 < s.type || s.off % 8 ≠ 0 || s.off < head || total < s.off + s.len
      || s.len < s.count * entrySize s.type)
  || !([1, 2, 3, 4, 5].all fun t => (findSection ss t).isSome)
  || (List.range ss.length).any (fun i => (List.range i).any fun j =>
      let a := ss.getD i ⟨0, 0, 0, 0, 0⟩
      let b := ss.getD j ⟨0, 0, 0, 0, 0⟩
      a.type = b.type || overlaps (a.off, a.len) (b.off, b.len))

/-- The words of entry i of a section whose entries have n words. -/
def entryWords (w : ImgWord) (s : Section) (n i : Nat) : List Word :=
  (List.range n).map fun k => w (s.off + 8 * (n * i + k))

def tensorOf (ws : List Word) : TensorE :=
  let w0 := ws.getD 0 0
  { fmt := fld w0 0 6, carrier := fld w0 8 4, residency := fld w0 12 3, persist := bit w0 15, hostIo := bit w0 16,
    elements := fld (ws.getD 1 0) 0 48, initOff := fld (ws.getD 2 0) 0 48 }

def operOf (ws : List Word) : OperE :=
  let w0 := ws.getD 0 0
  let w1 := ws.getD 1 0
  let w2 := ws.getD 2 0
  { cls := fld w0 0 4, strict := bit w0 4, segBreak := bit w0 5, splitK := bit w0 6, kernel := fld w0 16 16,
    work := fld w0 32 32, edgeFirst := fld w1 0 32, edgeCount := fld w1 32 32, m := fld w2 0 24, n := fld w2 24 24,
    k := fld (ws.getD 3 0) 0 40,
    extra := (ws.getD 7 0) ++ (ws.getD 6 0) ++ (ws.getD 5 0) ++ (ws.getD 4 0) }

def edgeOf (ws : List Word) : EdgeE :=
  let w0 := ws.getD 0 0
  { tensor := fld w0 0 32, out := bit w0 32, role := fld w0 33 3, slice := bit w0 36, arg := fld (ws.getD 1 0) 0 4 }

/-- Entries of a section by type, empty where the package has no such section. -/
def entries (w : ImgWord) (ss : List Section) (t words : Nat) : List (List Word) :=
  match findSection ss t with
  | none => []
  | some s => (List.range s.count).map (entryWords w s words)

/-- Byte i of the image. -/
def imgByte (w : ImgWord) (i : Nat) : Byte := BitVec.ofNat 8 (fld (w (i / 8 * 8)) (8 * (i % 8)) 8)

/-- The kernels of the image (R265). -/
def kernelsOf (w : ImgWord) : List CodeE :=
  match findSection (sectionsOf w) 5 with
  | none => []
  | some s => (List.range s.count).map fun i =>
    let a := w (s.off + 16 * i)
    let b := w (s.off + 16 * i + 8)
    { code := (List.range (fld a 32 32)).map fun k => imgByte w (s.off + fld a 0 32 + k)
      relocs := (List.range (fld b 32 32)).map fun r =>
        let x := w (s.off + fld b 0 32 + 8 * r)
        { off := fld x 0 32, kind := fld x 32 4, arg := fld x 40 24 } }

/-- The image as a package (R260 to R265). -/
def packageOf (w : ImgWord) : Package :=
  let ss := sectionsOf w
  { digest := w 56 ++ w 48 ++ w 40 ++ w 32, packageId := BitVec.ofNat 32 (fld (w 16) 32 32),
    microbatches := fld (w 16) 0 16,
    tensors := (entries w ss 2 4).map tensorOf, opers := (entries w ss 3 8).map operOf,
    edges := (entries w ss 4 2).map edgeOf, solver := entries w ss 6 4, curvature := entries w ss 7 4,
    training := entries w ss 8 4,
    formats := (entries w ss 1 5).map fun ws =>
      (fld (ws.getD 0 0) 0 6, ws.getD 4 0 ++ ws.getD 3 0 ++ ws.getD 2 0 ++ ws.getD 1 0)
    kernels := kernelsOf w }

/-- The edges of an operation. -/
def Package.opEdges (p : Package) (o : OperE) : List EdgeE := (p.edges.drop o.edgeFirst).take o.edgeCount

/-- A class-specific word of an operation, 4 to 7. -/
def OperE.word (o : OperE) (k : Nat) : Word := BitVec.ofNat 64 (fld o.extra (64 * (k - 4)) 64)

/-- The tensors that the class-specific words of an operation read: GRAD, to which a class-4 kernel adds; REDUCED, the
masters and the optimiser state of a class-5 operation (R347, R348, R352, R353). -/
def OperE.wordReads (o : OperE) : List Nat :=
  match o.cls with
  | 4 => [fld (o.word 4) 0 32]
  | 5 => [fld (o.word 6) 0 32, fld (o.word 4) 0 32] ++ (if fld (o.word 5) 32 4 = 0 then [] else [fld (o.word 5) 0 32])
  | _ => []

/-- The tensors that they write: GRAD and REDUCED; the masters, the working copy and the optimiser state. -/
def OperE.wordWrites (o : OperE) : List Nat :=
  match o.cls with
  | 4 => [fld (o.word 4) 0 32, fld (o.word 4) 32 32]
  | 5 => [fld (o.word 4) 0 32] ++ (if fld (o.word 4) 32 32 = 0xFFFFFFFF then [] else [fld (o.word 4) 32 32])
      ++ (if fld (o.word 5) 32 4 = 0 then [] else [fld (o.word 5) 0 32])
  | _ => []

def Package.readsOf (p : Package) (o : OperE) : List Nat := ((p.opEdges o).filter (!·.out)).map (·.tensor) ++ o.wordReads
def Package.writesOf (p : Package) (o : OperE) : List Nat := ((p.opEdges o).filter (·.out)).map (·.tensor) ++ o.wordWrites
def Package.reads (p : Package) (o : OperE) (t : Nat) : Bool := (p.readsOf o).contains t
def Package.writes (p : Package) (o : OperE) (t : Nat) : Bool := (p.writesOf o).contains t

/-! ### The checks in the order of R267 -/

/-- DETAIL 0x05: the limits of R270 that the checks can see. -/
def limitsBad (p : Package) : Bool :=
  4096 < p.opers.length || 262144 < p.tensors.length || 1048576 < p.edges.length || p.microbatches = 0
  || p.tensors.any fun t => t.elements = 0 || 2 ^ 40 < t.elements

/-- The format indices that VLD, VST, VLDRES and VSTRES of a code block name (R209, R213), the block read as instructions
from its first byte on. DESIGN CHOICE, log entry 146: the spec does not say how the check finds them. -/
def codeFormats : Nat → List Byte → List Nat
  | 0, _ => []
  | n + 1, bs =>
    let w := BitVec.ofNat 32 ((bs.take 4).foldr (fun b a => 256 * a + b.toNat) 0)
    if w.toNat % 4 ≠ 3 then (if bs.length < 2 then [] else codeFormats n (bs.drop 2))
    else if bs.length < 4 then []
    else if fld w 0 7 = 0x7B ∧ 0x1C ≤ fld w 26 5 then (fld w 21 5 + 32 * fld w 31 1) :: codeFormats n (bs.drop 4)
    else codeFormats n (bs.drop 4)

/-- Every format index that the package names: of tensors, of kernels, and of its FORMATS entries (R108, R261). -/
def Package.formatIndices (p : Package) : List Nat :=
  p.tensors.map (·.fmt) ++ (p.kernels.flatMap fun k => codeFormats k.code.length k.code) ++ p.formats.map (·.1)

/-- DETAIL 0x06. -/
def indicesBad (p : Package) (table : Nat → Desc) : Bool :=
  p.formatIndices.any (fun i => !(fmtOf i (table i)).usable || (0x20 ≤ i && !p.formats.any fun f => f.1 = i))
  || p.formats.any (fun f => f.1 < 0x20)
  || (List.range p.formats.length).any fun i => (List.range i).any fun j =>
      (p.formats.getD i (0, 0)).1 = (p.formats.getD j (0, 0)).1

/-- DETAIL 0x07. -/
def formatsDiffer (p : Package) (table : Nat → Desc) : Bool := p.formats.any fun f => table f.1 ≠ f.2

/-- Bytes that n elements occupy in a storage format, their scale bytes with them. -/
def Fmt.bytesOf (f : Fmt) (n : Nat) : Nat :=
  if f.block = 0 then (n * f.ew + 7) / 8
  else (n + f.block - 1) / f.block * (f.blkBytes + (if f.scale = 1 then 1 else 0))

/-- Bytes that a tensor occupies. -/
def tensorBytes (t : TensorE) (f : Fmt) : Nat := f.bytesOf t.elements

/-- KERNEL names an entry for the classes 2, 4 and 5 (R263; log entry 60). -/
def OperE.hasKernel (o : OperE) : Bool := o.cls = 2 || o.cls = 4 || o.cls = 5

/-- DETAIL 0x08: a reference to something that does not exist, or initial contents outside INIT (R634). -/
def referencesBad (w : ImgWord) (p : Package) (table : Nat → Desc) (extra : OperE → Bool) : Bool :=
  let ss := sectionsOf w
  let kernels := match findSection ss 5 with | some s => s.count | none => 0
  p.edges.any (fun e => p.tensors.length ≤ e.tensor)
  || p.opers.any (fun o => p.edges.length < o.edgeFirst + o.edgeCount
      || (o.hasKernel && o.kernel ≠ 0xFFFF && kernels ≤ o.kernel) || extra o)
  || p.tensors.any fun t => t.initOff ≠ 0 && (match findSection ss 9 with
      | none => true
      | some s => s.len < t.initOff + tensorBytes t (fmtOf t.fmt (table t.fmt)))

/-- DETAIL 0x09: a tensor without PERSIST that no operation up to the reader writes and a later one does (R263, R267). -/
def orderBad (p : Package) : Bool :=
  p.opers.zipIdx.any fun (o, i) => (p.readsOf o).any fun t =>
    !((p.tensors.getD t ⟨0, 0, 0, false, false, 0, 0⟩).persist)
    && !((p.opers.take i).any fun q => p.writes q t) && !p.writes o t
    && ((p.opers.drop (i + 1)).any fun q => p.writes q t)

/-- DETAIL 0x0A: reserved values and reserved fields; a bit that no field names is reserved (log entry 60). -/
def reservedBad (w : ImgWord) (p : Package) : Bool :=
  let ss := sectionsOf w
  p.opers.any (fun o => o.cls = 0 || 6 < o.cls)
  || p.tensors.any (fun t => 8 < t.carrier || 4 < t.residency)
  || p.edges.any (fun e => 5 < e.role)
  || fld (w 16) 16 16 ≠ 0 || w 24 ≠ 0 || ss.any (fun s => s.reserved ≠ 0)
  || (entries w ss 1 5).any (fun ws => fld (ws.getD 0 0) 6 58 ≠ 0)
  || (entries w ss 2 4).any (fun ws => fld (ws.getD 0 0) 6 2 ≠ 0 || fld (ws.getD 0 0) 17 47 ≠ 0
      || fld (ws.getD 1 0) 48 16 ≠ 0 || fld (ws.getD 2 0) 48 16 ≠ 0 || ws.getD 3 0 ≠ 0)
  || (entries w ss 3 8).any (fun ws => fld (ws.getD 0 0) 7 9 ≠ 0 || fld (ws.getD 2 0) 48 16 ≠ 0
      || fld (ws.getD 3 0) 40 24 ≠ 0)
  || (entries w ss 4 2).any (fun ws => fld (ws.getD 0 0) 37 27 ≠ 0 || fld (ws.getD 1 0) 4 60 ≠ 0)
  || (match findSection ss 5 with
      | none => false
      | some s => (List.range s.count).any fun i =>
        let b := w (s.off + 16 * i + 8)
        (List.range (fld b 32 32)).any fun r =>
          decide (fld b 0 32 + 8 * r + 8 ≤ s.len) && fld (w (s.off + fld b 0 32 + 8 * r)) 36 4 ≠ 0)

/-- DETAIL 0x0D: code blocks and relocation lists (R265). The arguments of a kernel are those of the operations that
name it. -/
def kernelsBad (w : ImgWord) (p : Package) : Bool :=
  match findSection (sectionsOf w) 5 with
  | none => false
  | some s => (List.range s.count).any fun i =>
    let a := w (s.off + 16 * i)
    let b := w (s.off + 16 * i + 8)
    let codeOff := fld a 0 32
    let codeLen := fld a 32 32
    let relOff := fld b 0 32
    let relCount := fld b 32 32
    codeOff % 4 ≠ 0 || codeLen = 0 || codeLen % 2 ≠ 0 || s.len < codeOff + codeLen
    || relOff % 8 ≠ 0 || s.len < relOff + 8 * relCount
    || (codeLen ≠ 0 && codeOff < 16 * s.count) || (relCount ≠ 0 && relOff < 16 * s.count)
    || (List.range relCount).any fun r =>
        let x := w (s.off + relOff + 8 * r)
        codeLen < fld x 0 32 + 4
        || (fld x 32 4 = 1 && p.opers.any fun o =>
            o.hasKernel && o.kernel = i && !((p.opEdges o).any fun e => e.arg = fld x 40 24))

/-- DETAIL 0x01 (R260, R267). -/
def headerBad (w : ImgWord) (addr len hbmEnd : Nat) : Bool :=
  let total := fld (w 8) 0 48
  fld (w 0) 0 32 ≠ 0x4B544750 || fld (w 0) 32 16 ≠ 1 || total % 8 ≠ 0
  || total < 64 + 16 * fld (w 8) 48 16 || total ≠ len || hbmEnd < addr + total

/-! ### Segments and stages (R269, R273, R274) -/

/-- The segment of each operation from number i on: R269's loop, which leaves the first segment empty where the first operation carries
SEG_BREAK (log entry 119). `breaks` answers, for the first operation of the segment and the next one, whether adding it breaks a limit that
no allocation can meet. -/
def segmentsOf (u : Nat) (breaks : Nat → Nat → Bool) : List OperE → Nat → Nat → Nat → List Nat
  | [], _, _, _ => []
  | o :: rest, i, seg, used =>
    if o.segBreak || u ≤ used || breaks (i - used) i then (seg + 1) :: segmentsOf u breaks rest (i + 1) (seg + 1) 1
    else seg :: segmentsOf u breaks rest (i + 1) seg (used + 1)

/-- A tensor that operations first to i alone use, and that nothing but streams can carry between them (R277, R280; log entry 22). -/
def Package.mustStream (p : Package) (first i t : Nat) : Bool :=
  let x := p.tensors.getD t ⟨0, 0, 0, false, false, 0, 0⟩
  !x.persist && !x.hostIo && x.residency = 0 && x.initOff = 0
  && p.opers.zipIdx.all fun y => !(y.1.wordReads ++ y.1.wordWrites).contains t
    && (!(p.reads y.1 t || p.writes y.1 t) || decide (first ≤ y.2 ∧ y.2 ≤ i))
    && (!p.reads y.1 t || (p.opers.take y.2).any fun z => p.writes z t)

/-- The streams between operations first to i: writer and reader. -/
def Package.streamsIn (p : Package) (first i : Nat) : List (Nat × Nat) :=
  ((List.range p.tensors.length).filter (p.mustStream first i)).flatMap fun t =>
    p.opers.zipIdx.filterMap fun y =>
      if p.reads y.1 t then (((p.opers.zipIdx.take y.2).filter fun z => p.writes z.1 t).getLast?).map fun z => (z.2, y.2) else none

/-- Operation i, added to a segment that begins with operation `first`, breaks a limit of R270 whatever the allocation: each stream needs a
buffer on every cluster of its reader, which has 64, and a task entry on every cluster of its writer, which has 128 and runs a task
besides (R277). -/
def Package.limitBroken (p : Package) (first i : Nat) : Bool :=
  let xs := p.streamsIn first i
  (List.range (i + 1)).any fun o => decide (64 < xs.countP fun x => x.2 = o) || decide (127 < xs.countP fun x => x.1 = o)

/-- The segments of a package over u unfenced clusters (R269). What a placer needs beyond its streams, no rule counts: a free value says
whether a further limit breaks (log entry 14). -/
def Package.segments (p : Package) (u : Nat) : List Nat :=
  segmentsOf u (fun first i => p.limitBroken first i || (decide (first < i) && Config.limitBreak p.digest.toNat first i)) p.opers 0 0 0

/-- A package holds at most 16 segments (R269, R270). -/
def tooManySegments (p : Package) (u : Nat) : Bool := decide (16 < (p.segments u).foldl max 0 + 1)

/-- One less for the stage with the largest count, the higher operation first among equals. -/
def takeOne (ns : List Nat) : List Nat :=
  let mx := ns.foldl max 0
  let i := (ns.zipIdx.filter fun p => p.1 = mx).foldl (fun _ p => p.2) 0
  ns.set i (mx - 1)

def trimTo (u : Nat) : Nat → List Nat → List Nat
  | 0, ns => ns
  | f + 1, ns => if u < ns.foldl (· + ·) 0 then trimTo u f (takeOne ns) else ns

/-- One more for the r stages with the largest remainder, the lower operation first among equals. -/
def giveRest : Nat → List Nat → List Nat → List Nat
  | 0, ns, _ => ns
  | r + 1, ns, rem =>
    match (rem.zipIdx.filter fun p => p.1 ≠ 0).foldl (fun (best : Option (Nat × Nat)) p =>
        match best with
        | none => some p
        | some b => if b.1 < p.1 then some p else some b) none with
    | none => ns
    | some (_, i) => giveRest r (ns.set i (ns.getD i 0 + 1)) (rem.set i 0)

/-- R273: cluster counts from WORK values; a remainder counts one more than its value so that a stage served is
told from one waiting. -/
def allocate (u : Nat) (works : List Nat) : List Nat :=
  let total := works.foldl (· + ·) 0
  let ns := works.map fun w => max 1 (u * w / total)
  let ns := trimTo u 400 ns
  let r := u - ns.foldl (· + ·) 0
  giveRest r ns (works.map fun w => u * w % total + 1)

/-- The most clusters among which a stage can divide its work (R273). -/
def mostClusters (p : Package) (o : OperE) : Nat :=
  if o.cls = 1 then (if o.splitK then (o.k + 63) / 64 else (o.n + 127) / 128)
  else match (p.opEdges o).find? fun e => !e.out && e.slice with
    | some e => ((p.tensors.getD e.tensor ⟨0, 0, 0, false, false, 0, 0⟩).elements + 31) / 32
    | none => 384

/-- Pass 1 of R274: the lowest free cluster of region 0, 1, … in turn until the stage has n. -/
def interleave (free : List Nat) : Nat → Nat → Nat → List Nat
  | 0, _, _ => []
  | f + 1, n, g =>
    if n = 0 || free.isEmpty then []
    else match free.find? fun c => c / 16 = g with
      | some c => c :: interleave (free.erase c) f (n - 1) ((g + 1) % 24)
      | none => interleave free f n ((g + 1) % 24)

/-- The clusters of the stages of one segment: (operation, class, count) in operation order. -/
def layout (free : List Nat) (stages : List (Nat × Nat × Nat)) : List (Nat × List Nat) :=
  let special := stages.filter fun s => s.2.1 = 3 || s.2.1 = 6
  let plain := stages.filter fun s => !(s.2.1 = 3 || s.2.1 = 6)
  let (free, a) := special.foldl (fun (acc : List Nat × List (Nat × List Nat)) s =>
    let cs := interleave acc.1 10000 s.2.2 0
    (acc.1.filter (fun c => !cs.contains c), acc.2 ++ [(s.1, cs)])) (free, [])
  let (_, b) := plain.foldl (fun (acc : List Nat × List (Nat × List Nat)) s =>
    (acc.1.drop s.2.2, acc.2 ++ [(s.1, acc.1.take s.2.2)])) (free, [])
  a ++ b

/-- Whether an operation runs strict: STRICT, but for a class-6 stage, which runs in fast mode (R75, R363). -/
def OperE.runsStrict (o : OperE) : Bool := o.strict && o.cls ≠ 6

/-- The carrier in use: the largest of the operation's tensors, each at least its natural one in strict mode (R76, R268; log
entry 127). -/
def stageCarrier (p : Package) (table : Nat → Desc) (o : OperE) : Nat :=
  (p.opEdges o).foldl (fun n e =>
    let t := p.tensors.getD e.tensor ⟨0, 0, 0, false, false, 0, 0⟩
    let f := fmtOf t.fmt (table t.fmt)
    max n (if o.runsStrict then max t.carrier f.nat else t.carrier)) 0

/-- The WORK values of a segment; where all are 0, R273's quotients have no value and free weights stand for them (log
entry 128). -/
def segmentWorks (p : Package) (ops : List (Nat × Nat)) : List Nat :=
  if ops.all fun x => x.2 = 0 then ops.map fun x => 1 + Config.zeroWork p.digest.toNat x.1 else ops.map (·.2)

/-- All stages of a package over the unfenced clusters. -/
def stagesOf (p : Package) (table : Nat → Desc) (free : List Nat) : List Stage :=
  let u := free.length
  let segs := p.segments u
  let nseg := segs.foldl max 0 + 1
  let laid := (List.range nseg).flatMap fun s =>
    let ops := (p.opers.zip segs).zipIdx.filter fun x => x.1.2 = s
    let ns := allocate u (segmentWorks p (ops.map fun x => (x.2, x.1.1.work)))
    layout free ((ops.zip ns).map fun (x, n) => (x.2, x.1.1.cls, min n (max 1 (mostClusters p x.1.1))))
  (p.opers.zip segs).zipIdx.map fun x =>
    let (o, seg) := x.1
    { op := x.2, segment := seg, interleaved := o.cls = 3 || o.cls = 6, carrier := stageCarrier p table o,
      strict := o.strict, work := o.work,
      clusters := ((laid.find? fun l => l.1 = x.2).map (·.2)).getD [] }

end Sys2Proof.Machine
end

