-- ==== Sys2Proof/Machine/Matrix.lean ====
section
/-! DEFINITION. Matrices in SI limb form as the module's own curvature work holds and multiplies them: buffers of elements
(02 R86), a GEMM on the array's fast schedule (04 R118 to R130, R148), the Newton iteration (10 R365 to R367) and the update
of the statistics (10 R361, R362). -/
namespace Sys2Proof.Machine

/-! ### Elements in memory: data, then scale codes (R86) -/

/-- Blocks of an element count. -/
def slvBlocks (n : Nat) : Nat := (n + 31) / 32

/-- Element e of a buffer in limb form: none for NaR. -/
def slvElem (rd : Nat → Byte) (l data scale e : Nat) : Option Ex :=
  let b := e / 32
  mantVal (.limb l) (rd (scale + b)).toNat ((readMants rd (.limb l) (data + 32 * l * b)).getD (e % 32) none)

/-- Blocks of 32 elements formed in the carrier (R60, R62). -/
def slvForm (l : Nat) : Nat → List (Option Ex) → List (Blk × Cond)
  | 0, _ => []
  | n + 1, xs => formBlock (.limb l) ((padTo 32 (some Ex.zero) (xs.take 32)).map fun v => { val := v }) :: slvForm l n (xs.drop 32)

/-- The elements of a stretch of n elements with l limbs. -/
def siRead (rd : Nat → Byte) (l addr n : Nat) : List (Option Ex) :=
  (List.range n).map fun e => slvElem rd l addr (addr + 32 * l * slvBlocks n) e

/-- Bytes of n elements in l limbs with their scale codes. -/
def siLen (l n : Nat) : Nat := (32 * l + 1) * slvBlocks n

/-- Whether an element has a byte or its scale byte in an uncorrectable sector (R413). -/
def siMarked (ue : List Nat) (l addr n e : Nat) : Bool :=
  (List.range l).any (fun k => ue.contains ((addr + 32 * l * (e / 32) + 32 * k + e % 32) / 32))
  || ue.contains ((addr + 32 * l * slvBlocks n + e / 32) / 32)

/-- The elements that Medlar reads: NaR where a sector is uncorrectable (R413). -/
def Memory.siRead (m : Memory) (l addr n : Nat) : List (Option Ex) :=
  let xs := Sys2Proof.Machine.siRead m.get l addr n
  if m.ue.isEmpty then xs else xs.zipIdx.map fun (x, e) => if siMarked m.ue l addr n e then none else x

/-- The bytes of elements formed in blocks of 32 (R60, R62). -/
def siWrite (l addr : Nat) (xs : List (Option Ex)) : List WByte :=
  let bs := slvForm l (slvBlocks xs.length) xs
  (bs.zipIdx.flatMap fun (b, k) => writesAt (addr + 32 * l * k) (blkData (.limb l) b.1.m))
  ++ writesAt (addr + 32 * l * bs.length) (bs.map fun b => BitVec.ofNat 8 (scaleCode b.1.e))

/-! ### A GEMM on the fast schedule -/

/-- A matrix of n rows and n columns, row after row. -/
abbrev Mat := List (Option Ex)

/-- A block as the array takes it: scale code and mantissas. -/
abbrev MatBlk := Nat × List (Option Int)

def zeroBlk : MatBlk := (0, List.replicate 32 (some 0))

/-- A row in blocks of 32 along its length, followed by zero blocks up to the depth of whole 64-deep tiles. -/
def rowBlks (l n : Nat) (xs : Mat) : List MatBlk :=
  padTo (2 * ((n + 63) / 64)) zeroBlk ((slvForm l (slvBlocks n) xs).map fun b => (scaleCode b.1.e, b.1.m))

def matRows (l n : Nat) (a : Mat) : List (List MatBlk) := (List.range n).map fun i => rowBlks l n ((a.drop (i * n)).take n)

/-- The stationary operand, which lies along its rows, re-blocked along k as a load with TRANSPOSE = 1 does (R130): for each
32-deep part of k and each group of 32 columns, the column blocks. -/
def turned (l n : Nat) (rows : List (List MatBlk)) : List (List (List MatBlk)) × Cond :=
  let parts := (List.range (2 * ((n + 63) / 64))).map fun h => (List.range (slvBlocks n)).map fun q =>
    reblock l ((List.range 32).map fun k => (rows.getD (32 * h + k) []).getD q zeroBlk)
  (parts.map fun p => p.map (·.1), orAll (parts.flatMap fun p => p.map (·.2)))

def narBlk (b : MatBlk) : Bool := b.1 = 255 || b.2.any (·.isNone)

/-- One stationary block column of limb j as the array's active tile holds it. -/
def colTile (l j : Nat) (bs : List MatBlk) : Tile :=
  { src := { lb := l, transpose := true, level := 0, dataAddr := 0, scaleAddr := 0, resAddr := 0, resCount := 0, resBlk0 := 0 }
    limb := j, half := false, blocks := bs.map fun b => (b.1, b.2.map (limbAt l j false)), nar := bs.map narBlk
    empty := false, maxExp := 0 }

/-- One element of the product: the 64-deep tiles in order, for each the stationary limbs in order, for each the permitted
moving limbs (R142 to R144). -/
def gemmEntry (l : Nat) (row col : List MatBlk) : Acc × Cond :=
  (List.range (row.length / 2)).foldl (fun (a : Acc × Cond) t =>
    let m := (row.drop (2 * t)).take 2
    let s := (col.drop (2 * t)).take 2
    let mv : MovRow :=
      { entry := 0, parts := m.map fun b => (b.1, narBlk b, (List.range l).map fun i => b.2.map (limbAt l i false)) }
    (List.range l).foldl (fun a j => (permitted false l l j).foldl (fun (a : Acc × Cond) i =>
      let r := passEntry (colTile l j s) false i none mv (m.any narBlk) 0 a.1
      (r.1, a.2 ||| r.2)) a) a) ({}, 0)

/-- The product of moving rows and stationary columns in l limbs, drained at `dst` limbs, with the conditions raised. -/
def gemmOf (l dst n : Nat) (a : Mat) (col : Nat → List MatBlk) : Mat × Cond :=
  let rows := (matRows l n a).map fun row => (List.range n).map fun c => gemmEntry l row (col c)
  let outs := rows.map fun r => slvForm dst (slvBlocks n) (r.map fun x => x.1.val)
  (outs.flatMap (fun bs => (bs.flatMap fun b => b.1.m.map fun m => mantVal (.limb dst) (scaleCode b.1.e) m).take n),
    orAll (rows.flatMap fun r => r.map (·.2)) ||| orAll (outs.flatMap fun bs => bs.map (·.2)))

/-- A × B of n by n matrices in l limbs, drained in l limbs. DESIGN CHOICE, log entry 16: the spec names the fast schedule and no
order of the tiles; the stationary operand is loaded from rows, with TRANSPOSE = 1. -/
def gemm (l n : Nat) (a b : Mat) : Mat × Cond :=
  let (cols, k0) := turned l n (matRows l n b)
  let r := gemmOf l l n a fun c => cols.map fun p => (p.getD (c / 32) []).getD (c % 32) zeroBlk
  (r.1, k0 ||| r.2)

/-- V × Vᵀ of 3-limb V, drained at 4 limbs (R370): the columns of Vᵀ are the rows of V, which lie along k already. -/
def gramOf (n : Nat) (v : Mat) : Mat :=
  let rows := matRows 3 n v
  (gemmOf 3 4 n v fun c => rows.getD c []).1

/-! ### The Newton iteration (R366, R367) -/

/-- Elements formed in blocks of l limbs, as the values that they then have. -/
def siForm (l n : Nat) (a : Mat) : Mat × Cond :=
  let rows := (List.range n).map fun i => slvForm l (slvBlocks n) ((a.drop (i * n)).take n)
  (rows.flatMap (fun bs => (bs.flatMap fun b => b.1.m.map fun m => mantVal (.limb l) (scaleCode b.1.e) m).take n),
    orAll (rows.flatMap fun bs => bs.map (·.2)) ||| (if a.any Option.isNone then cNarIn else 0))

/-- c × I − A. -/
def scaledIdentityMinus (c n : Nat) (a : Mat) : Mat :=
  a.zipIdx.map fun (x, i) => x.map fun v => (if i / n = i % n then unitsOf c 0 else Ex.zero).sub v

/-- What an iteration leaves, and the conditions that it raised. -/
structure NewtonStep where
  t : Mat
  x : Mat
  u : Mat
  m : Mat
  cond : Cond

/-- One iteration (R366): T = ((p + 1) × I − M) ÷ p, X ← X × T, U = T^p, M ← U × M, all in 4 limbs; p is 1, 2 or 4. -/
def newtonStep (p n : Nat) (x m : Mat) : NewtonStep :=
  let (d, k0) := siForm 4 n (scaledIdentityMinus (p + 1) n m)
  let t := d.map fun v => v.map fun y => { y with e := y.e - (if p = 1 then 0 else if p = 2 then 1 else 2) }
  let (x', k1) := gemm 4 n x t
  let (u1, k2) := if p = 1 then (t, 0) else gemm 4 n t t
  let (u, k3) := if p = 4 then gemm 4 n u1 u1 else (u1, 0)
  let (m', k4) := gemm 4 n u m
  { t := t, x := x', u := u, m := m', cond := k0 ||| k1 ||| k2 ||| k3 ||| k4 }

/-- δ over the rows from lo up to hi: the largest magnitude of M − I; none for NaR. -/
def newtonDelta (n lo hi : Nat) (m : Mat) : Option Ex :=
  (((scaledIdentityMinus 1 n m).take (hi * n)).drop (lo * n)).foldl (fun a v => match a, v with
    | some a, some v => some (if a.lt v.abs then v.abs else a)
    | _, _ => none) (some Ex.zero)

/-- ⌈log₂ x⌉ of a positive value. -/
def ceilLog2 (x : Ex) : Int :=
  let k := x.log2
  if (unitsOf 1 k).eq x then k else k + 1

/-- DCODE of an iteration's rows from lo up to hi (R367). -/
def dcodeOf (n lo hi : Nat) (s : NewtonStep) : Nat :=
  if s.cond &&& (cNarIn ||| cNarGen ||| cSat) ≠ 0 then 0xFF
  else match newtonDelta n lo hi s.m with
    | none => 0xFF
    | some d => if d.n = 0 then 0 else min 0xFE (127 + ceilLog2 d).toNat

/-! ### Statistics (R361, R362) -/

/-- Elementwise sums of two buffers (R59). -/
def addElems (a b : Mat) : Mat := a.zipWith (fun x y => match x, y with
  | some x, some y => some (x.add y)
  | _, _ => none) b

/-- F ← β × F + γ × S, exact before the one rounding (R362). -/
def factorUpdate (beta gamma : Ex) (f s : Mat) : Mat := f.zipWith (fun x y => match x, y with
  | some x, some y => some ((beta.mul x).add (gamma.mul y))
  | _, _ => none) s

end Sys2Proof.Machine
end

