-- ==== Sys2Proof/Machine/Problem.lean ====
section
/-! DEFINITION. Multibody problems (09 R296 to R299, R301, R304 to R306, R310): the image, its checks, its signature,
range analysis and the space it takes. -/
namespace Sys2Proof.Machine

def imgW (ws : List Word) (i : Nat) : Word := ws.getD i 0

/-- A Q31.32 parameter. -/
def q32 (w : Word) : Ex := unitsOf w.toInt (-32)

structure JointE where
  type : Nat
  limit : Bool
  parent : Nat
  words : List Word
  deriving DecidableEq, Repr

def jointAt (ws : List Word) (k : Nat) : JointE :=
  let w0 := imgW ws (8 + 24 * k)
  { type := fld w0 0 3, limit := bit w0 3, parent := fld w0 8 9, words := (List.range 24).map fun i => imgW ws (8 + 24 * k + i) }

def probNJ (ws : List Word) : Nat := fld (imgW ws 0) 0 9
def probNL (ws : List Word) : Nat := fld (imgW ws 0) 9 5
def probNF (ws : List Word) : Nat := fld (imgW ws 0) 14 5
def probJoints (ws : List Word) : List JointE := (List.range (probNJ ws)).map (jointAt ws)
def loopWord (ws : List Word) (l i : Nat) : Word := imgW ws (8 + 24 * probNJ ws + 8 * l + i)
def frameWord (ws : List Word) (f i : Nat) : Word := imgW ws (8 + 24 * probNJ ws + 8 * probNL ws + 4 * f + i)

/-- nq, nv and joint units of a joint type (R296). -/
def jointDims : Nat → Nat × Nat × Nat
  | 1 => (1, 1, 1)
  | 2 => (1, 1, 1)
  | 3 => (4, 3, 2)
  | 4 => (7, 6, 3)
  | _ => (0, 0, 0)

def probNq (ws : List Word) : Nat := ((probJoints ws).map fun j => (jointDims j.type).1).foldl (· + ·) 0
def probNv (ws : List Word) : Nat := ((probJoints ws).map fun j => (jointDims j.type).2.1).foldl (· + ·) 0
def probJ (ws : List Word) : Nat := ((probJoints ws).map fun j => (jointDims j.type).2.2).foldl (· + ·) 0

/-- Constraint rows: 3 for a point, 6 for a weld, 1 for a distance and for each limited joint (R297). -/
def loopRows : Nat → Nat
  | 0 => 3
  | 1 => 6
  | _ => 1

def probRows (ws : List Word) : Nat :=
  ((List.range (probNL ws)).map fun l => loopRows (fld (loopWord ws l 0) 0 2)).foldl (· + ·) 0
    + ((probJoints ws).filter (·.limit)).length

/-! ### Norms and range analysis -/

def sumSq (xs : List Ex) : Ex := xs.foldl (fun a x => a.add (x.mul x)) Ex.zero

/-- Whether a vector's norm differs from 1 by more than 2^−20 (R301). -/
def normBad (xs : List Ex) : Bool :=
  let s := sumSq xs
  let lo : Ex := { n := 2 ^ 20 - 1, e := -20 }
  let hi : Ex := { n := 2 ^ 20 + 1, e := -20 }
  s.lt (lo.mul lo) || (hi.mul hi).lt s

def norm (xs : List Ex) : Ex := let s := sumSq xs; if s.n = 0 then Ex.zero else s.sqrt

/-- ρ of R310, none where the sum is zero. -/
def probReach (ws : List Word) : Option Int :=
  let js := probJoints ws
  let lens := js.map fun j =>
    (norm ((j.words.drop 4).take 3 |>.map q32)).add (norm ((j.words.drop 12).take 3 |>.map q32))
  let np := (js.filter fun j => j.type = 2 || j.type = 4).length
  let s := (lens.foldl Ex.add Ex.zero).add (unitsOf np (signedOf 8 (fld (imgW ws 4) 0 8)))
  if s.n = 0 then none else some (ceilLog2 s)

/-- Every bound exponent of R310: the eight rows' first classes, then the second classes of the rows that have one
and the quaternion components. None where a sum of masses is zero. -/
def probBounds (ws : List Word) : Option (List Int × List Int) :=
  let x (i : Nat) := signedOf 8 (fld (imgW ws 4) (8 * i) 8)
  let rho := max ((probReach ws).getD 0) 0
  let g := norm (((ws.drop 1).take 3).map q32)
  let acc := if bit (imgW ws 0) 19 && g.n ≠ 0 then max (x 2) (ceilLog2 g) else x 2
  let two : Ex := { n := 1, e := 2 * rho }
  let mass := ((probJoints ws).map fun j =>
    ((q32 (j.words.getD 11 0)).mul ((unitsOf 1 0).add two)).add
      (((q32 (j.words.getD 15 0)).add (q32 (j.words.getD 16 0))).add (q32 (j.words.getD 17 0)))).foldl Ex.add Ex.zero
  if mass.n ≤ 0 then none
  else
    some ([x 0, rho, x 1, acc, x 3, ceilLog2 mass, 8, x 5 + rho + 1],
      [0, x 1 + rho + 1, acc + rho + 1, max (x 3) (x 4) + rho + 1])

/-- R304. -/
def probSignature (ws : List Word) : Word :=
  let js := (probJoints ws).flatMap fun j =>
    [BitVec.ofNat 8 j.type, BitVec.ofNat 8 j.parent,
     BitVec.ofNat 8 (j.parent / 256 + (if j.limit then 2 else 0)), 0]
  let ls := (List.range (probNL ws)).flatMap fun l =>
    let w := loopWord ws l 0
    [BitVec.ofNat 8 (fld w 0 2), BitVec.ofNat 8 (fld w 8 9), BitVec.ofNat 8 (fld w 17 9),
     BitVec.ofNat 8 (fld w 8 9 / 256 + 2 * (fld w 17 9 / 256))]
  let bytes := [BitVec.ofNat 8 (probNJ ws), BitVec.ofNat 8 (probNJ ws / 256), BitVec.ofNat 8 (probNL ws)] ++ js ++ ls
  (sha3Num bytes).truncate 64

/-! ### The checks of R301 -/

/-- A SOLVER entry of the package (R306). -/
def solverEntry (p : Package) (kind id : Nat) : Option (List Word) :=
  p.solver.find? fun ws => fld (imgW ws 0) 0 2 = kind && fld (imgW ws 0) 8 8 = id

/-- MAX_J, MAX_NV, MAX_L, MAX_F of a multibody slot. -/
def slotMax (ws : List Word) : Nat × Nat × Nat × Nat :=
  let w := imgW ws 1
  (fld w 0 9, fld w 9 10, fld w 19 5, fld w 24 5)

/-- DETAIL 0x02. -/
def probTooBig (ws entry : List Word) : Bool :=
  let (mj, mv, ml, mf) := slotMax entry
  ws.length ≠ 8 + 24 * probNJ ws + 8 * probNL ws + 4 * probNF ws
  || mj < probNJ ws || mv < probNv ws || ml < probNL ws || mf < probNF ws

/-- DETAIL 0x03. -/
def probReserved (ws : List Word) : Bool :=
  probNJ ws = 0 || 256 < probNJ ws || 16 < probNL ws || 16 < probNF ws || fld (imgW ws 0) 20 44 ≠ 0
  || imgW ws 5 ≠ 0 || imgW ws 6 ≠ 0 || imgW ws 7 ≠ 0
  || (probJoints ws).zipIdx.any (fun (j, i) => 4 < j.type || (j.limit && j.type ≠ 1 && j.type ≠ 2)
      || (j.type = 4 && i ≠ 0) || fld (j.words.getD 0 0) 4 4 ≠ 0 || fld (j.words.getD 0 0) 17 47 ≠ 0
      || j.words.getD 23 0 ≠ 0)
  || (List.range (probNL ws)).any (fun l => fld (loopWord ws l 0) 0 2 = 3 || fld (loopWord ws l 0) 2 6 ≠ 0
      || fld (loopWord ws l 0) 26 38 ≠ 0)
  || (List.range (probNF ws)).any fun f => fld (frameWord ws f 0) 9 55 ≠ 0

/-- DETAIL 0x04. -/
def probParents (ws : List Word) : Bool :=
  (probJoints ws).zipIdx.any fun (j, i) => if i = 0 then j.parent ≠ 0x1FF else i ≤ j.parent

/-- DETAIL 0x05: axes, rotations, masses, inertias, of every joint. -/
def probParams (ws : List Word) : Bool :=
  (probJoints ws).any fun j =>
    normBad ((j.words.drop 1).take 3 |>.map q32)
    || normBad ((j.words.drop 7).take 4 |>.map q32)
    || (j.words.getD 11 0).toInt < 0
    || ((j.words.drop 15).take 3).any fun w => w.toInt < 0

/-- DETAIL 0x07. -/
def probLinks (ws : List Word) : Bool :=
  (List.range (probNL ws)).any (fun l =>
    let w := loopWord ws l 0
    probNJ ws ≤ fld w 8 9 || probNJ ws ≤ fld w 17 9 || fld w 8 9 = fld w 17 9)
  || (List.range (probNF ws)).any fun f => probNJ ws ≤ fld (frameWord ws f 0) 0 9

def boundsBad (ws : List Word) : Bool :=
  match probBounds ws with
  | none => true
  | some (a, b) => (a ++ b).any fun x => x < -1 || 30 < x

/-- The DETAIL of the first failing check after 0x01, 0 when none fails (R301). -/
def probDetail (ws entry : List Word) : Nat :=
  if probTooBig ws entry then 2 else if probReserved ws then 3 else if probParents ws then 4
  else if probParams ws then 5 else if boundsBad ws then 6 else if probLinks ws then 7 else 0

/-- The accepted problem. -/
def problemOf (ws : List Word) : Problem :=
  { image := ws, signature := probSignature ws, nv := probNv ws, nq := probNq ws, rows := probRows ws,
    joints := probJ ws, bounds := ((probBounds ws).map (·.1)).getD [] }

/-! ### The SOLVER section (R306) and the store (R305) -/

/-- DETAIL 0x0B: ranges and unique IDs. -/
def solverBad (p : Package) : Bool :=
  p.solver.any (fun ws =>
    let w0 := imgW ws 0
    let w1 := imgW ws 1
    let id := fld w0 8 8
    match fld w0 0 2 with
    | 0 => let (j, v, l, f) := slotMax ws
      63 < id || j = 0 || 256 < j || v = 0 || 771 < v || 16 < l || 16 < f
    | 1 => 63 < id || fld w1 0 11 = 0 || 1024 < fld w1 0 11 || fld w1 11 7 = 0 || 64 < fld w1 11 7
    | 2 => 63 < id || fld w1 16 24 = 0
    | _ => true)
  || (List.range p.solver.length).any fun i => (List.range i).any fun j =>
      let a := imgW (p.solver.getD i []) 0
      let b := imgW (p.solver.getD j []) 0
      fld a 8 8 = fld b 8 8 && ((fld a 0 2 = 2) == (fld b 0 2 = 2))

def pages (bytes : Nat) : Nat := (bytes + 4095) / 4096

/-- Pages of a slot or of a context with n instances (R305). -/
def itemPages (p : Package) (ws : List Word) (n : Nat) : Nat :=
  let w1 := imgW ws 1
  match fld (imgW ws 0) 0 2 with
  | 0 => let (j, _, l, f) := slotMax ws
    pages (256 + 512 * j + 128 * l + 64 * f)
  | 1 => pages (2 * fld w1 0 11 * (fld w1 0 11 + 1))
  | _ =>
    let slot := fld w1 0 6
    let w := match solverEntry p 0 slot with
      | some s => let (j, v, l, _) := slotMax s
        2 * v + 6 * l + j
      | none => match solverEntry p 1 slot with
        | some s => fld (imgW s 1) 0 11 * fld (imgW s 1) 11 7
        | none => 0
    pages (64 + 4 * n * w)

/-! ### The solver command (R308) and its buffers (R309, R311, R328, R329) -/

def cmdFld (c : BitVec 512) (word lo len : Nat) : Nat := fld c (64 * word + lo) len

/-- Whether OP uses a dense slot. -/
def isDense (c : BitVec 512) : Bool := cmdFld c 0 0 5 = 9

/-- MODE permitted for OP (R311). -/
def modeOk (op mode : Nat) (constrained : Bool) : Bool :=
  mode = 0 || (mode < 3 && (op = 5 || op = 6 || op = 7 || (op = 8 && !constrained)))

/-- Input coordinates of a call: nq, nv, frames, rows of the problem. -/
def inCoords (c : BitVec 512) (pr : Problem) : Nat :=
  let op := cmdFld c 0 0 5
  let mode := cmdFld c 0 5 2
  let nf := probNF pr.image
  let wr := if cmdFld c 0 7 1 = 1 then 6 * nf else 0
  let base := match op with
    | 1 => pr.nq
    | 2 => pr.nq
    | 3 => pr.nq + 2 * pr.nv + wr
    | 4 => pr.nq
    | 9 => 0
    | _ => pr.nq + 2 * pr.nv + wr
  let lam := if op = 6 || (op = 7 && cmdFld c 0 11 1 = 1) then pr.rows else 0
  match mode with
  | 1 => base + 3 * pr.nv
  | 2 => base + lam + (if op = 5 then pr.nv else if op = 6 then pr.nv + pr.rows else 2 * pr.nv)
  | _ => base

def outCoords (c : BitVec 512) (pr : Problem) : Nat :=
  let op := cmdFld c 0 0 5
  let mode := cmdFld c 0 5 2
  let nf := probNF pr.image
  let wr := if cmdFld c 0 7 1 = 1 then 6 * nf else 0
  let primal := match op with
    | 1 => 7 * nf
    | 2 => 6 * pr.nv * nf
    | 3 => pr.nv
    | 4 => pr.nv * (pr.nv + 1) / 2
    | 5 => pr.nv
    | 6 => pr.nv + pr.rows
    | 9 => 0
    | _ => pr.nq + pr.nv
  match mode with
  | 1 => primal + (if op = 5 then pr.nv else if op = 6 then pr.nv + pr.rows else 2 * pr.nv)
  | 2 => 3 * pr.nv + wr
  | _ => primal

/-- A dense matrix column padded to whole blocks. -/
def padded (n : Nat) : Nat := (n + 31) / 32 * 32

/-- Elements of a call's input and output buffers: coordinates × padded instances, or the dense fields (R309,
R311). -/
def inElems (c : BitVec 512) (pr : Problem) : Nat :=
  if isDense c then
    let n := cmdFld c 5 0 11
    padded (n * (n + 1) / 2) + cmdFld c 5 11 7 * padded n
  else inCoords c pr * padded (cmdFld c 0 32 13)

def outElems (c : BitVec 512) (pr : Problem) : Nat :=
  if isDense c then
    let n := cmdFld c 5 0 11
    cmdFld c 5 11 7 * padded n
      + (if cmdFld c 5 18 1 = 1 then padded (n * (n - 1) / 2) + padded n else 0)
  else outCoords c pr * padded (cmdFld c 0 32 13)

/-- Lanes of a wave (R295). -/
def lanesFor (c : BitVec 512) (pr : Problem) : Nat :=
  if isDense c then 1 else min 256 (1048576 / (96 * pr.joints + 512))

end Sys2Proof.Machine
end

