-- ==== Sys2Proof/Machine/Training.lean ====
section
/-! DEFINITION. Curvature entries, their blocks, the group of a module and its shards (10 R340 to R342, R357, R358,
R363), and the load checks of chapters 09 and 10 (R267 DETAIL 0x0B, 0x0C, 0x24). -/
namespace Sys2Proof.Machine

/-! ### Curvature entries (R357, R358) -/

/-- A CURVATURE entry. -/
structure CurvE where
  kind : Nat
  p : Nat
  block : Nat
  op : Nat
  root : Nat
  beta : Nat
  gammaMan : Nat
  gammaScale : Nat
  epsMan : Nat
  epsScale : Nat
  tol : Int
  maxNewton : Nat
  perStep : Nat
  stat : Nat
  rootEvery : Nat
  deriving DecidableEq, Repr

def curvOf (ws : List Word) : CurvE :=
  let w (i : Nat) := ws.getD i 0
  { kind := fld (w 0) 0 2, p := 2 ^ fld (w 0) 2 2, block := 256 * 2 ^ fld (w 0) 4 2, op := fld (w 0) 16 16, root := fld (w 0) 32 32
    beta := fld (w 1) 0 16, gammaMan := fld (w 1) 16 24, gammaScale := fld (w 1) 40 8
    epsMan := fld (w 2) 0 24, epsScale := fld (w 2) 24 8, tol := signedOf 8 (fld (w 2) 32 8), maxNewton := fld (w 2) 40 8
    perStep := fld (w 2) 48 6, stat := fld (w 3) 0 16, rootEvery := fld (w 3) 16 16 }

def Package.curv (p : Package) (e : Nat) : Option CurvE := (p.curvature[e]?).map curvOf

def Package.oper (p : Package) (i : Nat) : Option OperE := p.opers[i]?

/-- The dimension of a factor: K or N of a GEMM; rows or columns of the gradient, which M and N of a class-4 operation
give (log entry 20). -/
def Package.factorDim (p : Package) (e : CurvE) : Nat :=
  match p.oper e.op with
  | some o => (match e.kind with | 0 => o.k | 1 => o.n | 2 => o.m | _ => o.n)
  | none => 0

/-- The rows of the diagonal blocks. -/
def blockRows (n size : Nat) : List Nat :=
  (List.range ((n + size - 1) / size)).map fun i => min size (n - i * size)

/-- A block by its global number: its entry, its rows, and its offset in the ROOT tensor in elements. -/
structure Block where
  entry : Nat
  n : Nat
  first : Nat
  deriving DecidableEq, Repr

/-- Blocks of one entry. -/
def Package.entryBlocks (p : Package) (i : Nat) (e : CurvE) : List Block :=
  let ns := blockRows (p.factorDim e) e.block
  ns.zipIdx.map fun (n, k) => { entry := i, n := n, first := ((ns.take k).map fun m => m * m).foldl (· + ·) 0 }

/-- Every block in global order. -/
def Package.blocks (p : Package) : List Block :=
  p.curvature.zipIdx.flatMap fun (ws, i) => p.entryBlocks i (curvOf ws)

def Package.block (p : Package) (b : Nat) : Option Block := p.blocks[b]?

/-- The entries that a class-5 or class-6 operation names, and the class-6 operation that names an entry. -/
def OperE.crvRange (o : OperE) : Nat × Nat :=
  if o.cls = 6 then (fld (o.word 4) 0 32, fld (o.word 4) 32 16) else (fld (o.word 6) 32 32, fld (o.word 7) 0 16)

def OperE.names (o : OperE) (e : Nat) : Bool := let (a, n) := o.crvRange; decide (a ≤ e ∧ e < a + n)

def Package.rootOp (p : Package) (entry : Nat) : Option Nat := p.opers.findIdx? fun o => o.cls = 6 && o.names entry

/-! ### The checks of chapter 10 -/

def Package.tensor (p : Package) (t : Nat) : TensorE := p.tensors.getD t ⟨0, 0, 0, false, false, 0, 0⟩

/-- References of class 4 and 5 operations and of CURVATURE entries to things that do not exist (DETAIL 0x08). -/
def trainingRefs (p : Package) (o : OperE) : Bool :=
  let no (t : Nat) : Bool := decide (p.tensors.length ≤ t)
  (o.cls = 4 && (no (fld (o.word 4) 0 32) || no (fld (o.word 4) 32 32)))
  || (o.cls = 5 && (no (fld (o.word 4) 0 32) || (fld (o.word 4) 32 32 ≠ 0xFFFFFFFF && no (fld (o.word 4) 32 32))
      || (fld (o.word 5) 32 4 ≠ 0 && no (fld (o.word 5) 0 32)) || no (fld (o.word 6) 0 32)))

def curvatureRefs (p : Package) : Bool :=
  p.curvature.any fun ws => let e := curvOf ws; decide (p.opers.length ≤ e.op) || decide (p.tensors.length ≤ e.root)

/-- Reserved bits of the sections and words of chapters 09 and 10 (DETAIL 0x0A); a bit that no field names is reserved (log
entry 60). -/
def trainingReserved (p : Package) : Bool :=
  p.training.any (fun ws => fld (ws.getD 0 0) 4 60 ≠ 0 || ws.getD 1 0 ≠ 0 || ws.getD 2 0 ≠ 0 || ws.getD 3 0 ≠ 0)
  || p.curvature.any (fun ws => fld (ws.getD 0 0) 6 10 ≠ 0 || fld (ws.getD 1 0) 48 16 ≠ 0 || fld (ws.getD 2 0) 54 10 ≠ 0
      || fld (ws.getD 3 0) 32 32 ≠ 0)
  || p.solver.any (fun ws => ws.getD 2 0 ≠ 0 || ws.getD 3 0 ≠ 0 || fld (ws.getD 0 0) 2 6 ≠ 0 || fld (ws.getD 0 0) 16 48 ≠ 0
      || (let w := ws.getD 1 0
          match fld (ws.getD 0 0) 0 2 with
          | 0 => fld w 29 35 ≠ 0
          | 1 => fld w 42 22 ≠ 0
          | 2 => fld w 6 10 ≠ 0 || fld w 40 24 ≠ 0
          | _ => false))
  || p.opers.any fun o => match o.cls with
    | 3 => fld (o.word 4) 22 2 ≠ 0 || fld (o.word 4) 35 29 ≠ 0 || fld (o.word 5) 24 40 ≠ 0 || fld (o.word 6) 56 8 ≠ 0
        || fld (o.word 7) 51 13 ≠ 0
    | 5 => fld (o.word 5) 36 28 ≠ 0 || fld (o.word 7) 16 48 ≠ 0
    | 4 => o.word 5 ≠ 0 || o.word 6 ≠ 0 || o.word 7 ≠ 0
    | 6 => fld (o.word 4) 48 16 ≠ 0 || o.word 5 ≠ 0 || o.word 6 ≠ 0 || o.word 7 ≠ 0
    | _ => o.word 4 ≠ 0 || o.word 5 ≠ 0 || o.word 6 ≠ 0 || o.word 7 ≠ 0

/-- A class-4 operation (R347). -/
def gradBad (p : Package) (o : OperE) : Bool :=
  let g := p.tensor (fld (o.word 4) 0 32)
  let r := p.tensor (fld (o.word 4) 32 32)
  g.fmt ≠ 2 || r.fmt ≠ 2 || g.elements ≠ r.elements

/-- A class-5 operation (R352). -/
def updateBad (p : Package) (o : OperE) : Bool :=
  let m := p.tensor (fld (o.word 4) 0 32)
  let w := fld (o.word 4) 32 32
  let n := fld (o.word 5) 32 4
  let st := p.tensor (fld (o.word 5) 0 32)
  let (a, k) := o.crvRange
  m.fmt ≠ 2 || !m.persist || (w ≠ 0xFFFFFFFF && (p.tensor w).elements ≠ m.elements)
  || 8 < n || (n ≠ 0 && (st.fmt ≠ 2 || st.elements ≠ n * m.elements))
  || !(p.opers.any fun q => q.cls = 4 && fld (q.word 4) 32 32 = fld (o.word 6) 0 32)
  || (a ≠ 0xFFFFFFFF && decide (p.curvature.length < a + k))

/-- A CURVATURE entry outside its ranges (R357, R358). -/
def curvBad (p : Package) (ws : List Word) : Bool :=
  let e := curvOf ws
  let want := if e.kind < 2 then 1 else 4
  let t := p.tensor e.root
  let size := ((blockRows (p.factorDim e) e.block).map fun n => n * n).foldl (· + ·) 0
  (match p.oper e.op with | some o => o.cls ≠ want | none => true)
  || fld (ws.getD 0 0) 2 2 = 3 || t.fmt ≠ 0x13 || !t.persist || t.elements ≠ size
  || e.beta = 0 || e.epsMan = 0 || e.tol < -100 || -1 < e.tol || e.maxNewton = 0 || e.perStep = 0
  || e.stat = 0 || e.rootEvery = 0 || e.rootEvery % e.stat ≠ 0

/-- DETAIL 0x0C. -/
def trainingBad (p : Package) : Bool :=
  (p.opers.any (fun o => o.cls = 4 || o.cls = 5 || o.cls = 6) && p.training.length ≠ 1) || 1 < p.training.length
  || p.opers.any (fun o => (o.cls = 4 && gradBad p o) || (o.cls = 5 && updateBad p o)
      || (o.cls = 6 && (let (a, k) := o.crvRange; decide (p.curvature.length < a + k))))
  || p.curvature.any (curvBad p)
  || 4096 < p.curvature.length || 65536 < p.blocks.length
  || (List.range p.curvature.length).any fun e => 1 < p.opers.countP fun o => o.cls = 6 && o.names e

/-- A class-3 operation outside the ranges of R307 (DETAIL 0x0B). -/
def solverOpBad (o : OperE) : Bool :=
  o.cls = 3 && (fld (o.word 5) 0 24 = 0 || (fld (o.word 4) 0 5 = 9 && fld (o.word 5) 0 24 ≠ 1))

/-! ### Group and shards (R341, R342) -/

/-- DP_MASK of the loaded package. -/
def Package.dpMask (p : Package) : Nat := match p.training with | ws :: _ => fld (ws.getD 0 0) 0 4 | [] => 0

/-- Extents and coordinates in the dimensions x, y, z, replica. -/
def Fabric.extents (f : Fabric) : List Nat := [f.xn.toNat, f.yn.toNat, f.zn.toNat, if f.mirror then 2 else 1]
def Fabric.coords (f : Fabric) : List Nat := [f.x.toNat, f.y.toNat, f.z.toNat, if f.replica then 1 else 0]

/-- The dimensions of a mask, lowest first. -/
def dimsOf (mask : Nat) : List Nat := (List.range 4).filter fun d => mask.testBit d

/-- The group size of a mask; a dimension without an extent counts one module. -/
def Fabric.groupSize (f : Fabric) (mask : Nat) : Nat :=
  (dimsOf mask).foldl (fun n d => n * max 1 (f.extents.getD d 1)) 1

/-- The rank of a module by its coordinates. -/
def Fabric.rankOf (f : Fabric) (mask : Nat) (xs : List Nat) : Nat :=
  (dimsOf mask).foldr (fun d r => r * max 1 (f.extents.getD d 1) + xs.getD d 0) 0

def Fabric.rank (f : Fabric) (mask : Nat) : Nat := f.rankOf mask f.coords

/-- Elements of a shard, and shard k of a tensor as first element and count. -/
def shardSize (e g : Nat) : Nat := 64 * ((e + 64 * g - 1) / (64 * g))
def shardOf (e g k : Nat) : Nat × Nat := let s := shardSize e g; (min e (k * s), min e ((k + 1) * s) - min e (k * s))

end Sys2Proof.Machine
end

