-- ==== Sys2Proof/Machine/Packets.lean ====
section
/-! DEFINITION. Packets, routing and the links of the Baswen fabric (12 R426 to R441, R445, R448 to R450): the shared
operations. -/
namespace Sys2Proof
open Machine

/-! ### Packets (R431 to R434) -/

def Packet.type (p : Packet) : Nat := fld p.header 60 4
def Packet.vc (p : Packet) : Nat := fld p.header 58 2
def Packet.epoch (p : Packet) : Bool := p.header.getLsbD 57
def Packet.dl (p : Packet) : Bool := p.header.getLsbD 56
def Packet.dest (p : Packet) : BitVec 24 := p.header.extractLsb' 32 24
def Packet.src (p : Packet) : BitVec 24 := p.header.extractLsb' 8 24
def Packet.mc (p : Packet) : Bool := p.header.getLsbD 7
def Packet.mcDim (p : Packet) : Nat := fld p.header 5 2
def Packet.mcMinus (p : Packet) : Bool := p.header.getLsbD 4
def Packet.poison (p : Packet) : Bool := p.header.getLsbD 3
def Packet.stream (p : Packet) : Nat := fld p.txn 20 12
def Packet.seq (p : Packet) : Nat := fld p.txn 0 20
def Packet.msg (p : Packet) : Nat := fld p.txn 24 8
def Packet.msgId (p : Packet) : BitVec 24 := p.txn.extractLsb' 0 24

/-- A little-endian field of the payload: first byte, bytes. -/
def Packet.pf (p : Packet) (byte n : Nat) : Nat := fld p.payload (8 * byte) (8 * n)

/-- Bytes as a payload, byte 12 of the packet lowest. -/
def payloadOf (bs : List Byte) : BitVec 384 := BitVec.ofNat 384 (bytesWord (bs.take 48))

def Packet.data (p : Packet) : List Byte := bytesOf 48 p.payload.toNat

/-- Big-endian bytes. -/
def bigBytes (n v : Nat) : List Byte := (bytesOf n v).reverse

/-- The CRC of a packet's first 60 bytes (R431). -/
def crcOf (header : Word) (txn : BitVec 32) (payload : BitVec 384) : BitVec 32 :=
  crc32 (bigBytes 8 header.toNat ++ bigBytes 4 txn.toNat ++ bytesOf 48 payload.toNat)

def mkPacket (header : Word) (txn : BitVec 32) (payload : BitVec 384) : Packet :=
  { header := header, txn := txn, payload := payload, crc := crcOf header txn payload }

def Packet.crcOk (p : Packet) : Bool := p.crc == crcOf p.header p.txn p.payload

/-- The packet with another DL. -/
def Packet.withDl (p : Packet) (dl : Bool) : Packet :=
  mkPacket ((p.header &&& ~~~(1#64 <<< 56)) ||| (if dl then 1#64 <<< 56 else 0)) p.txn p.payload

/-- The buffer class of a VC and DL (R427). -/
def bufClass (vc : Nat) (dl : Bool) : Nat := vc * 2 + b2n dl

def portAt (n : Nat) : FPort := ⟨n % 8, Nat.mod_lt _ (by decide)⟩

/-- The port a multicast goes on by. -/
def Packet.mcPort (p : Packet) : FPort := portAt (2 * p.mcDim + b2n p.mcMinus)

def RxPacket.good (rx : RxPacket) : Bool := !rx.uncorrectable && rx.packet.crcOk

end Sys2Proof

namespace Sys2Proof.Machine

/-- A route header. -/
def headerOf (type vc : Nat) (epoch : Bool) (dest src : BitVec 24) (mc : Option (Nat × Bool) := none) (poison : Bool := false) : Word :=
  packBits [(type, 60), (vc, 58), (b2n epoch, 57), (dest.toNat, 32), (src.toNat, 8), (b2n mc.isSome, 7),
    ((mc.map (·.1)).getD 0, 5), (b2n ((mc.map (·.2)).getD false), 4), (b2n poison, 3)]

/-- Addresses: replica, x, y, z, endpoint (R434). -/
def addrOf (r x y z ep : Nat) : BitVec 24 := BitVec.ofNat 24 (r * 2 ^ 23 + x * 2 ^ 18 + y * 2 ^ 13 + z * 2 ^ 9 + ep)
def coordsAt (a : BitVec 24) : List Nat := [fld a 18 5, fld a 13 5, fld a 9 4, fld a 23 1]
def addrAt (xs : List Nat) (ep : Nat) : BitVec 24 := addrOf (xs.getD 3 0) (xs.getD 0 0) (xs.getD 1 0) (xs.getD 2 0) ep
def endpointOf (a : BitVec 24) : Nat := fld a 0 9
/-- An address with another endpoint. -/
def withEp (a : BitVec 24) (ep : Nat) : BitVec 24 := BitVec.ofNat 24 (a.toNat / 512 * 512 + ep)

def Fabric.own (f : Fabric) (ep : Nat) : BitVec 24 := addrAt f.coords ep
def Fabric.isOwn (f : Fabric) (a : BitVec 24) : Bool := coordsAt a == f.coords

/-- A coordinate inside FAB_EXTENT; replica 1 only in a mirrored system (R434). -/
def Fabric.inExtent (f : Fabric) (a : BitVec 24) : Bool :=
  ((coordsAt a).zip f.extents).all fun x => x.1 < max 1 x.2

def Fabric.partnerAddr (f : Fabric) (ep : Nat) : BitVec 24 := addrAt (f.coords.set 3 (1 - f.coords.getD 3 0)) ep

/-! ### Routing (R435 to R439) -/

/-- Where a packet goes at a router. -/
inductive Way where
  | here
  | out (p : FPort)
  | lost
  deriving DecidableEq, Repr

/-- A byte of a route bank. -/
def Fabric.route (f : Fabric) (b : Bool) (off : Nat) : Byte := smGet 0 (if b then f.banks[1] else f.banks[0]) off

/-- Entry of table d of an input, in a bank: a port, where it is VALID. -/
def Fabric.entry (f : Fabric) (bank : Bool) (input d c : Nat) : Option FPort :=
  let b := f.route bank (input * 0x80 + d * 0x20 + c)
  if b.getLsbD 3 then some (portAt (fld b 0 3)) else none

def Fabric.up (f : Fabric) (p : FPort) : Bool := decide (f.ports[p].link = .up)

/-- The partner port of an entry, or the other one where it is not UP (R436). -/
def Fabric.partnerPort (f : Fabric) (bank : Bool) (k : Nat) : Option FPort :=
  let b := f.route bank (0x600 + k % 16)
  if b.getLsbD 3 then
    let p : FPort := if b.getLsbD 0 then 7 else 6
    some (if f.up p then p else if p = 6 then 7 else 6)
  else none

/-- The way of a unicast packet that came on an input (R435, R438). -/
def Fabric.way (f : Fabric) (input : Nat) (p : Packet) : Way :=
  let own := f.coords
  let to_ := coordsAt p.dest
  let o := if to_.getD 3 0 ≠ own.getD 3 0 then some (f.partnerPort p.epoch (p.stream % 16))
    else ((List.range 3).find? fun d => to_.getD d 0 != own.getD d 0).map fun d => f.entry p.epoch input d (to_.getD d 0)
  match o with
  | none => .here
  | some none => .lost
  | some (some q) => if f.up q then .out q else .lost

/-- The dimension of a port or input; pa, pb and injection have none. -/
def dimOf (i : Nat) : Option Nat := if i < 6 then some (i / 2) else none

/-- DL of a packet as it leaves on a port (R435). -/
def Fabric.dlOut (f : Fabric) (input : Nat) (out : FPort) (p : Packet) : Bool :=
  let dl := if (dimOf input).isSome && dimOf input == dimOf out.val then p.dl else false
  if f.dateline.getLsbD out.val then true else dl

/-! ### Acceptance (R438, R445, R448 to R450) -/

def Fabric.pass (f : Fabric) (e : Bool) : Fabric :=
  { f with passed := if e then f.passed.set 1 (f.passed[1] + 1) else f.passed.set 0 (f.passed[0] + 1) }

def Fabric.flag (f : Fabric) (bit : Nat) : Fabric := { f with stat := f.stat ||| (1#12 <<< bit) }

/-- An input buffer is free again (R427). -/
def Fabric.freeBuffer (f : Fabric) (input : Nat) (p : Packet) : Fabric :=
  if h : input < 8 then
    f.onLink ⟨input, h⟩ fun q => { q with freed := q.freed.set! (bufClass p.vc p.dl) (q.freed.getD (bufClass p.vc p.dl) 0 + 1) }
  else f

/-- A copy of the packet in a buffer has left; the buffer is free with the last one: a multicast's copy and its forward must both have
been taken (R448). -/
def Fabric.leave (f : Fabric) (input slot : Nat) (p : Packet) : Fabric :=
  if f.waiting.any (·.slot == slot) || f.inbox.any (·.slot == slot) then f else f.freeBuffer input p

/-- An answer on the response VC: NACK or CUT (R433, R438). -/
def nackPacket (f : Fabric) (p : Packet) (reason : Nat) : Packet :=
  mkPacket (headerOf 4 1 f.cur p.src (f.own (endpointOf p.dest))) p.txn
    (payloadOf ([BitVec.ofNat 8 reason, 0] ++ bytesOf 3 (f.own 0).toNat))

/-- An unreachable packet is dropped and counted. -/
def Fabric.noRoute (f : Fabric) : Fabric := { f.flag 0 with noroute := f.noroute + 1 }

/-- Management messages that R464 does not name are dropped. -/
def knownMsg (p : Packet) : Bool := [1, 2, 3, 4, 5, 6, 7, 0x10, 0x20, 0x21].contains p.msg

/-- Local delivery: a fenced collective endpoint swallows, an absent endpoint refuses; else the endpoint takes the
packet, a response without waiting (R439). Answers the packet to send back. -/
def Fabric.deliver (f : Fabric) (input slot : Nat) (p : Packet) : Fabric × Option Packet :=
  let ep := endpointOf p.dest
  if 2 < ep then (f.leave input slot p, some (nackPacket f p 5))
  else if ep = 1 && f.ep then
    ({ (f.leave input slot p).flag 1 with fencedDrop := f.fencedDrop + 1 }, if p.type = 1 then some (nackPacket f p 2) else none)
  else if p.type = 6 && !knownMsg p then (f.leave input slot p, none)
  else if p.vc = 1 then ({ f.leave input slot p with inbox := f.inbox ++ [{ packet := p, slot := slot }] }, none)
  else ({ f with inbox := f.inbox ++ [{ packet := p, input := input, slot := slot }] }, none)

/-- The router accepts a packet into a buffer (R445). -/
def Fabric.into (f : Fabric) (p : Packet) : Fabric := { f.pass p.epoch with accepted := f.accepted + 1 }

/-- A unicast packet goes its way; `again` is how often an answer may be answered. -/
def Fabric.accept : Nat → Fabric → Nat → Packet → Fabric
  | 0, f, _, _ => f
  | again + 1, f, input, p =>
    let slot := f.accepted
    let f := f.into p
    match f.way input p with
    | .out q => { f with waiting := f.waiting ++ [{ input := input, output := q, packet := p, slot := slot }] }
    | .lost =>
      let f := (f.noRoute).freeBuffer input p
      if p.vc = 1 then f else Fabric.accept again f 8 (nackPacket f p 1)
    | .here =>
      let (f, r) := f.deliver input slot p
      match r with
      | some q => Fabric.accept again f 8 q
      | none => f

/-- The coordinate of a multicast's next hop. -/
def Fabric.nextHop (f : Fabric) (p : Packet) : BitVec 24 :=
  let d := p.mcDim
  let n := max 1 (f.extents.getD d 1)
  let c := f.coords.getD d 0
  addrAt (f.coords.set d (if p.mcMinus then (c + n - 1) % n else (c + 1) % n)) (endpointOf p.dest)

def cutPacket (f : Fabric) (p : Packet) : Packet :=
  mkPacket (headerOf 5 1 f.cur p.src (f.own (endpointOf p.dest))) p.txn
    (payloadOf (bytesOf 3 (f.nextHop p).toNat ++ bytesOf 3 (f.own (endpointOf p.dest)).toNat))

/-- A multicast packet at a router of its span: a copy here unless it is just injected, and the forward unless the
span ends here (R448, R450). -/
def Fabric.acceptMulticast (f : Fabric) (input : Nat) (p : Packet) : Fabric :=
  let slot := f.accepted
  let last := f.isOwn p.dest
  let goes := !last && f.up p.mcPort
  let f := f.into p
  let f := if goes then { f with waiting := f.waiting ++ [{ input := input, output := p.mcPort, packet := p, slot := slot }] } else f
  let (f, r) := if input = 8 then (f, none) else f.deliver input slot p
  let f := match r with | some q => f.accept 2 8 q | none => f
  if last || goes then f else (f.noRoute.flag 2).accept 2 8 (cutPacket f p)

/-- A packet enters the router. -/
def Fabric.enter (f : Fabric) (input : Nat) (p : Packet) : Fabric :=
  if p.type = 0 || 6 < p.type then { f.freeBuffer input p with noroute := f.noroute + 1 }
  else if p.mc && p.vc = 2 then f.acceptMulticast input p
  else f.accept 3 input p

/-- The module injects a packet (R442): none without a committed route configuration (R40), and none to a coordinate outside
FAB_EXTENT or to a replica that is not there, which counts as unreachable: the sender hears NACK NOROUTE (R434, R438).
DEDUCED, log entry 152. -/
def Fabric.inject (f : Fabric) (p : Packet) : Fabric :=
  if f.valid && f.inExtent p.dest then f.enter 8 p
  else if p.vc = 1 then f
  else (f.deliver 8 f.accepted (nackPacket f p 1)).1

/-! ### Management messages (R464) -/

/-- A management message (R464). -/
def Fabric.message (f : Fabric) (vc : Nat) (dest : BitVec 24) (msg : Nat) (id : BitVec 24) (payload : List Byte) : Packet :=
  mkPacket (headerOf 6 vc f.cur dest (f.own 0)) (BitVec.ofNat 32 (msg * 2 ^ 24 + id.toNat)) (payloadOf payload)

/-- A reply copies the ID. -/
def Fabric.reply (f : Fabric) (dest : BitVec 24) (msg : Nat) (id : BitVec 24) (payload : List Byte) : Fabric :=
  f.inject (f.message 1 dest msg id payload)

/-- EPOCH_REPLY with a code. -/
def State.epochReply (s : State) (dest : BitVec 24) (id : BitVec 24) (gen : BitVec 16) (code : Nat) : State :=
  s.onFab (·.reply dest 2 id (bytesOf 2 gen.toNat ++ [BitVec.ofNat 8 code]))

/-- The banks change places: packets injected from now on carry the new epoch (R442, R444). -/
def State.switchBank (s : State) (src id : BitVec 24) : State :=
  (s.onFab fun f =>
    { f with cur := !f.cur, activeGen := f.standbyGen, standbyGen := f.activeGen, epochState := 2, switchDue := none }).epochReply
    src id s.fab.standbyGen 3

/-- A SWITCH that waited for a safe point is carried out, now that no step runs (R444). -/
def State.serveSwitch (s : State) : State :=
  match s.fab.switchDue with
  | some (src, id) => s.switchBank src id
  | none => s

/-! ### Links (R426 to R430) -/

/-- The link carries packets. -/
def Port.live (p : Port) : Bool := decide (p.link = .up ∨ p.link = .remoteFenced)

/-- Packets that wait for a port which is no longer UP are unreachable (R438). -/
def Fabric.dropWaiting (f : Fabric) (p : FPort) : Fabric :=
  let (mine, rest) := f.waiting.partition fun w => w.output == p
  mine.foldl (fun f w =>
    let f := (f.noRoute).leave w.input w.slot w.packet
    if w.packet.mc then (f.flag 2).accept 2 8 (cutPacket f w.packet)
    else if w.packet.vc = 1 then f else f.accept 2 8 (nackPacket f w.packet 1)) { f with waiting := rest }

/-- The values that a link counts from link-up on. -/
def Port.fresh (p : Port) (l : LinkState) : Port :=
  { p with
    link := l, txNext := 0, replay := [], resend := 0, credits := Vector.replicate 8 0, used := Vector.replicate 8 0, nakSeq := 0
    nakRun := 0, rxNext := 0, discard := false, freed := Vector.replicate 8 0, sinceCtl := 0, ctlSlots := 64, wire := none, control := none }

/-- A link goes DOWN (R429). -/
def State.linkDown (s : State) (p : FPort) : State :=
  if (s.link p).link = .down then s
  else
    (s.onFab fun f =>
      ((f.onLink p fun q => { q.fresh .down with down := q.down + 1 }).flag 11).dropWaiting p).event (fromLink p) 0x20 [BitVec.ofNat 64 p.val]

/-- A router that accepts no packets (R430). -/
def Fabric.closed (f : Fabric) : Bool := f.rtr || !f.valid

/-- The FEC counters of a packet (R468). -/
def Port.fec (p : Port) (rx : RxPacket) : Port :=
  let a := if rx.corrected = 0 then p else { p with fecCorr := p.fecCorr + 1, most := if p.most < rx.corrected then rx.corrected else p.most }
  if rx.uncorrectable then { a with fecUncorr := a.fecUncorr + 1 } else a

/-- Free credits of a class: a port has 32 buffers of each (R427, R430). -/
def Port.credit (p : Port) (c : Nat) : Bool :=
  decide (((p.used.getD c 0 : Int) - ((p.credits.getD c 0).toNat : Int)) % 256 < 32)

/-- The place of a waiting packet in the round-robin within its VC. -/
def Waiting.turn (w : Waiting) : Nat := w.input * 2 + b2n w.packet.dl

/-- The index of the packet that a port sends of a VC: the first pair after the one served last. -/
def Fabric.pickIn (f : Fabric) (p : FPort) (vc : Nat) : Option (Nat × Nat) :=
  let q := f.ports[p]
  let cand := f.waiting.zipIdx.filter fun (w, _) =>
    w.output == p && w.packet.vc == vc && q.credit (bufClass vc (f.dlOut w.input p w.packet))
  let turns := (List.range 18).map fun k => (q.rr.getD vc 0 + 1 + k) % 18
  turns.findSome? fun t => (cand.find? fun x => x.1.turn == t).map fun x => (x.2, t)

/-- R441: VC, index in the waiting list, turn. -/
def Fabric.pick (f : Fabric) (p : FPort) : Option (Nat × Nat × Nat) :=
  match f.pickIn p 1 with
  | some x => some (1, x)
  | none =>
    let others := [0, 2, 3]
    let turns := (List.range 3).map fun k => others.getD ((f.ports[p].rrVc + 1 + k) % 3) 0
    turns.findSome? fun v => (f.pickIn p v).map fun x => (v, x)

end Sys2Proof.Machine
end

