-- ==== Sys2Proof/Machine/Operands.lean ====
section
/-! DEFINITION. The operand forms of a vector instruction (05 R157 to R171, 06 R209, R214): groups, chains,
predicates, scalars, touched blocks, and when an instruction is illegal. -/
namespace Sys2Proof.Machine

/-- Replaces the len bits from bit lo on. -/
def setBits {w : Nat} (x : BitVec w) (lo len val : Nat) : BitVec w :=
  (x &&& ~~~(BitVec.ofNat w ((2 ^ len - 1) * 2 ^ lo))) ||| BitVec.ofNat w (val % 2 ^ len * 2 ^ lo)

/-- The element width in bits (R160). -/
def Vec.EW (v : Vec) : Nat := 8 * 2 ^ v.ew.toNat

/-- G (R159). -/
def Vec.G (v : Vec) : Nat := 2 ^ v.grp.toNat

/-- Elements of one register at width w. -/
def perReg (w : Nat) : Nat := 8192 / w

def Vec.vlmax (v : Vec) : Nat := v.G * perReg v.EW

/-- VL, held at VLMAX (R161). -/
def Vec.VL (v : Vec) : Nat := min v.vl.toNat v.vlmax

/-- Residue levels of a strict operand beyond level 0 (R169). -/
def Vec.levels (v : Vec) : Nat := if v.strict then v.rdepth.toNat else 0

/-- A register by number, v0 to v31. -/
def Vec.reg (v : Vec) (n : Nat) : VReg := v.v[n % 32]'(Nat.mod_lt _ (by decide))

def Vec.setReg (v : Vec) (n : Nat) (r : VReg) : Vec :=
  { v with v := v.v.set (n % 32) r (Nat.mod_lt _ (by decide)) }

def Vec.pred (v : Vec) (p : BitVec 3) : BitVec 8192 := v.p[p.toNat]'(p.isLt)

def Vec.setPred (v : Vec) (p : BitVec 3) (b : BitVec 8192) : Vec := { v with p := v.p.set p.toNat b p.isLt }

/-- Element k of the group at register n, at width w, as a code (R159). -/
def Vec.code (v : Vec) (w n k : Nat) : Nat := fld (v.reg (n + k / perReg w)).data (k % perReg w * w) w

/-- The scale code of block b of a group at width w. -/
def Vec.blockScale (v : Vec) (w n b : Nat) : Nat :=
  let k := 32 * b
  fld (v.reg (n + k / perReg w)).scale (k % perReg w / 32 * 8) 8

/-- The value of element k of a single group. -/
def Vec.val0 (v : Vec) (w n k : Nat) : Option Ex :=
  mantVal (.elem w) (v.blockScale w n (k / 32)) (elemMant w (v.code w n k))

/-- The value of element k of an SI operand: the sum of its chain in strict mode (R169); g is the group size. -/
def Vec.siVal (v : Vec) (w g n k : Nat) : Option Ex :=
  if v.levels = 0 then v.val0 w n k
  else sumLevels ((List.range (v.levels + 1)).map fun l => v.val0 w (n + l * g) k)

/-- Active elements (R162). -/
def Vec.active (v : Vec) (f : VArgs) (k : Nat) : Bool := k < v.VL && (!f.m || (v.pred f.pm).getLsbD k)

/-- R165: the SI scalar operand. -/
def Vec.scalar (v : Vec) (x : Word) : Option Ex :=
  mantVal (.elem 64) v.sscale.toNat (elemMant 64 x.toNat)

/-! ### Writing -/

/-- Writes a block's codes and scale into the group at register n; bytes of the scale plane past the width's
blocks become 0 (R158). -/
def Vec.putBlock (v : Vec) (w n b : Nat) (bl : Blk) : Vec :=
  let k := 32 * b
  let r := n + k / perReg w
  let pos := k % perReg w
  let val := bl.m.zipIdx.foldl (fun a (m, i) => a + elemCode w m * 2 ^ (w * i)) 0
  let old := v.reg r
  v.setReg r
    { data := setBits old.data (pos * w) (32 * w) val,
      scale := setBits (old.scale &&& BitVec.ofNat 256 (2 ^ (8 * (256 / w)) - 1)) (pos / 32 * 8) 8 (scaleCode bl.e) }

/-- Writes one element's code, the scale plane untouched (R163). -/
def Vec.putCode (v : Vec) (w n k c : Nat) : Vec :=
  let r := n + k / perReg w
  let old := v.reg r
  v.setReg r { old with data := setBits old.data (k % perReg w * w) w c }

/-- The levels of a strict write and its conditions (R170): rounding to PREC unless the instruction is one of the exact
ones. DESIGN CHOICE, log entry 135: a ±max that R66 settles is not rounded to PREC. The chain sum of an inactive
element is not rounded (log entry 107), and its loss is no UFLOW, since R64 speaks of results. -/
def strictLevels (c : Carrier) (prec depth : Nat) (exact : Bool) (els : List Elem) : List Blk × Cond :=
  let rs := els.map fun el => match el.val with
    | none => (none, (0 : Cond))
    | some x =>
      if exact || !el.active || el.settled then (some x, 0)
      else let (y, k) := roundPrec prec x; (some y, k)
  let vs := rs.map (·.1)
  let (b, bs, left, sat) := formChain c depth (blockExp c vs) vs
  let bs := padTo depth (Blk.zero els.length) bs
  let cut := if anyLeft left then cInexact ||| cResidueOvf else 0
  let lost := if lostWhole (((els.zip (vs.zip left)).filter (·.1.active)).map (·.2)) then cUflow else 0
  (b :: bs, orAll (rs.map (·.2)) ||| sat ||| cut ||| lost)

/-- What an SI instruction gives element k: none keeps it, some v writes v (none = NaR) with its conditions. -/
abbrev ElemFn := Nat → Option (Option Ex × Cond)

/-- The SI write of one touched block (R163, R168, R170): width w, group size g of the destination. -/
def Vec.writeBlock (v0 v : Vec) (w g n b : Nat) (exact : Bool) (fn : ElemFn) : Vec :=
  let ks := (List.range 32).map (32 * b + ·)
  let news := ks.map fn
  if news.all (·.isNone) then v
  else
    let els := (ks.zip news).map fun (k, r) => match r with
      | some (x, cond) => { val := x, active := true, settled := cond &&& cDiv0 ≠ 0 : Elem }
      | none => { val := v0.siVal w g n k, active := false : Elem }
    let conds := orAll (news.map fun r => match r with | some (_, c) => c | none => 0)
    if v0.strict then
      let (bs, c) := strictLevels (.elem w) v0.prec.toNat v0.rdepth.toNat exact els
      (bs.zipIdx.foldl (fun v (bl, l) => v.putBlock w (n + l * g) b bl) v).raise (conds ||| c)
    else
      let (bl, c) := formBlock (.elem w) els
      (v.putBlock w n b bl).raise (conds ||| c)

/-- Every touched block of a destination group of g registers. -/
def Vec.writeSI (v : Vec) (w g n : Nat) (exact : Bool) (fn : ElemFn) : Vec :=
  (List.range (g * perReg w / 32)).foldl (fun a b => v.writeBlock a w g n b exact fn) v

/-- Integer writes of active elements (R163). -/
def Vec.writeInt (v : Vec) (w n count : Nat) (fn : Nat → Option Nat) : Vec :=
  (List.range count).foldl (fun a k => match fn k with | some c => a.putCode w n k c | none => a) v

/-- Predicate bits below `count` that fn gives (R164). -/
def Vec.writePred (v : Vec) (p : BitVec 3) (count : Nat) (fn : Nat → Option Bool) : Vec :=
  v.setPred p ((List.range count).foldl (fun a k => match fn k with
    | some true => a ||| (1#8192 <<< k)
    | some false => a &&& ~~~(1#8192 <<< k)
    | none => a) (v.pred p))

/-! ### Legality (R180, R200, R214) -/

/-- What a register field of an instruction holds. -/
inductive Use where
  /-- unused: must be 0 -/
  | none
  /-- an SI group, in strict mode the first group of a chain -/
  | si
  /-- a single group -/
  | int
  /-- a group of the given number of registers -/
  | group (g : Nat)
  /-- an SI group of the given number of registers -/
  | siGroup (g : Nat)
  | pred
  | xreg
  /-- a sub-operation below the given bound -/
  | sub (n : Nat)
  deriving DecidableEq, Repr

/-- Whether a field holds a value its use allows. -/
def Vec.useOk (v : Vec) (u : Use) (r : BitVec 5) : Bool :=
  let chain (g : Nat) := r.toNat % g = 0 && r.toNat + v.levels * g + g ≤ 32
  match u with
  | .none => r = 0
  | .si => chain v.G
  | .siGroup g => chain g
  | .int => r.toNat % v.G = 0
  | .group g => r.toNat % g = 0
  | .pred => r.toNat < 8
  | .xreg => true
  | .sub n => r.toNat < n

/-- The registers a field names: first and count. -/
def Vec.useSpan (v : Vec) (u : Use) (r : BitVec 5) : Nat × Nat :=
  match u with
  | .si => (r.toNat, (v.levels + 1) * v.G)
  | .siGroup g => (r.toNat, (v.levels + 1) * g)
  | .int => (r.toNat, v.G)
  | .group g => (r.toNat, g)
  | _ => (0, 0)

def spansMeet (a b : Nat × Nat) : Bool := a.1 < b.1 + b.2 && b.1 < a.1 + a.2

/-- The form of an instruction: the use of each field, whether it may be masked, whether PREC must be named in
strict mode, and whether destination and sources must not overlap. -/
structure Shape where
  vd : Use := .none
  vs1 : Use := .none
  vs2 : Use := .none
  mask : Bool := true
  prec : Bool := false
  apart : Bool := false
  deriving DecidableEq, Repr

/-- R180, R200, R214; the rule on X is each instruction's own. -/
def Vec.legal (v : Vec) (f : VArgs) (s : Shape) : Bool :=
  v.useOk s.vd f.vd && v.useOk s.vs1 f.vs1 && v.useOk s.vs2 f.vs2
  && (if f.m then s.mask else f.pm = 0)
  && !(s.prec && v.strict && v.prec = 0)
  && !(s.apart && (spansMeet (v.useSpan s.vd f.vd) (v.useSpan s.vs1 f.vs1)
      || spansMeet (v.useSpan s.vd f.vd) (v.useSpan s.vs2 f.vs2)))

/-- An illegal instruction writes nothing and sets ILL_OP (R180). -/
def Vec.illegal (v : Vec) : Vec := v.raise cIllOp

/-- What a vector instruction leaves: the engine, and a summary for an x register. -/
structure VRes where
  vec : Vec
  sum : Option Summary := none
  deriving DecidableEq, Repr

/-- The x registers as an instruction reads them at issue (R195). -/
abbrev XRegs := BitVec 5 → Word

/-- A legal instruction has its effect, an illegal one sets ILL_OP. -/
def Vec.guarded (v : Vec) (ok : Bool) (r : VRes) : VRes := if ok then r else { vec := v.illegal }

end Sys2Proof.Machine
end

