-- ==== Sys2Proof/Machine/Tahr.lean ====
section
/-! DEFINITION. Tahr's base instruction set (07 R215): the RV64IMC instructions taken apart, what each computes, and
the encodings of the module's own extensions (R209 to R214, R221). -/
namespace Sys2Proof.Machine

/-- An instruction word taken apart. Encodings that R215 and the extension tables leave undefined are `illegal`. -/
inductive Rv where
  | lui (rd : BitVec 5) (imm : Word)
  | auipc (rd : BitVec 5) (imm : Word)
  | jal (rd : BitVec 5) (off : Word)
  | jalr (rd rs1 : BitVec 5) (off : Word)
  | branch (f3 : BitVec 3) (rs1 rs2 : BitVec 5) (off : Word)
  | load (f3 : BitVec 3) (rd rs1 : BitVec 5) (off : Word)
  | store (f3 : BitVec 3) (rs1 rs2 : BitVec 5) (off : Word)
  | opImm (f3 : BitVec 3) (rd rs1 : BitVec 5) (imm : Word)
  | opImmW (f3 : BitVec 3) (rd rs1 : BitVec 5) (imm : Word)
  | op (f7 : BitVec 7) (f3 : BitVec 3) (rd rs1 rs2 : BitVec 5)
  | opW (f7 : BitVec 7) (f3 : BitVec 3) (rd rs1 rs2 : BitVec 5)
  | fence
  | fenceI
  | ebreak
  | csr (f3 : BitVec 3) (rd rs1 : BitVec 5) (num : BitVec 12)
  | ext (f3 : BitVec 3) (rd rs1 rs2 : BitVec 5)
  | vector (w : BitVec 32)
  | illegal
  deriving DecidableEq, Repr

def sext {n : Nat} (x : BitVec n) : Word := x.signExtend 64

/-- Fields of a 32-bit instruction. -/
def rvRd (w : BitVec 32) : BitVec 5 := w.extractLsb' 7 5
def rvF3 (w : BitVec 32) : BitVec 3 := w.extractLsb' 12 3
def rvRs1 (w : BitVec 32) : BitVec 5 := w.extractLsb' 15 5
def rvRs2 (w : BitVec 32) : BitVec 5 := w.extractLsb' 20 5
def rvF7 (w : BitVec 32) : BitVec 7 := w.extractLsb' 25 7
def immI (w : BitVec 32) : Word := sext (w.extractLsb' 20 12)
def immS (w : BitVec 32) : Word := sext (rvF7 w ++ rvRd w)
def immB (w : BitVec 32) : Word :=
  sext (w.extractLsb' 31 1 ++ w.extractLsb' 7 1 ++ w.extractLsb' 25 6 ++ w.extractLsb' 8 4 ++ 0#1)
def immU (w : BitVec 32) : Word := sext (w.extractLsb' 12 20 ++ 0#12)
def immJ (w : BitVec 32) : Word :=
  sext (w.extractLsb' 31 1 ++ w.extractLsb' 12 8 ++ w.extractLsb' 20 1 ++ w.extractLsb' 21 10 ++ 0#1)

/-- Shift immediates: the upper bits name the shift. -/
def shiftImmOk (w : BitVec 32) (wide : Bool) : Bool :=
  let top := if wide then (w.extractLsb' 26 6).toNat else (w.extractLsb' 25 7).toNat / 2 * 1
  let low := wide || !bit w 25
  match rvF3 w with
  | 1 => top = 0 && low
  | 5 => (top = 0 || top = 16) && low
  | _ => true

/-- A 32-bit encoding taken apart. -/
def rv32 (w : BitVec 32) : Rv :=
  let rd := rvRd w
  let f3 := rvF3 w
  let rs1 := rvRs1 w
  let rs2 := rvRs2 w
  let f7 := rvF7 w
  match (w.extractLsb' 0 7).toNat with
  | 0x37 => .lui rd (immU w)
  | 0x17 => .auipc rd (immU w)
  | 0x6F => .jal rd (immJ w)
  | 0x67 => if f3 = 0 then .jalr rd rs1 (immI w) else .illegal
  | 0x63 => if f3 = 2 ∨ f3 = 3 then .illegal else .branch f3 rs1 rs2 (immB w)
  | 0x03 => if f3 = 7 then .illegal else .load f3 rd rs1 (immI w)
  | 0x23 => if f3.toNat < 4 then .store f3 rs1 rs2 (immS w) else .illegal
  | 0x13 => if shiftImmOk w true then .opImm f3 rd rs1 (immI w) else .illegal
  | 0x1B =>
    if (f3 = 0 ∨ f3 = 1 ∨ f3 = 5) ∧ shiftImmOk w false = true then .opImmW f3 rd rs1 (immI w) else .illegal
  | 0x33 =>
    if f7 = 0 ∨ f7 = 1 ∨ (f7 = 0x20 ∧ (f3 = 0 ∨ f3 = 5)) then .op f7 f3 rd rs1 rs2 else .illegal
  | 0x3B =>
    if (f7 = 0 ∧ (f3 = 0 ∨ f3 = 1 ∨ f3 = 5)) ∨ (f7 = 0x20 ∧ (f3 = 0 ∨ f3 = 5))
        ∨ (f7 = 1 ∧ (f3 = 0 ∨ 4 ≤ f3.toNat)) then .opW f7 f3 rd rs1 rs2 else .illegal
  | 0x0F => if f3 = 0 then .fence else if f3 = 1 then .fenceI else .illegal
  | 0x73 =>
    if w = 0x00100073 then .ebreak
    else if f3 = 0 ∨ f3 = 4 then .illegal else .csr f3 rd rs1 (w.extractLsb' 20 12)
  | 0x0B =>
    if f7 = 0 ∧ f3.toNat < 6 then .ext f3 rd rs1 rs2 else .illegal
  | 0x2B => .vector w
  | 0x5B => .vector w
  | 0x7B => .vector w
  | _ => .illegal

/-! ### Compressed encodings, as the instructions they stand for -/

def cReg (h : BitVec 16) (lo : Nat) : BitVec 5 := 0b01#2 ++ h.extractLsb' lo 3
def cImm6 (h : BitVec 16) : Word := sext (h.extractLsb' 12 1 ++ h.extractLsb' 2 5)
def cShamt (h : BitVec 16) : Word := (h.extractLsb' 12 1 ++ h.extractLsb' 2 5).zeroExtend 64
def cOffW (h : BitVec 16) : Word :=
  (h.extractLsb' 5 1 ++ h.extractLsb' 10 3 ++ h.extractLsb' 6 1 ++ 0#2).zeroExtend 64
def cOffD (h : BitVec 16) : Word := (h.extractLsb' 5 2 ++ h.extractLsb' 10 3 ++ 0#3).zeroExtend 64
def cOffJ (h : BitVec 16) : Word :=
  sext (h.extractLsb' 12 1 ++ h.extractLsb' 8 1 ++ h.extractLsb' 9 2 ++ h.extractLsb' 6 1 ++ h.extractLsb' 7 1
    ++ h.extractLsb' 2 1 ++ h.extractLsb' 11 1 ++ h.extractLsb' 3 3 ++ 0#1)
def cOffB (h : BitVec 16) : Word :=
  sext (h.extractLsb' 12 1 ++ h.extractLsb' 5 2 ++ h.extractLsb' 2 1 ++ h.extractLsb' 10 2 ++ h.extractLsb' 3 2 ++ 0#1)

/-- The arithmetic group of quadrant 1. -/
def rvcAlu (h : BitVec 16) : Rv :=
  let r := cReg h 7
  let r2 := cReg h 2
  match (h.extractLsb' 10 2).toNat with
  | 0 => .opImm 5 r r (cShamt h)
  | 1 => .opImm 5 r r (cShamt h ||| 0x400)
  | 2 => .opImm 7 r r (cImm6 h)
  | _ =>
    match (h.extractLsb' 12 1).toNat, (h.extractLsb' 5 2).toNat with
    | 0, 0 => .op 0x20 0 r r r2
    | 0, 1 => .op 0 4 r r r2
    | 0, 2 => .op 0 6 r r r2
    | 0, _ => .op 0 7 r r r2
    | _, 0 => .opW 0x20 0 r r r2
    | _, 1 => .opW 0 0 r r r2
    | _, _ => .illegal

/-- A 16-bit encoding taken apart. -/
def rv16 (h : BitVec 16) : Rv :=
  let f3 := (h.extractLsb' 13 3).toNat
  let rd : BitVec 5 := h.extractLsb' 7 5
  let rs2 : BitVec 5 := h.extractLsb' 2 5
  match (h.extractLsb' 0 2).toNat, f3 with
  | 0, 0 =>
    let imm : Word := (h.extractLsb' 7 4 ++ h.extractLsb' 11 2 ++ h.extractLsb' 5 1 ++ h.extractLsb' 6 1 ++ 0#2).zeroExtend 64
    if imm = 0 then .illegal else .opImm 0 (cReg h 2) 2 imm
  | 0, 2 => .load 2 (cReg h 2) (cReg h 7) (cOffW h)
  | 0, 3 => .load 3 (cReg h 2) (cReg h 7) (cOffD h)
  | 0, 6 => .store 2 (cReg h 7) (cReg h 2) (cOffW h)
  | 0, 7 => .store 3 (cReg h 7) (cReg h 2) (cOffD h)
  | 0, _ => .illegal
  | 1, 0 => .opImm 0 rd rd (cImm6 h)
  | 1, 1 => if rd = 0 then .illegal else .opImmW 0 rd rd (cImm6 h)
  | 1, 2 => .opImm 0 rd 0 (cImm6 h)
  | 1, 3 =>
    if rd = 2 then
      let imm : Word := sext (h.extractLsb' 12 1 ++ h.extractLsb' 3 2 ++ h.extractLsb' 5 1 ++ h.extractLsb' 2 1
        ++ h.extractLsb' 6 1 ++ 0#4)
      if imm = 0 then .illegal else .opImm 0 2 2 imm
    else if cImm6 h = 0 then .illegal else .lui rd (cImm6 h <<< 12)
  | 1, 4 => rvcAlu h
  | 1, 5 => .jal 0 (cOffJ h)
  | 1, 6 => .branch 0 (cReg h 7) 0 (cOffB h)
  | 1, _ => .branch 1 (cReg h 7) 0 (cOffB h)
  | 2, 0 => .opImm 1 rd rd (cShamt h)
  | 2, 2 =>
    let off : Word := (h.extractLsb' 2 2 ++ h.extractLsb' 12 1 ++ h.extractLsb' 4 3 ++ 0#2).zeroExtend 64
    if rd = 0 then .illegal else .load 2 rd 2 off
  | 2, 3 =>
    let off : Word := (h.extractLsb' 2 3 ++ h.extractLsb' 12 1 ++ h.extractLsb' 5 2 ++ 0#3).zeroExtend 64
    if rd = 0 then .illegal else .load 3 rd 2 off
  | 2, 4 =>
    if bit h 12 then
      if rd = 0 ∧ rs2 = 0 then .ebreak
      else if rs2 = 0 then .jalr 1 rd 0 else .op 0 0 rd rd rs2
    else if rs2 = 0 then (if rd = 0 then .illegal else .jalr 0 rd 0) else .op 0 0 rd 0 rs2
  | 2, 6 =>
    let off : Word := (h.extractLsb' 7 2 ++ h.extractLsb' 9 4 ++ 0#2).zeroExtend 64
    .store 2 2 rs2 off
  | 2, 7 =>
    let off : Word := (h.extractLsb' 7 3 ++ h.extractLsb' 10 3 ++ 0#3).zeroExtend 64
    .store 3 2 rs2 off
  | _, _ => .illegal

/-- The bytes of an instruction by its first parcel: 2 or 4. -/
def rvLen (lo : Nat) : Nat := if lo % 4 = 3 then 4 else 2

/-- An instruction from its bits: longer encodings are undefined. -/
def rvOf (w : BitVec 32) : Rv :=
  if w.toNat % 4 ≠ 3 then rv16 (w.truncate 16)
  else if w.toNat % 32 = 31 then .illegal else rv32 w

/-! ### What the instructions compute (RISC-V RV64IM) -/

def slt (a b : Word) : Word := if a.slt b then 1 else 0
def sltu (a b : Word) : Word := if a.toNat < b.toNat then 1 else 0

/-- OP-IMM. -/
def aluImm (f3 : BitVec 3) (a imm : Word) : Word :=
  let sh := imm.toNat % 64
  match f3 with
  | 0 => a + imm
  | 1 => a <<< sh
  | 2 => slt a imm
  | 3 => sltu a imm
  | 4 => a ^^^ imm
  | 5 => if bit imm 10 then a.sshiftRight sh else a >>> sh
  | 6 => a ||| imm
  | _ => a &&& imm

/-- The low 32 bits, sign-extended. -/
def low32 (x : Word) : Word := sext (x.truncate 32)

def aluImmW (f3 : BitVec 3) (a imm : Word) : Word :=
  let x : BitVec 32 := a.truncate 32
  let sh := imm.toNat % 32
  match f3 with
  | 0 => low32 (a + imm)
  | 1 => sext (x <<< sh)
  | _ => if bit imm 10 then sext (x.sshiftRight sh) else sext (x >>> sh)

/-- Signed division, rounding toward zero; by zero −1, and the overflow gives the dividend. -/
def divS (a b : Int) (minVal : Int) : Int := if b = 0 then -1 else if a = minVal ∧ b = -1 then minVal else a.tdiv b
def remS (a b : Int) (minVal : Int) : Int := if b = 0 then a else if a = minVal ∧ b = -1 then 0 else a.tmod b

/-- The M extension. -/
def mulDiv (f3 : BitVec 3) (a b : Word) : Word :=
  match f3 with
  | 0 => a * b
  | 1 => BitVec.ofInt 64 ((a.toInt * b.toInt).fdiv (2 ^ 64))
  | 2 => BitVec.ofInt 64 ((a.toInt * b.toNat).fdiv (2 ^ 64))
  | 3 => BitVec.ofNat 64 (a.toNat * b.toNat / 2 ^ 64)
  | 4 => BitVec.ofInt 64 (divS a.toInt b.toInt (-(2 ^ 63)))
  | 5 => if b = 0 then BitVec.allOnes 64 else BitVec.ofNat 64 (a.toNat / b.toNat)
  | 6 => BitVec.ofInt 64 (remS a.toInt b.toInt (-(2 ^ 63)))
  | _ => if b = 0 then a else BitVec.ofNat 64 (a.toNat % b.toNat)

def mulDivW (f3 : BitVec 3) (a b : Word) : Word :=
  let x : BitVec 32 := a.truncate 32
  let y : BitVec 32 := b.truncate 32
  match f3 with
  | 4 => sext (BitVec.ofInt 32 (divS x.toInt y.toInt (-(2 ^ 31))))
  | 5 => if y = 0 then BitVec.allOnes 64 else sext (BitVec.ofNat 32 (x.toNat / y.toNat))
  | 6 => sext (BitVec.ofInt 32 (remS x.toInt y.toInt (-(2 ^ 31))))
  | 7 => if y = 0 then sext x else sext (BitVec.ofNat 32 (x.toNat % y.toNat))
  | _ => sext (x * y)

/-- OP. -/
def alu (f7 : BitVec 7) (f3 : BitVec 3) (a b : Word) : Word :=
  if f7 = 1 then mulDiv f3 a b
  else
    let sh := b.toNat % 64
    match f3 with
    | 0 => if f7 = 0x20 then a - b else a + b
    | 1 => a <<< sh
    | 2 => slt a b
    | 3 => sltu a b
    | 4 => a ^^^ b
    | 5 => if f7 = 0x20 then a.sshiftRight sh else a >>> sh
    | 6 => a ||| b
    | _ => a &&& b

def aluW (f7 : BitVec 7) (f3 : BitVec 3) (a b : Word) : Word :=
  if f7 = 1 then mulDivW f3 a b
  else
    let x : BitVec 32 := a.truncate 32
    let sh := b.toNat % 32
    match f3 with
    | 0 => if f7 = 0x20 then low32 (a - b) else low32 (a + b)
    | 1 => sext (x <<< sh)
    | _ => if f7 = 0x20 then sext (x.sshiftRight sh) else sext (x >>> sh)

/-- Branch conditions. -/
def taken (f3 : BitVec 3) (a b : Word) : Bool :=
  match f3 with
  | 0 => a = b
  | 1 => a ≠ b
  | 4 => a.slt b
  | 5 => !a.slt b
  | 6 => a.toNat < b.toNat
  | _ => b.toNat ≤ a.toNat

/-- Bytes and sign of a load; bytes of a store. -/
def loadLen (f3 : BitVec 3) : Nat := 2 ^ (f3.toNat % 4)

/-- A loaded value extended to 64 bits. -/
def extend (f3 : BitVec 3) (v : Nat) : Word :=
  if 4 ≤ f3.toNat then BitVec.ofNat 64 v else BitVec.ofInt 64 (signedOf (8 * loadLen f3) v)

/-! ### Registers -/

/-- x0 reads as zero. -/
def Tahr.get (t : Tahr) (r : BitVec 5) : Word := if r = 0 then 0 else t.x[r.toNat]'(r.isLt)

/-- A write of x0 is dropped. -/
def Tahr.set (t : Tahr) (r : BitVec 5) (v : Word) : Tahr :=
  if r = 0 then t else { t with x := t.x.set r.toNat v r.isLt }

/-- The registers that an instruction reads or writes, for R195's wait; those of a vector word await in its own row. -/
def Rv.regs : Rv → List (BitVec 5)
  | .lui rd _ => [rd]
  | .auipc rd _ => [rd]
  | .jal rd _ => [rd]
  | .jalr rd rs1 _ => [rd, rs1]
  | .branch _ rs1 rs2 _ => [rs1, rs2]
  | .load _ rd rs1 _ => [rd, rs1]
  | .store _ rs1 rs2 _ => [rs1, rs2]
  | .opImm _ rd rs1 _ => [rd, rs1]
  | .opImmW _ rd rs1 _ => [rd, rs1]
  | .op _ _ rd rs1 rs2 => [rd, rs1, rs2]
  | .opW _ _ rd rs1 rs2 => [rd, rs1, rs2]
  | .csr _ rd rs1 _ => [rd, rs1]
  | .ext _ rd rs1 rs2 => [rd, rs1, rs2]
  | _ => []

/-- Delivers the oldest summary (R195); rd 0 drops it. -/
def Tahr.deliverOne (t : Tahr) : Tahr :=
  match t.summaries with
  | [] => t
  | s :: rest => { t with summaries := rest }.set s.rd s.value

/-- Delivers every summary on its way: what waiting for one of its registers comes to. -/
def Tahr.deliverAll (t : Tahr) : Tahr :=
  t.summaries.foldl (fun t s => t.set s.rd s.value) { t with summaries := [] }

/-- R195: an instruction that reads or writes a register still awaited waits for it. -/
def Tahr.await (t : Tahr) (rs : List (BitVec 5)) : Tahr :=
  if t.summaries.any fun s => rs.contains s.rd then t.deliverAll else t

end Sys2Proof.Machine
end

