-- ==== Sys2Proof/Machine/VecSI.lean ====
section
/-! DEFINITION. The vector engine's SI operations: element results, comparisons, width changes
(05_vector_engine_data_and_operations R171 to R175, R177; 02 R66 to R68). -/
namespace Sys2Proof.Machine

/-- A result with its conditions. -/
abbrev SRes := Option Ex × Cond

def okRes (x : Ex) : SRes := (some x, 0)

/-- NaR operands outrank every other outcome and suppress the other conditions (R66, R67). -/
def un (fn : Ex → SRes) (a : Option Ex) : SRes :=
  match a with
  | some a => fn a
  | none => (none, cNarIn)

def bin (fn : Ex → Ex → SRes) (a b : Option Ex) : SRes :=
  match a, b with
  | some a, some b => fn a b
  | _, _ => (none, cNarIn)

def tri (fn : Ex → Ex → Ex → SRes) (a b d : Option Ex) : SRes :=
  match a, b, d with
  | some a, some b, some d => fn a b d
  | _, _, _ => (none, cNarIn)

/-- An argument list for a free approximation: equal operands, equal result (R81). -/
def argsOf (strict : Bool) (xs : List Ex) : List Int :=
  (if strict then 1 else 0) :: xs.flatMap fun x => [x.n, (x.den : Int), x.e]

/-- y has at most n significant bits. -/
def Ex.fitsBits (y : Ex) (n : Nat) : Bool :=
  y.n = 0 || (let k := y.log2 - ((n : Int) - 1); (unitsOf (y.roundAt k) k).eq y)

/-- R172: exact in strict mode, within 2^−(F+2) relative in fast mode. DEDUCED, log entry 136: a fast result that the
carrier's mantissa holds is exact too, as the worked example of R172's chapter has it. -/
def approxRel (strict : Bool) (op w : Nat) (xs : List Ex) (y : Ex) : Ex :=
  if strict || y.fitsBits (w - 1) then y else approxWithin op w (argsOf strict xs) y y.abs w

/-- q of R173 by width, VERF apart. -/
def qOf (erf : Bool) : Nat → Nat
  | 8 => 7
  | 16 => if erf then 14 else 15
  | 32 => if erf then 28 else 29
  | _ => if erf then 54 else 56

/-- R173: a value within 2^−q × max(|y|, τ) of y. -/
def approxTrans (strict : Bool) (op w : Nat) (erf tau : Bool) (x y : Ex) : Ex :=
  let bound := if tau && y.abs.lt (unitsOf 1 0) then unitsOf 1 0 else y.abs
  approxWithin op w (argsOf strict [x]) y bound (qOf erf w)

/-- x ÷ y (R66, R172). -/
def divRes (strict : Bool) (w : Nat) (a b : Ex) : SRes :=
  if b.n = 0 then
    if a.n = 0 then (none, cDiv0 ||| cNarGen) else (some ((Carrier.elem w).maxVal (a.n < 0)), cDiv0)
  else okRes (approxRel strict 6 w [a, b] (a.div b))

def rcpRes (strict : Bool) (w : Nat) (a : Ex) : SRes :=
  if a.n = 0 then (some ((Carrier.elem w).maxVal false), cDiv0)
  else okRes (approxRel strict 7 w [a] ((unitsOf 1 0).div a))

def sqrtRes (strict : Bool) (w : Nat) (a : Ex) : SRes :=
  if a.n < 0 then (none, cNarGen) else if a.n = 0 then okRes Ex.zero
  else okRes (approxRel strict 8 w [a] a.sqrt)

/-- 1 ÷ √a keeps the bound of fast mode in strict mode too (R172). -/
def rsqrtRes (strict : Bool) (w : Nat) (a : Ex) : SRes :=
  if a.n < 0 then (none, cNarGen)
  else if a.n = 0 then (some ((Carrier.elem w).maxVal false), cDiv0)
  else
    let y := ((unitsOf 1 0).div a).sqrt
    okRes (approxWithin 9 w (argsOf strict [a]) y y w)

def lnRes (strict : Bool) (w : Nat) (base2 : Bool) (a : Ex) : SRes :=
  if a.n < 0 then (none, cNarGen)
  else if a.n = 0 then (some ((Carrier.elem w).maxVal true), cDiv0)
  else okRes (approxTrans strict (if base2 then 18 else 17) w false true a (if base2 then exLog2 a else exLn a))

/-- DESIGN CHOICE, log entry 137: a result below 2^−127 is held by fewer bits as R64 rounds it; 0 with UFLOW of R66 is for
one that no mantissa holds. -/
def expRes (strict : Bool) (w : Nat) (base2 : Bool) (a : Ex) : SRes :=
  okRes (approxTrans strict (if base2 then 16 else 15) w false false a (if base2 then exExp2 a else exExp a))

def tanhRes (strict : Bool) (w : Nat) (a : Ex) : SRes := okRes (approxTrans strict 19 w false false a (exTanh a))
def sigmRes (strict : Bool) (w : Nat) (a : Ex) : SRes := okRes (approxTrans strict 20 w false false a (exSigm a))
def erfRes (strict : Bool) (w : Nat) (a : Ex) : SRes := okRes (approxTrans strict 21 w true false a (exErf a))

def exMax (a b : Ex) : Ex := if a.lt b then b else a
def exMin (a b : Ex) : Ex := if b.lt a then b else a

/-- a × 2^n (R171); a shift past every range and every PREC saturates or vanishes as its limit does. -/
def mulPow2 (n : Int) (a : Ex) : SRes := okRes { a with e := a.e + max (-4000) (min 4000 n) }

/-- The second operand of a form: a group, or the SI scalar when X = 1 (R165). -/
def Vec.second (v : Vec) (f : VArgs) (xr : XRegs) (k : Nat) : Option Ex :=
  if f.x then v.scalar (xr f.vs2) else v.siVal v.EW v.G f.vs2.toNat k

def secondUse (f : VArgs) : Use := if f.x then .xreg else .si

/-- A two-source SI instruction, vector or scalar form. -/
def Vec.siBin (v : Vec) (f : VArgs) (xr : XRegs) (prec exact : Bool) (fn : Option Ex → Option Ex → SRes) : VRes :=
  v.guarded (v.legal f { vd := .si, vs1 := .si, vs2 := secondUse f, prec := prec })
    { vec := v.writeSI v.EW v.G f.vd.toNat exact fun k =>
        if v.active f k then some (fn (v.siVal v.EW v.G f.vs1.toNat k) (v.second f xr k)) else none }

/-- A fused multiply-add form, which reads its destination too. -/
def Vec.siTri (v : Vec) (f : VArgs) (xr : XRegs) (fn : Ex → Ex → Ex → Ex) : VRes :=
  v.guarded (v.legal f { vd := .si, vs1 := .si, vs2 := secondUse f, prec := true })
    { vec := v.writeSI v.EW v.G f.vd.toNat false fun k =>
        if v.active f k then
          some (tri (fun a b d => okRes (fn a b d)) (v.siVal v.EW v.G f.vs1.toNat k) (v.second f xr k)
            (v.siVal v.EW v.G f.vd.toNat k))
        else none }

/-- A one-source SI instruction: X and VS2 must be 0. -/
def Vec.siUn (v : Vec) (f : VArgs) (prec exact : Bool) (fn : Ex → SRes) : VRes :=
  v.guarded (v.legal f { vd := .si, vs1 := .si, prec := prec } && !f.x)
    { vec := v.writeSI v.EW v.G f.vd.toNat exact fun k =>
        if v.active f k then some (un fn (v.siVal v.EW v.G f.vs1.toNat k)) else none }

/-- VMULP2: n is x[rs2] as a signed 64-bit integer. -/
def Vec.siMulp2 (v : Vec) (f : VArgs) (xr : XRegs) : VRes :=
  v.guarded (v.legal f { vd := .si, vs1 := .si, vs2 := .xreg, prec := true } && f.x)
    { vec := v.writeSI v.EW v.G f.vd.toNat false fun k =>
        if v.active f k then
          some (un (mulPow2 (xr f.vs2).toInt) (v.siVal v.EW v.G f.vs1.toNat k))
        else none }

/-- VBCAST.VS. -/
def Vec.siBcast (v : Vec) (f : VArgs) (xr : XRegs) : VRes :=
  v.guarded (v.legal f { vd := .si, vs2 := .xreg, prec := true } && f.x)
    { vec := v.writeSI v.EW v.G f.vd.toNat false fun k =>
        if v.active f k then some (un okRes (v.scalar (xr f.vs2))) else none }

/-- One touched block copied as bits, at every level of the chain (R171, VMV). -/
def Vec.copyBlock (v0 v : Vec) (w g src dst b : Nat) : Vec :=
  (List.range (v0.levels + 1)).foldl (fun v l =>
    let ms := (List.range 32).map fun i => elemMant w (v0.code w (src + l * g) (32 * b + i))
    v.putBlock w (dst + l * g) b
      { e := scaleExp (v0.blockScale w (src + l * g) b), m := ms }) v

def Vec.siMove (v : Vec) (f : VArgs) : VRes :=
  v.guarded (v.legal f { vd := .si, vs1 := .si } && !f.x)
    { vec :=
        let touched := (List.range (v.vlmax / 32)).filter fun b => (List.range 32).any fun i => v.active f (32 * b + i)
        let nar := (List.range v.vlmax).any fun k =>
          v.active f k && (v.siVal v.EW v.G f.vs1.toNat k).isNone
        (touched.foldl (fun a b => v.copyBlock a v.EW v.G f.vs1.toNat f.vd.toNat b) v).raise
          (if nar then cNarIn else 0) }

/-- VSEL: the chosen value alone takes part (R175). -/
def Vec.siSel (v : Vec) (f : VArgs) (sel : BitVec 3) (xr : XRegs) : VRes :=
  v.guarded (v.legal f { vd := .si, vs1 := .si, vs2 := secondUse f })
    { vec := v.writeSI v.EW v.G f.vd.toNat true fun k =>
        if v.active f k then
          some (un okRes (if (v.pred sel).getLsbD k then v.siVal v.EW v.G f.vs1.toNat k else v.second f xr k))
        else none }

/-- A comparison of two values (R68, R174): the sign of a − b, none with a NaR. -/
def Vec.siCmp (v : Vec) (f : VArgs) (xr : XRegs) (withNar : Bool) (fn : Int → Bool) : VRes :=
  v.guarded (v.legal f { vd := .pred, vs1 := .si, vs2 := secondUse f })
    { vec :=
        let nar := (List.range v.VL).any fun k =>
          v.active f k && ((v.siVal v.EW v.G f.vs1.toNat k).isNone || (v.second f xr k).isNone)
        (v.writePred (f.vd.truncate 3) v.VL fun k =>
          if v.active f k then
            some (match v.siVal v.EW v.G f.vs1.toNat k, v.second f xr k with
              | some a, some b => fn (a.cmp b)
              | _, _ => withNar)
          else none).raise (if nar then cNarIn else 0) }

/-! ### Width and kind (R177) -/

/-- Block b of a group at half the width, its mantissas shifted left: the same exponent (R57); scale code 0xFF is NaR
throughout. -/
def Vec.widened (v : Vec) (w n b : Nat) : Blk :=
  let sc := v.blockScale (w / 2) n b
  if sc = 255 then { e := -127, m := List.replicate 32 none }
  else { e := scaleExp sc, m := (List.range 32).map fun i => (elemMant (w / 2) (v.code (w / 2) n (32 * b + i))).map (· * 2 ^ (w / 2)) }

/-- VWID: every block keeps its exponent and the mantissas shift left (R57), at every level of a strict chain. DESIGN
CHOICE, log entry 138: a block that is active in part is formed by R60 and R61 from its old and new values. -/
def Vec.widen (v : Vec) (f : VArgs) : VRes :=
  let w := v.EW
  let ok := 16 ≤ w && v.grp.toNat ≤ 2 &&
    v.legal f { vd := .siGroup (2 * v.G), vs1 := .si, apart := true } && !f.x
  v.guarded ok
    { vec :=
        let vl := min v.vl.toNat (2 * v.G * perReg w)
        let act (k : Nat) := k < vl && (!f.m || (v.pred f.pm).getLsbD k)
        let one (a : Vec) (b : Nat) : Vec :=
          let ks := (List.range 32).map (32 * b + ·)
          if ks.all fun k => !act k then a
          else if ks.all act then
            (List.range (v.levels + 1)).foldl (fun a l =>
              let bl := v.widened w (f.vs1.toNat + l * v.G) b
              (a.putBlock w (f.vd.toNat + l * (2 * v.G)) b bl).raise (if bl.m.any (·.isNone) then cNarIn else 0)) a
          else v.writeBlock a w (2 * v.G) f.vd.toNat b true fun k =>
            if act k then some (un okRes (v.siVal (w / 2) v.G f.vs1.toNat k)) else none
        (List.range (2 * v.G * perReg w / 32)).foldl one v }

/-- VNAR: the value at twice the width, formed into the narrower block. -/
def Vec.narrow (v : Vec) (f : VArgs) : VRes :=
  let w := v.EW
  let ok := w ≤ 32 && v.grp.toNat ≤ 2 &&
    v.legal f { vd := .si, vs1 := .siGroup (2 * v.G), prec := true, apart := true } && !f.x
  v.guarded ok
    { vec := v.writeSI w v.G f.vd.toNat false fun k =>
        if v.active f k then some (un okRes (v.siVal (2 * w) (2 * v.G) f.vs1.toNat k)) else none }

/-- VCVT.SI.I: the code's integer value; no NaR. -/
def Vec.cvtSiI (v : Vec) (f : VArgs) : VRes :=
  v.guarded (v.legal f { vd := .si, vs1 := .int, prec := true } && !f.x)
    { vec := v.writeSI v.EW v.G f.vd.toNat false fun k =>
        if v.active f k then some (okRes (unitsOf (signedOf v.EW (v.code v.EW f.vs1.toNat k)) 0)) else none }

/-- The nearest integer code of a value, saturated at the range ends (R177). -/
def intCode (w : Nat) : Option Ex → Nat × Cond
  | none => (codeOf w (-(2 ^ (w - 1))), cNarIn ||| cNarLost)
  | some x =>
    let q := x.roundAt 0
    let hi : Int := 2 ^ (w - 1) - 1
    let lo : Int := -(2 ^ (w - 1))
    if q > hi then (codeOf w hi, cSat) else if q < lo then (codeOf w lo, cSat)
    else if (unitsOf q 0).eq x then (codeOf w q, 0)
    else if q = 0 then (0, cUflow ||| cInexact) else (codeOf w q, cInexact)

/-- VCVT.I.SI. -/
def Vec.cvtISi (v : Vec) (f : VArgs) : VRes :=
  v.guarded (v.legal f { vd := .int, vs1 := .si } && !f.x)
    { vec :=
        let res (k : Nat) := intCode v.EW (v.siVal v.EW v.G f.vs1.toNat k)
        (v.writeInt v.EW f.vd.toNat v.VL fun k => if v.active f k then some (res k).1 else none).raise
          (orAll ((List.range v.VL).map fun k => if v.active f k then (res k).2 else 0)) }

end Sys2Proof.Machine
end

