-- ==== Sys2Proof/Machine/VecInt.lean ====
section
/-! DEFINITION. The vector engine's integer and predicate operations, and VSETCFG (05 R161, R176 to R178). -/
namespace Sys2Proof.Machine

/-- The second integer operand: a group, or the low EW bits of x[rs2] (R165). -/
def Vec.secondCode (v : Vec) (f : VArgs) (xr : XRegs) (k : Nat) : Nat :=
  if f.x then (xr f.vs2).toNat % 2 ^ v.EW else v.code v.EW f.vs2.toNat k

def secondIntUse (f : VArgs) : Use := if f.x then .xreg else .int

/-- A two-source integer instruction on codes of w bits (R176). -/
def Vec.intBin (v : Vec) (f : VArgs) (xr : XRegs) (fn : Nat → Nat → Nat → Nat) : VRes :=
  v.guarded (v.legal f { vd := .int, vs1 := .int, vs2 := secondIntUse f })
    { vec := v.writeInt v.EW f.vd.toNat v.VL fun k =>
        if v.active f k then some (fn v.EW (v.code v.EW f.vs1.toNat k) (v.secondCode f xr k)) else none }

def iAdd (w a b : Nat) : Nat := (a + b) % 2 ^ w
def iSub (w a b : Nat) : Nat := (a + 2 ^ w - b) % 2 ^ w
def iMul (w a b : Nat) : Nat := a * b % 2 ^ w
def iMulh (w a b : Nat) : Nat := codeOf w ((signedOf w a * signedOf w b).fdiv (2 ^ w))
def iMulhu (w a b : Nat) : Nat := a * b / 2 ^ w
def iSll (w a b : Nat) : Nat := a * 2 ^ (b % w) % 2 ^ w
def iSrl (w a b : Nat) : Nat := a / 2 ^ (b % w)
def iSra (w a b : Nat) : Nat := codeOf w ((signedOf w a).fdiv (2 ^ (b % w)))
def iMin (w a b : Nat) : Nat := if signedOf w b < signedOf w a then b else a
def iMax (w a b : Nat) : Nat := if signedOf w a < signedOf w b then b else a

/-- An integer comparison into a predicate. -/
def Vec.intCmp (v : Vec) (f : VArgs) (xr : XRegs) (fn : Nat → Nat → Nat → Bool) : VRes :=
  v.guarded (v.legal f { vd := .pred, vs1 := .int, vs2 := secondIntUse f })
    { vec := v.writePred (f.vd.truncate 3) v.VL fun k =>
        if v.active f k then some (fn v.EW (v.code v.EW f.vs1.toNat k) (v.secondCode f xr k)) else none }

/-- VIDX. -/
def Vec.intIdx (v : Vec) (f : VArgs) : VRes :=
  v.guarded (v.legal f { vd := .int } && !f.x)
    { vec := v.writeInt v.EW f.vd.toNat v.VL fun k => if v.active f k then some (k % 2 ^ v.EW) else none }

/-- VISPLAT.VX. -/
def Vec.intSplat (v : Vec) (f : VArgs) (xr : XRegs) : VRes :=
  v.guarded (v.legal f { vd := .int, vs2 := .xreg } && f.x)
    { vec := v.writeInt v.EW f.vd.toNat v.VL fun k =>
        if v.active f k then some ((xr f.vs2).toNat % 2 ^ v.EW) else none }

/-- VIWID and VIWIDU. -/
def Vec.intWiden (v : Vec) (f : VArgs) (signed : Bool) : VRes :=
  let w := v.EW
  let ok := 16 ≤ w && v.grp.toNat ≤ 2 &&
    v.legal f { vd := .group (2 * v.G), vs1 := .int, apart := true } && !f.x
  v.guarded ok
    { vec := v.writeInt w f.vd.toNat v.VL fun k =>
        if v.active f k then
          let c := v.code (w / 2) f.vs1.toNat k
          some (if signed then codeOf w (signedOf (w / 2) c) else c)
        else none }

/-- VINAR. -/
def Vec.intNarrow (v : Vec) (f : VArgs) : VRes :=
  let w := v.EW
  let ok := w ≤ 32 && v.grp.toNat ≤ 2 &&
    v.legal f { vd := .int, vs1 := .group (2 * v.G), apart := true } && !f.x
  v.guarded ok
    { vec := v.writeInt w f.vd.toNat v.VL fun k =>
        if v.active f k then some (v.code (2 * w) f.vs1.toNat k % 2 ^ w) else none }

/-! ### Predicates (R178) -/

def Vec.predOp (v : Vec) (f : VArgs) (u1 u2 : Use) (fn : Bool → Bool → Bool) : VRes :=
  v.guarded (v.legal f { vd := .pred, vs1 := u1, vs2 := u2, mask := false } && !f.x)
    { vec := v.writePred (f.vd.truncate 3) v.VL fun k =>
        some (fn ((v.pred (f.vs1.truncate 3)).getLsbD k) ((v.pred (f.vs2.truncate 3)).getLsbD k)) }

/-! ### Configuration (R160, R161, R213) -/

/-- EW, GRP and VL set together; VL is held at VLMAX. -/
def Vec.configure (v : Vec) (ew grp : BitVec 2) (vl : Nat) : Vec :=
  let v' := { v with ew := ew, grp := grp }
  { v' with vl := BitVec.ofNat 14 (min vl v'.vlmax) }

/-- VSETCFG: x[rs1] is the requested length, EW in [22:21], GRP in [24:23]; rd receives the new VL. -/
def Vec.setCfg (v : Vec) (f : VArgs) (xr : XRegs) : VRes :=
  let ok := f.pm = 0 && !f.m && !f.x && f.vs2.toNat < 16
  let v' := v.configure (f.vs2.extractLsb' 0 2) (f.vs2.extractLsb' 2 2) (xr f.vs1).toNat
  v.guarded ok { vec := v', sum := some { rd := f.vd, value := v'.vl.zeroExtend 64 } }

end Sys2Proof.Machine
end

