-- ==== Sys2Proof/Machine/VecRed.lean ====
section
/-! DEFINITION. Reductions, segments, compress and expand, permutes and summaries (06 R186 to R200). -/
namespace Sys2Proof.Machine

/-- One operand of a sum: a level's value. NaR is kept apart. -/
structure SumAcc where
  total : Int := 0
  cond : Cond := 0
  deriving DecidableEq, Repr

/-- Adds a value in units of 2^lsb, truncated toward minus infinity (R187, R188). -/
def SumAcc.add (a : SumAcc) (lsb : Int) (lossy : Cond) (x : Ex) : SumAcc :=
  let q := x.floorAt lsb
  { total := a.total + q, cond := a.cond ||| (if (unitsOf q lsb).eq x then 0 else lossy) }

/-- The values of an element's levels, level 0 first. -/
def Vec.levelVals (v : Vec) (w g n k : Nat) : List (Option Ex) :=
  (List.range (v.levels + 1)).map fun l => v.val0 w (n + l * g) k

/-- The exact-window sum of some elements, each a list of its levels, anchored at emax (R187, R188). A NaR operand makes
the sum NaR; the bits that the other operands lose still set their conditions, which R67 does not suppress. -/
def sumWindow (strict : Bool) (emax : Int) (els : List (List (Option Ex))) : SRes :=
  let lsb := emax - (if strict then 304 else 112)
  let lossy := if strict then cStrictRange ||| cInexact else cInexact
  let a := (els.flatMap fun e => e.filterMap id).foldl (fun a x => a.add lsb lossy x) ({} : SumAcc)
  if els.any fun e => e.any (·.isNone) then (none, a.cond ||| cNarIn) else (some (unitsOf a.total lsb), a.cond)

/-- Largest of some block exponents; a block of scale code 0xFF takes no part. -/
def maxExpOf (scales : List Nat) : Int :=
  (scales.filter (· ≠ 255)).foldl (fun a s => max a (scaleExp s)) (-127)

/-- The reduction kinds. -/
inductive Red where
  | sum | max | min
  deriving DecidableEq, Repr

/-- The largest or smallest of some values; NaR outranks (R189). -/
def pickVal (big : Bool) : List (Option Ex) → SRes
  | [] => (some Ex.zero, 0)
  | v :: rest =>
    match rest.foldl (fun a b => match a, b with
      | some a, some b => some (if big then exMax a b else exMin a b)
      | _, _ => none) v with
    | some x => (some x, 0)
    | none => (none, cNarIn)

/-- VREDSUM, VREDMAX, VREDMIN on SI values: block 0 of vd's first register is written whole (R186). -/
def Vec.siRed (v : Vec) (f : VArgs) (r : Red) : VRes :=
  v.guarded (v.legal f { vd := .si, vs1 := .si, vs2 := .si, prec := r = .sum })
    { vec :=
        let w := v.EW
        let act := (List.range v.VL).filter (v.active f)
        let res : SRes := match r with
          | .sum =>
            let emax := maxExpOf (v.blockScale w f.vs2.toNat 0 :: act.map fun k => v.blockScale w f.vs1.toNat (k / 32))
            sumWindow v.strict emax
              (v.levelVals w v.G f.vs2.toNat 0 :: act.map fun k => v.levelVals w v.G f.vs1.toNat k)
          | _ => pickVal (r = .max) (v.siVal w v.G f.vs2.toNat 0 :: act.map fun k => v.siVal w v.G f.vs1.toNat k)
        v.writeBlock v w v.G f.vd.toNat 0 (r ≠ .sum) fun k => some (if k = 0 then res else okRes Ex.zero) }

/-- The integer forms write element 0 alone (R190). -/
def Vec.intRed (v : Vec) (f : VArgs) (r : Red) : VRes :=
  v.guarded (v.legal f { vd := .int, vs1 := .int, vs2 := .int })
    { vec :=
        let w := v.EW
        let act := (List.range v.VL).filter (v.active f)
        let res := (act.map fun k => v.code w f.vs1.toNat k).foldl (fun a c => match r with
          | .sum => iAdd w a c | .max => iMax w a c | .min => iMin w a c) (v.code w f.vs2.toNat 0)
        v.putCode w f.vd.toNat 0 res }

/-- The reduction rows: X chooses the integer form. -/
def Vec.red (v : Vec) (f : VArgs) (r : Red) : VRes := if f.x then v.intRed f r else v.siRed f r

/-! ### Segments (R191, R192) -/

/-- The segments of elements 0 to vl − 1 as lists of indices. -/
def segments (heads : BitVec 8192) (vl : Nat) : List (List Nat) :=
  ((List.range vl).foldl (fun (acc : List (List Nat)) k => match acc with
    | [] => [[k]]
    | s :: rest => if heads.getLsbD k then [k] :: s :: rest else (k :: s) :: rest) []).reverse.map List.reverse

/-- One segment on SI values, without an initial value. -/
def Vec.segVal (v : Vec) (f : VArgs) (r : Red) (seg : List Nat) : SRes :=
  let w := v.EW
  let act := seg.filter (v.active f)
  match act with
  | [] => okRes Ex.zero
  | _ => match r with
    | .sum => sumWindow v.strict (maxExpOf (act.map fun k => v.blockScale w f.vs1.toNat (k / 32)))
        (act.map fun k => v.levelVals w v.G f.vs1.toNat k)
    | _ => pickVal (r = .max) (act.map fun k => v.siVal w v.G f.vs1.toNat k)

def Vec.segCode (v : Vec) (f : VArgs) (r : Red) (seg : List Nat) : Nat :=
  let w := v.EW
  let cs := (seg.filter (v.active f)).map fun k => v.code w f.vs1.toNat k
  match cs, r with
  | [], .sum => 0
  | [], .max => codeOf w (-(2 ^ (w - 1)))
  | [], .min => codeOf w (2 ^ (w - 1) - 1)
  | c :: cs, .sum => cs.foldl (iAdd w) c
  | c :: cs, .max => cs.foldl (iMax w) c
  | c :: cs, .min => cs.foldl (iMin w) c

/-- VSEGSUM, VSEGMAX, VSEGMIN; each may run with PREC = 0 (R200). -/
def Vec.seg (v : Vec) (f : VArgs) (r : Red) : VRes :=
  let ss := segments (v.pred (f.vs2.truncate 3)) v.VL
  let n := ss.length
  if f.x then
    v.guarded (v.legal f { vd := .int, vs1 := .int, vs2 := .pred, apart := true })
      { vec := v.writeInt v.EW f.vd.toNat n fun s => (ss[s]?).map (v.segCode f r) }
  else
    v.guarded (v.legal f { vd := .si, vs1 := .si, vs2 := .pred, apart := true })
      { vec := v.writeSI v.EW v.G f.vd.toNat (r ≠ .sum) fun s => (ss[s]?).map (v.segVal f r) }

/-! ### Movement (R193, R194, R198 to R200) -/

/-- A movement: element k of vd takes the source element that src names, zero where it names none; elements for
which writes is false keep their values. -/
def Vec.move (v : Vec) (f : VArgs) (writes : Nat → Bool) (src : Nat → Option Nat) : Vec :=
  if f.x then
    v.writeInt v.EW f.vd.toNat v.vlmax fun k =>
      if writes k then some (match src k with | some i => v.code v.EW f.vs1.toNat i | none => 0) else none
  else
    v.writeSI v.EW v.G f.vd.toNat true fun k =>
      if writes k then some (match src k with
        | some i => un okRes (v.siVal v.EW v.G f.vs1.toNat i)
        | none => okRes Ex.zero)
      else none

/-- The form of a movement with a second field. -/
def moveShape (f : VArgs) (second : Use) : Shape :=
  { vd := if f.x then .int else .si, vs1 := if f.x then .int else .si, vs2 := second, apart := true }

def Vec.activeList (v : Vec) (f : VArgs) : List Nat := (List.range v.VL).filter (v.active f)

def Vec.compress (v : Vec) (f : VArgs) : VRes :=
  let act := (v.activeList f).toArray
  v.guarded (v.legal f (moveShape f .none)) { vec := v.move f (fun k => k < act.size) (fun k => act[k]?) }

def Vec.expand (v : Vec) (f : VArgs) : VRes :=
  v.guarded (v.legal f (moveShape f .none))
    { vec := v.move f (v.active f) fun k => some (((List.range k).filter (v.active f)).length) }

/-- VPERM: an index at or beyond VL gives zero and sets PERM_OOR. -/
def Vec.perm (v : Vec) (f : VArgs) : VRes :=
  let idx (k : Nat) := v.code v.EW f.vs2.toNat k
  v.guarded (v.legal f (moveShape f .int))
    { vec := (v.move f (v.active f) fun k => if idx k < v.VL then some (idx k) else none).raise
        (if (v.activeList f).any fun k => v.VL ≤ idx k then cPermOor else 0) }

def Vec.slideUp (v : Vec) (f : VArgs) (xr : XRegs) : VRes :=
  let n := (xr f.vs2).toNat
  v.guarded (v.legal f (moveShape f .xreg))
    { vec := v.move f (v.active f) fun k => if n ≤ k then some (k - n) else none }

def Vec.slideDown (v : Vec) (f : VArgs) (xr : XRegs) : VRes :=
  let n := (xr f.vs2).toNat
  v.guarded (v.legal f (moveShape f .xreg))
    { vec := v.move f (v.active f) fun k => if k + n < v.VL then some (k + n) else none }

/-! ### Summaries (R196, R197) -/

/-- VPSUM: the row names the sub-operation 0 to 3; the others and a value in [25:24] are reserved (R196, R214). -/
def Vec.psum (v : Vec) (f : VArgs) (fn : List Nat → List Nat → Int) : VRes :=
  let ok := v.legal f { vd := .xreg, vs1 := .pred, vs2 := .sub 4 } && !f.x
  let act := v.activeList f
  let hits := act.filter fun k => (v.pred (f.vs1.truncate 3)).getLsbD k
  v.guarded ok { vec := v, sum := some { rd := f.vd, value := BitVec.ofInt 64 (fn act hits) } }

/-- One element delivered as an SI scalar: its mantissa at 62 fraction bits, its scale to VEC_SSCALE. -/
def Vec.deliver (v : Vec) (f : VArgs) (k : Nat) : VRes :=
  let w := v.EW
  match v.val0 w f.vs1.toNat k with
  | none => { vec := v.raise cNarIn, sum := some { rd := f.vd, value := BitVec.ofInt 64 (-(2 ^ 63)) } }
  | some _ =>
    let m := (elemMant w (v.code w f.vs1.toNat k)).getD 0
    { vec := { v with sscale := BitVec.ofNat 8 (v.blockScale w f.vs1.toNat (k / 32)) },
      sum := some { rd := f.vd, value := BitVec.ofInt 64 (m * 2 ^ (64 - w)) } }

def Vec.deliverInt (v : Vec) (f : VArgs) (k : Nat) : VRes :=
  { vec := v, sum := some { rd := f.vd, value := BitVec.ofInt 64 (signedOf v.EW (v.code v.EW f.vs1.toNat k)) } }

/-- The lowest index of the largest element. -/
def Vec.argMax (v : Vec) (f : VArgs) (lt : Nat → Nat → Bool) : Option Nat :=
  match v.activeList f with
  | [] => none
  | k :: ks => some (ks.foldl (fun a b => if lt a b then b else a) k)

/-- VSMAX. -/
def Vec.smax (v : Vec) (f : VArgs) : VRes :=
  let w := v.EW
  if f.x then
    v.guarded (v.legal f { vd := .xreg, vs1 := .int })
      (match v.argMax f fun a b => signedOf w (v.code w f.vs1.toNat a) < signedOf w (v.code w f.vs1.toNat b) with
        | some k => v.deliverInt f k
        | none => { vec := v, sum := some { rd := f.vd, value := BitVec.ofInt 64 (-(2 ^ 63)) } })
  else
    v.guarded (v.legal f { vd := .xreg, vs1 := .si })
      (let vals (k : Nat) := v.siVal w v.G f.vs1.toNat k
       if (v.activeList f).any fun k => (vals k).isNone then
         { vec := v.raise cNarIn, sum := some { rd := f.vd, value := BitVec.ofInt 64 (-(2 ^ 63)) } }
       else match v.argMax f fun a b => ((vals a).getD Ex.zero).lt ((vals b).getD Ex.zero) with
        | some k => v.deliver f k
        | none => { vec := { v with sscale := 0 }, sum := some { rd := f.vd, value := 0 } })

/-- VMVX: element 0 whatever the mask and VL. -/
def Vec.mvx (v : Vec) (f : VArgs) : VRes :=
  v.guarded (v.legal f { vd := .xreg, vs1 := if f.x then .int else .si, mask := false })
    (if f.x then v.deliverInt f 0 else v.deliver f 0)

end Sys2Proof.Machine
end

