-- ==== Sys2Proof/Machine/VecMem.lean ====
section
/-! DEFINITION. Vector access to tile memory (06 R201 to R206, 03 R111 to R113, R116). Tile offsets are byte
offsets of the cluster's own memory. -/
namespace Sys2Proof.Machine

/-- A cluster's tile memory: 64 banks of 768 lines of 128 bytes (R239). -/
def tileBanks : Nat := 64
def bankLines : Nat := 768
def lineBytes : Nat := 128

/-- The bank of a tile offset, and the line in that bank (R239). -/
def tileBank (a : Nat) : Nat := a / lineBytes % tileBanks
def tileLine (a : Nat) : Nat := a / (lineBytes * tileBanks)

/-- The bytes of a cluster's tile memory: 0x600000. -/
def tileSize : Nat := tileBanks * bankLines * lineBytes

/-- What a vector memory instruction leaves: the engine and its writes to tile memory. -/
structure VMemRes where
  vec : Vec
  writes : List WByte := []
  deriving DecidableEq, Repr

/-- The format that a memory instruction names: FMT[5] is X (R209). -/
def vfmt (f : VArgs) : Nat := f.vs2.toNat + (if f.x then 32 else 0)

/-- x[rs1 + 1] (R202, R205). -/
def nextReg (r : BitVec 5) : BitVec 5 := r + 1

/-- Elements of the storage units that a vector access writes or converts whole: the storage block, whole bytes
for sub-byte formats, single elements otherwise. -/
def unitLen (f : Fmt) : Nat :=
  if f.block ≠ 0 then f.block else if f.ew % 8 = 0 then 1 else 8 / Nat.gcd f.ew 8

/-- The side of a vector access: one run from element 0 (R201). -/
def vside (fmt : Fmt) (addr scaleAddr len : Nat) : Side := { fmt := fmt, addr := addr, n0 := len, scaleAddr := scaleAddr }

/-- The bytes that an access to elements 0 to vl − 1 touches lie in tile memory (R201): whole blocks, and for a store
whole storage units (R112, R113); no element touches no byte. -/
def vInTile (store : Bool) (fmt : Fmt) (addr scaleAddr vl : Nat) : Bool :=
  let s := vside fmt addr scaleAddr vl
  let held := if store then (vl + unitLen fmt - 1) / unitLen fmt * unitLen fmt else vl
  let len := if fmt.block = 0 then (held * fmt.ew + 7) / 8 else s.blocksPerRun * fmt.blkBytes
  vl = 0 || (addr + len ≤ tileSize && (fmt.scale ≠ 1 || scaleAddr + s.blocksPerRun ≤ tileSize))

/-- Legality of VLD and VST, whose strict chain plays no part (R204). -/
def Vec.memLegal (v : Vec) (store : Bool) (f : VArgs) (fmt : Fmt) (xr : XRegs) : Bool :=
  f.vd.toNat % v.G = 0 && (f.m || f.pm = 0)
  && (fmt.scale ≠ 1 || f.vs1 ≠ 31)
  && vInTile store fmt (xr f.vs1).toNat (xr (nextReg f.vs1)).toNat v.VL

/-- A storage format in strict mode sets STRICT_CVT (R111). -/
def Vec.strictCvt (v : Vec) (fmt : Fmt) : Cond := if v.strict && !fmt.isSI then cStrictCvt else 0

/-- One touched block loaded (R92, R112): from an SI form with every element active the exponent stays (R57). -/
def loadBlock (v0 v : Vec) (f : VArgs) (s : Side) (m : Src) (b : Nat) : Vec :=
  let w := v0.EW
  let ks := (List.range 32).map (32 * b + ·)
  let act := ks.map (v0.active f)
  if !act.any id then v
  else if s.fmt.isSI && act.all id then
    let sc := s.scale m 0 (32 * b)
    let ms := ks.map fun k => s.siMant m 0 k
    let (bl, c) := moveBlock s.fmt.carrier (.elem w) (if sc = 255 then none else some (scaleExp sc)) ms
    (v.putBlock w f.vd.toNat b bl).raise c
  else
    let lvs := ks.map fun k => if v0.active f k then s.read m 0 k else .val Ex.zero
    let els := (ks.zip lvs).map fun (k, lv) =>
      if v0.active f k then { val := lvVal (.elem w) lv, active := true : Elem }
      else { val := v0.val0 w f.vd.toNat k, active := false : Elem }
    let (bl, c) := formBlock (.elem w) els
    (v.putBlock w f.vd.toNat b bl).raise (c ||| lvConds lvs)

/-- VLD (R201): `descs` is the format table. -/
def Vec.ld (v : Vec) (f : VArgs) (descs : Nat → Desc) (xr : XRegs) (m : Src) : VMemRes :=
  let fmt := fmtOf (vfmt f) (descs (vfmt f))
  if !fmt.usable then
    { vec := if f.vd.toNat % v.G = 0 && (f.m || f.pm = 0) then v.raise cFmtInvalid else v.illegal }
  else if !v.memLegal false f fmt xr then { vec := v.illegal }
  else
    let s := vside fmt (xr f.vs1).toNat (xr (nextReg f.vs1)).toNat v.VL
    { vec := ((List.range ((v.VL + 31) / 32)).foldl (fun a b => loadBlock v a f s m b) v).raise (v.strictCvt fmt) }

/-- The element of a register group as a store sees it. -/
def Vec.outEl (v : Vec) (n k : Nat) : OutEl :=
  let w := v.EW
  { val := v.val0 w n k,
    maxed := v.blockScale w n (k / 32) = 254 &&
      (match elemMant w (v.code w n k) with
        | some m => m.natAbs = (Carrier.elem w).mmax
        | none => false) }

/-- The exponent of a register block, none for scale code 0xFF. -/
def Vec.blockE (v : Vec) (n b : Nat) : Option Int :=
  let s := v.blockScale v.EW n b
  if s = 255 then none else some (scaleExp s)

/-- One storage unit stored (R97 to R103, R113): unit u holds elements u × len to u × len + len − 1. -/
def storeUnit (v : Vec) (f : VArgs) (s : Side) (u : Nat) : List WByte × Cond :=
  let w := v.EW
  let n := f.vd.toNat
  let len := unitLen s.fmt
  let ks := (List.range len).map (u * len + ·)
  if !ks.any (v.active f) then ([], 0)
  else if s.fmt.isSI then
    let ms := ks.map fun k => elemMant w (v.code w n k)
    let (bl, c) := moveBlock (.elem w) s.fmt.carrier (v.blockE n u) ms
    (writesAt (s.blockAddr 0 u).toNat (blkData s.fmt.carrier bl.m)
      ++ [{ addr := s.scaleAddr + u, data := BitVec.ofNat 8 (scaleCode bl.e) }], c)
  else if s.fmt.block = 0 then
    let rs := ks.map fun k =>
      let el := v.outEl n k
      let (code, c) := match el.val with
        | none => s.fmt.storeNar
        | some x => s.fmt.storeVal false el.maxed x
      (bitsWrite (s.elemBit 0 k) s.fmt.ew code, c)
    (rs.flatMap (·.1), orAll (rs.map (·.2)))
  else
    let er := (List.range (if len = 64 then 2 else 1)).filterMap fun h => v.blockE n (u * len / 32 + h)
    let (sc, codes, c) := s.fmt.storeBlock false false (ks.map (v.outEl n)) er
    ({ addr := s.scaleAt 0 u, data := BitVec.ofNat 8 sc } ::
      codes.zipIdx.flatMap fun (code, i) => bitsWrite (s.elemBit 0 (u * len + i)) s.fmt.ew code, c)

/-- VST (R201). -/
def Vec.st (v : Vec) (f : VArgs) (descs : Nat → Desc) (xr : XRegs) : VMemRes :=
  let fmt := fmtOf (vfmt f) (descs (vfmt f))
  if !fmt.usable then
    { vec := if f.vd.toNat % v.G = 0 && (f.m || f.pm = 0) then v.raise cFmtInvalid else v.illegal }
  else if !v.memLegal true f fmt xr then { vec := v.illegal }
  else
    let s := vside fmt (xr f.vs1).toNat (xr (nextReg f.vs1)).toNat v.VL
    let len := unitLen fmt
    let rs := (List.range ((v.VL + len - 1) / len)).map (storeUnit v f s)
    { vec := v.raise (orAll (rs.map (·.2)) ||| v.strictCvt fmt), writes := rs.flatMap (·.1) }

/-! ### Residue records (R205, R206) -/

/-- RES_COUNT, LEVEL and BLK0 of x[rs1 + 1]. -/
def resFields (x : Word) : Nat × Nat × Nat := (fld x 0 24, fld x 24 5, fld x 32 32)

/-- The form of VLDRES and VSTRES: FMT from 0x10 to 0x18, no mask. -/
def Vec.resLegal (v : Vec) (f : VArgs) : Bool :=
  f.vd.toNat % v.G = 0 && !f.m && f.pm = 0 && f.vs1 ≠ 31 && 0x10 ≤ vfmt f && vfmt f ≤ 0x18

/-- The headers that VLDRES reads: in order, until the last block of the group is filled. -/
def takeRecs (rd : Nat → Byte) (c : Carrier) (level blk0 last : Nat) : Nat → Nat → List Rec
  | _, 0 => []
  | a, n + 1 =>
    let r := readRec rd c a
    if r.level = level && r.idx = blk0 + last then [r] else r :: takeRecs rd c level blk0 last (a + recBytes c) n

/-- The records that are read or written lie in tile memory. DEDUCED, log entry 160: R201's bound holds for them too; without a
record there is no byte to lie outside. -/
def recsInTile (a n : Nat) (c : Carrier) : Bool := n = 0 || a + n * recBytes c ≤ tileSize

/-- VLDRES (R205). DESIGN CHOICE, log entry 142: of two records with one LEVEL and BLOCK_IDX the first read counts, and
BLK0 + b is not taken modulo 2^32, so that no record names a block beyond 2^32 − 1. -/
def Vec.ldres (v : Vec) (f : VArgs) (xr : XRegs) (m : Src) : VMemRes :=
  let c := (fmtOf (vfmt f) (builtinDesc (vfmt f))).carrier
  let (count, level, blk0) := resFields (xr (nextReg f.vs1))
  let nb := (v.VL + 31) / 32
  let recs := if nb = 0 then [] else takeRecs m.byte c level blk0 (nb - 1) (xr f.vs1).toNat count
  if !v.resLegal f || !recsInTile (xr f.vs1).toNat recs.length c then { vec := v.illegal }
  else
    { vec := (List.range nb).foldl (fun a b =>
        match recs.find? fun r => r.level = level && r.idx = blk0 + b with
        | some r =>
          let (bl, cond) := moveBlock c (.elem v.EW) (if r.scale = 255 then none else some (scaleExp r.scale)) r.mant
          (a.putBlock v.EW f.vd.toNat b bl).raise cond
        | none => a.putBlock v.EW f.vd.toNat b (Blk.zero 32)) v }

/-- VSTRES (R206). DESIGN CHOICE, log entry 142: BLOCK_IDX holds the low 32 bits of BLK0 + b. -/
def Vec.stres (v : Vec) (f : VArgs) (xr : XRegs) : VMemRes :=
  let c := (fmtOf (vfmt f) (builtinDesc (vfmt f))).carrier
  let (cap, level, blk0) := resFields (xr (nextReg f.vs1))
  let nb := (v.VL + 31) / 32
  let n := min nb cap
  if !v.resLegal f || !recsInTile (xr f.vs1).toNat n c then { vec := v.illegal }
  else
    let rs := (List.range n).map fun b =>
      let ms := (List.range 32).map fun i => elemMant v.EW (v.code v.EW f.vd.toNat (32 * b + i))
      let (bl, cond) := moveBlock (.elem v.EW) c (v.blockE f.vd.toNat b) ms
      (writesAt ((xr f.vs1).toNat + b * recBytes c) (recordBytes c (blk0 + b) level bl), cond)
    { vec := v.raise (orAll (rs.map (·.2)) ||| (if cap < nb then cResidueOvf else 0)), writes := rs.flatMap (·.1) }

end Sys2Proof.Machine
end

