-- ==== Sys2Proof/Machine/TaskOps.lean ====
section
/-! DEFINITION. Task entries, slots, firings and guards (07 R225 to R253): how a firing ends, how a guard resolves,
how a speculative firing commits. -/
namespace Sys2Proof.Machine

/-! ### Descriptor fields (R226, R227) -/

/-- Word k of a descriptor. -/
def TEntry.word (e : TEntry) (k : Nat) : Word := BitVec.ofNat 64 (fld e.desc (64 * k) 64)

/-- A field of a descriptor word. -/
def TEntry.f (e : TEntry) (k lo len : Nat) : Nat := fld e.desc (64 * k + lo) len

def TEntry.kind (e : TEntry) : Nat := e.f 0 0 3
def TEntry.strict (e : TEntry) : Bool := e.f 0 3 1 = 1
def TEntry.spec (e : TEntry) : Bool := e.f 0 4 1 = 1
def TEntry.guardEn (e : TEntry) : Bool := e.f 0 5 1 = 1
def TEntry.guardNo (e : TEntry) : Nat := e.f 0 6 6
def TEntry.pol (e : TEntry) : Bool := e.f 0 12 1 = 1
def TEntry.rearm (e : TEntry) : Bool := e.f 0 13 1 = 1
def TEntry.usesArray (e : TEntry) : Bool := e.f 0 14 1 = 1
def TEntry.trigger (e : TEntry) : Bool := e.f 0 15 1 = 1
def TEntry.prio (e : TEntry) : Nat := e.f 0 16 4
def TEntry.tag (e : TEntry) : Nat := e.f 0 32 32
/-- Wait conditions in use: slot and threshold. -/
def TEntry.waits (e : TEntry) : List (Nat × Nat) := (List.range (e.f 0 20 3)).map fun w => (e.f 1 (16 * w) 8, e.f 1 (16 * w + 8) 8)
/-- Local signals in use: slot and amount. -/
def TEntry.prods (e : TEntry) : List (Nat × Nat) := (List.range (e.f 0 23 3)).map fun w => (e.f 2 (16 * w) 8, e.f 2 (16 * w + 8) 8)
/-- Remote signals in use: cluster, slot, amount. -/
def TEntry.remotes (e : TEntry) : List (Nat × Nat × Nat) :=
  (List.range (e.f 0 26 2)).map fun w => (e.f 3 (32 * w) 9, e.f 3 (32 * w + 9) 8, e.f 3 (32 * w + 17) 8)
/-- The buffers named by valid WBUF fields. -/
def TEntry.wbufs (e : TEntry) : List Nat :=
  (List.range 4).filterMap fun w => if e.f 4 (8 * w + 7) 1 = 1 then some (e.f 4 (8 * w) 6) else none
/-- CMD_ADDR and CMD_COUNT, CODE_ADDR, STACK, BUDGET, DEADLINE (R227). -/
def TEntry.addr (e : TEntry) : Nat := e.f 5 0 23

/-! ### Slots and signals (R230, R234) -/

def Cluster.slot (k : Cluster) (n : Nat) : Nat := if h : n < 256 then (k.slots[n]).toNat else 0
def Cluster.setSlot (k : Cluster) (n v : Nat) : Cluster :=
  if h : n < 256 then { k with slots := k.slots.set n (BitVec.ofNat 16 v) } else k

/-- Sticky bits of TSK_STAT (R255). -/
def Cluster.flag (k : Cluster) (bits : BitVec 5) : Cluster := { k with tstat := k.tstat ||| bits }

/-- A signal: a counter that would pass 65,535 stays there and sets SLOT_OVF (R230). -/
def Cluster.addSlot (k : Cluster) (n amount : Nat) : Cluster :=
  if 65535 < k.slot n + amount then (k.setSlot n 65535).flag 1 else k.setSlot n (k.slot n + amount)

/-- A subtraction below zero leaves zero and sets SLOT_UFL (R230). -/
def Cluster.subSlot (k : Cluster) (n amount : Nat) : Cluster :=
  if k.slot n < amount then (k.setSlot n 0).flag 2 else k.setSlot n (k.slot n - amount)

/-- A signal to a cluster: its own slots at once, another cluster's through a flight (R234). -/
def State.signal (s : State) (c : Cl) (target slot amount : Nat) : State :=
  if target = c.val then s.onCl c (·.addSlot slot amount)
  else match clOf target with
    | some t => { s with flights := s.flights ++ [{ cl := t, slot := BitVec.ofNat 8 slot, amount := BitVec.ofNat 8 amount }] }
    | none => s

/-! ### Firings -/

def Cluster.firing (k : Cluster) (i : Nat) : Option Firing := k.firings.find? (·.entry == i)
def Cluster.onFiring (k : Cluster) (i : Nat) (f : Firing → Firing) : Cluster :=
  { k with firings := k.firings.map fun x => if x.entry = i then f x else x }

/-- The firing of the kernel that Tahr runs. -/
def Cluster.kernelFiring (k : Cluster) : Option Firing :=
  match k.tahr.kernel with
  | some t => k.firing t.entry
  | none => none

/-- A firing whose effects are still held: its guard set is not empty (R245). -/
def Firing.held (f : Firing) : Bool := !f.guards.isEmpty

def Cluster.buf (k : Cluster) (b : Nat) : TBuf := if h : b < 64 then k.bufs[b] else {}
def Cluster.onBuf (k : Cluster) (b : Nat) (f : TBuf → TBuf) : Cluster :=
  if h : b < 64 then { k with bufs := k.bufs.set b (f k.bufs[b]) } else k

/-- Whether a tile offset lies in a buffer that an entry has claimed (R245). -/
def Cluster.inClaim (k : Cluster) (entry off : Nat) : Bool :=
  k.bufs.toList.any fun b => b.claimed && b.owner.toNat == entry
    && decide (b.base.toNat * 128 ≤ off) && decide (off < (b.base.toNat + b.lines.toNat) * 128)

/-- The buffers of a firing are released when it ends (R241). -/
def Cluster.releaseBufs (k : Cluster) (entry : Nat) : Cluster :=
  { k with bufs := k.bufs.map fun b => if b.claimed && b.owner.toNat == entry then { b with claimed := false } else b }

/-- The stretches of an entry's claimed buffers, as device addresses. -/
def Cluster.claimSpans (k : Cluster) (c : Cl) (entry : Nat) : List (Nat × Nat) :=
  (k.bufs.toList.filter fun b => b.claimed && b.owner.toNat == entry).map fun b =>
    (tileBase c.val + b.base.toNat * 128, b.lines.toNat * 128)

/-- Tile memory of a cluster as its own units read it. -/
def State.tile (s : State) (c : Cl) (off : Nat) : Byte := s.mem.get (tileBase c.val + off)

/-- A guard set inside another. -/
def inside (a b : GSet) : Bool := a.all b.contains

/-- The byte that held sectors give a reader with a guard set: that of the firing dispatched last. -/
def Region.heldByte (r : Region) (gs : GSet) (a : Nat) : Option Byte :=
  let hs := r.hold.filter fun h => h.addr == a / 32 * 32 && h.mask.getLsbD (a % 32) && inside h.guards gs
  (hs.foldl (fun (best : Option HSector) h => match best with
    | some b => if b.order ≤ h.order then some h else best
    | none => some h) none).map fun h => BitVec.ofNat 8 (fld h.data (8 * (a % 32)) 8)

/-- A byte as a firing reads it. -/
def State.readAs (s : State) (c : Cl) (f : Firing) (a : Nat) : Byte :=
  if f.held then ((s.rg (rgOf c)).heldByte f.guards a).getD (s.mem.get a) else s.mem.get a

/-- Tile memory as the units of a firing read it: those of a speculative one see held sectors too (R246). -/
def State.tileAs (s : State) (c : Cl) (f : Option Firing) (off : Nat) : Byte :=
  match f with
  | some f => s.readAs c f (tileBase c.val + off)
  | none => s.tile c off

/-- Writes of a cluster's own units, at tile offsets. -/
def State.tileWrite (s : State) (c : Cl) (ws : List WByte) : State :=
  { s with mem := s.mem.write (ws.map fun w => { w with addr := tileBase c.val + w.addr }) }

/-- A stall or work counter of a cluster rises (R601, R606). -/
def Cluster.count (k : Cluster) (engine slot n : Nat) : Cluster :=
  if h : engine * 16 + slot < 128 then { k with stl := k.stl.set (engine * 16 + slot) (k.stl[engine * 16 + slot] + BitVec.ofNat 48 n) }
  else k

/-- A count of an engine rises: in the tally of a speculative firing until it commits (R603). -/
def Cluster.charge (k : Cluster) (f : Option Firing) (engine slot n : Nat) : Cluster :=
  match f with
  | some x =>
    if x.held then
      k.onFiring x.entry fun y => { y with tally := smSet y.tally (16 * engine + slot) (smGet 0 y.tally (16 * engine + slot) + n) }
    else k.count engine slot n
  | none => k.count engine slot n

/-- WORK of an engine (R606). -/
def Cluster.work (k : Cluster) (f : Option Firing) (engine n : Nat) : Cluster := k.charge f engine 11 n

/-- A counter of a region rises (R606). -/
def Region.count (x : Region) (engine slot n : Nat) : Region :=
  if h : engine * 16 + slot < 48 then { x with stl := x.stl.set (engine * 16 + slot) (x.stl[engine * 16 + slot] + BitVec.ofNat 48 n) }
  else x

/-- An entry of a tally reaches its counter. -/
def State.addTally (s : State) (c : Cl) (w : Nat × Nat) : State :=
  if w.1 < 128 then s.onCl c (·.count (w.1 / 16) (w.1 % 16) w.2) else s.onRg (rgOf c) (·.count (w.1 / 16 - 8) (w.1 % 16) w.2)

/-- What SPEC_SQUASH takes of a tally: its BUSY and stall counts; WORK is dropped, and so is THERMAL, which stands outside
the division (R603, R604; log entry 133). -/
def squashSlot (w : Nat × Nat) : Option (Nat × Nat) :=
  if w.1 % 16 = 11 ∨ w.1 % 16 = 9 then none else some (w.1 / 16 * 16 + 6, w.2)

/-! ### The completion ring (R236, R637) -/

/-- The unit number of a firing's work: array, vector engine, DMA engine. -/
def Work.kind : Work → Nat
  | .array => 1
  | .vector => 2
  | .dma _ => 3
  | .solver _ _ => 4

/-- Conditions that a firing's units raised (R84, R236). -/
def Cluster.firingConds (k : Cluster) (f : Firing) : Cond :=
  if f.final then f.conds
  else match f.unit with
  | .array => f.conds ||| k.arr.conds
  | .vector => f.conds ||| k.vec.conds ||| (if (k.entry f.entry).usesArray then k.arr.conds else 0)
  | _ => f.conds

/-- The four words of a record. -/
def recordWords (e : TEntry) (index kind outcome status cause cycles result : Nat) (conds : Cond) : List Word :=
  [packBits [(index, 0), (kind, 8), (outcome, 12), (status, 16), (e.tag, 32)], packBits [(conds.toNat, 0), (cause, 20)],
   packBits [(cycles, 0)], packBits [(result, 0)]]

/-- A record enters the ring; a full ring loses its oldest unread record (R637). -/
def State.record (s : State) (c : Cl) (ws : List Word) : State :=
  let k := s.cl c
  let t := s.tileWrite c (writesAt (k.cringBase.toNat * 32 + k.head.toNat * 32) (wordBytes ws))
  if k.head - k.tail = 255 then t.onCl c fun k => { k with head := k.head + 1, tail := k.tail + 1 }.flag 4
  else t.onCl c fun k => { k with head := k.head + 1 }

/-! ### Guards (R242) -/

def Region.guard (r : Region) (g : Nat) : Guard := if h : g < 64 then r.guards[g] else {}
def Region.onGuard (r : Region) (g : Nat) (f : Guard → Guard) : Region :=
  if h : g < 64 then { r with guards := r.guards.set g (f r.guards[g]) } else r

/-- Every cluster of a region changes. -/
def State.onClusters (s : State) (r : Rg) (f : Cluster → Cluster) : State :=
  (clustersOf r).foldl (fun s c => s.onCl c f) s

/-- A guard returns to UNRESOLVED: its bound entries may dispatch again (R242). -/
def State.unresolve (s : State) (r : Rg) (g : Nat) : State :=
  (s.onRg r fun x => x.onGuard g fun y => { y with state := .unresolved, settled := 0 }).onClusters r fun k =>
    { k with table := k.table.map fun e => if e.guardEn && e.guardNo == g then { e with settled := false } else e }

/-- A bound entry settles while its guard is resolved; the last one returns the guard to UNRESOLVED (R242). -/
def State.settle (s : State) (c : Cl) (i : Nat) : State :=
  let e := (s.cl c).entry i
  let r := rgOf c
  let g := (s.rg r).guard e.guardNo
  if !e.guardEn || g.state = .unresolved || e.settled then s
  else
    let t := (s.onCl c (·.onEntry i fun e => { e with settled := true })).onRg r fun x =>
      x.onGuard e.guardNo fun y => { y with settled := y.settled + 1 }
    if g.settled + 1 = g.nbound then t.unresolve r e.guardNo else t

/-! ### Quiescence (R252, R253, R287, R517, R518) -/

/-- No firing and no held item remains. -/
def State.quiet (s : State) : Bool :=
  s.cls.toList.all (fun k => k.firings.isEmpty) && s.rgs.toList.all fun r => r.hold.isEmpty && r.held.isEmpty

/-- STEP_RUNs cut short complete with DONE_PARTIAL and the number of the last step completed, a free value before the
first (R517). -/
def State.cutWaits (s : State) (ws : List StepWait) : State :=
  let (n, s) := s.draw
  let last := if s.run.crvStep = 0 then Config.freeWord n 0 else (s.run.crvStep - 1).zeroExtend 64
  ws.foldl (fun s w => s.finish w.port w.tag { status := 1, words := [last] }) s

/-- The budget is set to zero, and every STEP_RUN that waits is cut short (R518). -/
def State.cutSteps (s : State) : State := (s.onRun fun r => { r with budget := 0, waits := [] }).cutWaits s.run.waits

/-- A step ends RESTORE_REQUIRED (R449, R487, R518). -/
def State.restoreRequired (s : State) : State :=
  ((s.onHlt fun h => { h with rcv := 0 }).onFab fun b => { b with ep := true }).cutSteps

/-- What becomes of the step that a quiesce stops (R287). -/
def Run.stepOutcome (r : Run) : Nat :=
  match r.step with
  | none => if r.lost then 2 else 0
  | some p => if p.updated || p.sent || r.lost then 2 else 1

/-- A quiesce discards Newton computations and staged roots (R376). -/
def State.dropRoots (s : State) : State :=
  { s with
    run := { s.run with staged := [] }
    rgs := s.rgs.map fun x => { x with medlar := { x.medlar with newton := none, todo := [], codes := [] } } }

/-- Every guard is UNRESOLVED, with nothing settled, and no resolution waits for a freeze to end (R242, R252, R486). -/
def State.freshGuards (s : State) : State :=
  { s with
    run := { s.run with deferred := [] }
    rgs := s.rgs.map fun x => { x with guards := x.guards.map fun y => { y with state := .unresolved, settled := 0 } }
    cls := s.cls.map fun k => { k with table := k.table.map fun e => { e with settled := false } } }

/-! ### Problems and contexts at a step's end (R302, R303, R327) -/

/-- The solver word of a class-3 operation: SLOT, CTX, OP. -/
def OperE.slvSlot (o : OperE) : Nat := fld (o.word 4) 16 6
def OperE.slvCtx (o : OperE) : Nat := fld (o.word 4) 24 8
def OperE.slvDense (o : OperE) : Bool := fld (o.word 4) 0 5 = 9

/-- The class-3 stages of a placement with their operations. -/
def solverStages (p : Package) (stages : List Stage) : List (OperE × Stage) :=
  stages.filterMap fun g => match p.oper g.op with
    | some o => if o.cls = 3 then some (o, g) else none
    | none => none

/-- Slots that the engine of a region serves, multibody and dense. -/
def slotsOn (p : Package) (stages : List Stage) (r : Nat) : List Nat :=
  (((solverStages p stages).filter fun x => x.2.clusters.any fun c => c / 16 = r).map fun x => x.1.slvSlot).eraseDups

/-- A problem is installed on every engine of a stage that names its slot (R302). -/
def State.installProblem (s : State) (slot : Nat) (pr : Problem) : State :=
  let t := s.onRun fun r => { r with problems := smSet r.problems slot pr }
  match s.run.graph with
  | some ⟨p, some pl⟩ =>
    { t with rgs := Vector.ofFn fun r =>
        let x := t.rg r
        if (slotsOn p pl.stages r.val).contains slot && !x.nyala.slots.contains slot then
          { x with nyala := { x.nyala with slots := x.nyala.slots ++ [slot] } }
        else x }
  | _ => t

/-- Loads that waited for the boundary are installed and completed (R302). -/
def State.installLoads (s : State) : State :=
  let t := s.onRun fun r => { r with loads := [] }
  s.run.loads.foldl (fun t l => (t.installProblem l.slot l.problem).finish l.port l.tag { words := [l.problem.signature] }) t

/-- A context is emptied on every engine (R327). -/
def State.clearContext (s : State) (ctx : Nat) : State :=
  { s with rgs := s.rgs.map fun x => { x with nyala := { x.nyala with ctxs := smErase x.nyala.ctxs ctx } } }

def State.clearContexts (s : State) : State :=
  let t := s.onRun fun r => { r with clears := [] }
  s.run.clears.foldl (fun t c => (t.clearContext c.2.2).finish c.1 c.2.1 done) t

/-- The last firing has ended while a quiesce waits: the step ends with the outcome judged when the quiesce began, unless a
fence has since lost its contents (R287, R290); problems and clears that waited for the step's end take effect (R302, R327),
and the commands that waited for the quiesce complete. -/
def State.quietDone (s : State) : State :=
  if !s.run.stopping || !s.quiet then s
  else
    let n := if s.run.lost then 2 else s.run.outcome
    let ws := s.run.quiescing.filter (·.immediate)
    let t := s.onRun fun r =>
      { r with
        stopping := false, lost := false, outcome := n, step := none, rerun := n = 1 || (n = 0 && r.rerun)
        quiescing := r.quiescing.filter (!·.immediate) }
    let t := { t with
      perf := if n = 0 then t.perf else { t.perf with interval := none }
      pwr := { t.pwr with transition := t.pwr.transition.map fun (x : Transition) => if x.immediate then { x with outcome := n } else x } }
    let t := if n = 2 then t.restoreRequired else t
    let t := t.dropRoots.freshGuards.installLoads.clearContexts.serveSwitch
    ws.foldl (fun s w => s.finish w.port w.tag { words := [BitVec.ofNat 64 n] }) t

/-! ### How a firing ends -/

/-- The value that a guard set asks of a resolution: whether it carries the guard with the value. -/
def carries (gs : GSet) (g : Nat) (v : Bool) : Bool := gs.contains (g, v)

/-- Held sectors and held items of a firing are dropped. -/
def Region.dropHeld (r : Region) (c : Cl) (i : Nat) : Region :=
  { r with
    hold := r.hold.filter fun h => !(h.cl == c && h.entry == i)
    held := r.held.filter fun h => !(h.cl == c && h.entry == i)
    nyala := { r.nyala with held := r.nyala.held.filter fun h => !(h.cl == c && h.entry == i) } }

/-- An entry of which nothing is defined: its mode, its NaR flag, its value with its anchor, its count (log entry 1). -/
def undefinedAcc (nonce k : Nat) : Acc :=
  let w (j : Nat) : Nat := (Config.freeWord nonce (8 * k + j)).toNat
  let strict := w 0 % 2 = 1
  let value := ((List.range 5).map fun j => w (j + 1) * 2 ^ (64 * j)).foldl (· + ·) 0
  { strict := strict, nar := w 0 / 2 % 2 = 1, value := signedOf (if strict then 320 else 128) (value % 2 ^ (if strict then 320 else 128))
    anchor := if w 0 / 4 % 2 = 1 then none else some ((w 6 : Int) % 1024 - 512), count := w 7 % (2 ^ 31 + 1) }

/-- The array stops: its queue is emptied and the rows that the firing changed are undefined (R250). -/
def Arr.stop (a : Arr) (nonce : Nat) : Arr :=
  let b := { a with queue := [], task := none, streams := [], drains := [], loading := none, touched := [] }
  a.touched.foldl (fun b m => b.setRow m ((List.range 128).map fun n => undefinedAcc nonce (m * 128 + n))) b

/-- The unit that runs a firing stops (R250, R252). -/
def State.stopUnit (s : State) (c : Cl) (f : Firing) : State :=
  let (n, s) := s.draw
  let stopTahr (k : Cluster) : Cluster := { k with tahr := { k.tahr with kernel := none, wait := none, summaries := [] } }
  if f.final then s
  else match f.unit with
    | .array => s.onCl c fun k => { k with arr := k.arr.stop n }
    | .vector =>
      s.onCl c fun k => if (k.entry f.entry).usesArray then { stopTahr k with arr := k.arr.stop n } else stopTahr k
    | .dma _ =>
      { s with reqs := s.reqs.filter fun q =>
          !(match q.who with | .dma d i _ => d == c && i == f.entry | _ => false)
          || (!q.writes.isEmpty && (q.state = .sorted || q.state = .issued)) }
    | .solver _ _ =>
      s.onRg (rgOf c) fun r =>
        { r with nyala :=
          { r.nyala with
            queue := r.nyala.queue.filter fun q => !(q.cl == c && q.entry == f.entry)
            run := match r.nyala.run with
              | some u => if u.cl == c && u.entry == f.entry then none else some u
              | none => none } }

/-- The state an entry takes after an outcome (R225, R237). -/
def TEntry.after (e : TEntry) (outcome : Nat) : TEntry :=
  match outcome with
  | 3 => { e with state := .waiting, noSpec := true }
  | 4 => { e with state := .faulted }
  | _ => { e with state := if e.rearm then .waiting else .idle, noSpec := false }

/-- The number that placement derives its free choices from: package, fenced clusters and proposal (R276; log entry 14). -/
def Placement.key (pl : Placement) (p : Package) : Nat := p.digest.toNat + 2 ^ 256 * pl.fenced.toNat + 2 ^ 640 * pl.attempt

/-- The stage that a task entry belongs to, where a graph is placed. -/
def State.stageOf (s : State) (c : Cl) (i : Nat) : Option Stage :=
  match s.run.graph with
  | some ⟨p, some pl⟩ => pl.stageOf (pl.key p) c.val i
  | _ => none

/-- Whether a task entry is the closing entry of its segment (R272). -/
def State.closing (s : State) (c : Cl) (i : Nat) : Bool :=
  match s.run.graph with
  | some ⟨p, some pl⟩ => Config.entryClosing (pl.key p) c.val i
  | _ => false

/-- The operation that an entry carries out, where a graph is placed. -/
def State.opOf (s : State) (c : Cl) (i : Nat) : Option (Nat × OperE) :=
  match s.run.graph, s.stageOf c i with
  | some g, some q => (g.pkg.opers[q.op]?).map fun o => (q.op, o)
  | _, _ => none

/-- The segment of a task entry (R272). -/
def State.segmentOf (s : State) (c : Cl) (i : Nat) : Nat := ((s.stageOf c i).map (·.segment)).getD 0

/-! ### The statistics of curvature entries (R359 to R362) -/

/-- A command of an array list: its opcode, and whether it is a transposing load (R136). -/
def cmdOpcode (c : BitVec 256) : Nat := cw c 0 0 4
def isTurnLoad (c : BitVec 256) : Bool := cmdOpcode c = 3 && cw c 0 16 1 = 1

/-- CURVATURE entries of an operation whose statistics guard in a region a task is bound to under POL = 1 (R359). -/
def statsOf (p : Package) (key op : Nat) (r : Nat) (e : TEntry) : List Nat :=
  (List.range p.curvature.length).filter fun k =>
    ((p.curv k).any fun v => v.op = op) && e.guardEn && e.pol && e.guardNo = Config.statGuard key k r

/-- The regulator class of the requests of a firing (R404): REG_CMAP of its segment in the line's partition. -/
def State.classOf (s : State) (c : Cl) (i : Nat) (line : Nat) : Nat := s.cmapClass (s.segmentOf c i) c.val line

/-- The command list of an array task as it stands in tile memory. -/
def State.cmdsOf (s : State) (c : Cl) (e : TEntry) : List (BitVec 256) :=
  (List.range (e.f 5 32 16)).map fun k => BitVec.ofNat 256 (leBytes (s.tile c) (e.addr + 32 * k) 32)

/-- What a drain of a statistics GEMM adds to S of an n by n block: its rows and columns from an origin on, the rest zero
(R361). -/
def drainedInto (rd : Nat → Byte) (d : DrainCmd) (n row col : Nat) : Mat :=
  (List.range (n * n)).map fun i =>
    let m := i / n
    let q := i % n
    if row ≤ m ∧ m < row + d.rows ∧ col ≤ q ∧ q < col + 128 then slvElem rd d.dstL d.dst d.dstScale (128 * (m - row) + (q - col))
    else some Ex.zero

/-- A statistics GEMM of a micro-batch has ended: each drain is added to S of the block that it belongs to, 8 limbs, under R59
to R62 (R361; log entry 16). -/
def State.addStatistics (s : State) (c : Cl) (i : Nat) (p : Package) (pl : Placement) (k : Nat) : State :=
  let key := pl.key p
  let cmds := s.cmdsOf c ((s.cl c).entry i)
  let cls := s.classOf c i
  if !cmds.any isTurnLoad then s
  else ((cmds.filter fun x => cmdOpcode x = 6).map drainOf).zipIdx.foldl (fun s x =>
    let (b, row, col) := Config.statOrigin key c.val i x.2
    match p.block b with
    | some y =>
      if y.entry = k ∧ x.1.dstL = 8 then
        let a := pl.area 7 b
        (s.busRead cls a (siLen 8 (y.n * y.n))).busWrite cls
          (siWrite 8 a (addElems (s.mem.siRead 8 a (y.n * y.n)) (drainedInto (s.tile c) x.1 y.n row col)))
      else s
    | none => s) s

/-- F ← β × F + γ × S for every block of an entry, each element rounded once at its block scale (R362). -/
def State.updateFactors (s : State) (cls : Nat → Nat) (p : Package) (pl : Placement) (k : Nat) : State :=
  match p.curv k with
  | none => s
  | some v =>
    let beta := unitsOf v.beta (-16)
    let gamma := unitsOf v.gammaMan ((v.gammaScale : Int) - 150)
    p.blocks.zipIdx.foldl (fun s x =>
      if x.1.entry = k then
        let n := x.1.n * x.1.n
        let f := pl.area 0 x.2
        let g := pl.area 7 x.2
        ((s.busRead cls f (siLen 8 n)).busRead cls g (siLen 8 n)).busWrite cls
          (siWrite 8 f (factorUpdate beta gamma (s.mem.siRead 8 f n) (s.mem.siRead 8 g n)))
      else s) s

/-- Statistics tasks of a cluster report: a GEMM adds to S; when the updating task of every cluster of the stage has
completed, the factors are updated. -/
def State.formStatistics (s : State) (c : Cl) (f : Firing) : State :=
  match s.run.graph, s.stageOf c f.entry with
  | some ⟨p, some pl⟩, some g =>
    let key := pl.key p
    (statsOf p key g.op (rgOf c).val ((s.cl c).entry f.entry)).foldl (fun s k =>
      match f.unit with
      | .array => s.addStatistics c f.entry p pl k
      | .vector =>
        if Config.updatesFactor key c.val f.entry then
          let s := s.onRun fun r => { r with step := r.step.map fun x => { x with statDone := x.statDone ++ [(k, c.val)] } }
          let all := g.clusters.all fun d => (s.run.step.map (·.statDone)).any fun xs => xs.contains (k, d)
          if all then (s.updateFactors (s.classOf c f.entry) p pl k).onRun fun r =>
            { r with step := r.step.map fun x => { x with statDone := x.statDone.filter (·.1 != k), factored := x.factored ++ [k] } }
          else s
        else s
      | _ => s) s
  | _, _ => s

/-- An optimiser update of the step has committed (R287). -/
def State.optimised (s : State) : State := s.onRun fun r => { r with step := r.step.map fun x => { x with updated := true } }

/-- The tensors that a class-5 operation updates: MASTER, STATE and WORK (R352). -/
def OperE.updates (o : OperE) : List Nat :=
  fld (o.word 4) 0 32 :: ((if fld (o.word 5) 32 4 = 0 then [] else [fld (o.word 5) 0 32])
    ++ (if fld (o.word 4) 32 32 = 0xFFFFFFFF then [] else [fld (o.word 4) 32 32]))

/-- Whether a completed task of a class-5 stage is an optimiser update: it stores to one of those tensors, from the DMA engine in device
memory, in the cluster's own tile memory (R287, R353). -/
def State.updates (s : State) (c : Cl) (e : TEntry) (o : OperE) : Bool :=
  match s.run.graph with
  | some ⟨_, some pl⟩ => o.updates.any fun t => (pl.homes[t]?).any fun h =>
      if h.tier < 2 then e.kind = 3 && decide (h.base ≤ e.f 6 0 48) && decide (e.f 6 0 48 < h.base + h.bytes)
      else h.tier = 2 && (e.kind ≠ 3 || rangeOf (e.f 6 0 48) = .tile c.val)
  | _ => false

/-! ### Root kernels (R363, R366, R367) -/

/-- The root group of a block: the stage's clusters in a region (R363). -/
def rootGroup (p : Package) (pl : Placement) (b : Nat) (r : Rg) : List Nat :=
  match (p.block b).bind fun k => p.rootOp k.entry with
  | some o => ((pl.stages.find? fun g => g.op == o).map fun g => g.clusters.filter fun c => c / 16 == r.val).getD []
  | none => []

/-- What an iteration of the block that a region works on computes from X and M as they stand in HBM (R366). -/
def State.newtonOf (s : State) (pl : Placement) (r : Rg) (k : Block) (e : CurvE) : NewtonStep :=
  newtonStep e.p k.n (s.mem.siRead 4 (pl.area 2 r.val) (k.n * k.n)) (s.mem.siRead 4 (pl.area 3 r.val) (k.n * k.n))

/-- DCODE of a cluster's part of δ: the output rows that it computes (R366, R367). None where the cluster works on no iteration. -/
def State.partCode (s : State) (c : Cl) : Option Nat :=
  let r := rgOf c
  match s.run.graph, (s.rg r).medlar.newton with
  | some ⟨p, some pl⟩, some w =>
    let g := rootGroup p pl w.block r
    if w.started && !w.paused && g.contains c.val then
      (p.block w.block).bind fun k => (p.curv k.entry).map fun e =>
        let i := (g.filter (· < c.val)).length
        dcodeOf k.n (k.n * i / g.length) (k.n * (i + 1) / g.length) (s.newtonOf pl r k e)
    else none
  | _, _ => none

/-- The kernel of a root group's cluster ends with its DCODE in RESULT[7:0] (R367): the root kernels are the module's own. DESIGN CHOICE, log
entry 16. -/
def State.rootResult (s : State) (c : Cl) (f : Firing) : Firing :=
  match s.opOf c f.entry, f.unit, s.partCode c with
  | some (_, o), .vector, some k => if o.cls = 6 then { f with result := f.result / 256#32 * 256#32 + BitVec.ofNat 32 k } else f
  | _, _, _ => f

/-- What a completed firing reports beyond its signals: a TRIGGER, a root kernel's code, an optimiser update (R244, R287, R367). -/
def State.report (s : State) (c : Cl) (f : Firing) : State :=
  let e := (s.cl c).entry f.entry
  let s := s.formStatistics c f
  let t := if e.trigger then s.onRun fun r => { r with triggered := r.triggered ++ [(c.val, f.entry)] } else s
  let t := if s.closing c f.entry then
      t.onRun fun r => { r with step := r.step.map fun x => { x with closed := x.closed ++ [(c.val, s.segmentOf c f.entry)] } }
    else t
  match s.opOf c f.entry with
  | some (_, o) =>
    if o.cls = 6 ∧ e.kind = 2 then
      t.onRg (rgOf c) fun r => { r with medlar := { r.medlar with codes := r.medlar.codes ++ [(c.val, f.result.toNat % 256)] } }
    else if o.cls = 5 ∧ s.updates c e o then t.optimised
    else t
  | none => t

/-- A firing ends with an outcome and a cause (R236 to R238): its record, its buffers, its entry, and its signals
unless they were held and have taken effect at its commit. -/
def State.endFiring (s : State) (c : Cl) (f : Firing) (outcome cause : Nat) (signals : Bool := true) : State :=
  let k := s.cl c
  let e := k.entry f.entry
  let f := if outcome = 0 then s.rootResult c f else f
  let (n, s) := s.draw
  let cycles := (Config.freeWord n 0).toNat % 2 ^ 48
  let t := s.record c (recordWords e f.entry e.kind outcome f.status.toNat cause cycles f.result.toNat (k.firingConds f))
  let t := t.onCl c fun k =>
    ({ k with firings := k.firings.filter (·.entry != f.entry) }.releaseBufs f.entry).onEntry f.entry (·.after outcome)
  let t := if outcome = 0 then
      let t := if !signals then t else
        let t := e.prods.foldl (fun t p => t.onCl c (·.addSlot p.1 p.2)) t
        e.remotes.foldl (fun t p => match clOf p.1 with
          | some d => { t with flights := t.flights ++ [{ cl := d, slot := BitVec.ofNat 8 p.2.1, amount := BitVec.ofNat 8 p.2.2 }] }
          | none => t) t
      t.report c f
    else t
  let t := if outcome = 4 then
      (t.onCl c (·.flag 8)).event (fromRegion (rgOf c)) 1 [packBits [(c.val, 0), (f.entry, 9), (cause, 16), (e.tag, 32)]]
    else if outcome = 3 then t.onCl c (·.flag 16)
    else t
  (if outcome = 0 || outcome = 1 || outcome = 2 || outcome = 5 then t.settle c f.entry else t).quietDone

/-- A firing that has not committed goes: its unit stops, its held items are dropped, its buffers are undefined (R245,
R248, R250, R252). -/
def State.dropFiring (s : State) (c : Cl) (f : Firing) (outcome cause : Nat) : State :=
  let t := (s.stopUnit c f).onRg (rgOf c) (·.dropHeld c f.entry)
  let t := if f.held then (f.tally.filterMap squashSlot).foldl (fun t w => t.addTally c w) t else t
  let (n, t) := t.draw
  let t := ((t.cl c).claimSpans c f.entry).foldl (fun t p => { t with mem := t.mem.fill p.1 p.2 (some n) }) t
  t.endFiring c f outcome cause

/-- A speculative firing is squashed (R248). -/
def State.squash (s : State) (c : Cl) (f : Firing) (cause : Nat) : State := s.dropFiring c f 3 cause

/-- A unit met a fault: a speculative firing is squashed with cause 3, another ends FAULTED (R220, R238) and sends no
signal, so that what a commit under way still holds is dropped. -/
def State.faultFiring (s : State) (c : Cl) (f : Firing) (cause : Nat) : State :=
  if f.held then s.squash c f 3
  else ((s.stopUnit c f).onRg (rgOf c) (·.dropHeld c f.entry)).endFiring c f 4 cause

/-- Writes of a firing's unit to its own tile memory: a held firing writes only inside its claimed buffers, and is
squashed with cause 2 when it writes elsewhere (R245). -/
def State.firingWrite (s : State) (c : Cl) (f : Option Firing) (ws : List WByte) : State :=
  match f with
  | some f =>
    if f.held then
      let (own, bad) := ws.partition fun w => (s.cl c).inClaim f.entry w.addr
      let t := s.tileWrite c own
      if bad.isEmpty then t else t.squash c f 2
    else s.tileWrite c ws
  | none => s.tileWrite c ws

/-- A signal or a resolution of a speculative firing is held (R247); a full table squashes the firing (R248). -/
def State.holdItem (s : State) (c : Cl) (f : Firing) (item : HItem) : State :=
  if 512 ≤ (s.rg (rgOf c)).held.length then s.squash c f 1
  else s.onRg (rgOf c) fun r =>
    { r with held := r.held ++ [{ item := item, cl := c, entry := f.entry, order := f.order, guards := f.guards }] }

/-! ### Commit and resolution (R249, R250) -/

/-- Whether a context holds a signature other than a problem's, of its own or in an entry (R303, R325; log entry 174). -/
def Ctx.differs (x : Ctx) (sig : Word) : Bool := x.signature.any (· != sig) || x.entries.any fun e => e.2.signature != sig

/-- Entries enter a context, which takes a problem's signature (R326). -/
def Ctx.take (x : Ctx) (sig : Word) (es : List (Nat × List CtxVal)) : Ctx :=
  let all := es.foldl (fun m e => smSet m e.1 { signature := sig, values := e.2 }) x.entries
  { signature := some sig, entries := all.map fun e => (e.1, { e.2 with signature := sig }) }

/-- A call's context update and counter increments take effect (R325, R326, R333). -/
def Nyala.applyWarm (n : Nyala) (h : HeldWarm) : Nyala :=
  let n :=
    { n with
      calls := n.calls + 1, fallback := n.fallback + BitVec.ofNat 48 h.falls, stat := n.stat ||| h.stat
      warmDiscard := if h.discard then n.warmDiscard + 1 else n.warmDiscard
      deadline := if h.deadline then n.deadline + 1 else n.deadline }
  match h.ctx with
  | none => n
  | some k =>
    let x := (smFind n.ctxs k).getD {}
    let x : Ctx := if h.discard then {} else x
    if h.update then
      { n with ctxs := smSet n.ctxs k (x.take h.signature h.entries) }
    else if h.discard then { n with ctxs := smErase n.ctxs k }
    else n

/-- What a committed call held takes effect (R251, R333). -/
def Nyala.commitWarm (n : Nyala) (c : Cl) (i : Nat) : Nyala :=
  let (mine, rest) := n.held.partition fun h => h.cl == c && h.entry == i
  mine.foldl Nyala.applyWarm { n with held := rest }

/-- A TPROD takes effect: a signal to a slot. -/
def State.prod (s : State) (c : Cl) (target slot amount : Nat) : State := s.signal c target slot amount

/-- Step 3 of a commit without the guards it resolves: thresholds, held signals, counts (R249). -/
def State.commitEffects (s : State) (c : Cl) (i : Nat) : State :=
  let k := s.cl c
  match k.firing i with
  | none => s
  | some f =>
    let t := (k.entry i).waits.foldl (fun t w => t.onCl c (·.subSlot w.1 w.2)) s
    let items := (t.rg (rgOf c)).held.filter fun h => h.cl == c && h.entry == i
    let t := items.foldl (fun t h => match h.item with
      | .signal d slot amount => t.prod c d slot amount
      | .guard _ _ => t) t
    let t := t.onRg (rgOf c) fun r => { r with nyala := r.nyala.commitWarm c i }
    let t := t.onRg (rgOf c) (·.dropHeld c i)
    let t := f.tally.foldl (fun t w => t.addTally c w) t
    t.onCl c fun k =>
      (k.onFiring i fun f => { f with spec := false, committing := false, tally := [] }).onEntry i fun e =>
        { e with state := .running }

/-- Step 4 of a commit: the firing completes if it has finished; the signals of one that finished after its guards
resolved were never held (R234, R249). -/
def State.commitEnd (s : State) (c : Cl) (i : Nat) : State :=
  match (s.cl c).firing i with
  | some f => if f.final then s.endFiring c f 0 0 (!f.signalled) else s
  | none => s

/-- The guards that a firing's held TGUARDs resolve when it commits. -/
def State.heldGuards (s : State) (c : Cl) (i : Nat) : List (Nat × Bool) :=
  (s.rg (rgOf c)).held.filterMap fun h =>
    match h.item with
    | .guard g v => if h.cl == c && h.entry == i then some (g, v) else none
    | _ => none

/-- Held sectors become write requests of the region's commit (R249, R396): one request for each sector. -/
def State.commitReqs (s : State) (c : Cl) (i : Nat) (hs : List HSector) : List MReq :=
  hs.map fun h =>
    { rg := rgOf c, who := .commit c i, line := h.addr / 256 * 256, cls := s.classOf c i h.addr
      writes := [{ sector := ⟨h.addr / 32 % 8, Nat.mod_lt _ (by decide)⟩, mask := h.mask, data := h.data }] }

/-- Whether a commit of the region still waits for its sectors, or for one before it. -/
def State.committing (s : State) (r : Rg) : Bool := (clustersOf r).any fun c => (s.cl c).firings.any (·.committing)

/-- A resolution reaches its bound entries that have not dispatched: those whose POL differs are skipped at once
(R243). -/
def State.skipBound (s : State) (r : Rg) (g : Nat) (v : Bool) : State :=
  (clustersOf r).foldl (fun s c =>
    (List.range 128).foldl (fun s i =>
      let e := (s.cl c).entry i
      if e.guardEn && e.guardNo == g && e.pol != v && e.state = .waiting && !e.settled
          && ((s.rg r).guard g).state != .unresolved then
        s.endFiring c { entry := i, order := 0, unit := .solver 0 0 } 2 0
      else s) s) s

/-- A guard resolves (R249, R250): firings and held items against it are dropped, the others lose it from their sets,
and those with empty sets commit in the order of dispatch, each resolving the guards it held. -/
def State.resolve : Nat → State → Rg → Nat → Bool → State
  | 0, s, _, _, _ => s
  | fuel + 1, s, r, g, v =>
    if s.run.paused then s.onRun fun x => { x with deferred := x.deferred ++ [(r, g, v)] }
    else if ((s.rg r).guard g).state ≠ .unresolved then s.onRg r fun x => { x with guardErr := true }
    else
      let s := s.onRg r fun x => x.onGuard g fun y => { y with state := if v then .yes else .no }
      let against := (clustersOf r).flatMap fun c => ((s.cl c).firings.filter fun f => carries f.guards g (!v)).map fun f => (c, f)
      let s := against.foldl (fun s p => s.dropFiring p.1 p.2 1 0) s
      let s := s.onRg r fun x =>
        { x with hold := x.hold.filter (fun h => !carries h.guards g (!v)), held := x.held.filter (fun h => !carries h.guards g (!v)) }
      let mine := (clustersOf r).flatMap fun c => ((s.cl c).firings.filter fun f => f.guards = [(g, v)]).map fun f => (c, f)
      let s := s.onClusters r fun k => { k with firings := k.firings.map fun f => { f with guards := f.guards.filter (· != (g, v)) } }
      let s := s.onRg r fun x =>
        { x with
          hold := x.hold.map fun h => { h with guards := h.guards.filter (· != (g, v)) }
          held := x.held.map fun h => { h with guards := h.guards.filter (· != (g, v)) } }
      let s := (mine.mergeSort fun a b => decide (a.2.order ≤ b.2.order)).foldl (fun s p =>
        let (c, f) := p
        let sectors := (s.rg r).hold.filter fun h => h.cl == c && h.entry == f.entry
        if sectors.isEmpty && !s.committing r then
          let gs := s.heldGuards c f.entry
          (gs.foldl (fun s h => State.resolve fuel s r h.1 h.2) (s.commitEffects c f.entry)).commitEnd c f.entry
        else
          { s with reqs := s.reqs ++ s.commitReqs c f.entry sectors }.onCl c fun k => k.onFiring f.entry fun f => { f with committing := true }) s
      let s := s.skipBound r g v
      let y := (s.rg r).guard g
      if y.nbound = 0 ∧ y.state ≠ .unresolved then s.unresolve r g else s

/-- The depth to which resolutions can follow each other: a region has 64 guards. -/
def guardDepth : Nat := 65

/-- A quiesce begins (R252): what becomes of the step is judged now (R287); dispatch stops, every speculative firing and held
item is discarded, every guard is left UNRESOLVED; non-speculative firings go on to their end. -/
def State.quiesceNow (s : State) : State :=
  let judged := if s.run.stopping then max s.run.outcome s.run.stepOutcome else s.run.stepOutcome
  let s := s.onRun fun r => { r with stopped := true, stopping := true, outcome := judged }
  let spec := (List.finRange 384).flatMap fun c => ((s.cl c).firings.filter Firing.held).map fun f => (c, f)
  let s := spec.foldl (fun s p => s.dropFiring p.1 p.2 1 0) s
  let s : State := { s with
    rgs := s.rgs.map fun x =>
      { x with hold := x.hold.filter (·.guards.isEmpty), held := x.held.filter (·.guards.isEmpty) } }
  s.freshGuards.quietDone

end Sys2Proof.Machine
end

