-- ==== Sys2Proof/Machine/ArrayExec.lean ====
section
/-! DEFINITION. The meanings of the array's commands (chapter 04): each takes the head of the array's queue when it is
the named command and its conditions of R137 hold. -/
namespace Sys2Proof.Machine

/-- The firing that the array works for: an array task in flight, else the kernel that issues commands (R235). -/
def Cluster.arrayFiring (k : Cluster) : Option Firing :=
  (k.firings.find? fun f => !f.final && match f.unit with
    | .array => true
    | .vector => (k.entry f.entry).usesArray
    | _ => false)

/-- The accumulator rows that differ between two arrays. -/
def changedRows (a b : Arr) : List Nat :=
  (a.acc.map (·.1) ++ b.acc.map (·.1)).eraseDups.filter fun m => decide (a.row m ≠ b.row m)

/-- Passes that a stream enters at the west edge (R142, R143, R606): the tile's limb and, under AUTO, the later ones. -/
def streamPasses (a : Arr) (c : ArrCmd) (res : Nat) : Nat :=
  let s := streamOf c.word
  match a.active with
  | some t =>
    if t.empty then 0
    else
      let js := if s.auto then (List.range (max 1 t.src.lb)).filter (t.limb ≤ ·) else [t.limb]
      ((js.map fun j => (permitted a.strict s.la t.src.lb j).length).foldl (· + ·) 0) * (s.rows + res)
  | none => 0

/-- Issues a command of an opcode; `work` are the passes that it counts when it runs. -/
def State.arrIssue (s : State) (c : Cl) (op : Nat) (fn : Arr → ArrCmd → (Nat → Byte) → Issue)
    (work : Arr → ArrCmd → (Nat → Byte) → Nat := fun _ _ _ => 0) : State :=
  let k := s.cl c
  let rd := s.tileAs c k.arrayFiring
  let (b, ws) := k.arr.issue op fun a x => fn a x rd
  let n := match k.arr.queue with
    | x :: _ => if k.arr.headOp = some op ∧ b.queue.length < k.arr.queue.length ∧ b.stat.getLsbD 6 = k.arr.stat.getLsbD 6
        ∧ b.streams.length ≠ k.arr.streams.length then work k.arr x rd else 0
    | [] => 0
  let f := k.arrayFiring
  let t := s.onCl c fun k =>
    let k := { k with arr := { b with touched := (b.touched ++ changedRows k.arr b).eraseDups } }
    if n = 0 then k else k.work f 0 n
  t.firingWrite c ((t.cl c).arrayFiring) ws

/-- ARRAY_COMMAND_FETCH (R135): the next command of an array task enters the queue while it has a free entry. A byte
beyond tile memory is a free value: the spec states none (log entry 1). -/
def execArrayCommandFetch (c : Cl) (s : State) : Res :=
  let a := (s.cl c).arr
  match a.task with
  | some t =>
    if t.left = 0 ∨ 16 ≤ a.queue.length then .next s
    else
      let (n, s) := s.draw
      let rd := fun o => if o < tileEnd then s.tileAs c (s.cl c).arrayFiring o else (Config.freeWord n o).truncate 8
      let cmd : ArrCmd := { word := BitVec.ofNat 256 (leBytes rd t.addr 32), taskStrict := t.strict }
      .next (s.onCl c fun k =>
        { k with arr := { k.arr with queue := k.arr.queue ++ [cmd], task := some { t with addr := t.addr + 32, left := t.left - 1 } } })
  | none => .next s

/-- ARR_MODE (R141). -/
def execArrMode (c : Cl) (s : State) : Res := .next (s.arrIssue c 1 fun a x _ => a.mode x)

/-- ARR_CLEAR (R139). -/
def execArrClear (c : Cl) (s : State) : Res := .next (s.arrIssue c 2 fun a x _ => a.clear x)

/-- ARR_LOAD_SHADOW (R147). -/
def execArrLoadShadow (c : Cl) (s : State) : Res := .next (s.arrIssue c 3 fun a x rd => a.load x rd)

/-- The oldest stream that holds the loader gives it up. -/
def releaseLoader : List ArrRun → List ArrRun
  | [] => []
  | r :: rest => if r.loads then { r with loads := false } :: rest else r :: releaseLoader rest

/-- SHADOW_LOAD_DONE: the loaded tile stands in the shadow and may be swapped (R147); with no such load, the last
internal load of an AUTO stream has finished (R137, R144). -/
def execShadowLoadDone (c : Cl) (s : State) : Res :=
  match (s.cl c).arr.loading with
  | some l => .next (s.onCl c fun k => { k with arr := { k.arr with shadow := some l.1, shadowFull := true, loading := none } })
  | none => .next (s.onCl c fun k => { k with arr := { k.arr with streams := releaseLoader k.arr.streams } })

/-- ARR_SWAP (R128). -/
def execArrSwap (c : Cl) (s : State) : Res := .next (s.arrIssue c 4 fun a x _ => a.swap x)

/-- ARR_STREAM (R142 to R146). -/
def execArrStream (c : Cl) (s : State) : Res :=
  .next (s.arrIssue c 5 (fun a x rd => a.stream x rd)
    fun a x rd => streamPasses a x ((streamOf x.word).records a.half rd).length)

/-- ARR_STREAM_LAST_UPDATE: the oldest stream has made its last update (R137). -/
def execArrStreamLastUpdate (c : Cl) (s : State) : Res :=
  .next (s.onCl c fun k => { k with arr := { k.arr with streams := k.arr.streams.tail } })

/-- ARR_DRAIN (R148). -/
def execArrDrain (c : Cl) (s : State) : Res := .next (s.arrIssue c 6 fun a x _ => a.drain x)

/-- ARR_DRAIN_WRITTEN: the oldest drain has written its range (R137, R149). -/
def execArrDrainWritten (c : Cl) (s : State) : Res :=
  .next (s.onCl c fun k => { k with arr := { k.arr with drains := k.arr.drains.tail } })

end Sys2Proof.Machine
end

