-- ==== Sys2Proof/Machine/RegMap.lean ====
section
/-! DEFINITION. The register space (R254, R384): what each register reads as, and what a direct write does under its
access codes (R18 to R21). -/
namespace Sys2Proof.Machine

/-- The word index of an aligned offset in a table of n words at a base. -/
def slotOf (off base n : Nat) : Option Nat :=
  if base ≤ off ∧ off < base + 8 * n ∧ off % 8 = 0 then some ((off - base) / 8) else none

/-! ### Cluster block (R254 to R256, R345, R607) -/

/-- HELD of a slot: the sum of the signals held for it (R256). DESIGN CHOICE, log entry 163: the register shows it modulo 2^16. -/
def State.heldSum (s : State) (c : Cl) (slot : Nat) : Nat :=
  (s.rgs.toList.flatMap (·.held)).foldl (fun a h => match h.item with
    | .signal d k n => if d = c.val ∧ k = slot then a + n else a
    | _ => a) 0

def TBuf.reg (b : TBuf) : Word :=
  packBits [(b.base.toNat, 7), (b.lines.toNat, 32), (b.owner.toNat, 56), (b2n b.claimed, 63)]

/-- ARR_QSTAT (R153). DESIGN CHOICE, log entry 139: ACTIVE_LIMB reads 0 while no active tile is valid. -/
def Arr.qstat (a : Arr) : Word :=
  packBits [(a.queue.length, 0), (b2n (a.loading.isSome || a.streams.any (·.loads)), 5), (b2n !a.streams.isEmpty, 6), (b2n !a.drains.isEmpty, 7),
    (b2n a.strict, 8), (b2n a.half, 9), (b2n a.shadowFull, 10), (b2n a.active.isSome, 11),
    ((a.active.map (·.limb)).getD 0, 12)]

def Vec.cfgReg (v : Vec) : Word := packBits [(v.ew.toNat, 0), (v.grp.toNat, 2), (v.vl.toNat, 16)]
def Vec.modeReg (v : Vec) : Word := packBits [(b2n v.strict, 0), (v.prec.toNat, 1), (v.rdepth.toNat, 3)]

/-- TSK_STAT (R255). DEDUCED, log entry 162: RUNNING leaves out the firings whose entry is HELD. -/
def Cluster.tskStat (k : Cluster) : Word :=
  let held := k.table.toList.countP fun e => decide (e.state = .held)
  packBits [(k.tstat.toNat, 0), (k.firings.length - held, 16), (held, 24)]

/-- A register of a cluster's block. -/
def State.clusterReg (s : State) (c : Cl) (off : Nat) : Option Word :=
  let k := s.cl c
  if off % 8 ≠ 0 then none
  else if off = 0 then some k.tskStat
  else if off = 8 then some (packBits [(k.cringBase.toNat, 5)])
  else if off = 0x10 then some (k.head.zeroExtend 64)
  else if off = 0x18 then some (k.tail.zeroExtend 64)
  else if 0x200 ≤ off ∧ off < 0x400 then
    (if off % 0x80 = 0 then (vecAt k.cvt ((off - 0x200) / 0x80)).map (·.zeroExtend 64) else none)
  else if off = 0x400 then some (k.arr.stat.zeroExtend 64)
  else if off = 0x408 then some (packBits [(k.arr.errOp.toNat, 0), (k.arr.errReason.toNat, 4)])
  else if off = 0x410 then some k.arr.qstat
  else if off = 0x600 then some k.vec.cfgReg
  else if off = 0x608 then some k.vec.modeReg
  else if off = 0x610 then some (k.vec.stat.zeroExtend 64)
  else if off = 0x618 then some (k.vec.sscale.zeroExtend 64)
  else match slotOf off 0x800 128, slotOf off 0x1000 256, slotOf off 0x1800 64, slotOf off 0x2000 256, slotOf off 0x4000 2048 with
    | some i, _, _, _, _ => (vecAt k.stl i).map (·.zeroExtend 64)
    | _, some i, _, _, _ => some (packBits [(k.slot i, 0), (s.heldSum c i % 65536, 16)])
    | _, _, some i, _, _ => (vecAt k.bufs i).map TBuf.reg
    | _, _, _, some i, _ => (vecAt k.dual (i / 2)).map fun w => BitVec.ofNat 64 (fld w (64 * (i % 2)) 64)
    | _, _, _, _, some i => (vecAt k.table (i / 16)).map fun e => e.word (i % 16)
    | _, _, _, _, _ => none

/-- VL written above VLMAX stays at VLMAX, and so does a VL that a new VLMAX falls below (R161). -/
def Vec.writeCfg (v : Vec) (w : Word) : Vec :=
  let u := { v with ew := w.extractLsb' 0 2, grp := w.extractLsb' 2 2, vl := w.extractLsb' 16 14 }
  { u with vl := BitVec.ofNat 14 (min u.vl.toNat u.vlmax) }

/-- A write of VEC_MODE leaves STRICT (R167). -/
def Vec.writeMode (v : Vec) (w : Word) : Vec := { v with prec := w.extractLsb' 1 2, rdepth := w.extractLsb' 3 2 }

/-- Ones written to the W1C bits of a cluster register; none where the register has no such field. Clearing CMD_ERR leaves OP and
REASON of ARR_ERRINFO as they are until the next refusal, as R152 says no more than how long they hold. DESIGN CHOICE, log
entry 148. -/
def Cluster.clear (k : Cluster) (off : Nat) (w : Word) : Option Cluster :=
  if off = 0 then some { k with tstat := w1c k.tstat (w.truncate 5) }
  else if off = 0x200 ∨ off = 0x280 ∨ off = 0x300 ∨ off = 0x380 then
    (let e := (off - 0x200) / 0x80
     if h : e < 4 then some { k with cvt := k.cvt.set e (w1c k.cvt[e] (w.truncate 10)) } else none)
  else if off = 0x400 then some { k with arr := { k.arr with stat := w1c k.arr.stat (w.truncate 7) } }
  else if off = 0x610 then some { k with vec := { k.vec with stat := w1c k.vec.stat (w.truncate 16) } }
  else none

/-- A direct write of a cluster register (R18). -/
def Cluster.writeReg (k : Cluster) (off : Nat) (w : Word) : Cluster :=
  match k.clear off w with
  | some k => k
  | none =>
    if off = 0x18 then { k with tail := w.truncate 8 }
    else if off = 0x600 then { k with vec := k.vec.writeCfg w }
    else if off = 0x608 then { k with vec := k.vec.writeMode w }
    else if off = 0x618 then { k with vec := { k.vec with sscale := w.truncate 8 } }
    else k

/-! ### Region block (R257, R335, R378, R607) -/

def GState.code : GState → Nat
  | .unresolved => 0
  | .yes => 1
  | .no => 2

def Guard.reg (g : Guard) : Word := packBits [(g.state.code, 0), (g.nbound.toNat, 8), (g.settled.toNat, 16)]

def Region.holdStat (r : Region) : Word :=
  packBits [(r.hold.length % 16384, 0), (r.held.length % 1024, 14), (r.peak.toNat, 24), (b2n r.guardErr, 38)]

/-- SLV_QSTAT: SPEC shows whether the running call's firing is held. -/
def State.slvQstat (s : State) (r : Rg) : Word :=
  let n := (s.rg r).nyala
  let who := match n.run with
    | some u =>
      let spec := match (s.cl u.cl).firing u.entry with | some f => f.held | none => false
      [(1, 7), (u.cl.val, 9), (u.entry, 18), (b2n spec, 25)]
    | none => []
  packBits ((n.queue.length, 0) :: (b2n ((s.rg r).medlar.jacobi.any (·.gemmStep.isNone) && n.run.isNone && n.queue.isEmpty && !s.run.stopped && !s.run.paused), 8) :: who)

def Medlar.active (m : Medlar) : Word :=
  packBits [(m.block.toNat, 0), (b2n m.newton.isSome, 16), (b2n (m.jacobi.any (·.gemmStep.isNone)), 17), (m.iter.toNat, 18), (m.dcode.toNat, 26)]

def State.regionReg (s : State) (r : Rg) (off : Nat) : Option Word :=
  let x := s.rg r
  let n := x.nyala
  let m := x.medlar
  if off = 0 then some x.holdStat
  else if off = 0x400 then some (n.stat.zeroExtend 64)
  else if off = 0x408 then some (packBits [(n.errReason.toNat, 0), (n.errCluster.toNat, 8), (n.errEntry.toNat, 17)])
  else if off = 0x410 then some (s.slvQstat r)
  else if off = 0x418 then some (packBits [(n.used.toNat, 0), (n.context.toNat, 16), (n.dense.toNat, 32)])
  else if off = 0x420 then some (n.warmDiscard.zeroExtend 64)
  else if off = 0x428 then some (n.fallback.zeroExtend 64)
  else if off = 0x430 then some (n.deadline.zeroExtend 64)
  else if off = 0x438 then some (n.calls.zeroExtend 64)
  else if off = 0x500 then some (m.stat.zeroExtend 64)
  else if off = 0x508 then some m.active
  else if off = 0x510 then some (m.rootCnt.zeroExtend 64)
  else if off = 0x518 then some (m.jacobiCnt.zeroExtend 64)
  else if off = 0x520 then some (m.failCnt.zeroExtend 64)
  else if off = 0x528 then some (m.overrunCnt.zeroExtend 64)
  else match slotOf off 0x100 64, slotOf off 0x800 48 with
    | some i, _ => (vecAt x.guards i).map Guard.reg
    | _, some i => (vecAt x.stl i).map (·.zeroExtend 64)
    | _, _ => none

/-- A write of 1 to bit 24 of TSK_HOLD_STAT sets PEAK to the present count (R257). -/
def Region.resetPeak (r : Region) : Region := { r with peak := BitVec.ofNat 14 r.hold.length }

def Region.clear (r : Region) (off : Nat) (w : Word) : Option Region :=
  if off = 0 then
    let a := if w.getLsbD 24 then r.resetPeak else r
    some { a with guardErr := a.guardErr && !w.getLsbD 38 }
  else if off = 0x400 then some { r with nyala := { r.nyala with stat := w1c r.nyala.stat (w.truncate 5) } }
  else if off = 0x500 then some { r with medlar := { r.medlar with stat := w1c r.medlar.stat (w.truncate 5) } }
  else none

/-! ### Partition and global memory registers (R422, R423) -/

/-- Requests in a partition's sorter, and those of them that are parked (R423). -/
def State.inSorter (s : State) (p : Pt) : List MReq :=
  s.reqs.filter fun q => q.state = .sorted && (s.partAt q.line).any fun x => x.1 == p

def State.partReg (s : State) (p : Pt) (off : Nat) : Option Word :=
  let x := s.part p
  if off = 0 then
    let q := s.inSorter p
    some (packBits [(q.length, 0), (q.countP (·.parked), 11), (b2n x.selfRefresh, 21), (b2n x.initBusy, 22)])
  else if off = 8 then some (x.ecc.zeroExtend 64)
  else if off = 0x10 then some (x.ueAddr.zeroExtend 64)
  else if off = 0x18 then some (packBits [(b2n x.scrubEn, 0), (x.scrubGap.toNat, 8), (x.scrubPos.toNat, 32)])
  else if off = 0x100 then some (x.ceCnt.zeroExtend 64)
  else if off = 0x108 then some (x.ueCnt.zeroExtend 64)
  else if off = 0x110 then some (x.wdogCnt.zeroExtend 64)
  else if off = 0x118 then some (x.parkCnt.zeroExtend 64)
  else if off = 0x120 then some (x.passCnt.zeroExtend 64)
  else if off = 0x880 then some (packBits [(b2n x.wc, 0)])
  else match slotOf off 0x200 64, slotOf off 0x800 16, slotOf off 0xA00 16 with
    | some i, _, _ => (vecAt x.erased i).map fun e =>
        packBits [(e.symA.toNat, 0), (b2n e.aValid, 6), (e.symB.toNat, 8), (b2n e.bValid, 14)]
    | _, some i, _ =>
      let c := s.classAt p i
      some (packBits [(c.rate.toNat, 0), (c.burst.toNat, 16), (c.credits.toNat, 32)])
    | _, _, some i => (vecAt x.classes i).map fun c => c.stall.zeroExtend 64
    | _, _, _ =>
      if 0x1000 ≤ off ∧ off < 0x2000 ∧ off % 8 = 0 ∧ off % 0x100 < 0xC0 then
        vecAt x.cmap ((off - 0x1000) / 0x100 * 24 + off % 0x100 / 8)
      else none

def MemGlobal.mapReg (g : MemGlobal) : Word := packBits [(g.hbmStripe.toNat, 0), (g.farStripe.toNat, 16), (g.snap.toNat, 32)]
def MemGlobal.qosReg (g : MemGlobal) : Word :=
  packBits [(g.hostRate.toNat, 0), (g.svcRate.toNat, 16), (g.hostBurst.toNat, 32), (g.svcBurst.toNat, 48)]

def State.memReg (s : State) (off : Nat) : Option Word :=
  if off = 0 then some s.glob.mapReg
  else if off = 8 then some s.glob.qosReg
  else if off = 0x10 then
    some (packBits [(b2n s.glob.noTarget, 0), (b2n (s.parts.toList.any (·.initBusy)), 1), (b2n s.glob.selfRefresh, 2)])
  else if off = 0x18 then some (s.glob.notgtAddr.zeroExtend 64)
  else none

/-! ### Curvature control (R377, R379) -/

def Run.crvCfg (r : Run) : Word :=
  packBits [(b2n r.statsEn, 0), (b2n r.rootsEn, 1), (b2n r.jacobiEn, 2), (b2n r.forcePending, 4), (r.itersOverride.toNat, 16)]

def CrvBlk.word (b : CrvBlk) (k : Nat) : Word :=
  if k = 0 then packBits [(b.rootStep.toNat, 0), (b.iters.toNat, 32), (b2n b.jacobi, 40), (b2n b.lastFailed, 41)]
  else packBits [(b.statsStep.toNat, 0)]

/-! ### Fabric (R467 to R469) -/

/-- DRAIN of an epoch: packets accepted and not yet acknowledged on the link or taken by the endpoint; the two copies of a multicast
are one packet (R445, R448). -/
def Fabric.drain (f : Fabric) (e : Bool) : Nat :=
  let sent := f.ports.toList.flatMap (·.replay)
  let here := f.inbox.filter fun d => !(f.waiting.any fun w => w.slot == d.slot) && !(d.packet.mc && sent.any fun k => k.withDl d.packet.dl == d.packet)
  (f.waiting.map (·.packet) ++ here.map (·.packet) ++ sent).countP fun p => p.epoch == e

def Fabric.coordReg (f : Fabric) : Word :=
  packBits [(b2n f.replica, 0), (f.x.toNat, 8), (f.y.toNat, 16), (f.z.toNat, 24), (b2n f.valid, 31)]

def Fabric.reg (f : Fabric) (off : Nat) : Option Word :=
  if off = 0 then some f.coordReg
  else if off = 8 then some (packBits [(f.xn.toNat, 0), (f.yn.toNat, 8), (f.zn.toNat, 16), (b2n f.mirror, 24)])
  else if off = 0x10 then some (f.dateline.zeroExtend 64)
  else if off = 0x18 then some (packBits [(b2n f.ep, 0), (b2n f.rtr, 1)])
  else if off = 0x20 then
    some (packBits [(b2n f.cur, 0), (f.epochState.toNat, 1), (f.activeGen.toNat, 16), (f.standbyGen.toNat, 32), (b2n f.standbyLoaded, 48)])
  else if off = 0x28 then some 0
  else if off = 0x30 then some (packBits [(f.drain false % 65536, 0), (f.drain true % 65536, 16)])
  else if off = 0x38 then some (packBits [(f.passed[0].toNat, 0), (f.passed[1].toNat, 32)])
  else if off = 0x40 then some (f.stat.zeroExtend 64)
  else if off = 0x100 then some (f.noroute.zeroExtend 64)
  else if off = 0x108 then some (f.fencedDrop.zeroExtend 64)
  else if off = 0x110 then some (f.cutCnt.zeroExtend 64)
  else if off = 0x118 then some (f.resendCnt.zeroExtend 64)
  else none

def LinkState.code : LinkState → Nat
  | .down => 0
  | .training => 1
  | .up => 2
  | .remoteFenced => 3

def Port.reg (p : Port) (off : Nat) : Option Word :=
  if off = 0 then some (packBits [(p.link.code, 0), (p.margin.toNat, 8), (p.replay.length, 16)])
  else if off = 0x100 then some (p.retry.zeroExtend 64)
  else if off = 0x108 then some (p.fecCorr.zeroExtend 64)
  else if off = 0x110 then some (p.fecUncorr.zeroExtend 64)
  else if off = 0x118 then some (p.tx.zeroExtend 64)
  else if off = 0x120 then some (p.rx.zeroExtend 64)
  else if off = 0x128 then some (p.down.zeroExtend 64)
  else none

/-- Whether an offset in a bank holds a table or partner entry (R469). -/
def routeByte (off : Nat) : Bool := decide (off < 0x480 ∧ off % 0x80 < 0x60) || decide (0x600 ≤ off ∧ off < 0x610)

/-- Eight route bytes as a word (R522). -/
def Fabric.routeWord (f : Fabric) (off : Nat) : Option Word :=
  let b := decide (0x800 ≤ off)
  let o := off % 0x800
  if off < 0x1000 ∧ off % 8 = 0 ∧ routeByte o then
    some (BitVec.ofNat 64 (bytesWord ((List.range 8).map fun i => f.route b (o + i))))
  else none

/-! ### Health (R494) -/

def Health.feedId (h : Health) : BitVec 48 := if h.feedOvrValid then h.feedOvr else h.strap.zeroExtend 48

def SnapPhase.code : SnapPhase → Nat
  | .idle => 0
  | .freeze => 1
  | .send => 2
  | .mirror => 3

def Slot.reg (x : Slot) : Word := packBits [(x.step.toNat, 0), (b2n x.valid, 63)]

def Health.reg (h : Health) (off : Nat) : Option Word :=
  let points (k : Nat) := BitVec.ofNat 64 (bytesWord ((h.points.toList.drop (8 * k)).take 8))
  if off = 0 then some (packBits [(b2n h.pairEn, 0), (h.pairState.toNat, 1)])
  else if off = 8 then some (packBits [(h.feedId.toNat, 0), (h.strap.toNat, 48), (b2n h.feedOvrValid, 56)])
  else if off = 0x10 then some (packBits [(h.feedOvr.toNat, 0), (b2n h.feedOvrValid, 63)])
  else if off = 0x18 then some (packBits [(h.peerFeed.toNat, 0), (h.peerRisk.toNat, 48), (h.peerState.toNat, 56)])
  else if off = 0x20 then some (packBits [(h.score.toNat, 0), (h.level.toNat, 8)])
  else if off = 0x28 then some (packBits [(h.t1.toNat, 0), (h.t2.toNat, 8), (h.t3.toNat, 16)])
  else if off = 0x30 then some (points 0)
  else if off = 0x38 then some (points 1)
  else if off = 0x40 then some (packBits [(h.maxSteps.toNat, 0), (h.mirrorEvery.toNat, 16)])
  else if off = 0x48 then some (packBits [(h.phase.code, 0), (h.snapStat.toNat, 8)])
  else if off = 0x50 then some (packBits [(h.lastStep.toNat, 0), (b2n h.lastValid, 63)])
  else if off = 0x58 then some (packBits [(h.committed.toNat, 0), (h.mirrored.toNat, 32)])
  else if off = 0x60 then some h.slotA.reg
  else if off = 0x68 then some (h.slotA.seq.zeroExtend 64)
  else if off = 0x70 then some h.slotB.reg
  else if off = 0x78 then some (h.slotB.seq.zeroExtend 64)
  else if off = 0x80 then some (h.privBytes.zeroExtend 64)
  else if off = 0x88 then
    some (packBits [(h.rcv.toNat, 0), (b2n h.sharedDone, 3), (b2n h.privateDone, 4), (h.lastStatus.toNat, 16)])
  else if off = 0x90 then some (h.rcvStep.zeroExtend 64)
  else if off = 0x100 then some (h.snapCnt.zeroExtend 64)
  else if off = 0x108 then some (h.mirrorCnt.zeroExtend 64)
  else if off = 0x110 then some (h.t3Cnt.zeroExtend 64)
  else if off = 0x118 then some (h.fillAbortCnt.zeroExtend 64)
  else none

/-! ### Security and power (R573, R600, R630) -/

def Boot.code : Boot → Nat
  | .rom => 0
  | .load => 1
  | .init => 2
  | .ready => 3
  | .recovery => 4

/-- A bank's code: 0 none, 1 A, 2 B. -/
def bankCode : Option Bool → Nat
  | none => 0
  | some false => 1
  | some true => 2

def Security.reg (x : Security) (off : Nat) : Option Word :=
  if off = 0 then
    some (packBits [(x.boot.code, 0), (bankCode x.bank, 4), (bankCode (some x.preferred), 6), (b2n x.bootable[0], 8), (b2n x.bootable[1], 9),
      (x.cnt[0].toNat, 16), (x.cnt[1].toNat, 24), (x.svn, 32), (x.featureLevel.toNat, 40), (b2n x.session.isSome, 56),
      ((x.session.map fun f => f.owner.val).getD 0, 57)])
  else if off = 8 then
    let c := x.challenge
    some (packBits [(x.debugOpen.toNat, 0), (x.sinceBoot.toNat, 16), ((c.map fun r => r.resets.toNat).getD 0, 32), (b2n c.isSome, 40),
      ((c.map fun r => r.fails.toNat).getD 0, 41)])
  else none

def PState.code : PState → Nat
  | .a0 => 0
  | .a1 => 1
  | .a2 => 2
  | .a3 => 3

/-- PWR_STAT.STATE: 4 in a transition, 5 in a compute reset (R600). -/
def Power.stateCode (p : Power) : Nat :=
  if p.creset.isSome then 5 else if p.transition.isSome then 4 else p.state.code

def Power.reg (p : Power) (off : Nat) : Option Word :=
  if off = 0 then
    some (packBits [(p.stateCode, 0), ((p.transition.map fun t => t.target.code).getD 0, 4), (p.level.toNat, 8),
      (1600 - 100 * p.level.toNat, 16)])
  else if off = 8 then some (p.domains.zeroExtend 64)
  else if off = 0x10 then some (p.retention.zeroExtend 64)
  else if off = 0x18 then some (p.fabOff.zeroExtend 64)
  else if off = 0x20 then some (p.capW.zeroExtend 64)
  else if off = 0x28 then some (packBits [(p.inputMv.toNat, 0), (p.inputW.toNat, 16), (p.tjMax.toNat, 32)])
  else if off = 0x30 then some p.coolant
  else if off = 0x100 then some (p.thrCnt.zeroExtend 64)
  else if off = 0x108 then some (p.droopCnt.zeroExtend 64)
  else none

def Island.reg (i : Island) : Word :=
  packBits [(b2n i.running, 0), (b2n i.powered, 1), (i.timeouts.toNat, 8), (i.ticks.toNat, 16)]

/-! ### Performance (R607, R609) -/

def Phase.reg (p : Phase) (k : Nat) : Word :=
  (if k = 0 then p.last else if k = 1 then p.total else if k = 2 then p.start else p.stop).zeroExtend 64

def Perf.reg (x : Perf) (off : Nat) : Option Word :=
  if off = 0 then some (x.stepLast.zeroExtend 64)
  else if off = 8 then some (x.stepNum.zeroExtend 64)
  else if off = 0x10 then some (x.stepTotal.zeroExtend 64)
  else if off = 0x18 then some (x.stepCnt.zeroExtend 64)
  else match slotOf off 0x100 28 with
    | some i => (vecAt x.phases (i / 4)).map fun p => p.reg (i % 4)
    | none => none

/-! ### The whole space -/

/-- Where a register address lies: its block and offset. -/
inductive RegAt where
  | format (i word : Nat)
  | crv (off : Nat)
  | crvBlk (b word : Nat)
  | region (r : Rg) (off : Nat)
  | cluster (c : Cl) (off : Nat)
  | partition (p : Pt) (off : Nat)
  | memory (off : Nat)
  | fabric (off : Nat)
  | link (p : FPort) (off : Nat)
  | route (off : Nat)
  | health (off : Nat)
  | security (off : Nat)
  | power (off : Nat)
  | island (n : Fin 100)
  | rst (off : Nat)
  | phase (off : Nat)
  | service (off : Nat)
  | nothing
  deriving DecidableEq, Repr

/-- The block of a device address in the register space. -/
def regAt (a : Nat) : RegAt :=
  let o := a - regsBase
  if a < regsBase ∨ a % 8 ≠ 0 then .nothing
  else if 0x10000 ≤ o ∧ o < 0x10800 then .format ((o - 0x10000) / 32) (o % 32 / 8)
  else if 0x20000 ≤ o ∧ o < 0x20010 then .crv (o - 0x20000)
  else if 0x40000 ≤ o ∧ o < 0x140000 then .crvBlk ((o - 0x40000) / 16) (o % 16 / 8)
  else if 0x800000 ≤ o ∧ o < 0x818000 then
    (match rgAt ((o - 0x800000) / 0x1000) with | some r => .region r (o % 0x1000) | none => .nothing)
  else if 0x1000000 ≤ o ∧ o < 0x2800000 then
    (match clOf ((o - 0x1000000) / 0x10000) with | some c => .cluster c (o % 0x10000) | none => .nothing)
  else if 0x3000000 ≤ o ∧ o < 0x3100000 then
    (if h : (o - 0x3000000) / 0x10000 < 16 then .partition ⟨(o - 0x3000000) / 0x10000, h⟩ (o % 0x10000) else .nothing)
  else if 0x3100000 ≤ o ∧ o < 0x3100020 then .memory (o - 0x3100000)
  else if 0x4000000 ≤ o ∧ o < 0x4001000 then .fabric (o - 0x4000000)
  else if 0x4100000 ≤ o ∧ o < 0x4108000 then
    (if h : (o - 0x4100000) / 0x1000 < 8 then .link ⟨(o - 0x4100000) / 0x1000, h⟩ (o % 0x1000) else .nothing)
  else if 0x4200000 ≤ o ∧ o < 0x4201000 then .route (o - 0x4200000)
  else if 0x5000000 ≤ o ∧ o < 0x5001000 then .health (o - 0x5000000)
  else if 0x6000000 ≤ o ∧ o < 0x6001000 then .security (o - 0x6000000)
  else if 0x7000000 ≤ o ∧ o < 0x7001000 then .power (o - 0x7000000)
  else if 0x7100000 ≤ o ∧ o < 0x7100320 then
    (if h : (o - 0x7100000) / 8 < 100 then .island ⟨(o - 0x7100000) / 8, h⟩ else .nothing)
  else if 0x7200000 ≤ o ∧ o < 0x7200010 then .rst (o - 0x7200000)
  else if 0x8000000 ≤ o ∧ o < 0x8001000 then .phase (o - 0x8000000)
  else if 0x8100000 ≤ o ∧ o < 0x8101100 then .service (o - 0x8100000)
  else .nothing

/-- Word k of the descriptor of an index. -/
def descWord (d : Desc) (k : Nat) : Word := BitVec.ofNat 64 (fld d (64 * k) 64)

/-- A descriptor as its entry holds it: only a code table uses words 1 to 3, which read as zero for every other kind, as all
four words of an empty entry do (R104). -/
def descHeld (d : Desc) : Desc := match fld d 0 3 with | 0 => 0 | 3 => d | _ => BitVec.ofNat 256 (fld d 0 64)

/-- The descriptor of an index: the constants of R89, then the table (R104). -/
def State.desc (s : State) (i : Nat) : Desc :=
  if h : 32 ≤ i ∧ i < 64 then descHeld s.glob.custom[i - 32] else builtinDesc i

/-- What the register at a device address reads as; none where there is no register. -/
def State.readReg (s : State) (a : Nat) : Option Word :=
  match regAt a with
  | .format i k => some (descWord (s.desc i) k)
  | .crv off => some (if off = 0 then s.run.crvCfg else s.run.crvStep.zeroExtend 64)
  | .crvBlk b k => some ((smGet {} s.run.crvBlk b).word k)
  | .region r off => s.regionReg r off
  | .cluster c off => s.clusterReg c off
  | .partition p off => s.partReg p off
  | .memory off => s.memReg off
  | .fabric off => s.fab.reg off
  | .link p off => (s.link p).reg off
  | .route off => s.fab.routeWord off
  | .health off => s.hlt.reg off
  | .security off => s.sec.reg off
  | .power off => s.pwr.reg off
  | .island n => some s.pwr.islands[n].reg
  | .rst off => some (if off = 0 then s.pwr.rstCause.zeroExtend 64 else s.pwr.rstComputeCnt.zeroExtend 64)
  | .phase off => s.perf.reg off
  | .service off =>
    (match slotOf off 0 256, slotOf off 0x1000 32 with
     | some i, _ => (vecAt s.perf.sv i).map (·.zeroExtend 64)
     | _, some i => (vecAt s.fab.ports (i / 4)).bind fun p => (vecAt p.stl (i % 4)).map (·.zeroExtend 64)
     | _, _ => none)
  | .nothing => none

/-- Ones written to the W1C fields of a register; none where the register has no such field. -/
def State.clearReg (s : State) (a : Nat) (w : Word) : Option State :=
  match regAt a with
  | .cluster c off => ((s.cl c).clear off w).map fun k => s.onCl c fun _ => k
  | .region r off => ((s.rg r).clear off w).map fun x => s.onRg r fun _ => x
  | .partition p off =>
    if off = 8 then some (s.onPart p fun x => { x with ecc := w1c x.ecc (w.truncate 5) }) else none
  | .memory off =>
    if off = 0x10 then some { s with glob := { s.glob with noTarget := s.glob.noTarget && !w.getLsbD 0 } } else none
  | .fabric off => if off = 0x40 then some (s.onFab fun f => { f with stat := w1c f.stat (w.truncate 12) }) else none
  | .health off =>
    if off = 0x48 then some (s.onHlt fun h => { h with snapStat := w1c h.snapStat (w.extractLsb' 8 5) }) else none
  | _ => none

/-- A direct write of a register under its access codes: settable registers ignore it (R18, R106, R377, R422, R467). -/
def State.writeReg (s : State) (a : Nat) (w : Word) : State :=
  match s.clearReg a w with
  | some t => t
  | none =>
    match regAt a with
    | .cluster c off => s.onCl c (·.writeReg off w)
    | _ => s

end Sys2Proof.Machine
end

