-- ==== Sys2Proof/Machine/Dma.lean ====
section
/-! DEFINITION. DMA tasks (R108, R109, R228, R229, R344, R385, R394 to R397): the transfer of a descriptor, its checks,
its requests, and its conversion. -/
namespace Sys2Proof.Machine

/-! ### The transfer of a descriptor (R227, R228) -/

/-- A stride of 32 bits, two's complement. -/
def stride (n : Nat) : Int := signedOf 32 n

/-- One side of a DMA descriptor: its format, address word, counts word, strides word, scale word. -/
def TEntry.side (e : TEntry) (fmt : Fmt) (addr counts strides scale : Nat) : Side :=
  { fmt := fmt, addr := e.f addr 0 48, n0 := e.f counts 0 24, n1 := e.f counts 24 20, n2 := e.f counts 44 20
    s1 := stride (e.f strides 0 32), s2 := stride (e.f strides 32 32), scaleAddr := e.f scale 0 48 }

def State.fmt (s : State) (i : Nat) : Fmt := fmtOf i (s.desc i)

/-- The transfer that a descriptor describes. -/
def State.xferOf (s : State) (e : TEntry) : Xfer :=
  let c := cvtOf (e.word 7)
  { cvt := c, src := e.side (s.fmt c.src) 5 8 9 12, dst := e.side (s.fmt c.dst) 6 10 11 13, resAddr := e.f 14 0 48 }

/-- The second transfer of a dual-destination store (R344): a contiguous run in the bound format. Blocks are those of the source's
runs; those of an SI form, and those that hold their scale codes, follow one another whole. -/
def State.dualOf (s : State) (c : Cl) (i : Nat) (x : Xfer) : Option Xfer :=
  let d := if h : i < 128 then (s.cl c).dual[i] else 0
  if fld d 63 1 = 0 then none
  else
    let fmt := s.fmt (fld d 48 6)
    some { x with
      cvt := { x.cvt with dst := fld d 48 6 }
      dst := if fmt.block = 0 then { fmt := fmt, addr := fld d 0 48, n0 := x.src.count, scaleAddr := fld d 64 48 }
        else
          { fmt := fmt, addr := fld d 0 48, n0 := x.runLen, n1 := x.src.count / x.runLen
            s1 := ((x.runLen + fmt.block - 1) / fmt.block * fmt.blkBytes : Nat), scaleAddr := fld d 64 48
            dense := !fmt.isSI && fmt.scale == 1 } }

/-- Whether the transfer uses a residue area: it has an SI side and is no byte copy (R109). -/
def Xfer.usesRes (x : Xfer) : Bool := (x.src.fmt.isSI || x.dst.fmt.isSI) && !x.isCopy && x.cvt.resCap != 0

/-- Whether it reads the records of the area. -/
def Xfer.readsRes (x : Xfer) : Bool := x.cvt.strict && x.src.fmt.isSI && x.usesRes

/-- Bytes of the residue area (R109), of the destination's carrier where both sides are SI forms. -/
def Xfer.resBytes (x : Xfer) : Nat := x.cvt.resCap * recBytes (if x.dst.fmt.isSI then x.dst.fmt.carrier else x.src.fmt.carrier)

/-! ### The checks at dispatch (R108, R229, R385) -/

/-- A transfer that names an empty or invalid descriptor (R108). -/
def State.fmtInvalid (s : State) (c : Cl) (i : Nat) (e : TEntry) : Bool :=
  let x := s.xferOf e
  !(x.src.fmt.usable && x.dst.fmt.usable) || (s.dualOf c i x).any fun y => !y.dst.fmt.usable

/-- The reserved fields of words 0 to 4 (R226). -/
def TEntry.commonOk (e : TEntry) : Bool :=
  1 ≤ e.kind && e.kind ≤ 4 && e.f 0 20 3 ≤ 4 && e.f 0 23 3 ≤ 4 && e.f 0 26 2 ≤ 2 && e.f 0 28 4 = 0
  && e.waits.all (fun w => 1 ≤ w.2) && e.prods.all (fun p => 1 ≤ p.2)
  && e.remotes.all (fun r => decide (r.1 < 384)) && (List.range (e.f 0 26 2)).all (fun w => e.f 3 (32 * w + 25) 7 = 0)
  && (List.range 4).all (fun w => e.f 4 (8 * w + 6) 1 = 0) && e.f 4 32 32 = 0

/-- The fields of words 5 to 15 by kind (R227). -/
def TEntry.kindOk (e : TEntry) : Bool :=
  match e.kind with
  | 1 => e.addr % 32 = 0 && 1 ≤ e.f 5 32 16
  | 2 => e.addr % 4 = 0
  | 3 => e.f 15 0 3 ≤ 4
  | _ => true

/-- The checks of R229 and R345 on a DMA transfer. DESIGN CHOICE, log entry 144: reserved bits of the conversion control
word are ignored. -/
def State.dmaOk (s : State) (c : Cl) (i : Nat) (e : TEntry) : Bool :=
  let x := s.xferOf e
  x.src.walkOk && x.dst.walkOk && x.limbsOk && x.src.count = x.dst.count
  && (!(x.src.fmt.blocked && x.dst.fmt.blocked) || x.src.n0 = x.dst.n0)
  && ((s.dualOf c i x).isNone || x.src.fmt.isSI)

/-- R229: whether a descriptor may run. -/
def State.descriptorOk (s : State) (c : Cl) (i : Nat) (e : TEntry) : Bool :=
  e.commonOk && e.kindOk && (e.kind ≠ 3 || s.dmaOk c i e)

/-- Lowest and highest byte of a walk, negative strides included (R385). -/
def Side.extent (x : Side) : Int × Int :=
  let ss := x.spans
  (ss.foldl (fun a p => min a p.1) (x.addr : Int), ss.foldl (fun a p => max a (p.1 + p.2 - 1)) (x.addr : Int))

/-- A span with a target that data movers reach (R385). -/
def spanOk (lo hi : Int) : Bool := decide (0 ≤ lo) && oneRange lo.toNat hi.toNat

def Side.spanOk (x : Side) : Bool :=
  Sys2Proof.Machine.spanOk x.extent.1 x.extent.2
  && (x.scaleSpan = 0 || oneRange x.scaleAddr (x.scaleAddr + x.scaleSpan - 1))

/-- R385 over every range of the task. -/
def State.spansOk (s : State) (c : Cl) (i : Nat) (e : TEntry) : Bool :=
  let x := s.xferOf e
  x.src.spanOk && x.dst.spanOk && (!x.usesRes || oneRange x.resAddr (x.resAddr + x.resBytes - 1))
  && (s.dualOf c i x).all fun y => y.dst.spanOk && (!y.readsRes || oneRange y.resAddr (y.resAddr + y.cvt.resCap * recBytes y.src.fmt.carrier - 1))

/-! ### Requests -/

/-- The bytes that a transfer reads, as stretches. -/
def Xfer.reads (x : Xfer) : List (Nat × Nat) :=
  x.src.spans.map (fun p => (p.1.toNat, p.2))
  ++ (if x.src.scaleSpan = 0 then [] else [(x.src.scaleAddr, x.src.scaleSpan)])
  ++ (if x.readsRes then [(x.resAddr, x.cvt.resCap * recBytes x.src.fmt.carrier)] else [])

/-- The stretches of a task's transfer; both conversions of a dual-destination store take the residue records (R344). -/
def State.dmaReads (s : State) (c : Cl) (i : Nat) (x : Xfer) : List (Nat × Nat) :=
  x.reads ++ (match s.dualOf c i x with
    | some y => if y.readsRes && !x.readsRes then [(y.resAddr, y.cvt.resCap * recBytes y.src.fmt.carrier)] else []
    | none => [])

/-- The sectors of a line that a stretch touches. -/
def sectorMask (line a len : Nat) : BitVec 8 :=
  BitVec.ofNat 8 ((List.range 8).foldl (fun m k =>
    if a < line + 32 * k + 32 ∧ line + 32 * k < a + len then m + 2 ^ k else m) 0)

/-- Stretches as lines with the sectors they touch, each line once, in order of first use. -/
def lineMasks (rs : List (Nat × Nat)) : List (Nat × BitVec 8) :=
  ((rs.flatMap fun r => linesOf r.1 r.2).eraseDups).map fun l =>
    (l, rs.foldl (fun m r => m ||| sectorMask l r.1 r.2) 0)

/-- Whether an address lies in a cluster's own window. -/
def ownTile (c : Cl) (a : Nat) : Bool := rangeOf a = .tile c.val

/-- Masked bytes of one sector. -/
def sectorOf (line : Nat) (k : Fin 8) (ws : List WByte) : SecWrite :=
  ws.foldl (fun q w =>
    let i := w.addr % 32
    if w.addr / 32 = line / 32 + k.val then
      { q with
        mask := q.mask ||| (1#32 <<< i)
        data := setBits q.data (8 * i) 8 (w.apply (BitVec.ofNat 8 (fld q.data (8 * i) 8))).toNat }
    else q) { sector := k, mask := 0, data := 0 }

/-- Byte writes merged by address: masks of sub-byte writes add up over what memory holds. -/
def mergeBytes (rd : Nat → Byte) (ws : List WByte) : List WByte :=
  (ws.foldl (fun (m : SMap Byte) w => smSet m w.addr (w.apply ((smFind m w.addr).getD (rd w.addr)))) []).map fun p =>
    { addr := p.1, data := p.2 }

/-- Byte writes as sector writes by line. -/
def lineWrites (ws : List WByte) : List (Nat × List SecWrite) :=
  ((ws.map fun w => w.addr / 256 * 256).eraseDups).map fun l =>
    (l, (List.finRange 8).filterMap fun k =>
      let q := sectorOf l k (ws.filter fun w => w.addr / 256 * 256 == l)
      if q.mask = 0 then none else some q)

/-- The sector writes as bytes again. -/
def SecWrite.bytes (w : SecWrite) (line : Nat) : List WByte :=
  (List.range 32).filterMap fun i =>
    if w.mask.getLsbD i then some { addr := line + 32 * w.sector.val + i, data := BitVec.ofNat 8 (fld w.data (8 * i) 8) } else none

/-! ### What a speculative firing reads (R246) -/

/-- A line as a firing reads it. -/
def State.lineAs (s : State) (c : Cl) (f : Firing) (line : Nat) : BitVec 2048 :=
  BitVec.ofNat 2048 (leBytes (s.readAs c f) line 256)

/-! ### Conversion and writes -/

/-- What a DMA firing has read: own tile memory as it stands, else its lines; a held byte carries no mark. -/
def State.dmaSrc (s : State) (c : Cl) (f : Firing) (d : DmaRun) : Src :=
  { byte := fun a =>
      if ownTile c a then s.readAs c f a
      else BitVec.ofNat 8 (fld ((smFind d.data (a / 256 * 256)).getD 0) (8 * (a % 256)) 8)
    bad := fun a => d.bad.contains (a / 32) && !(f.held && ((s.rg (rgOf c)).heldByte f.guards a).isSome) }

/-- A held sector takes a write of its firing, or enters the buffer (R246). -/
def Region.holdWrite (r : Region) (c : Cl) (f : Firing) (line : Nat) (w : SecWrite) : Region :=
  let a := line + 32 * w.sector.val
  if r.hold.any fun h => h.cl == c && h.entry == f.entry && h.addr == a then
    { r with hold := r.hold.map fun h =>
        if h.cl == c && h.entry == f.entry && h.addr == a then
          { h with
            mask := h.mask ||| w.mask
            data := (List.range 32).foldl (fun x i =>
              if w.mask.getLsbD i then setBits x (8 * i) 8 (fld w.data (8 * i) 8) else x) h.data }
        else h }
  else
    let hold := r.hold ++ [{ addr := a, mask := w.mask, data := w.data, cl := c, entry := f.entry, order := f.order, guards := f.guards }]
    { r with hold := hold, peak := BitVec.ofNat 14 (max r.peak.toNat hold.length) }

/-- The writes of a speculative firing outside its tile memory; a firing that finds the buffer full, at its 8,192 sectors,
is squashed (R245, R248, R257). -/
def State.holdWrites (s : State) (c : Cl) (f : Firing) (ls : List (Nat × List SecWrite)) : State :=
  let ws := ls.flatMap fun l => l.2.map fun w => (l.1, w)
  let r := ws.foldl (fun r p => r.holdWrite c f p.1 p.2) (s.rg (rgOf c))
  if 8192 < r.hold.length then (s.onRg (rgOf c) fun x => { x with peak := 8192 }).squash c f 1 else s.onRg (rgOf c) fun _ => r

/-- The firing as it stands now, where it is still there. -/
def State.firingNow (s : State) (c : Cl) (i : Nat) : Option Firing := (s.cl c).firing i

/-- Conditions of a DMA firing enter MEM_CVT_STAT of its engine and its record (R84, R110). -/
def Cluster.dmaConds (k : Cluster) (i : Nat) (e : Fin 4) (c : Cond) : Cluster :=
  { k.onFiring i (fun f => { f with conds := f.conds ||| c }) with cvt := k.cvt.set e (k.cvt[e] ||| cvtBits c) }

/-- The next phase of a DMA firing. -/
def Cluster.dmaNext (k : Cluster) (i : Nat) (d : DmaRun) : Cluster :=
  k.onFiring i fun f => { f with unit := .dma d, ended := decide (d.phase = .done) }

/-- Everything has been read: the engine converts and writes (R87, R344). Own tile memory takes its bytes at once, a
speculative firing holds the rest, and the rest of another goes out as requests. -/
def State.dmaConvert (s : State) (c : Cl) (f : Firing) (d : DmaRun) : State :=
  let e := (s.cl c).entry f.entry
  let x := s.xferOf e
  let m := s.dmaSrc c f d
  let a := x.run m
  let b := (s.dualOf c f.entry x).map (·.run m)
  let ws := a.writes ++ (b.map (·.writes)).getD []
  let cond := a.cond ||| (b.map (·.cond)).getD 0
  let ws := mergeBytes (s.readAs c f) ws
  let (own, far) := ws.partition fun w => ownTile c w.addr
  let ls := lineWrites far
  let sectors := (((s.dmaReads c f.entry x).map fun r => (lineMasks [r]).foldl (fun n p => n + (List.range 8).countP p.2.getLsbD) 0).foldl (· + ·) 0)
    + (ls.map (·.2.length)).foldl (· + ·) 0
  let t := s.onCl c fun k => (k.dmaConds f.entry d.engine cond).work (k.firing f.entry) (3 + d.engine.val) sectors
  let t := t.firingWrite c (t.firingNow c f.entry) (own.map fun w => { w with addr := w.addr - tileBase c.val })
  match t.firingNow c f.entry with
  | none => t
  | some g =>
    if g.order ≠ f.order then t
    else if g.held then
      let t := t.holdWrites c g ls
      t.onCl c (·.dmaNext f.entry { d with phase := .done, left := 0, data := [], bad := [] })
    else
      let reqs := ls.map fun l => { rg := rgOf c, who := .dma c f.entry d.engine, line := l.1, writes := l.2, cls := s.classOf c f.entry l.1 : MReq }
      { t with reqs := t.reqs ++ reqs }.onCl c
        (·.dmaNext f.entry { d with phase := if ls.isEmpty then .done else .writing, left := ls.length, data := [], bad := [] })

/-- A DMA firing starts: its reads go out, or it converts at once when all it reads is its own tile memory. -/
def State.dmaStart (s : State) (c : Cl) (f : Firing) (engine : Fin 4) : State :=
  let e := (s.cl c).entry f.entry
  let x := s.xferOf e
  let ls := (lineMasks (s.dmaReads c f.entry x)).filter fun l => !ownTile c l.1
  let d : DmaRun := { engine := engine, left := ls.length }
  if ls.isEmpty then s.dmaConvert c { f with unit := .dma d } d
  else
    let reqs := ls.map fun l => { rg := rgOf c, who := .dma c f.entry engine, line := l.1, sectors := l.2, cls := s.classOf c f.entry l.1 : MReq }
    { s with reqs := s.reqs ++ reqs }.onCl c (·.dmaNext f.entry d)

/-- A line of a DMA firing has been delivered, with its uncorrectable sectors (R397, R413). -/
def State.dmaRead (s : State) (c : Cl) (i : Nat) (line : Nat) (data : BitVec 2048) (bad : List Nat) : State :=
  match (s.cl c).firing i with
  | some f =>
    match f.unit with
    | .dma d =>
      let d := { d with left := d.left - 1, data := smSet d.data line data, bad := d.bad ++ bad }
      if d.left = 0 then (s.onCl c (·.dmaNext i d)).dmaConvert c { f with unit := .dma d } d else s.onCl c (·.dmaNext i d)
    | _ => s
  | none => s

/-- A write of a DMA firing has become visible (R234). -/
def State.dmaWritten (s : State) (c : Cl) (i : Nat) : State :=
  match (s.cl c).firing i with
  | some f =>
    match f.unit with
    | .dma d =>
      s.onCl c (·.dmaNext i { d with left := d.left - 1, phase := if d.left ≤ 1 then .done else .writing })
    | _ => s
  | none => s

end Sys2Proof.Machine
end

