-- ==== Sys2Proof/WellFormed.lean ====
section
/-! DEFINITION. Which commands are well-formed: operands that an element of the module can have. -/
namespace Sys2Proof

/-- LENGTH counts at most 65,535 payload words (R507). -/
def HostCmd.wf (c : HostCmd) : Bool := decide (c.words.length < 65536)

/-- An access to BAR2 lies within its 64 GiB (R497) and moves at least a byte. -/
def windowWf (off : BitVec 36) (len : Nat) : Bool := decide (1 ≤ len ∧ off.toNat + len ≤ 2 ^ 36)

/-- The check of a command's operands: what a party outside the module can send. No meaning rests on it: a command that fails it
has its effect on the part that the module can have (the words that LENGTH counts, the bytes of the BAR), or none. -/
def Instr.wf : Instr → Bool
  | .vadd _ => true
  | .vsub _ => true
  | .vmul _ => true
  | .vfma _ => true
  | .vfms _ => true
  | .vnfma _ => true
  | .vdiv _ => true
  | .vrcp _ => true
  | .vsqrt _ => true
  | .vrsqrt _ => true
  | .vmax _ => true
  | .vmin _ => true
  | .vabs _ => true
  | .vneg _ => true
  | .vmulp2 _ => true
  | .vexp _ => true
  | .vexp2 _ => true
  | .vln _ => true
  | .vlog2 _ => true
  | .vtanh _ => true
  | .vsigm _ => true
  | .verf _ => true
  | .vbcastVs _ => true
  | .vmv _ => true
  | .vsel _ _ => true
  | .vcmpEq _ => true
  | .vcmpNe _ => true
  | .vcmpLt _ => true
  | .vcmpLe _ => true
  | .vcmpGt _ => true
  | .vcmpGe _ => true
  | .viadd _ => true
  | .visub _ => true
  | .vimul _ => true
  | .vimulh _ => true
  | .vimulhu _ => true
  | .vand _ => true
  | .vor _ => true
  | .vxor _ => true
  | .vsll _ => true
  | .vsrl _ => true
  | .vsra _ => true
  | .vimin _ => true
  | .vimax _ => true
  | .viminu _ => true
  | .vimaxu _ => true
  | .vicmpEq _ => true
  | .vicmpNe _ => true
  | .vicmpLt _ => true
  | .vicmpLe _ => true
  | .vicmpLtu _ => true
  | .vicmpLeu _ => true
  | .vidx _ => true
  | .visplatVx _ => true
  | .vwid _ => true
  | .vnar _ => true
  | .viwid _ => true
  | .viwidu _ => true
  | .vinar _ => true
  | .vcvtSiI _ => true
  | .vcvtISi _ => true
  | .pand _ => true
  | .por _ => true
  | .pxor _ => true
  | .pandn _ => true
  | .pnot _ => true
  | .pset _ => true
  | .pclr _ => true
  | .vredsum _ => true
  | .vredmax _ => true
  | .vredmin _ => true
  | .viredsum _ => true
  | .viredmax _ => true
  | .viredmin _ => true
  | .vsegsum _ => true
  | .vsegmax _ => true
  | .vsegmin _ => true
  | .vcompress _ => true
  | .vexpand _ => true
  | .vperm _ => true
  | .vslideup _ => true
  | .vslidedn _ => true
  | .vpsumPopc _ => true
  | .vpsumAny _ => true
  | .vpsumAll _ => true
  | .vpsumFirst _ => true
  | .vsmax _ => true
  | .vmvx _ => true
  | .vsetcfg _ => true
  | .vld _ => true
  | .vst _ => true
  | .vldres _ => true
  | .vstres _ => true
  | .summaryDelivery _ => true
  | .tahrBaseInstruction _ => true
  | .csrInstruction _ _ _ _ _ => true
  | .ebreak _ => true
  | .fence _ => true
  | .fenceI _ => true
  | .tarr _ _ => true
  | .tarrsync _ _ => true
  | .tarrsyncResume _ => true
  | .tprod _ _ _ => true
  | .twaits _ _ _ => true
  | .twaitsResume _ => true
  | .tguard _ _ _ => true
  | .tend _ _ => true
  | .cycleBudgetExceeded _ => true
  | .arrayCommandFetch _ => true
  | .arrMode _ => true
  | .arrClear _ => true
  | .arrLoadShadow _ => true
  | .shadowLoadDone _ => true
  | .arrSwap _ => true
  | .arrStream _ => true
  | .arrDrain _ => true
  | .taskDispatch _ => true
  | .signalArrival _ _ => true
  | .taskComplete _ _ => true
  | .specCommitWritesDone _ _ => true
  | .holdPeakReset _ => true
  | .stepStart => true
  | .segmentFinish _ => true
  | .stepBoundary => true
  | .clusterFence _ _ => true
  | .replacement => true
  | .solverCallStart _ => true
  | .nyalaWaveInputDone _ => true
  | .nyalaWaveComputeDone _ => true
  | .nyalaCallDone _ => true
  | .solverDeadline _ _ => true
  | .jacobiRound _ => true
  | .reduceScatterStart _ => true
  | .distributionStart _ => true
  | .factorReductionStart _ => true
  | .newtonNormalisation _ => true
  | .medlarIterationDecision _ => true
  | .tagGrant _ => true
  | .sorterAccept _ => true
  | .bankSchedule _ _ => true
  | .memoryReadReturn _ _ => true
  | .watchdogPromotion _ => true
  | .regulatorRefill _ => true
  | .scrubRead _ _ => true
  | .hbmInitDone => true
  | .linkTrainingDone _ => true
  | .linkAlignmentLost _ => true
  | .linkAckTimeout _ => true
  | .linkControlReceive _ _ => true
  | .linkControlSend _ => true
  | .portSlotSend _ => true
  | .packetReceive _ _ => true
  | .desc => true
  | .data => true
  | .ack => true
  | .nack => true
  | .cut => true
  | .streamStallTimeout _ => true
  | .epochPrepare => true
  | .epochReply => true
  | .epochSwitch => true
  | .epochPoll => true
  | .epochPollReply => true
  | .epochRelease => true
  | .epochAbort => true
  | .epochPrepareTimeout => true
  | .epochPollRound => true
  | .drainTimeout => true
  | .heartbeat => true
  | .partnerHeartbeatSend => true
  | .partnerLost => true
  | .verifyDigest => true
  | .verifyResult => true
  | .chunkDigestDone => true
  | .healthSample _ => true
  | .snapshotFreezeDone => true
  | .level3Freeze => true
  | .snapshotMirrorDone => true
  | .privateFillDone _ => true
  | .fillStallTimeout => true
  | .mbxInWrite _ _ _ => true
  | .mbxOutRead _ => true
  | .resync _ => true
  | .mbxDbHeartbeat _ => true
  | .mbxDbStep _ _ => true
  | .mbxDbIrq _ _ => true
  | .windowRead _ off len => windowWf off len
  | .windowWrite _ off bs => windowWf off bs.length
  | .registerWrite _ _ _ => true
  | .hostHeartbeatTimeout _ => true
  | .pciePortReset _ _ => true
  | .cfgBegin c => c.wf
  | .cfgSet c => c.wf
  | .cfgCommit c => c.wf
  | .cfgRollback c => c.wf
  | .cfgStatus c => c.wf
  | .cfgApply => true
  | .cfgIdleTimeout => true
  | .regRead c => c.wf
  | .statClear c => c.wf
  | .graphLoad c => c.wf
  | .graphUnload c => c.wf
  | .placeReport c => c.wf
  | .stepRun c => c.wf
  | .stepHalt c => c.wf
  | .quiesce c => c.wf
  | .dmaCopy c => c.wf
  | .dmaCopyDone _ _ _ _ => true
  | .slvProblemLoad c => c.wf
  | .slvProblemInfo c => c.wf
  | .slvContextClear c => c.wf
  | .cursorSet c => c.wf
  | .snapNow c => c.wf
  | .snapMirrorBuf c => c.wf
  | .restoreBegin c => c.wf
  | .fillSend c => c.wf
  | .restorePrivateHost c => c.wf
  | .restoreCommit c => c.wf
  | .verifyStart c => c.wf
  | .evtRead c => c.wf
  | .evtMask c => c.wf
  | .cntRead c => c.wf
  | .cntClear c => c.wf
  | .phaseNotice _ _ => true
  | .pwrState c => c.wf
  | .powerStateEntry => true
  | .regionDomainSwitch => true
  | .computeReset c => c.wf
  | .computeResetGraceExpiry => true
  | .attest c => c.wf
  | .unlockChallenge c => c.wf
  | .unlockToken c => c.wf
  | .debugLock c => c.wf
  | .ident c => c.wf
  | .identFusemap c => c.wf
  | .fwBegin c => c.wf
  | .fwWrite c => c.wf
  | .fwCommit c => c.wf
  | .fwAbort c => c.wf
  | .fwSessionTimeout => true
  | .logRead c => c.wf
  | .moduleReset c => c.wf
  | .moduleResetExecute _ => true
  | .powerOnReset _ => true
  | .bootLoadDone => true
  | .bootReady => true
  | .bootWatchdog _ => true
  | .powerInputLost _ _ => true
  | .islandTimeout snd rcv => decide (snd ≠ rcv)
  | .droop _ => true
  | .cageOvercurrent _ => true
  | .extRstAssert => true
  | .extRstRelease _ => true
  | .debugDataAccess _ => true
  | .arrStreamLastUpdate _ => true
  | .arrDrainWritten _ => true
  | .placementFinished => true
  | .linkTrainingStart _ => true
  | .initCheckFailed _ => true
  | .perstDeassert _ => true
  | .bar0MissizedRead _ => true

end Sys2Proof
end

