-- ==== Sys2Proof/Machine/MemoryExec.lean ====
section
/-! DEFINITION. The meanings of the memory system's steps (11_memory_system R395 to R418): tags, sorters, bank
schedulers, read returns with the outer code, the watchdog, the regulators, scrub. -/
namespace Sys2Proof.Machine

/-! ### Tags and parking (R395 to R401) -/

def MReq.isRead (q : MReq) : Bool := q.writes.isEmpty

/-- A request that holds one of its region's tags: a read until its data comes, a write until a sorter accepts it. -/
def MReq.tagged (q : MReq) : Bool :=
  !q.parked && (q.state = .net || (q.isRead && (q.state = .sorted || q.state = .issued)))

def State.tags (s : State) (r : Rg) : Nat := s.reqs.countP fun q => q.rg == r && q.tagged

/-- The partition and bank of a request; none for a window. -/
def State.bankOf (s : State) (q : MReq) : Option (Pt × Nat) :=
  (s.partAt q.line).map fun x => (x.1, (placeOf x.1.val x.2).bankNo x.1.val)

/-- Tags that a region holds for a bank (R399). -/
def State.bankTags (s : State) (r : Rg) (b : Pt × Nat) : Nat :=
  s.reqs.countP fun q => q.rg == r && q.tagged && s.bankOf q == some b

/-- Park credits that a region uses at a partition. -/
def State.parked (s : State) (r : Rg) (p : Pt) : Nat :=
  s.reqs.countP fun q => q.rg == r && q.parked && (s.partAt q.line).any fun x => x.1 == p

/-- What a waiting request gets now: a tag (false), a place without one (true), or nothing. -/
def State.grantOf (s : State) (q : MReq) : Option Bool :=
  let tag := if s.tags q.rg < 2048 then some false else none
  match s.bankOf q with
  | some b =>
    if b.1.val < 12 && decide (256 ≤ s.bankTags q.rg b) then
      if s.parked q.rg b.1 < 32 then some true else none
    else tag
  | none => tag

/-- The writes of a committing firing wait until its commit has been written (R249). -/
def State.waitsForCommit (s : State) (q : MReq) : Bool :=
  match q.who with
  | .dma c i _ => !q.isRead && ((s.cl c).firing i).any (·.committing)
  | .commit _ _ => false

/-- A requester's place in the round-robin of R396: cluster in the region, and engine; none for a commit. -/
def MReq.turn (q : MReq) : Option (Nat × Nat) :=
  match q.who with
  | .dma c _ e => some (c.val % 16, e.val)
  | .commit _ _ => none

/-- The order in which a region serves its DMA engines: the clusters from the one after the cluster served last, and in each its
engines from the one after the engine served last there (R396). -/
def Region.turns (x : Region) : List (Nat × Nat) :=
  (List.range 16).flatMap fun k =>
    let c := (x.rr + 1 + k) % 16
    (List.range 4).map fun j => (c, (x.rrEngine.toList.getD c 3 + 1 + j) % 4)

/-- A DMA engine has been served. -/
def Region.served (x : Region) (t : Option (Nat × Nat)) : Region :=
  match t with
  | some (c, e) => { x with rr := c, rrEngine := x.rrEngine.set! c e }
  | none => x

/-- Index of the request that a region grants next among those waiting: a commit first, then the DMA engines in turn. -/
def State.nextGrant (s : State) (r : Rg) : Option Nat :=
  let cand := s.reqs.zipIdx.filter fun (q, _) =>
    q.rg == r && decide (q.state = .waits) && (s.grantOf q).isSome && !s.waitsForCommit q
  match cand.find? fun p => p.1.turn.isNone with
  | some p => some p.2
  | none => ((s.rg r).turns.findSome? fun t => cand.find? fun p => p.1.turn == some t).map (·.2)

/-- The index of the request that its region granted first among some. -/
def firstGranted (qs : List (MReq × Nat)) : Option Nat :=
  match qs with
  | [] => none
  | x :: xs => some (xs.foldl (fun (a : MReq × Nat) y => if y.1.order < a.1.order then y else a) x).2

/-- Index of the oldest parked request that may take a tag (R396, R401). -/
def State.nextPromotion (s : State) (r : Rg) : Option Nat :=
  if 2048 ≤ s.tags r then none
  else
    firstGranted (s.reqs.zipIdx.filter fun (q, _) => q.rg == r && q.parked && match s.bankOf q with
      | some b => decide (s.bankTags r b < 256)
      | none => true)

def State.onReq (s : State) (i : Nat) (f : MReq → MReq) : State := { s with reqs := s.reqs.modify i f }

/-- The bytes that a requester reads at a line. -/
def State.lineFor (s : State) (q : MReq) : BitVec 2048 :=
  match q.who with
  | .dma c i _ =>
    (match (s.cl c).firing i with
     | some f => s.lineAs c f q.line
     | none => BitVec.ofNat 2048 (leBytes s.mem.get q.line 256))
  | .commit _ _ => BitVec.ofNat 2048 (leBytes s.mem.get q.line 256)

/-- A write of a requester is visible (R234, R249). -/
def State.written (s : State) (q : MReq) : State :=
  match q.who with
  | .dma c i _ => s.dmaWritten c i
  | .commit c _ =>
    s.onRg (rgOf c) fun r => { r with stl := r.stl.set 43 (r.stl[43] + BitVec.ofNat 48 q.writes.length) }

/-- A request to a tile-memory window is served once it is granted (R387). -/
def State.serveWindow (s : State) (i : Nat) (q : MReq) : State :=
  let s := { s with reqs := s.reqs.eraseIdx i }
  if q.isRead then
    match q.who with
    | .dma c e _ => s.dmaRead c e q.line (s.lineFor q) []
    | .commit _ _ => s
  else { s with mem := s.mem.write (q.writes.flatMap fun (w : SecWrite) => w.bytes q.line) }.written q

/-- A request parks at its partition (R399, R423). -/
def Part.park (p : Part) : Part := { p with parkCnt := p.parkCnt + 1 }

/-- A parked request takes a tag. A parked write of a DMA firing that its sorter has accepted completes with it (R401). -/
def State.promote (s : State) (i : Nat) : State :=
  let t := s.onReq i fun q => { q with parked := false }
  match s.reqs[i]? with
  | some q => if q.turn.isSome && !q.isRead && decide (q.state = .sorted) then t.written q else t
  | none => t

/-- TAG_GRANT: one grant of the region (R396, R399 to R401). -/
def execTagGrant (r : Rg) (s : State) : Res :=
  match s.nextPromotion r with
  | some i => .next (s.promote i)
  | none =>
    match s.nextGrant r with
    | none => .next s
    | some i =>
      match s.reqs[i]? with
      | none => .next s
      | some q =>
        let s := s.onRg r (·.served q.turn)
        match s.bankOf q with
        | none => .next (s.serveWindow i q)
        | some b =>
          let park := s.grantOf q = some true
          let s := if park then s.onPart b.1 Part.park else s
          let n := (s.rg r).granted
          .next ((s.onReq i fun q => { q with state := .net, parked := park, order := n }).onRg r fun x => { x with granted := n + 1 })

/-! ### Sorters (R397, R398, R400) -/

def State.partTicks (s : State) (p : Pt) : Nat := s.pwr.islands[partIsland p].ticks.toNat

/-- A partition serves requests: its fill has ended and its memory is awake (R418, R421). -/
def Part.awake (p : Part) : Bool := !p.selfRefresh && !p.initBusy

/-- Whether a sector is uncorrectable. -/
def State.ueAt (s : State) (line : Nat) (k : Fin 8) : Bool := s.mem.ue.contains (line / 32 + k.val)

/-- A write of a sector with the bytes of a later one, which win (R398). -/
def SecWrite.merge (a b : SecWrite) : SecWrite :=
  { a with
    mask := a.mask ||| b.mask
    old := (List.range 32).foldl (fun x i => if a.mask.getLsbD i then setBits x (8 * i) 8 (fld a.old (8 * i) 8) else x) b.old
    data := (List.range 32).foldl (fun x i => if b.mask.getLsbD i then setBits x (8 * i) 8 (fld b.data (8 * i) 8) else x) a.data }

/-- Index of the pending write that an accepted write to a sector merges with: no read of the sector was accepted between them
(R398). Parked requests stay apart (log entry 149). -/
def State.mergesWith (s : State) (q : MReq) (k : Fin 8) : Option Nat :=
  if q.parked then none
  else s.reqs.findIdx? fun x => decide (x.state = .sorted) && !x.parked && x.line == q.line && x.writes.any fun w => w.sector == k && !w.closed

/-- The open write of a sector. -/
def MReq.openAt (q : MReq) (k : Fin 8) : Option SecWrite := q.writes.find? fun w => w.sector == k && !w.closed

/-- An accepted write of one sector: merged with a pending one or kept in its own request; visible at once, but for an
uncorrectable sector that it leaves covered in part (R397, R398, R414). What it keeps, and whether it is dropped. -/
def State.acceptSector (s : State) (q : MReq) (w : SecWrite) : State × List SecWrite × List (Fin 8) :=
  let n := q.line / 32 + w.sector.val
  let w := { w with old := BitVec.ofNat 256 (leBytes s.mem.get (32 * n) 32) }
  let j := s.mergesWith q w.sector
  let all := ((j.bind fun j => s.reqs[j]?).bind fun x => x.openAt w.sector).map (·.merge w) |>.getD w
  let whole := all.mask == BitVec.allOnes 32
  let drop := s.ueAt q.line w.sector && !whole
  let bytes := if s.ueAt q.line w.sector then all.bytes q.line else w.bytes q.line
  let mem := if drop then s.mem
    else { s.mem.write bytes with ue := if whole then s.mem.ue.filter (· != n) else s.mem.ue }
  let s := if whole then { s with reqs := s.reqs.map fun (x : MReq) => x.rewrite [n] } else s
  match j with
  | some j =>
    ({ s with mem := mem }.onReq j fun x =>
      { x with
        writes := x.writes.map fun (y : SecWrite) => if y.sector == w.sector && !y.closed then all else y
        also := x.also ++ [q.cls], drops := if whole then x.drops.filter (· != w.sector) else x.drops }, [], [])
  | none => ({ s with mem := mem }, [w], if drop then [w.sector] else [])

/-- A write is accepted, sector by sector: the state, and what stays in its own request. -/
def State.acceptWrites (s : State) (q : MReq) : State × List SecWrite × List (Fin 8) :=
  q.writes.foldl (fun (a : State × List SecWrite × List (Fin 8)) w =>
    let (t, ws, ds) := a.1.acceptSector q w
    (t, a.2.1 ++ ws, a.2.2 ++ ds)) (s, [], [])

/-- A read of some sectors of a line closes the pending writes to them (R398). -/
def MReq.close (x : MReq) (q : MReq) : MReq :=
  if x.line = q.line then { x with writes := x.writes.map fun w => { w with closed := w.closed || q.sectors.getLsbD w.sector.val } } else x

/-- A sorter accepts a request: a read is fixed, a write becomes visible (R397). A parked write of a DMA firing completes only
when it is promoted (R401). -/
def State.accept (s : State) (p : Pt) (i : Nat) : State :=
  match s.reqs[i]? with
  | none => s
  | some q =>
    let rest := s.reqs.eraseIdx i
    let q := { q with state := .sorted, since := s.partTicks p }
    if q.isRead then
      let marks := (List.finRange 8).foldl (fun m k => if s.ueAt q.line k then m + 2 ^ k.val else m) 0
      { s with reqs := rest.map (·.close q) ++ [{ q with data := s.lineFor q, marks := BitVec.ofNat 8 marks }] }
    else
      let (t, ws, drops) := { s with reqs := rest }.acceptWrites q
      let t := if ws.isEmpty then t else { t with reqs := t.reqs ++ [{ q with writes := ws, drops := drops }] }
      if q.parked && q.turn.isSome then t else t.written q

/-- Index of the request of a region that is first on its way to a sorter. -/
def State.onTheWay (s : State) (p : Pt) (r : Rg) : Option Nat :=
  firstGranted (s.reqs.zipIdx.filter fun (q, _) => q.rg == r && decide (q.state = .net) && (s.partAt q.line).any fun x => x.1 == p)

/-- SORTER_ACCEPT: one request of each region, in port order, while the sorter has free entries. -/
def execSorterAccept (p : Pt) (s : State) : Res :=
  if !(s.part p).awake then .next s
  else
    .next ((List.finRange 24).foldl (fun s r =>
      if 1024 ≤ (s.inSorter p).length then s
      else match s.onTheWay p r with
        | some i => s.accept p i
        | none => s) s)

/-! ### Bank schedulers and regulators (R402 to R406) -/

/-- Credits of a request: 128 for each sector (R405). -/
def MReq.charge (q : MReq) : Int :=
  128 * ((if q.isRead then (List.range 8).countP q.sectors.getLsbD else q.writes.length : Nat) : Int)

def State.credits (s : State) (p : Pt) (c : Nat) : Int := (s.classAt p c).credits.toInt

/-- Whether a request in the sorter may go under R405: it holds a tag, or needs none any more, and has credits. -/
def State.credited (s : State) (p : Pt) (q : MReq) : Bool :=
  decide (q.state = .sorted) && !q.parked && (q.promoted || decide (q.charge ≤ s.credits p q.cls))

/-- The pseudo-channel or channel of a request in its partition. -/
def State.laneOf (s : State) (q : MReq) : Nat :=
  match s.partAt q.line with
  | some (p, o) => (placeOf p.val o).lane
  | none => 0

/-- Whether a request may go: also without credits, while its lane has no other request that may (R406). -/
def State.eligible (s : State) (p : Pt) (q : MReq) : Bool :=
  s.credited p q
  || (decide (q.state = .sorted) && !q.parked && (s.part p).wc
      && !(s.inSorter p).any fun x => s.laneOf x == s.laneOf q && s.credited p x)

def State.rowOf (s : State) (q : MReq) : Nat :=
  match s.partAt q.line with
  | some (p, o) => (placeOf p.val o).row
  | none => 0

/-- The bank that the next scrub read goes to. -/
def State.scrubBank (s : State) (p : Pt) : Nat := (placeOf p.val ((s.part p).scrubPos.toNat * 256)).bankNo p.val

/-- Whether a request comes before a scrub read that the watchdog has promoted: promoted itself, and no younger (R402). -/
def State.beforeScrub (s : State) (p : Pt) (q : MReq) : Bool :=
  s.bankOf q == some (p, s.scrubBank p) && s.eligible p q && q.promoted
  && (s.part p).scrubSince.all fun n => decide (q.since ≤ n)

/-- Whether the bank serves its promoted scrub read before any request. -/
def State.scrubFirst (s : State) (p : Pt) (bank : Nat) : Bool :=
  decide (p.val < 12) && (s.part p).scrubPromoted && s.scrubBank p == bank && !s.reqs.any (s.beforeScrub p)

/-- Index of the request that a bank's scheduler chooses (R402). -/
def State.bankChoice (s : State) (p : Pt) (bank : Nat) : Option Nat :=
  let cand := s.reqs.zipIdx.filter fun (q, _) => s.bankOf q == some (p, bank) && s.eligible p q
  let row := smFind (s.part p).openRow bank
  if s.scrubFirst p bank then none
  else match cand.find? (·.1.promoted) with
  | some x => some x.2
  | none =>
    match cand.find? fun x => some (s.rowOf x.1) == row with
    | some x => some x.2
    | none => cand.head?.map (·.2)

/-- WATCHDOG_PROMOTION: the oldest tagged request that has waited longer than 6,400 ticks is promoted; without one, a scrub read
that has (R402, R403). -/
def execWatchdogPromotion (p : Pt) (s : State) : Res :=
  let old (q : MReq) : Bool :=
    decide (q.state = .sorted) && !q.parked && !q.promoted && ((s.partAt q.line).any fun x => x.1 == p)
    && decide (6400 < s.partTicks p - q.since)
  match s.reqs.findIdx? old with
  | some i =>
    .next ((s.onReq i fun q => { q with promoted := true }).onPart p fun x =>
      { x with wdogCnt := x.wdogCnt + 1, ecc := x.ecc ||| 16 })
  | none =>
    if !(s.part p).scrubPromoted && (s.part p).scrubSince.any fun n => decide (6400 < s.partTicks p - n) then
      .next (s.onPart p fun x => { x with scrubPromoted := true, wdogCnt := x.wdogCnt + 1, ecc := x.ecc ||| 16 })
    else .next s

/-- The credits of a class after a tick of refill (R405). -/
def RegClass.refill (c : RegClass) (lpt : Nat) : BitVec 32 :=
  BitVec.ofInt 32 (min (c.credits.toInt + c.rate.toNat * lpt) (c.burst.toNat * 1024))

/-- Whether a class has a request held in the sorter for lack of credits (R405, R406). -/
def State.classHeld (s : State) (p : Pt) (c : Nat) : Bool :=
  (s.inSorter p).any fun q => q.cls == c && decide (q.state = .sorted) && !q.parked && !s.eligible p q

/-- REGULATOR_REFILL, a tick of the partition's island: every class of the partition; REG_STALL counts the tick for a class
that holds a request (R423). -/
def execRegulatorRefill (p : Pt) (s : State) : Res :=
  let lpt := if p.val < 12 then 64 else 24
  .next (s.onPart p fun x =>
    { x with classes := Vector.ofFn fun i =>
        { x.classes[i] with
          credits := (s.classAt p i.val).refill lpt
          stall := if s.classHeld p i.val then x.classes[i].stall + 1 else x.classes[i].stall } })

/-! ### The outer code (R409 to R415) -/

/-- A product in GF(2⁸) over x⁸ + x⁴ + x³ + x² + 1 (R409). -/
def gfMul (a b : Byte) : Byte :=
  ((List.range 8).foldl (fun (x : Byte × Byte) i =>
    (if b.getLsbD i then x.1 ^^^ x.2 else x.1, (x.2 <<< 1) ^^^ (if x.2.getLsbD 7 then 0x1D else 0))) (0, a)).1

/-- A polynomial by its coefficients, the highest first, times x plus a constant. -/
def gfTimes (f : List Byte) (c : Byte) : List Byte :=
  List.zipWith (· ^^^ ·) (f ++ [0]) (0 :: f.map (gfMul c))

/-- g(x) = (x + 1)(x + α)(x + α²)(x + α³) with α = x (R409). -/
def rsGen : List Byte := [1, 2, 4, 8].foldl gfTimes [1]

/-- The check symbols c0 to c3 of data symbols: the rest that g leaves of the data polynomial times x⁴ (R409). -/
def rsCheck (data : List Byte) : List Byte :=
  data.foldl (fun r d =>
    let q := d ^^^ r.headD 0
    List.zipWith (· ^^^ ·) (r.drop 1 ++ [0]) ((rsGen.drop 1).map (gfMul q))) [0, 0, 0, 0]

/-- The value of a polynomial at a point. -/
def gfEval (f : List Byte) (x : Byte) : Byte := f.foldl (fun a c => gfMul a x ^^^ c) 0

/-- The data symbols of a sector: bit b of symbol k is bit k mod 8 of byte 4b + k div 8 (R410). -/
def dataSymbols (data : BitVec 2048) (sector : Nat) : List Byte :=
  (List.range 32).map fun k => BitVec.ofNat 8 ((List.range 8).foldl (fun n b =>
    if data.getLsbD (256 * sector + 8 * (4 * b + k / 8) + k % 8) then n + 2 ^ b else n) 0)

/-- The codeword of a sector as memory holds it: 32 data symbols and 4 check symbols. -/
def codeword (data : BitVec 2048) (sector : Nat) : List Byte := dataSymbols data sector ++ rsCheck (dataSymbols data sector)

/-- The symbols in which what memory returned is not the codeword of the data. -/
def wrongSymbols (word read : List Byte) : List Nat := ((word.zip read).zipIdx.filter fun x => x.1.1 != x.1.2).map (·.2)

/-- A codeword with the errors of its sector. -/
def withErrors (word : List Byte) (errs : List (Nat × Byte)) : List Byte :=
  errs.foldl (fun w x => w.modify x.1 (· ^^^ x.2)) word

/-- The bytes of a sector with an error in a symbol: bit b of symbol k is bit k mod 8 of byte 4b + k div 8 (R410). -/
def flipSymbol (data : BitVec 2048) (sector : Nat) (k : Nat) (x : Byte) : BitVec 2048 :=
  if 32 ≤ k then data
  else (List.range 8).foldl (fun d b =>
    if x.getLsbD b then d ^^^ (1#2048 <<< (256 * sector + 8 * (4 * b + k / 8) + k % 8)) else d) data

/-- What a sector's symbols say: corrected symbols outside the erasure list, or uncorrectable (R411). -/
inductive SecCheck where
  | fine
  | corrected (symbols : List Nat)
  | uncorrectable
  deriving DecidableEq, Repr

def Erased.symbols (e : Erased) : List Nat :=
  (if e.aValid then [e.symA.toNat] else []) ++ (if e.bValid then [e.symB.toNat] else [])

def checkSector (e : Erased) (errors : List Nat) : SecCheck :=
  let t := (errors.filter fun k => !e.symbols.contains k).eraseDups
  if 4 < 2 * t.length + e.symbols.length then .uncorrectable
  else if t.isEmpty then .fine else .corrected t

/-- A symbol is marked erased, where fewer than two are (R412). -/
def Erased.mark (e : Erased) (k : Nat) : Option Erased :=
  if e.symbols.contains k then none
  else if !e.aValid then some { e with symA := BitVec.ofNat 6 k, aValid := true }
  else if !e.bValid then some { e with symB := BitVec.ofNat 6 k, bValid := true }
  else none

/-- A corrected symbol of a sector counts; in the sixteenth distinct sector of a pass the symbol is erased (R412). -/
def State.countSymbol (s : State) (p : Pt) (o sector k : Nat) : State :=
  let x := s.part p
  let lane := (placeOf p.val o).lane
  let key := 64 * k + lane
  let seen := (smFind x.corrected key).getD []
  let now := if seen.contains sector then seen else seen ++ [sector]
  let s := s.onPart p fun x => { x with corrected := smSet x.corrected key now }
  if now.length < 16 ∨ seen.contains sector then s
  else if h : lane < 64 then
    match x.erased[lane].mark k with
    | some e =>
      { s.onPart p fun x => { x with erased := x.erased.set lane e, ecc := x.ecc ||| 8 } with erasures := s.erasures + 1 }.event
        (fromPart p) 0x10 [memDetail 3 p o k, BitVec.ofNat 64 (32 * sector)]
    | none => s
  else s

/-- A corrected sector (R411). -/
def State.correctSector (s : State) (p : Pt) (o sector : Nat) (ks : List Nat) : State :=
  let s := (s.onPart p fun x => { x with ceCnt := x.ceCnt + 1, ecc := x.ecc ||| 1 }).onHlt fun h =>
    { h with rise := { h.rise with ce := h.rise.ce + 1 } }
  ks.foldl (fun s k => s.countSymbol p o sector k) s

/-- One sector of a line as memory returns it: the state after its check, the data, whether it is marked. -/
def State.readSector (s : State) (p : Pt) (line o : Nat) (e : MemError) (marked fresh : Bool) (data : BitVec 2048) (k : Fin 8) :
    State × BitVec 2048 × Bool :=
  let sector := line / 32 + k.val
  let off := o + 32 * k.val
  if p.val < 12 then
    let errs := (e.symbols.filter fun x => x.1 == k && x.2.2 != 0).map fun x => (x.2.1.val, x.2.2)
    let lane := (placeOf p.val o).lane
    let er := if h : lane < 64 then (s.part p).erased[lane] else {}
    let word := codeword data k.val
    match (if marked then SecCheck.uncorrectable else checkSector er (wrongSymbols word (withErrors word errs))) with
    | .fine => (s, data, false)
    | .corrected ks => (s.correctSector p off sector ks, data, false)
    | .uncorrectable => (s.markSector p off sector fresh, errs.foldl (fun d x => flipSymbol d k.val x.1 x.2) data, true)
  else if 2 ≤ e.link then (s.markSector p off sector, data, true)
  else (s, data, false)

/-- The sectors of a mask, checked in order. -/
def State.readLine (s : State) (p : Pt) (line : Nat) (e : MemError) (sectors marks rewritten : BitVec 8) (data : BitVec 2048) :
    State × BitVec 2048 × List Nat :=
  match s.partAt line with
  | none => (s, data, [])
  | some (_, o) =>
    (List.finRange 8).foldl (fun (a : State × BitVec 2048 × List Nat) k =>
      if sectors.getLsbD k.val then
        let (t, d, bad) := a.1.readSector p line o e (marks.getLsbD k.val) (!rewritten.getLsbD k.val) a.2.1 k
        (t, d, if bad then a.2.2 ++ [line / 32 + k.val] else a.2.2)
      else a) (s, data, [])

/-- A partial HBM write reads its sector first: the read is checked, corrected and counted like another (R394). -/
def State.readForWrite (s : State) (p : Pt) (q : MReq) (e : MemError) (w : SecWrite) : State × Bool :=
  let n := q.line / 32 + w.sector.val
  let later := s.reqs.any fun x => x.line == q.line && x.writes.any fun y => y.sector == w.sector && y.mask == BitVec.allOnes 32
  match s.partAt q.line with
  | some (_, o) =>
    let (t, _, bad) := s.readSector p q.line o e (q.drops.contains w.sector || s.mem.ue.contains n) (!later) 0 w.sector
    (t, bad)
  | none => (s, false)

/-- A sector gets back what a dropped write had put there, under the pending writes to it. -/
def State.giveBack (s : State) (q : MReq) (w : SecWrite) : State :=
  let rest := (s.reqs.filter fun x => x.line == q.line).flatMap fun x => x.writes.filter fun y => y.sector == w.sector
  { s with mem := s.mem.write (({ w with data := w.old } : SecWrite).bytes q.line ++ rest.flatMap (·.bytes q.line)) }

/-- A pending write goes to memory: a partial one whose sector proves uncorrectable is dropped (R394, R414). -/
def State.settleWrite (s : State) (p : Pt) (q : MReq) (e : MemError) (w : SecWrite) : State :=
  if 12 ≤ p.val ∨ w.mask = BitVec.allOnes 32 then s
  else
    let (t, bad) := s.readForWrite p q e w
    if bad then (if q.drops.contains w.sector then t else t.giveBack q w).dropWrite (q.line / 32 + w.sector.val) else t

/-- All sectors of a pending write. -/
def State.settleWrites (s : State) (p : Pt) (q : MReq) (e : MemError) : State := q.writes.foldl (fun s w => s.settleWrite p q e w) s

/-- A scheduled request is charged to its class (R405). -/
def State.pay (s : State) (p : Pt) (q : MReq) : State := s.onPart p (·.charge q.cls q.charge)

/-- BANK_SCHEDULE: the chosen request goes to memory, charged unless it goes under R406; pending reads of its line go with it, and
the writes merged into it, each charged for its own sectors (R398, R405). -/
def execBankSchedule (p : Pt) (bank : BankTurn) (s : State) : Res :=
  let b := bank.bank.toNat
  if !(s.part p).awake then .next s
  else match s.bankChoice p b with
    | none => .next s
    | some i =>
      match s.reqs[i]? with
      | none => .next s
      | some q =>
        let row := s.rowOf q
        let s := s.onPart p fun x => { x with openRow := smSet x.openRow b row }
        let t := if s.credited p q then s.pay p q else s
        let rest := s.reqs.eraseIdx i
        if q.isRead then
          let goes (x : MReq) : Bool := x.isRead && x.line == q.line && decide (x.state = .sorted) && !x.parked
          let t := (rest.filter goes).foldl (fun t x => t.pay p x) t
          .next { t with reqs := t.reqs.map fun x => if goes x then { x with state := .issued } else x }
        else
          let t := q.also.foldl (fun t c => t.onPart p (·.charge c 128)) t
          .next ({ t with reqs := rest }.settleWrites p q bank.found)

/-- MEMORY_READ_RETURN: the oldest issued line of the partition is checked and given to each of its readers (R397,
R398). -/
def execMemoryReadReturn (p : Pt) (e : MemError) (s : State) : Res :=
  match s.reqs.find? fun q => decide (q.state = .issued) && (s.partAt q.line).any fun x => x.1 == p with
    | none => .next s
    | some q =>
      let mine (x : MReq) : Bool := decide (x.state = .issued) && x.line == q.line
      let readers := s.reqs.filter mine
      let sectors := readers.foldl (fun m x => m ||| x.sectors) 0
      let marks := readers.foldl (fun m x => m ||| x.marks) 0
      let rewritten := readers.foldl (fun m x => m ||| x.rewritten) 0
      let (t, d, bad) := s.readLine p q.line e sectors marks rewritten q.data
      let t := { t with reqs := t.reqs.filter fun x => !mine x }
      .next (readers.foldl (fun t x =>
        match x.who with
        | .dma c i _ =>
          let data := x.data ^^^ (d ^^^ q.data)
          t.dmaRead c i x.line data (bad.filter fun n => x.sectors.getLsbD (n - x.line / 32))
        | .commit _ _ => t) t)

/-- Lines of an HBM partition. -/
def hbmLines : Nat := 201326592

/-- SCRUB_READ: the next line of an HBM partition is read, checked and counted; it waits while its bank has an eligible request, or,
once the watchdog has promoted it, one that was promoted too and is no younger (R402, R416). -/
def execScrubRead (p : Pt) (e : MemError) (s : State) : Res :=
  let x := s.part p
  let o := x.scrubPos.toNat * 256
  let line := addressOf s.glob p.val o
  let bank := s.scrubBank p
  let barred (q : MReq) : Bool :=
    if x.scrubPromoted then s.beforeScrub p q else s.bankOf q == some (p, bank) && s.eligible p q
  if 12 ≤ p.val ∨ x.scrubEn = false ∨ x.awake = false then .next s
  else if s.reqs.any barred then
    .next (s.onPart p fun x => { x with scrubSince := some (x.scrubSince.getD (s.partTicks p)) })
  else
    let marks := (List.finRange 8).foldl (fun m k => if s.ueAt line k then m + 2 ^ k.val else m) 0
    let (t, _, _) := s.readLine p line e 0xFF (BitVec.ofNat 8 marks) 0 0
    .next (t.onPart p fun x =>
      let x := { x with scrubSince := none, scrubPromoted := false }
      if x.scrubPos.toNat + 1 = hbmLines then { x with scrubPos := 0, passCnt := x.passCnt + 1, corrected := [] }
      else { x with scrubPos := x.scrubPos + 1 })

end Sys2Proof.Machine
end

