-- ==== Sys2Proof/Machine/Counters.lean ====
section
/-! DEFINITION. Counter registers (17 R607 to R612): which they are, their boundary copy, CNT_READ, CNT_CLEAR and
PHASE_NOTICE. -/
namespace Sys2Proof.Machine

/-- A counter register (R610): every STL_, PHT_ and REG_STALL_ register and every _CNT but RST_COMPUTE_CNT. -/
def RegAt.isCounter : RegAt → Bool
  | .cluster _ off => (slotOf off 0x800 128).isSome
  | .region _ off => (slotOf off 0x800 48).isSome || [0x420, 0x428, 0x430, 0x438, 0x510, 0x518, 0x520, 0x528].contains off
  | .partition _ off => (slotOf off 0x100 5).isSome || (slotOf off 0xA00 16).isSome
  | .fabric off => (slotOf off 0x100 4).isSome
  | .link _ off => (slotOf off 0x100 6).isSome
  | .health off => (slotOf off 0x100 4).isSome
  | .power off => (slotOf off 0x100 2).isSome
  | .phase off => (slotOf off 0 4).isSome || (slotOf off 0x100 28).isSome
  | .service off => (slotOf off 0 256).isSome || (slotOf off 0x1000 32).isSome
  | _ => false

/-- n words from an offset on. -/
def wordsFrom (a n : Nat) : List Nat := (List.range n).map fun i => a + 8 * i

/-- The offsets of counters within each kind of block. -/
def regionCounters : List Nat := [0x420, 0x428, 0x430, 0x438, 0x510, 0x518, 0x520, 0x528] ++ wordsFrom 0x800 48
def partCounters : List Nat := wordsFrom 0x100 5 ++ wordsFrom 0xA00 16

/-- Every counter register's address, ascending. -/
def counterAddrs : List Nat :=
  ((List.range 24).flatMap (fun r => regionCounters.map fun o => 0x800000 + 0x1000 * r + o)
  ++ (List.range 384).flatMap (fun c => (wordsFrom 0x800 128).map fun o => 0x1000000 + 0x10000 * c + o)
  ++ (List.range 16).flatMap (fun p => partCounters.map fun o => 0x3000000 + 0x10000 * p + o)
  ++ wordsFrom 0x4000100 4
  ++ (List.range 8).flatMap (fun p => wordsFrom (0x4100100 + 0x1000 * p) 6)
  ++ wordsFrom 0x5000100 4 ++ wordsFrom 0x7000100 2
  ++ wordsFrom 0x8000000 4 ++ wordsFrom 0x8000100 28
  ++ wordsFrom 0x8100000 256 ++ wordsFrom 0x8101000 32).map (regsBase + ·)

/-- The boundary copy: every counter that is not 0 (R610). -/
def State.counterCopy (s : State) : SMap Word :=
  counterAddrs.filterMap fun a => match s.readReg a with
    | some w => if w = 0 then none else some (a, w)
    | none => none

/-- CNT_READ (R611). -/
def State.cntRead (s : State) (port : HPort) (tag : BitVec 16) (w : Word) : State :=
  let a := fld w 0 48
  let n := fld w 48 8
  let addrs := wordsFrom a n
  if a % 8 ≠ 0 ∨ n = 0 ∨ 32 < n ∨ addrs.any (fun x => !(regAt x).isCounter) then s.finish port tag (rejected 1)
  else if w.getLsbD 56 then
    match s.run.stepped, s.perf.copy with
    | false, _ => s.finish port tag (rejected 2)
    | _, none => s.finish port tag (rejected 2)
    | true, some (step, m) => s.finish port tag { words := BitVec.ofNat 64 step :: addrs.map fun x => smGet 0 m x }
  else s.finish port tag { words := BitVec.ofNat 64 (2 ^ 48 - 1) :: addrs.map fun x => (s.readReg x).getD 0 }

/-! ### Clearing (R612) -/

def Nyala.clearCounts (n : Nyala) : Nyala := { n with warmDiscard := 0, fallback := 0, deadline := 0, calls := 0 }
def Medlar.clearCounts (m : Medlar) : Medlar := { m with rootCnt := 0, jacobiCnt := 0, failCnt := 0, overrunCnt := 0 }
def Part.clearCounts (p : Part) : Part :=
  { p with ceCnt := 0, ueCnt := 0, wdogCnt := 0, parkCnt := 0, passCnt := 0, classes := p.classes.map fun c => { c with stall := 0 } }
def Port.clearCounts (p : Port) : Port := { p with retry := 0, fecCorr := 0, fecUncorr := 0, tx := 0, rx := 0, down := 0 }
def Phase.clearCounts (p : Phase) : Phase := { p with last := 0, total := 0, start := BitVec.allOnes 48, stop := BitVec.allOnes 48 }
def Perf.clearPhases (x : Perf) : Perf :=
  { x with stepLast := 0, stepNum := 0, stepTotal := 0, stepCnt := 0, phases := x.phases.map Phase.clearCounts }

/-- One set of R612. -/
def State.clearSet (s : State) (k : Nat) : State :=
  match k with
  | 0 => { s with cls := s.cls.map fun c => { c with stl := Vector.replicate 128 0 } }
  | 1 =>
    { s with
      rgs := s.rgs.map fun r => { r with stl := Vector.replicate 48 0 }
      perf := { s.perf with sv := Vector.replicate 256 0 }
      fab := { s.fab with ports := s.fab.ports.map fun p => { p with stl := Vector.replicate 4 0 } } }
  | 2 => { s with perf := s.perf.clearPhases }
  | 3 => { s with rgs := s.rgs.map fun r => { r with nyala := r.nyala.clearCounts, medlar := r.medlar.clearCounts } }
  | 4 => { s with parts := s.parts.map Part.clearCounts }
  | 5 => s.onFab fun f => { f with noroute := 0, fencedDrop := 0, cutCnt := 0, resendCnt := 0, ports := f.ports.map Port.clearCounts }
  | 6 =>
    (s.onHlt fun h => { h with snapCnt := 0, mirrorCnt := 0, t3Cnt := 0, fillAbortCnt := 0 }).onPwr fun p => { p with thrCnt := 0, droopCnt := 0 }
  | _ => s

/-- Every set (the volatile class of R612). -/
def State.clearSets (s : State) (ks : List Nat) : State := ks.foldl State.clearSet s

/-- CNT_CLEAR: the completion names the step that runs or the next one. -/
def State.cntClear (s : State) (port : HPort) (tag : BitVec 16) (w : Word) : State :=
  if w.getLsbD 7 then s.finish port tag (rejected 3)
  else (s.clearSets ((List.range 7).filter fun k => w.getLsbD k)).finish port tag { words := [s.run.crvStep.zeroExtend 64] }

/-- PHASE_NOTICE: one source's active work in a phase has changed between zero and more (R608). -/
def execPhaseNotice (ph : Fin 7) (active : Bool) (s : State) : Res :=
  .next { s with perf := { s.perf with phases := s.perf.phases.set ph (
    let p := s.perf.phases[ph]
    { p with sources := if active then p.sources + 1 else p.sources - 1 }) } }

end Sys2Proof.Machine
end

