-- ==== Sys2Proof/Machine/Mailbox.lean ====
section
/-! DEFINITION. The mailbox (14 R505 to R515; 15 R553; 16 R584): framing of inbound words, the checks of a command, and how
a command starts. -/
namespace Sys2Proof.Machine

/-! ### What a command may be (R513 to R515) -/

/-- LENGTH of the commands whose LENGTH is fixed, by 256 × class + opcode. -/
def fixedLengths : List (Nat × Nat) :=
  [(0x101, 0), (0x103, 0), (0x104, 0), (0x105, 0), (0x110, 1), (0x111, 2), (0x201, 2), (0x202, 0), (0x203, 2), (0x210, 1),
   (0x211, 0), (0x212, 1), (0x301, 3), (0x402, 1), (0x403, 1), (0x501, 64), (0x502, 0), (0x503, 2), (0x510, 0), (0x511, 1)]
  ++ [(0x512, 2), (0x513, 0), (0x514, 1), (0x601, 2), (0x602, 4), (0x701, 1), (0x702, 1), (0x801, 2), (0x802, 0), (0xE01, 5),
   (0xE02, 0), (0xE03, 678), (0xE04, 0), (0xF01, 0), (0xF02, 0), (0xF10, 1), (0xF12, 1), (0xF13, 0), (0xF20, 3), (0xF30, 1)]

/-- Whether the payload has a LENGTH that the command allows; none for an unknown class or opcode. A CFG_SET whose count
is 0 or above 32 is judged by R522. -/
def lengthOk (key : Nat) (ws : List Word) : Option Bool :=
  let n := ws.length
  if key = 0x102 then
    let k := fld (ws.headD 0) 48 8
    some (decide (1 ≤ n) && (k == 0 || decide (32 < k) || n == k + 1))
  else if key = 0x401 then some (decide (1 ≤ n))
  else if key = 0xF11 then some (decide (2 ≤ n ∧ n ≤ 4097))
  else (fixedLengths.find? fun x => x.1 == key).map fun x => x.2 == n

/-- What each power state serves (R584). -/
def PState.serves (st : PState) (key : Nat) : Bool :=
  let cls := key / 256
  [1, 6, 7, 8, 0xE, 0xF].contains cls || match st with
    | .a0 => true
    | .a1 => [0x202, 0x203, 0x211, 0x212, 0x301, 0x501, 0x503].contains key
    | .a2 => [0x203, 0x211, 0x212, 0x501, 0x503].contains key
    | .a3 => [0x211, 0x503].contains key

/-- The state that commands are judged against: the target of a transition (R584). -/
def Power.judged (p : Power) : PState := match p.transition with
  | some t => t.target
  | none => p.state

/-- A QUIESCE with IMMEDIATE = 1 is served while a transition waits for the boundary (R587). -/
def Power.servesQuiesce (p : Power) (key : Nat) (ws : List Word) : Bool :=
  key == 0x212 && (ws.headD 0).getLsbD 0 && p.transition.any fun t => !t.entered && !t.immediate

/-- Why a command is refused before it is looked at, in this order: boot state, class and opcode, power state, LENGTH
(R513, R514; log entry 34). -/
def State.refusal (s : State) (key : Nat) (ws : List Word) : Option Reply :=
  if s.sec.boot ≠ .ready ∧ key / 256 ≠ 0xF then some (rejected 0xF0)
  else match lengthOk key ws with
    | none => some (rejected 0xF2)
    | some ok =>
      if !s.pwr.judged.serves key && !s.pwr.servesQuiesce key ws then some (rejected 0xF1)
      else if !ok then some (rejected 0xF3)
      else none

/-! ### Headers (R507, R508) -/

def headCls (w : Word) : Byte := w.extractLsb' 56 8
def headOp (w : Word) : Byte := w.extractLsb' 48 8
def headLen (w : Word) : Nat := fld w 32 16
def headTag (w : Word) : BitVec 16 := w.extractLsb' 16 16
def headKey (w : Word) : Nat := fld w 48 16

/-- A number that no command of the port has: its tag, where that is free (log entry 33). -/
def HostPort.freeId (q : HostPort) (tag : BitVec 16) : BitVec 16 :=
  let used := (q.outstanding ++ q.orphans).map (·.id)
  if used.contains tag then (((List.range (used.length + 1)).map (BitVec.ofNat 16)).find? fun i => !used.contains i).getD tag
  else tag

/-- A command that is not carried out gets its final completion at once. -/
def State.refuse (s : State) (p : HPort) (w : Word) (flags : Nat) : State :=
  let ws := completion (headCls w) (headOp w) (headTag w) flags rejectedBusy
  (s.onPort p (·.post none ws)).notify p (w.getLsbD 0) ws

/-- A header arrives: its command is outstanding from now on under the number answered, unless its tag or the limit of 256
refuses it (R508). -/
def State.header (s : State) (p : HPort) (w : Word) : State × Option (BitVec 16) :=
  let q := s.port p
  if q.outstanding.any (·.tag == headTag w) then ((s.refuse p w 4).mbxStat p 1, none)
  else if 256 ≤ q.outstanding.length then (s.refuse p w 0, none)
  else
    let id := q.freeId (headTag w)
    let o : OutCmd := { id := id, tag := headTag w, cls := headCls w, op := headOp w, notify := w.getLsbD 0 }
    (s.onPort p fun q => { q with outstanding := q.outstanding ++ [o] }, some id)

/-- All LENGTH words are there: the command waits to be started, or is refused. -/
def State.received (s : State) (p : HPort) (id : BitVec 16) (w : Word) (ws : List Word) : State :=
  match s.refusal (headKey w) ws with
  | some r => s.finish p id r
  | none =>
    let a : Arrived := { id := id, cls := headCls w, op := headOp w, tag := headTag w, flags := w.truncate 16, words := ws }
    s.onPort p fun q => { q with ready := q.ready ++ [a] }

/-! ### Framing (R505, R506) -/

/-- The words of a command so far: it waits for more of them, or is there as a whole. -/
def State.gather (s : State) (p : HPort) (w : Word) (id : Option (BitVec 16)) (got : List Word) : State :=
  if got.length < headLen w then s.onPort p fun q => { q with frame := .words w id got }
  else
    let t := s.onPort p fun q => { q with frame := .header }
    match id with
    | some i => t.received p i w got
    | none => t

/-- One word leaves the FIFO. -/
def State.frameWord (s : State) (p : HPort) (w : Word) : State :=
  match (s.port p).frame with
  | .header => let (t, id) := s.header p w; t.gather p w id []
  | .words h id got => s.gather p h id (got ++ [w])
  | .dropping => s

/-- Every word in the FIFO is framed. -/
def State.frameAll (s : State) (p : HPort) : State :=
  (s.port p).fifo.foldl (fun s w => s.frameWord p w) (s.onPort p fun q => { q with fifo := [] })

/-- The command being received is cut short (R506). -/
def State.cutShort (s : State) (p : HPort) : State :=
  match (s.port p).frame with
  | .words _ (some id) _ => s.finish p id rejectedBusy 2
  | _ => s

/-- Words of the inbound FIFO (R499). -/
def fifoWords : Nat := 8192

/-- A word arrives at MBX_IN: without credit it is dropped, and so is every word until RESYNC (R506). -/
def State.wordIn (s : State) (p : HPort) (w : Word) : State :=
  let q := s.port p
  if q.frame = .dropping then s
  else if fifoWords ≤ q.fifo.length then
    (((s.frameAll p).cutShort p).onPort p fun q => { q with frame := .dropping }).mbxStat p 0
  else s.onPort p fun q => { q with fifo := q.fifo ++ [w] }

/-- A host can reach a port: the module has power, is not held in reset, and the port's link is not held down (R622,
R626). -/
def State.portUp (s : State) (p : HPort) : Bool := !s.pwr.off && !s.sec.extHeld && !(s.port p).perst

/-- MBX_IN_WRITE: a word arrives; with `take` the words of the FIFO are framed now. -/
def execMbxInWrite (port : HPort) (word : Word) (take : Bool) (s : State) : Res :=
  if !s.portUp port then .next s
  else let t := s.wordIn port word
    .next (if take then t.frameAll port else t)

/-- MBX_OUT_READ: the next outbound word, 0 when there is none; completions held back follow as room appears (R499, R509). -/
def execMbxOutRead (port : HPort) (s : State) : Res :=
  if !s.portUp port then .next s
  else .next (s.onPort port fun q =>
    let w := q.out.headD 0
    let q := { q with out := q.out.tail, reply := { data := bytesOf 8 w.toNat } }
    (q.release q.held).poll)

/-- Inbound framing starts anew: a command in the middle is cut short (R506; log entry 35). -/
def State.resync (s : State) (p : HPort) : State :=
  ((s.frameAll p).cutShort p).onPort p fun q => { q with frame := .header }

/-- RESYNC. -/
def execResync (port : HPort) (s : State) : Res := .next (if s.portUp port then s.resync port else s)

/-! ### How a host command starts (R510, R511) -/

/-- A command starts: its state checks hold now, its effect happens, and a command that goes on gets its interim completion
(log entry 32). -/
def State.startCmd (s : State) (p : HPort) (id : BitVec 16) (key : Nat) (ws : List Word)
    (body : State → HPort → BitVec 16 → List Word → State) : State :=
  match s.refusal key ws with
  | some r => s.finish p id r
  | none => (body s p id ws).interim p id

/-- The header word of a host's command. -/
def cmdHeader (key : Nat) (c : HostCmd) : Word :=
  packBits [(key, 48), (c.words.length, 32), (c.tag.toNat, 16), (c.flags.toNat, 0)]

/-- Whether a command that waits is the one a row names. -/
def Arrived.names (a : Arrived) (key : Nat) (c : HostCmd) : Bool :=
  a.cls.toNat * 256 + a.op.toNat == key && a.tag == c.tag && a.flags == c.flags && a.words == c.words

/-- A row of the command set runs: the oldest command that waits at the port is started when it is the one named;
otherwise the command arrives as a whole, and starts unless others wait before it (R511; log entry 36). -/
def State.hostRow (s : State) (key : Nat) (c : HostCmd) (body : State → HPort → BitVec 16 → List Word → State) : State :=
  let p := c.port
  if !s.portUp p then s
  else match (s.port p).ready with
    | a :: rest =>
      if a.names key c then (s.onPort p fun q => { q with ready := rest }).startCmd p a.id key a.words body
      else
        match s.header p (cmdHeader key c) with
        | (t, some id) => t.received p id (cmdHeader key c) c.words
        | (t, none) => t
    | [] =>
      match s.header p (cmdHeader key c) with
      | (t, some id) => t.startCmd p id key c.words body
      | (t, none) => t

/-- The meaning of a command row. The command ends with the 65,535th word after its header, as far as LENGTH counts (R507). -/
def hostCmd (key : Nat) (c : HostCmd) (body : State → HPort → BitVec 16 → List Word → State) (s : State) : Res :=
  .next (s.hostRow key { c with words := c.words.take 65535 } body)

end Sys2Proof.Machine
end

