-- ==== Sys2Proof/Machine/Dynamics.lean ====
section
/-! DEFINITION. The quantities that 09 R296, R298, R299, R311 to R314 and R328 to R330 name, over exact numbers: poses, Jacobians,
inverse and forward dynamics, mass matrix, constraint rows, projected Gauss-Seidel, integrator steps, LDLᵀ, and derivatives. How far the
fixed-point work of an engine departs from them is free (SolverOps, log entry 15); poses, wrenches and rows stand in world coordinates. -/
namespace Sys2Proof.Machine

/-! ### Numbers with a derivative along a seed (R328): fixed point with `fp` fraction bits, beyond every code and significand -/

structure Dual where
  v : Int
  d : Int := 0
  deriving DecidableEq, Repr

/-- An exact value as such a number, and back. -/
def dualOfEx (x : Ex) : Dual := { v := fx x }
def fxEx (v : Int) : Ex := unitsOf v (-fp)
def Dual.ex (x : Dual) : Ex := fxEx x.v

def Dual.zero : Dual := { v := 0 }
def Dual.int (k : Int) : Dual := { v := k * 2 ^ 400 }
def Dual.neg (x : Dual) : Dual := { v := -x.v, d := -x.d }
def Dual.add (x y : Dual) : Dual := { v := x.v + y.v, d := x.d + y.d }
def Dual.sub (x y : Dual) : Dual := x.add y.neg
def Dual.mul (x y : Dual) : Dual := { v := fmul x.v y.v, d := fmul x.d y.v + fmul x.v y.d }
def Dual.div (x y : Dual) : Dual :=
  let z := fdivf x.v y.v
  { v := z, d := fdivf (x.d - fmul z y.d) y.v }
def Dual.scale (k : Ex) (x : Dual) : Dual := { v := fmul (fx k) x.v, d := fmul (fx k) x.d }
def Dual.sqrt (x : Dual) : Dual :=
  let r : Int := isqrt (x.v * 2 ^ 400).toNat
  { v := r, d := fdivf x.d (2 * r) }
def Dual.sum (xs : List Dual) : Dual := xs.foldl Dual.add Dual.zero
def Dual.dot (xs ys : List Dual) : Dual := Dual.sum ((xs.zip ys).map fun x => x.1.mul x.2)

/-- The value without its derivative. -/
def Dual.held (x : Dual) : Dual := { v := x.v }

/-- Σ of the alternating series of sine and cosine from its term t of order k, in fixed point. -/
def trigSum : Nat → Int → Int → Nat → Int → Int
  | 0, _, _, _, acc => acc
  | fuel + 1, z2, t, k, acc => trigSum fuel z2 (-((fmul t z2).fdiv ((k + 1) * (k + 2)))) (k + 2) (acc + t)

/-- An angle without whole turns. -/
def turnOff (v : Int) : Int := v - v.fdiv (2 * fxPi) * (2 * fxPi)

def fxSin (x : Int) : Int := let v := turnOff x; trigSum 100 (fmul v v) v 1 0
def fxCos (x : Int) : Int := let v := turnOff x; trigSum 100 (fmul v v) (2 ^ 400) 0 0

def Dual.sin (x : Dual) : Dual := { v := fxSin x.v, d := fmul (fxCos x.v) x.d }
def Dual.cos (x : Dual) : Dual := { v := fxCos x.v, d := -(fmul (fxSin x.v) x.d) }

def half : Ex := unitsOf 1 (-1)

/-! ### Vectors and quaternions -/

structure V3 where
  x : Dual := Dual.zero
  y : Dual := Dual.zero
  z : Dual := Dual.zero
  deriving DecidableEq, Repr

def V3.map (f : Dual → Dual) (a : V3) : V3 := { x := f a.x, y := f a.y, z := f a.z }
def V3.add (a b : V3) : V3 := { x := a.x.add b.x, y := a.y.add b.y, z := a.z.add b.z }
def V3.sub (a b : V3) : V3 := a.add (b.map Dual.neg)
def V3.mul (k : Dual) (a : V3) : V3 := a.map k.mul
def V3.dot (a b : V3) : Dual := ((a.x.mul b.x).add (a.y.mul b.y)).add (a.z.mul b.z)
def V3.cross (a b : V3) : V3 :=
  { x := (a.y.mul b.z).sub (a.z.mul b.y), y := (a.z.mul b.x).sub (a.x.mul b.z), z := (a.x.mul b.y).sub (a.y.mul b.x) }
def V3.sum (as : List V3) : V3 := as.foldl V3.add {}
def V3.list (a : V3) : List Dual := [a.x, a.y, a.z]
def V3.norm (a : V3) : Dual := (a.dot a).sqrt

/-- The vector that stands at place i of a list. -/
def v3At (xs : List Dual) (i : Nat) : V3 :=
  { x := xs.getD i Dual.zero, y := xs.getD (i + 1) Dual.zero, z := xs.getD (i + 2) Dual.zero }

structure Quat where
  w : Dual := Dual.int 1
  v : V3 := {}
  deriving DecidableEq, Repr

def Quat.mul (p q : Quat) : Quat :=
  { w := (p.w.mul q.w).sub (p.v.dot q.v), v := ((V3.mul p.w q.v).add (V3.mul q.w p.v)).add (p.v.cross q.v) }
def Quat.conj (q : Quat) : Quat := { q with v := q.v.map Dual.neg }
def Quat.turn (q : Quat) (a : V3) : V3 := ((q.mul { w := Dual.zero, v := a }).mul q.conj).v
def Quat.list (q : Quat) : List Dual := q.w :: q.v.list

/-- The quaternion at place i of a list: w, x, y, z (R296). -/
def quatAt (xs : List Dual) (i : Nat) : Quat := { w := xs.getD i (Dual.int 1), v := v3At xs (i + 1) }

/-- One renormalisation (R312). -/
def Quat.unit (q : Quat) : Quat :=
  let n := ((q.w.mul q.w).add (q.v.dot q.v)).sqrt
  { w := q.w.div n, v := q.v.map (·.div n) }

/-- exp(δ ÷ 2) (R296, R312). -/
def quatExp (a : V3) : Quat :=
  let n := a.norm
  if n.v = 0 then { v := a.map (Dual.scale half) }
  else
    let h := n.scale half
    { w := h.cos, v := V3.mul (h.sin.div n) a }

/-! ### The tree (R296 to R299) -/

/-- A position and an orientation. -/
structure Pose where
  rot : Quat := {}
  pos : V3 := {}
  deriving DecidableEq, Repr

/-- A place that is given in another. -/
def Pose.comp (a b : Pose) : Pose := { rot := a.rot.mul b.rot, pos := a.pos.add (a.rot.turn b.pos) }

/-- A parameter of a joint record as a number. -/
def JointE.num (j : JointE) (i : Nat) : Dual := dualOfEx (q32 (j.words.getD i 0))
def JointE.vec (j : JointE) (i : Nat) : V3 := { x := j.num i, y := j.num (i + 1), z := j.num (i + 2) }

/-- The joint frame in the parent's joint frame. -/
def JointE.place (j : JointE) : Pose := { rot := { w := j.num 7, v := j.vec 8 }, pos := j.vec 4 }

def worldParent : Nat := 0x1FF

/-- The moving link that a link is part of once every fixed joint's link is merged into its parent, none for the world, and the
link's place in that one (R296). -/
def anchorIn (js : List JointE) : Nat → Nat → Option Nat × Pose
  | 0, _ => (none, {})
  | fuel + 1, k =>
    match js[k]? with
    | none => (none, {})
    | some j =>
      if j.type ≠ 0 then (some k, {})
      else let (a, p) := anchorIn js fuel j.parent; (a, p.comp j.place)

def anchor (js : List JointE) (k : Nat) : Option Nat × Pose := anchorIn js (js.length + 1) k

/-- What a link puts into the moving link that it is part of: its mass, centre of mass, and inertia about it along its own axes. -/
structure LinkMass where
  link : Nat
  place : Pose
  mass : Dual
  com : V3
  inertia : List Dual
  deriving DecidableEq, Repr

/-- The inertias of the moving links: their own, and those of the links merged into them at installation; a link fixed to the world
has none (R296). -/
def mergedParts (js : List JointE) : List LinkMass :=
  js.zipIdx.filterMap fun (j, k) => match anchor js k with
    | (some a, p) => some { link := a, place := p, mass := j.num 11, com := j.vec 12, inertia := (List.range 6).map fun i => j.num (15 + i) }
    | (none, _) => none

/-- The moving links from the one that link k is part of to the root. -/
def chainIn (js : List JointE) : Nat → Nat → List Nat
  | 0, _ => []
  | fuel + 1, k => match (anchor js k).1 with
    | none => []
    | some a => a :: chainIn js fuel ((js[a]?).elim worldParent (·.parent))

/-- The place of a moving link after its joint, in the world, from the places of those before it. -/
def moved (js : List JointE) (before : List Pose) (j : JointE) (q : List Dual) : Pose :=
  let base := match anchor js j.parent with
    | (some a, p) => (before.getD a {}).comp p
    | (none, p) => p
  let at0 := base.comp j.place
  match j.type with
  | 1 => at0.comp { rot := { w := ((q.getD 0 Dual.zero).scale half).cos, v := V3.mul ((q.getD 0 Dual.zero).scale half).sin (j.vec 1) } }
  | 2 => at0.comp { pos := V3.mul (q.getD 0 Dual.zero) (j.vec 1) }
  | 3 => at0.comp { rot := quatAt q 0 }
  | 4 => at0.comp { rot := quatAt q 3, pos := v3At q 0 }
  | _ => at0

/-- The coordinates of every joint, cut from those of the problem. -/
def jointCoords : List JointE → List Dual → List (JointE × List Dual)
  | [], _ => []
  | j :: js, q => (j, q.take (jointDims j.type).1) :: jointCoords js (q.drop (jointDims j.type).1)

/-- The places of the links by joint index. -/
def placesOf (js : List JointE) (q : List Dual) : List Pose :=
  (jointCoords js q).foldl (fun ps x => ps ++ [moved js ps x.1 x.2]) []

/-- The configuration in which every coordinate is zero and every quaternion the identity (R299). -/
def zeroCoords (js : List JointE) : List Dual :=
  js.flatMap fun j => match j.type with
    | 3 => Quat.list {}
    | 4 => List.replicate 3 Dual.zero ++ Quat.list {}
    | t => List.replicate (jointDims t).1 Dual.zero

/-- The place of a point that link k carries, given in its joint frame. -/
def pointOf (js : List JointE) (ps : List Pose) (k : Nat) (p : Pose) : Pose :=
  match anchor js k with
  | (some a, b) => ((ps.getD a {}).comp b).comp p
  | (none, b) => b.comp p

/-! ### Motion -/

/-- A coordinate of v as a motion in the world: a turn about an axis through the joint, or a displacement along it. -/
structure Axis where
  joint : Nat
  spin : Bool
  dir : V3
  at_ : V3
  deriving DecidableEq, Repr

/-- The axes in coordinate order (R296). -/
def axesOf (js : List JointE) (ps : List Pose) : List Axis :=
  let es : List V3 := [{ x := Dual.int 1 }, { y := Dual.int 1 }, { z := Dual.int 1 }]
  js.zipIdx.flatMap fun (j, k) =>
    let p := ps.getD k {}
    let axis (spin : Bool) (e : V3) : Axis := { joint := k, spin := spin, dir := p.rot.turn e, at_ := p.pos }
    match j.type with
    | 1 => [axis true (j.vec 1)]
    | 2 => [axis false (j.vec 1)]
    | 3 => es.map (axis true)
    | 4 => es.map (axis true) ++ es.map (axis false)
    | _ => []

/-- The velocity that an axis gives, per unit, to a point. -/
def Axis.lin (a : Axis) (x : V3) : V3 := if a.spin then a.dir.cross (x.sub a.at_) else a.dir
def Axis.ang (a : Axis) : V3 := if a.spin then a.dir else {}

/-- A configuration: the joints, the places of the links and the axes. -/
structure Kin where
  js : List JointE
  places : List Pose
  axes : List Axis
  deriving DecidableEq, Repr

def kinOf (js : List JointE) (q : List Dual) : Kin :=
  let ps := placesOf js q
  { js := js, places := ps, axes := axesOf js ps }

/-- The axes with a value each that move link k. -/
def Kin.moving (n : Kin) (k : Nat) (v : List Dual) : List (Axis × Dual) :=
  let up := chainIn n.js (n.js.length + 1) k
  (n.axes.zip v).filter fun x => up.contains x.1.joint

def Kin.point (n : Kin) (k : Nat) (p : Pose) : Pose := pointOf n.js n.places k p

def Kin.spin (n : Kin) (v : List Dual) (k : Nat) : V3 := V3.sum ((n.moving k v).map fun x => V3.mul x.2 x.1.ang)
def Kin.speed (n : Kin) (v : List Dual) (k : Nat) (x : V3) : V3 := V3.sum ((n.moving k v).map fun y => V3.mul y.2 (y.1.lin x))

/-- How an axis turns: with the link behind its joint. -/
def Kin.turning (n : Kin) (v : List Dual) (a : Axis) : V3 := (n.spin v a.joint).cross a.dir

/-- The angular acceleration of link k, and the acceleration of a point of it. -/
def Kin.spinRate (n : Kin) (v a : List Dual) (k : Nat) : V3 :=
  V3.sum (((n.moving k v).zip (n.moving k a)).map fun (x, y) =>
    if x.1.spin then (V3.mul y.2 x.1.dir).add (V3.mul x.2 (n.turning v x.1)) else {})

def Kin.accel (n : Kin) (v a : List Dual) (k : Nat) (p : V3) : V3 :=
  V3.sum (((n.moving k v).zip (n.moving k a)).map fun (x, y) =>
    let u := (V3.mul y.2 x.1.dir).add (V3.mul x.2 (n.turning v x.1))
    if x.1.spin then
      (u.cross (p.sub x.1.at_)).add ((V3.mul x.2 x.1.dir).cross ((n.speed v k p).sub (n.speed v x.1.joint x.1.at_)))
    else u)

/-- One axis's motion of a point of link k, nothing where it does not move the link. -/
def Kin.col (n : Kin) (k : Nat) (x : V3) (i : Nat) : V3 × V3 :=
  match n.axes[i]? with
  | some a => if (chainIn n.js (n.js.length + 1) k).contains a.joint then (a.ang, a.lin x) else ({}, {})
  | none => ({}, {})

/-! ### Inverse dynamics and the mass matrix (R311) -/

/-- Inertia about the centre of mass, along world axes. -/
def LinkMass.turnInertia (p : LinkMass) (q : Quat) (a : V3) : V3 :=
  let r := q.mul p.place.rot
  let b := r.conj.turn a
  let i (k : Nat) : Dual := p.inertia.getD k Dual.zero
  r.turn {
    x := ((i 0).mul b.x).add (((i 3).mul b.y).add ((i 4).mul b.z))
    y := ((i 3).mul b.x).add (((i 1).mul b.y).add ((i 5).mul b.z))
    z := ((i 4).mul b.x).add (((i 5).mul b.y).add ((i 2).mul b.z)) }

/-- The centre of mass of a part in the world. -/
def Kin.com (n : Kin) (p : LinkMass) : V3 := ((n.places.getD p.link {}).comp (p.place.comp { pos := p.com })).pos

/-- An external wrench on a frame: its link, the point, the moment and the force. -/
structure Wrench where
  link : Nat
  pos : Pose
  moment : V3
  force : V3
  deriving DecidableEq, Repr

/-- Force and moment that a part needs to move as it does, gravity apart (R298). -/
def Kin.effort (n : Kin) (g : V3) (v a : List Dual) (p : LinkMass) : V3 × V3 :=
  let q := (n.places.getD p.link {}).rot
  let w := n.spin v p.link
  (V3.mul p.mass ((n.accel v a p.link (n.com p)).sub g),
   (p.turnInertia q (n.spinRate v a p.link)).add (w.cross (p.turnInertia q w)))

/-- τ of the motion q, v, a under gravity and the wrenches (RNEA). -/
def Kin.inverse (n : Kin) (g : V3) (ws : List Wrench) (v a : List Dual) : List Dual :=
  let parts := (mergedParts n.js).map fun p => (p, n.effort g v a p)
  (List.range n.axes.length).map fun i =>
    (Dual.sum (parts.map fun (p, f, m) => let c := n.col p.link (n.com p) i; (f.dot c.2).add (m.dot c.1))).sub
      (Dual.sum (ws.map fun w => let c := n.col w.link (n.point w.link w.pos).pos i; (w.moment.dot c.1).add (w.force.dot c.2)))

/-- M, row by row (CRBA). -/
def Kin.mass (n : Kin) : List (List Dual) :=
  let parts := mergedParts n.js
  (List.range n.axes.length).map fun i => (List.range n.axes.length).map fun k =>
    Dual.sum (parts.map fun p =>
      let c := n.col p.link (n.com p) i
      let d := n.col p.link (n.com p) k
      (p.mass.mul (c.2.dot d.2)).add (c.1.dot (p.turnInertia (n.places.getD p.link {}).rot d.1)))

/-! ### LDLᵀ (R313, R314) -/

/-- The factor of a symmetric matrix without pivoting: each pivot of D with the column of L below it. -/
def ldl : Nat → List (List Dual) → List (Dual × List Dual)
  | n + 1, r :: rs =>
    let d := r.headD Dual.zero
    let col := rs.map fun x => (x.headD Dual.zero).div d
    (d, col) :: ldl n ((rs.zip col).map fun x => (x.1.tail.zip r.tail).map fun y => y.1.sub (x.2.mul y.2))
  | _, _ => []

/-- The solution for one right-hand side. -/
def ldlSolve : List (Dual × List Dual) → List Dual → List Dual
  | [], _ => []
  | (d, col) :: f, bs =>
    let b := bs.headD Dual.zero
    let x := ldlSolve f ((bs.tail.zip col).map fun y => y.1.sub (y.2.mul b))
    ((b.div d).sub (Dual.dot col x)) :: x

def matVec (m : List (List Dual)) (x : List Dual) : List Dual := m.map (Dual.dot · x)

/-! ### Constraint rows (R297, R299, R313) -/

/-- What R313 says of the λ of a row. -/
inductive RowSide where
  | free | lower | upper | inactive
  deriving DecidableEq, Repr

/-- A row: the acceleration J × a of its quantity, and what J × a shall be. -/
structure ConRow where
  jac : List Dual
  goal : Dual
  deriving DecidableEq, Repr

/-- The target −Kd ċ − Kp c of a loop row less the acceleration that it has where a is zero (R298, R313). -/
def loopGoal (ws : List Word) (c rate bias : Dual) : Dual :=
  let k (i : Nat) : Ex := unitsOf 1 (signedOf 8 (fld (imgW ws 4) (8 * i) 8))
  (((rate.scale (k 7)).add (c.scale (k 6))).neg).sub bias

/-- Three rows along the axes of the world. -/
def rows3 (ws : List Word) (nv : Nat) (c rate bias : V3) (col : Nat → V3) : List ConRow :=
  [V3.x, V3.y, V3.z].map fun f =>
    { jac := (List.range nv).map fun i => f (col i), goal := loopGoal ws (f c) (f rate) (f bias) }

/-- The rows of loop l: a point holds the attachment points together, a weld the relative orientation of the zero configuration as
well, a distance the length between the points (R299). -/
def Kin.loop (n : Kin) (ws : List Word) (v : List Dual) (l : Nat) : List ConRow :=
  let w := loopWord ws l 0
  let vec (i : Nat) : V3 := v3At ((List.range 3).map fun k => dualOfEx (q32 (loopWord ws l (i + k)))) 0
  let a := fld w 8 9
  let b := fld w 17 9
  let zero := List.replicate n.axes.length Dual.zero
  let pa := n.point a { pos := vec 1 }
  let pb := n.point b { pos := vec 4 }
  let c := pa.pos.sub pb.pos
  let rate := (n.speed v a pa.pos).sub (n.speed v b pb.pos)
  let bias := (n.accel v zero a pa.pos).sub (n.accel v zero b pb.pos)
  let col (i : Nat) : V3 := (n.col a pa.pos i).2.sub (n.col b pb.pos i).2
  match fld w 0 2 with
  | 0 => rows3 ws n.axes.length c rate bias col
  | 1 =>
    let z := placesOf n.js (zeroCoords n.js)
    let rel := (pointOf n.js z a {}).rot.conj.mul (pointOf n.js z b {}).rot
    let e := (((pa.rot.mul rel).mul pb.rot.conj).v).map (Dual.scale (unitsOf 2 0))
    rows3 ws n.axes.length c rate bias col
      ++ rows3 ws n.axes.length e ((n.spin v a).sub (n.spin v b)) ((n.spinRate v zero a).sub (n.spinRate v zero b))
          (fun i => (n.col a pa.pos i).1.sub (n.col b pb.pos i).1)
  | _ =>
    let r := c.norm
    let u := c.map (·.div r)
    let along := u.dot rate
    [{ jac := (List.range n.axes.length).map fun i => u.dot (col i)
       goal := loopGoal ws (r.sub (dualOfEx (q32 (loopWord ws l 7)))) along
         ((u.dot bias).add (((rate.dot rate).sub (along.mul along)).div r)) }]

/-- The limit rows in joint order: the acceleration of the joint, which shall not go on beyond the limit. -/
def limitRows (js : List JointE) : List ConRow :=
  let nv := (js.map fun j => (jointDims j.type).2.1).foldl (· + ·) 0
  let offsets := js.foldl (fun (a : Nat × List Nat) j => (a.1 + (jointDims j.type).2.1, a.2 ++ [a.1])) (0, [])
  ((js.zip offsets.2).filter (·.1.limit)).map fun x =>
    { jac := (List.range nv).map fun i => if i = x.2 then Dual.int 1 else Dual.zero, goal := Dual.zero }

/-- Every row: loops in loop order, then limits. -/
def Kin.rows (n : Kin) (ws : List Word) (v : List Dual) : List ConRow :=
  (List.range (probNL ws)).flatMap (n.loop ws v) ++ limitRows n.js

/-! ### Forward dynamics (R311, R313) -/

/-- What acts on a problem in a configuration. -/
structure Motion where
  q : List Dual
  v : List Dual
  tau : List Dual
  wrenches : List Dual := []
  deriving DecidableEq, Repr

def gravityOf (ws : List Word) : V3 :=
  if bit (imgW ws 0) 19 then v3At ((List.range 3).map fun i => dualOfEx (q32 (imgW ws (1 + i)))) 0 else {}

/-- The wrenches on the frames: moment and force of each (R299, R311). -/
def wrenchesOf (ws : List Word) (xs : List Dual) : List Wrench :=
  (List.range (xs.length / 6)).map fun f =>
    { link := fld (frameWord ws f 0) 0 9
      pos := { pos := v3At ((List.range 3).map fun i => dualOfEx (q32 (frameWord ws f (1 + i)))) 0 }
      moment := v3At xs (6 * f), force := v3At xs (6 * f + 3) }

/-- The equations of motion M a = force + Jᵀ λ, with the rows where they count. -/
structure Equations where
  mass : List (List Dual)
  force : List Dual
  rows : List ConRow
  deriving DecidableEq, Repr

def equations (ws : List Word) (constrained : Bool) (m : Motion) : Equations :=
  let n := kinOf (probJoints ws) m.q
  let b := n.inverse (gravityOf ws) (wrenchesOf ws m.wrenches) m.v (List.replicate n.axes.length Dual.zero)
  { mass := n.mass, force := (m.tau.zip b).map fun x => x.1.sub x.2, rows := if constrained then n.rows ws m.v else [] }

def Equations.factor (e : Equations) : List (Dual × List Dual) := ldl e.mass.length e.mass

/-- a without constraint forces (ABA), and the acceleration that a unit of each λ adds. -/
def Equations.accel0 (e : Equations) : List Dual := ldlSolve e.factor e.force
def Equations.pushes (e : Equations) : List (List Dual) := e.rows.map fun r => ldlSolve e.factor r.jac

/-- The diagonal of the Delassus matrix (R313). -/
def Equations.diagonal (e : Equations) : List Dual := (e.rows.zip e.pushes).map fun x => Dual.dot x.1.jac x.2

/-- a of forces λ. -/
def Equations.accel (e : Equations) (lams : List Dual) : List Dual :=
  (lams.zip e.pushes).foldl (fun a x => (a.zip x.2).map fun y => y.1.add (x.1.mul y.2)) e.accel0

/-- λ kept to its side: at least 0 at a lower limit, at most 0 at an upper one (R313). -/
def RowSide.project (r : RowSide) (x : Dual) : Dual :=
  match r with
  | .lower => if x.v < 0 then Dual.zero else x
  | .upper => if 0 < x.v then Dual.zero else x
  | _ => x

/-- One projected Gauss-Seidel sweep over the active rows in row order; a skipped row has λ = 0 (R313). -/
def Equations.sweep (e : Equations) (sides : List RowSide) (skipped : Nat → Bool) (lams : List Dual) : List Dual :=
  (List.range e.rows.length).foldl (fun ls i =>
    let side := sides.getD i .inactive
    match e.rows[i]? with
    | none => ls
    | some r =>
      if side = .inactive then ls
      else if skipped i then ls.set i Dual.zero
      else
        let miss := r.goal.sub (Dual.dot r.jac (e.accel ls))
        ls.set i (side.project ((ls.getD i Dual.zero).add (miss.div (e.diagonal.getD i Dual.zero))))) lams

/-- λ after k sweeps. -/
def Equations.sweeps (e : Equations) (sides : List RowSide) (skipped : Nat → Bool) : Nat → List Dual → List Dual
  | 0, ls => ls
  | k + 1, ls => e.sweep sides skipped (e.sweeps sides skipped k ls)

/-- The largest violation of an active row: a limit row that carries no force may be pulled off the limit (R313). -/
def Equations.violation (e : Equations) (sides : List RowSide) (lams : List Dual) : Int :=
  (e.rows.zipIdx.map fun (r, i) =>
    let miss := (r.goal.sub (Dual.dot r.jac (e.accel lams))).v
    let slack := (lams.getD i Dual.zero).v = 0
    match sides.getD i .inactive with
    | .inactive => 0
    | .lower => if slack && miss < 0 then 0 else miss.natAbs
    | .upper => if slack && 0 < miss then 0 else miss.natAbs
    | .free => (miss.natAbs : Int)).foldl max 0

/-! ### Integrators (R312) -/

/-- q ⊕ δ: a coordinate is added; a quaternion takes exp(δ ÷ 2) and is renormalised once; a free base moves along its own axes
(R296, R312). -/
def stepCoords : List JointE → List Dual → List Dual → List Dual
  | [], _, _ => []
  | j :: js, q, x =>
    let (n, m, _) := jointDims j.type
    (match j.type with
     | 3 => ((quatAt q 0).mul (quatExp (v3At x 0))).unit.list
     | 4 => ((v3At q 0).add ((quatAt q 3).turn (v3At x 3))).list ++ ((quatAt q 3).mul (quatExp (v3At x 0))).unit.list
     | _ => ((q.take n).zip (x.take m)).map fun y => y.1.add y.2) ++ stepCoords js (q.drop n) (x.drop m)

def addScaled (k : Ex) (x y : List Dual) : List Dual := (x.zip y).map fun z => z.1.add (z.2.scale k)

/-- A step from the acceleration (EULER): v′ = v + dt × a, q′ = q ⊕ dt × v′. -/
def eulerStep (js : List JointE) (dt : Ex) (q v a : List Dual) : List Dual × List Dual :=
  let v' := addScaled dt v a
  (stepCoords js q (v'.map (Dual.scale dt)), v')

/-- The four stages of RK4: q, v and the acceleration there. -/
def rk4Stages (js : List JointE) (dt : Ex) (f : List Dual → List Dual → List Dual) (q v : List Dual) : List (List Dual × List Dual × List Dual) :=
  let stage (k : Ex) (x : List Dual × List Dual × List Dual) : List Dual × List Dual × List Dual :=
    let q' := stepCoords js q (x.2.1.map (Dual.scale k))
    let v' := addScaled k v x.2.2
    (q', v', f q' v')
  let s1 := (q, v, f q v)
  let s2 := stage (dt.mul half) s1
  let s3 := stage (dt.mul half) s2
  [s1, s2, s3, stage dt s3]

/-- The sum under the classical weights 1, 2, 2, 1 over 6. -/
def rk4Mean (xs : List (List Dual)) : List Dual :=
  let third := (unitsOf 1 0).div (unitsOf 3 0)
  ((xs.zip [third.mul half, third, third, third.mul half]).map fun x => x.1.map (Dual.scale x.2)).foldl
    (fun s x => if s.isEmpty then x else (s.zip x).map fun y => y.1.add y.2) []

/-- q′ and v′ of RK4. -/
def rk4Step (js : List JointE) (dt : Ex) (q v : List Dual) (stages : List (List Dual × List Dual × List Dual)) : List Dual × List Dual :=
  (stepCoords js q ((rk4Mean (stages.map (·.2.1))).map (Dual.scale dt)), addScaled dt v (rk4Mean (stages.map (·.2.2))))

/-! ### Derivatives (R328 to R330) -/

/-- q with a seed in tangent coordinates: of a quaternion q ⊗ δ ÷ 2; a free base's are in the order of its v (R296). -/
def seedCoords : List JointE → List Dual → List Int → List Dual
  | [], _, _ => []
  | j :: js, q, x =>
    let (n, m, _) := jointDims j.type
    let seed (o : Nat) : V3 := v3At ((x.drop o).map fun d => { v := 0, d := d }) 0
    let quat (p : Quat) : List Dual := (p.mul { v := (seed 0).map (Dual.scale half) }).list
    (match j.type with
     | 3 => quat (quatAt q 0)
     | 4 => ((v3At q 0).add ((quatAt q 3).turn (seed 3))).list ++ quat (quatAt q 3)
     | _ => ((q.take n).zip (x.take m)).map fun y => { v := y.1.v, d := y.2 }) ++ seedCoords js (q.drop n) (x.drop m)

/-- The tangent coordinates of the derivative of q. -/
def tangentOf : List JointE → List Dual → List Int
  | [], _ => []
  | j :: js, q =>
    let (n, _, _) := jointDims j.type
    let rate (a : V3) : V3 := a.map fun x => { v := x.d }
    let spin (p : Quat) : List Int :=
      ((p.conj.mul { w := { v := p.w.d }, v := rate p.v }).v.map (Dual.scale (unitsOf 2 0))).list.map (·.v)
    (match j.type with
     | 3 => spin (quatAt q 0)
     | 4 => spin (quatAt q 3) ++ ((quatAt q 3).conj.turn (rate (v3At q 0))).list.map (·.v)
     | _ => (q.take n).map (·.d)) ++ tangentOf js (q.drop n)

/-- The seeds of a motion. -/
structure Seeds where
  q : List Int
  v : List Int
  tau : List Int
  wrenches : List Int := []
  deriving DecidableEq, Repr

def withSeed (x : List Dual) (d : List Int) : List Dual := x.zipIdx.map fun y => { v := y.1.v, d := d.getD y.2 0 }

def Motion.seeded (m : Motion) (js : List JointE) (s : Seeds) : Motion :=
  { q := seedCoords js m.q s.q, v := withSeed m.v s.v, tau := withSeed m.tau s.tau, wrenches := withSeed m.wrenches s.wrenches }

/-- δa and δλ at the returned a and λ, with the rows that are held as equalities: the derivative of M a = force + Jᵀ λ and of
J a = goal, solved for them (R330). -/
def Equations.tangent (e : Equations) (held : List Bool) (a lams : List Int) : List Int × List Int :=
  let rows : List (ConRow × Int) := ((e.rows.zip lams).zip held).filterMap fun x => if x.2 then some x.1 else none
  let a : List Dual := a.map fun x => { v := x }
  let first := ((matVec e.mass a).zip e.force).zipIdx.map fun (x, i) =>
    (Dual.sum (rows.map fun r => (r.1.jac.getD i Dual.zero).mul { v := r.2 })).add (x.2.sub x.1)
  let second := rows.map fun (r : ConRow × Int) => r.1.goal.sub (Dual.dot r.1.jac a)
  let upper := e.mass.zipIdx.map fun (m, i) => m.map Dual.held ++ rows.map fun (r : ConRow × Int) => (r.1.jac.getD i Dual.zero).held
  let system := upper ++ rows.map fun (r : ConRow × Int) => r.1.jac.map Dual.held ++ List.replicate rows.length Dual.zero
  let x := (ldlSolve (ldl system.length system) ((first ++ second).map fun (y : Dual) => { v := y.d })).map (·.v)
  let dl := (x.drop e.mass.length).map fun x => -x
  (x.take e.mass.length,
   (held.take e.rows.length).zipIdx.map fun (h, i) => if h then dl.getD ((held.take i).countP id) 0 else 0)

/-- The adjoint of a linear map of n seeds: one product with the adjoints of the outputs for each seed (R329). -/
def adjointOf (n : Nat) (f : Nat → List Int) (bars : List Int) : List Int :=
  (List.range n).map fun i => ((f i).zip bars).foldl (fun s x => s + fmul x.1 x.2) 0

/-- The i-th unit seed of q, v, τ and the wrenches. -/
def unitSeed (nv i : Nat) : Seeds :=
  let at_ (o n : Nat) : List Int := (List.range n).map fun k => if o + k = i then 2 ^ 400 else 0
  { q := at_ 0 nv, v := at_ nv nv, tau := at_ (2 * nv) nv, wrenches := at_ (3 * nv) 96 }

end Sys2Proof.Machine
end

