-- ==== Sys2Proof/Machine/Placement.lean ====
section
/-! DEFINITION. Placement (08 R269 to R285; 09 R302 to R307; 10 R357 to R366): who uses a tensor, shares, homes, the
stretches of the curvature work, and the stores of the solver engines. What the spec does not derive is free (log entry 14). -/
namespace Sys2Proof.Machine

/-- The clusters that are fenced now, and the others in ascending order. -/
def State.fencedSet (s : State) : BitVec 384 :=
  s.cls.toList.zipIdx.foldl (fun m x => if x.1.fenced.isSome then m ||| (1#384 <<< x.2) else m) 0

def freeClusters (fenced : BitVec 384) : List Nat := (List.range 384).filter fun n => !fenced.getLsbD n

/-! ### Tensors and their users -/

/-- Whether an operation uses a tensor: as an edge or a class-specific word, or as a root that preconditions it or that it
forms (R353, R363). -/
def Package.usesTensor (p : Package) (o : OperE) (t : Nat) : Bool :=
  p.reads o t || p.writes o t
  || ((o.cls = 5 || o.cls = 6) && p.curvature.zipIdx.any fun x => o.names x.2 && (curvOf x.1).root = t)

/-- The operations that use a tensor, and the clusters of their stages. -/
def Package.users (p : Package) (t : Nat) : List Nat := (p.opers.zipIdx.filter fun x => p.usesTensor x.1 t).map (·.2)

def clustersUsing (p : Package) (stages : List Stage) (t : Nat) : List Nat :=
  ((stages.filter fun g => (p.users t).contains g.op).flatMap (·.clusters)).eraseDups

/-- The format of a descriptor index: a programmable one as the package lists it (R261). -/
def Package.fmtIx (p : Package) (i : Nat) : Fmt :=
  fmtOf i (if i < 0x20 then builtinDesc i else ((p.formats.find? fun f => f.1 = i).map (·.2)).getD 0)

/-- The storage format of a tensor. -/
def Package.fmtAt (p : Package) (t : Nat) : Fmt := p.fmtIx (p.tensor t).fmt

/-- The carrier of a tensor in an operation (R76, R268). -/
def Package.carrierIn (p : Package) (o : OperE) (t : Nat) : Nat :=
  if o.runsStrict then max (p.tensor t).carrier (p.fmtAt t).nat else (p.tensor t).carrier

/-- An operation that reads a tensor with the last operation before it that writes it (R263, R277). -/
def Package.feeds (p : Package) (t : Nat) : List (Nat × Nat) :=
  p.opers.zipIdx.filterMap fun x =>
    if p.reads x.1 t then (((p.opers.zipIdx.take x.2).filter fun y => p.writes y.1 t).getLast?).map fun y => (y.2, x.2) else none

/-- A tensor that only streams carry: it keeps nothing across steps, no host reaches it, no hint or initial contents ask for
a home, no class-specific word names it, all of its users lie in one segment, and every operation that reads it comes after
one that writes it (R277, R280; log entry 22). -/
def Package.streamOnly (p : Package) (stages : List Stage) (t : Nat) : Bool :=
  let x := p.tensor t
  let us := p.users t
  let segs := ((stages.filter fun g => us.contains g.op).map (·.segment)).eraseDups
  let fs := p.feeds t
  !x.persist && !x.hostIo && x.residency = 0 && x.initOff = 0 && segs.length = 1 && !fs.isEmpty
  && p.opers.zipIdx.all (fun y => !(y.1.wordReads ++ y.1.wordWrites).contains t && (!p.reads y.1 t || fs.any fun f => f.2 = y.2))

/-! ### Shares (R275) -/

/-- The position of a cluster in its stage, by ascending global number. -/
def Stage.rank (g : Stage) (c : Nat) : Nat := (g.clusters.filter (· < c)).length

def Package.sliced (p : Package) (o : OperE) (t : Nat) : Bool := (p.opEdges o).any fun e => e.tensor = t && e.slice

/-- Where share k of n of a tensor begins: a free multiple of 64 elements, rising with k. -/
def Package.cut (p : Package) (t n k : Nat) : Nat :=
  let e := (p.tensor t).elements
  if n ≤ k then e
  else min e (((List.range k).map fun j => 64 * Config.shareCut p.digest.toNat t n j).foldl max 0)

/-- The elements of a tensor that a cluster of a stage holds: the first, and their number. -/
def Package.shareIn (p : Package) (t : Nat) (g : Stage) (c : Nat) : Nat × Nat :=
  match p.oper g.op with
  | some o =>
    if p.sliced o t then
      let n := g.clusters.length
      let a := p.cut t n (g.rank c)
      (a, p.cut t n (g.rank c + 1) - a)
    else (0, (p.tensor t).elements)
  | none => (0, 0)

/-! ### Homes (R281 to R284, R391) -/

/-- Stretches of device memory that are taken: address and length. -/
abbrev Taken := List (Nat × Nat)

/-- Where homes of one partition may lie, or of a stripe (31), as first address and length: everything outside the reserved
areas (R391). -/
def MemGlobal.span (g : MemGlobal) (far : Bool) (p : Nat) : Nat × Nat :=
  if p = 31 then
    (if far then (farBase, 4 * g.farStripe.toNat * gib - 4 * g.snap.toNat * gib) else (0, 12 * g.hbmStripe.toNat * gib))
  else if p < 12 then (addressOf g p (g.hbmStripe.toNat * gib), (48 - g.hbmStripe.toNat) * gib - gib / 2)
  else (addressOf g p (g.farStripe.toNat * gib), (384 - g.farStripe.toNat) * gib)

/-- Free bytes of a span. -/
def roomIn (taken : Taken) (a : Nat × Nat) : Nat :=
  a.2 - ((taken.filter fun x => a.1 ≤ x.1 && x.1 < a.1 + a.2).map (·.2)).foldl (· + ·) 0

/-- The partition with most room among some; the lowest of equals. -/
def MemGlobal.best (g : MemGlobal) (far : Bool) (taken : Taken) (ps : List Nat) : Nat :=
  ps.foldl (fun b p => if roomIn taken (g.span far b) < roomIn taken (g.span far p) then p else b) (ps.headD 0)

/-- An address for n bytes in a span, in lines of 256 bytes: the proposed one where it is free, else the first stretch that
is. -/
def fitIn (taken : Taken) (a : Nat × Nat) (n cand : Nat) : Option Nat :=
  let up (x : Nat) := (x + 255) / 256 * 256
  let all := (a.1 + cand % (a.2 / 256 + 1) * 256) :: a.1 :: (taken.map fun x => up (x.1 + x.2))
  all.find? fun o => decide (a.1 ≤ o) && decide (o + n ≤ a.1 + a.2) && !taken.any fun x => overlaps x (o, n)

/-- The HBM partitions nearest the majority of a tensor's clusters (R282). -/
def nearHbm (cs : List Nat) : List Nat :=
  if cs.countP (· < 192) < cs.countP (192 ≤ ·) then [6, 7, 8, 9, 10, 11] else [0, 1, 2, 3, 4, 5]

def stripeLimit : Nat := 64 * 2 ^ 20

/-- A home of n bytes in a tier; none where the tier has no room for it (R282). -/
def MemGlobal.find (g : MemGlobal) (taken : Taken) (far : Bool) (near : List Nat) (n cand : Nat) : Option Home :=
  let p := if stripeLimit ≤ n then 31 else g.best far taken (if far then [12, 13, 14, 15] else near)
  (fitIn taken (g.span far p) n cand).map fun a => { base := a, tier := if far then 1 else 0, part := p, bytes := n }

/-- The bytes of a TILE tensor that a cluster holds, first and number: the share of each stage there that uses the tensor (R275,
R283). -/
def tileBytes (p : Package) (stages : List Stage) (t c : Nat) : Nat × Nat :=
  let f := p.fmtAt t
  let ss := (stages.filter fun g => (p.users t).contains g.op && g.clusters.contains c).map fun g => p.shareIn t g c
  let lo := f.bytesOf ((ss.map (·.1)).foldl min ((ss.headD (0, 0)).1))
  (lo, f.bytesOf ((ss.map fun x => x.1 + x.2).foldl max 0) - lo)

/-- What has been given out so far: homes, tile homes, device memory. -/
structure Given where
  homes : SMap Home := []
  tiles : List (Nat × Nat × Nat) := []
  taken : Taken := []

/-- A tile home on every cluster that uses the tensor, beside those that stand there; none where one of them has no room (R282). A place
that a placement before gave stays (R284). -/
def placeTiles (p : Package) (stages : List Stage) (tiles : List (Nat × Nat × Nat)) (t : Nat) : Option (List (Nat × Nat × Nat)) :=
  (clustersUsing p stages t).foldl (fun (a : Option (List (Nat × Nat × Nat))) c => a.bind fun tiles =>
    if tiles.any fun x => x.1 = t && x.2.1 = c then some tiles
    else
      let here := (tiles.filter fun x => x.2.1 = c).map fun x => (x.2.2, (tileBytes p stages x.1 c).2)
      (fitIn here (0, 0x600000) (tileBytes p stages t c).2 (Config.tileOffset p.digest.toNat t c)).map fun o => tiles ++ [(t, c, o)]) (some tiles)

/-- One tensor's home in device memory; none where R282 fails with 0x22. -/
def placeDevice (g : MemGlobal) (p : Package) (stages : List Stage) (taken : Taken) (t : Nat) : Option Home :=
  let x := p.tensor t
  let n := (p.fmtAt t).bytesOf x.elements
  let cand := Config.tensorBase p.digest.toNat t
  let near := nearHbm (clustersUsing p stages t)
  match if x.residency = 3 then none else g.find taken false near n cand with
  | some h => some h
  | none => if x.residency = 2 then none else g.find taken true near n cand

def Home.span (h : Home) : Taken := if h.tier < 2 then [(h.base, h.bytes)] else []

/-- One tensor's home, or the DETAIL that R282 fails with. A stream-only tensor takes no memory. -/
def placeTensor (g : MemGlobal) (p : Package) (stages : List Stage) (a : Given) (t : Nat) : Given ⊕ Nat :=
  let n := (p.fmtAt t).bytesOf (p.tensor t).elements
  if p.streamOnly stages t then
    .inl { a with homes := smSet a.homes t { base := Config.tensorBase p.digest.toNat t % 2 ^ 48, tier := 3, part := 31, bytes := n } }
  else if (p.tensor t).residency = 4 then
    match placeTiles p stages a.tiles t with
    | none => .inr 0x21
    | some tiles =>
      let cs := clustersUsing p stages t
      let c := cs.foldl min (cs.headD 0)
      let o := ((tiles.find? fun x => x.1 = t && x.2.1 = c).map (·.2.2)).getD 0
      .inl { a with homes := smSet a.homes t { base := tileBase c + o, tier := 2, part := 31, bytes := n }, tiles := tiles }
  else
    match placeDevice g p stages a.taken t with
    | none => .inr 0x22
    | some h => .inl { a with homes := smSet a.homes t h, taken := a.taken ++ h.span }

/-- The tile homes of a placement before that stay: those of a tensor whose clusters and shares are the same (R284, R290). -/
def tilesKept (p : Package) (stages : List Stage) (old : Option Placement) : List (Nat × Nat × Nat) :=
  match old with
  | none => []
  | some pl => pl.tiles.filter fun x =>
      clustersUsing p stages x.1 == clustersUsing p pl.stages x.1 && tileBytes p stages x.1 x.2.1 == tileBytes p pl.stages x.1 x.2.1

/-- Every home in tensor order, PERSIST tensors first (R282); homes in device memory that a placement before gave stay, and
hold their room (R284). -/
def placeHomes (g : MemGlobal) (p : Package) (stages : List Stage) (old : Option Placement) (taken : Taken) : Given ⊕ Nat :=
  let ts := List.range p.tensors.length
  let order := ts.filter (fun t => (p.tensor t).persist) ++ ts.filter fun t => !(p.tensor t).persist
  let before := (old.map (·.homes)).getD []
  order.foldl (fun (a : Given ⊕ Nat) t =>
    match a with
    | .inr d => .inr d
    | .inl a =>
      match before[t]?.filter (·.tier < 2) with
      | some h => .inl { a with homes := smSet a.homes t h }
      | none => placeTensor g p stages a t)
    (.inl { tiles := tilesKept p stages old, taken := taken ++ before.flatMap (·.span) })

/-! ### The stretches of the curvature work (R361, R362, R364, R366, R368, R370) -/

/-- The clusters of an operation's stage. -/
def stageClusters (stages : List Stage) (op : Nat) : List Nat := ((stages.find? fun g => g.op = op).map (·.clusters)).getD []

/-- What is to be reserved: kind, number, elements, limbs, clusters near. X, M, T and U of a region have room for the largest
block that its clusters may be given. -/
def Package.curvNeeds (p : Package) (stages : List Stage) : List (Nat × Nat × Nat × Nat × List Nat) :=
  let blocks := p.blocks.zipIdx.flatMap fun x =>
    match p.curv x.1.entry with
    | none => []
    | some e =>
      let near := stageClusters stages e.op
      let root := ((p.rootOp x.1.entry).map (stageClusters stages)).getD []
      let n := x.1.n * x.1.n
      [(0, x.2, n, 8, near), (7, x.2, n, 8, near), (1, x.2, n, 4, root), (5, x.2, n, 4, root), (6, x.2, n, 3, root)]
  let regions := (List.range 24).flatMap fun r =>
    let n := (p.blocks.filterMap fun b => match p.rootOp b.entry with
      | some o => if (stageClusters stages o).any fun c => c / 16 = r then some b.n else none
      | none => none).foldl max 0
    let cs := (List.range 16).map fun i => 16 * r + i
    if n = 0 then [] else [2, 3, 4, 8].map fun k => (k, r, n * n, 4, cs)
  blocks ++ regions

/-- The stretches that a placement before gave. -/
def curvTaken (p : Package) (stages : List Stage) (old : List CurvArea) : Taken :=
  old.flatMap fun o => ((p.curvNeeds stages).filter fun x => x.1 = o.kind && x.2.1 = o.index).map fun x =>
    (o.base, siLen x.2.2.2.1 x.2.2.1)

/-- The curvature stretches in HBM; none where it has no room. Those that a placement before gave stay, with what they hold. -/
def placeCurv (g : MemGlobal) (p : Package) (stages : List Stage) (old : List CurvArea) (taken : Taken) : Option (List CurvArea) :=
  ((p.curvNeeds stages).foldl (fun (a : Option (List CurvArea × Taken)) x =>
    let (kind, i, n, l, cs) := x
    match a with
    | none => none
    | some (out, taken) =>
      match old.find? fun o => o.kind = kind && o.index = i with
      | some o => some (out ++ [o], taken)
      | none =>
        (g.find taken false (nearHbm cs) (siLen l n) (Config.curvBase p.digest.toNat kind i)).map fun h =>
          (out ++ [{ kind := kind, index := i, base := h.base }], taken ++ h.span))
    (some ([], taken))).map (·.1)

/-! ### Solver stores (R302, R305, R307) -/

/-- The instances that each cluster of a stage serves: cluster, first instance, count; clusters in ascending order (R275,
R307). -/
def instanceShares (n : Nat) (cs : List Nat) : List (Nat × Nat × Nat) :=
  let blocks := (n + 31) / 32
  let k := max 1 cs.length
  (cs.mergeSort fun a b => decide (a ≤ b)).zipIdx.map fun (c, j) =>
    let first := j * (blocks / k) + min j (blocks % k)
    let count := blocks / k + (if j < blocks % k then 1 else 0)
    (c, min n (32 * first), min n (32 * (first + count)) - min n (32 * first))

/-- The region that serves a global instance of a context. -/
def serves (p : Package) (stages : List Stage) (ctx inst : Nat) : Option Nat :=
  (solverStages p stages).findSome? fun (o, g) =>
    if o.slvCtx = ctx then
      ((instanceShares (fld (o.word 5) 0 24) g.clusters).find? fun x => decide (x.2.1 ≤ inst ∧ inst < x.2.1 + x.2.2)).map fun x => x.1 / 16
    else none

/-- The instances of a context that a region serves, each once, as stretches (R305, R307): first instance and the one behind the last, by
the stages that name the context. -/
def ctxStretches (p : Package) (stages : List Stage) (ctx r : Nat) : List (Nat × Nat) :=
  (solverStages p stages).flatMap fun x =>
    if x.1.slvCtx = ctx then
      ((instanceShares (fld (x.1.word 5) 0 24) x.2.clusters).filter fun y => y.1 / 16 = r).map fun y => (y.2.1, y.2.1 + y.2.2)
    else []

/-- Numbers in the union of stretches. -/
def unionSize (xs : List (Nat × Nat)) : Nat :=
  ((xs.mergeSort fun a b => decide (a.1 ≤ b.1)).foldl (fun (a : Nat × Nat) x => (max a.1 x.2, a.2 + (x.2 - max a.1 x.1))) (0, 0)).2

/-- Instances of a context that a region serves. -/
def ctxShare (p : Package) (stages : List Stage) (ctx r : Nat) : Nat := unionSize (ctxStretches p stages ctx r)

/-- Pages of an engine: multibody slots, contexts, dense scratch. -/
def enginePages (p : Package) (stages : List Stage) (r : Nat) : Nat × Nat × Nat :=
  let sum (xs : List Nat) := xs.foldl (· + ·) 0
  let slots := slotsOn p stages r
  let of (k : Nat) := sum (slots.map fun id => match solverEntry p k id with | some e => itemPages p e 0 | none => 0)
  let ctxs := p.solver.filter fun e => fld (imgW e 0) 0 2 = 2
  (of 0, sum (ctxs.map fun e =>
    let n := ctxShare p stages (fld (imgW e 0) 8 8) r
    if n = 0 then 0 else itemPages p e n), of 1)

/-- The problems of some engine exceed its store (DETAIL 0x24). -/
def storeBad (p : Package) (stages : List Stage) : Bool :=
  (List.range 24).any fun r => let (a, b, c) := enginePages p stages r; decide (1024 < a + b + c)

/-! ### Where the bytes of a tensor stand -/

/-- The byte ranges of elements within a tensor: offset and length, data first, then scale codes. -/
def elemRanges (f : Fmt) (all first n : Nat) : List (Nat × Nat) :=
  if f.block = 0 then [(first * f.ew / 8, (n * f.ew + 7) / 8)]
  else
    let nb := (n + f.block - 1) / f.block
    let blocks := (all + f.block - 1) / f.block
    (first / f.block * f.blkBytes, nb * f.blkBytes)
      :: (if f.scale = 1 then [(blocks * f.blkBytes + first / f.block, nb)] else [])

/-- The tile home of a tensor on a cluster: device address, first byte of the tensor, bytes. -/
def tileShare (p : Package) (pl : Placement) (t c : Nat) : Nat × Nat × Nat :=
  let x := tileBytes p pl.stages t c
  (tileBase c + pl.tileAt t c, x.1, x.2)

/-- Where the bytes of a tensor stand: address, first byte, bytes. -/
def tensorSpans (p : Package) (pl : Placement) (t : Nat) : List (Nat × Nat × Nat) :=
  match pl.homes[t]? with
  | none => []
  | some h =>
    if h.tier < 2 then [(h.base, 0, h.bytes)]
    else if h.tier = 2 then (clustersUsing p pl.stages t).map (tileShare p pl t)
    else []

end Sys2Proof.Machine
end

