-- ==== Sys2Proof/Machine/Planned.lean ====
section
/-! DEFINITION. The task tables that a placement proposes (free values of Config, log entry 14) and the rules that they keep:
08 R265, R270 to R280; 07 R233; 09 R307; 10 R344, R348, R349, R359 to R361, R366. A placement whose proposal breaks a rule
fails (Placer.lean), so that a placement that succeeds keeps them all. -/
namespace Sys2Proof.Machine

/-! ### Channels (R277 to R280) -/

structure Channel where
  tensor : Nat
  /-- operations -/
  writer : Nat
  reader : Nat
  /-- clusters -/
  producer : Nat
  consumer : Nat
  deriving DecidableEq, Repr

/-- The clusters of a stage that hold a result of their own: a split reduction is combined in the last one (R275). -/
def Package.producers (p : Package) (g : Stage) : List Nat :=
  if (p.oper g.op).any (·.splitK) then [g.clusters.foldl max 0] else g.clusters

/-- Every channel: a producer and a consumer whose shares of a streamed tensor meet. -/
def Package.channels (p : Package) (pl : Placement) : List Channel :=
  (List.range p.tensors.length).flatMap fun t =>
    if !p.streamOnly pl.stages t then []
    else (p.feeds t).flatMap fun f =>
      match pl.stages.find? (·.op = f.1), pl.stages.find? (·.op = f.2) with
      | some g, some h => (p.producers g).flatMap fun a => h.clusters.filterMap fun b =>
        if overlaps (p.shareIn t g a) (p.shareIn t h b) then some { tensor := t, writer := f.1, reader := f.2, producer := a, consumer := b }
        else none
      | _, _ => []

def Channel.credit (x : Channel) (key : Nat) : Nat := Config.chanCredit key x.tensor x.producer x.consumer
def Channel.data (x : Channel) (key : Nat) : Nat := Config.chanData key x.tensor x.producer x.consumer
def Channel.ring (x : Channel) (key : Nat) : Nat := Config.chanRing key x.tensor x.producer x.consumer
def Channel.low (x : Channel) (key : Nat) : Bool := Config.chanLow key x.tensor x.producer x.consumer

/-- 2 on one compute die, 3 across the dies (R278). -/
def Channel.full (x : Channel) : Nat := if (x.producer < 192) = (x.consumer < 192) then 2 else 3
def Channel.depth (x : Channel) (key : Nat) : Nat := if x.low key then 1 else x.full

/-- Bytes of one buffer: the producer's share in SI form (R277). -/
def Package.ringBytes (p : Package) (pl : Placement) (x : Channel) : Nat :=
  match pl.stages.find? (·.op = x.writer), p.oper x.reader with
  | some g, some o => (carBytes (p.carrierIn o x.tensor) + 1) * slvBlocks (p.shareIn x.tensor g x.producer).2
  | _, _ => 0

/-- Bytes from one buffer of a ring to the next, in lines of 128 (R241). -/
def Package.ringStep (p : Package) (pl : Placement) (x : Channel) : Nat := (p.ringBytes pl x + 127) / 128 * 128

/-- The count that a slot of a cluster has after placement: the depth in the credit slot of a channel, 0 in its data slot, in
the gates and in the step slot, and free elsewhere (R271, R277). -/
def slotAt (p : Package) (pl : Placement) (c n : Nat) : BitVec 16 :=
  let key := pl.key p
  let xs := p.channels pl
  match xs.find? fun x => x.producer = c && x.credit key = n with
  | some x => BitVec.ofNat 16 (x.depth key)
  | none => if 239 ≤ n ∨ (xs.any fun x => x.consumer = c && x.data key = n) then 0 else Config.slotInit key c n

/-! ### Code and data in tile memory (R265, R270) -/

/-- A byte of the pieces that placement puts into a tile memory. -/
def pieceByte (ps : List (Nat × List Byte)) (a : Nat) : Byte :=
  match ps.find? fun x => decide (x.1 ≤ a) && decide (a < x.1 + x.2.length) with
  | some x => x.2.getD (a - x.1) 0
  | none => 0

/-- The kernel of an operation. -/
def Package.codeOf (p : Package) (o : OperE) : Option CodeE :=
  if o.hasKernel && o.kernel ≠ 0xFFFF then p.kernels[o.kernel]? else none

/-- The places in a cluster's tile memory of the tensor that is an argument of a stage's kernel: its tile home, or the rings it comes
by (R264, R265). -/
def argBuffers (p : Package) (pl : Placement) (c : Nat) (g : Stage) (arg : Nat) : List Nat :=
  match p.oper g.op with
  | none => []
  | some o => ((p.opEdges o).filter fun e => e.role = 3 && e.arg = arg).flatMap fun e =>
      if (pl.homes[e.tensor]?).any fun h => h.tier = 2 then [pl.tileAt e.tensor c]
      else ((p.channels pl).filter fun x => x.consumer = c && x.tensor = e.tensor && x.reader = g.op).map (·.ring (pl.key p))

/-- The value of a relocation of a kernel on a cluster, one for each kind and number: the tile offset of the argument's buffer, a slot,
a guard, or a cluster of the stage (R265; log entry 14). -/
def relocWord (p : Package) (pl : Placement) (c : Nat) (g : Stage) (x : Reloc) : Nat :=
  let v := Config.relocValue (pl.key p) c g.op (x.kind * 2 ^ 24 + x.arg)
  match x.kind with
  | 1 => match argBuffers p pl c g x.arg with
    | [] => v % 0x600000
    | bs => bs.getD (v % bs.length) 0
  | 2 => v % 239
  | 3 => v % 64
  | 4 => g.clusters.getD (v % g.clusters.length) 0
  | _ => v % 2 ^ 32

/-- The code with its relocated 32-bit immediates patched (R265). -/
def patched (p : Package) (pl : Placement) (c : Nat) (g : Stage) (k : CodeE) : List Byte :=
  k.relocs.foldl (fun bs x => bs.take x.off ++ bytesOf 4 (relocWord p pl c g x) ++ bs.drop (x.off + 4)) k.code

/-- What placement writes into the tile memory of a cluster: the pieces and the code of each of its stages. -/
def codePieces (p : Package) (pl : Placement) (c : Nat) : List (Nat × List Byte) :=
  let key := pl.key p
  (pl.stagesOn c).flatMap fun g =>
    Config.tilePieces key c g.op ++ (((p.oper g.op).bind p.codeOf).toList.map fun k => (Config.codeAddr key c g.op, patched p pl c g k))

/-! ### What a cluster's tile memory holds -/

/-- The TILE tensors of a cluster. -/
def tileTensors (p : Package) (pl : Placement) (c : Nat) : List (Nat × Nat) :=
  (List.range p.tensors.length).filterMap fun t =>
    if ((pl.homes[t]?).any fun h => h.tier = 2) && (clustersUsing p pl.stages t).contains c then
      some (pl.tileAt t c, (tileBytes p pl.stages t c).2)
    else none

/-- The rings that a cluster consumes from. -/
def ringsOn (p : Package) (pl : Placement) (c : Nat) : List (Nat × Nat) :=
  let key := pl.key p
  ((p.channels pl).filter (·.consumer = c)).map fun x => (x.ring key, x.depth key * p.ringStep pl x)

/-- Every stretch of a cluster's tile memory that placement gives out: homes, rings, code and data, the completion ring. -/
def tileStretches (p : Package) (pl : Placement) (c : Nat) : List (Nat × Nat) :=
  if (pl.stagesOn c).isEmpty then []
  else tileTensors p pl c ++ ringsOn p pl c ++ (codePieces p pl c).map (fun x => (x.1, x.2.length))
    ++ [((Config.cringBase (pl.key p) c).toNat * 32, 8192)]

def apart (xs : List (Nat × Nat)) : Bool :=
  (List.range xs.length).all fun i => (List.range i).all fun j => !overlaps (xs.getD i (0, 0)) (xs.getD j (0, 0))

/-- The stretches of a proposal lie within 6 MiB and apart. -/
def tileApart (p : Package) (pl : Placement) (c : Nat) : Bool :=
  let xs := tileStretches p pl c
  xs.all (fun x => decide (x.1 + x.2 ≤ 0x600000)) && apart xs

/-- Tile memory of some cluster is exhausted (DETAIL 0x21): what it would hold is more than 6 MiB. -/
def tileFull (p : Package) (pl : Placement) : Bool :=
  (List.range 384).any fun c => decide (0x600000 < ((tileStretches p pl c).map (·.2)).foldl (· + ·) 0)

/-! ### The proposed entries -/

structure Planned where
  index : Nat
  cluster : Nat
  stage : Stage
  oper : OperE
  entry : TEntry
  closing : Bool
  /-- firings in a step: one, or a free number where it re-arms -/
  fires : Nat
  dual : BitVec 128
  /-- the commands of an array task -/
  cmds : List (BitVec 256)
  /-- the CURVATURE entries whose statistics the task belongs to: those whose guard it is bound to under POL = 1 -/
  stats : List Nat
  deriving DecidableEq, Repr

def putBit (d : BitVec 1024) (n : Nat) (v : Bool) : BitVec 1024 :=
  (d &&& ~~~(1#1024 <<< n)) ||| (if v then 1#1024 <<< n else 0)

/-- The mode of a task: that of its operation (R75); class-6 stages and statistics run in fast mode (R360, R363). -/
def modeOf (o : OperE) (stats : List Nat) (kind : Nat) (cmds : List (BitVec 256)) : Bool :=
  o.runsStrict && !(!stats.isEmpty && (kind ≠ 1 || cmds.any isTurnLoad))

/-- The bits of a descriptor word that R226, R227 and R109 name, by KIND and word; the others are reserved and read 0 (R21). -/
def descWordMask (kind k : Nat) : Nat :=
  match k, kind with
  | 0, _ => 2 ^ 64 - 1 - (2 ^ 32 - 2 ^ 28)
  | 1, _ | 2, _ => 2 ^ 64 - 1
  | 3, _ => (2 ^ 25 - 1) * (2 ^ 32 + 1)
  | 4, _ => 0xBFBFBFBF
  | 5, 1 => 2 ^ 23 - 1 + (2 ^ 48 - 2 ^ 32)
  | 5, 2 => 2 ^ 23 - 1 + (2 ^ 55 - 2 ^ 32)
  | 5, 4 => 2 ^ 23 - 1
  | 6, 2 | 6, 4 => 2 ^ 32 - 1
  | 5, 3 | 6, 3 | 12, 3 | 13, 3 | 14, 3 => 2 ^ 48 - 1
  | 7, 2 | 8, 2 | 9, 2 | 10, 2 => 2 ^ 64 - 1
  | 7, 3 => 0xFFFFFF3F3F3F
  | 8, 3 | 9, 3 | 10, 3 | 11, 3 => 2 ^ 64 - 1
  | 15, 3 => 7
  | _, _ => 0

def descMask (kind : Nat) : BitVec 1024 :=
  BitVec.ofNat 1024 (((List.range 16).map fun k => descWordMask kind k * 2 ^ (64 * k)).foldl (· + ·) 0)

/-- Reserved bits of a binding read 0 (R345). -/
def dualMask : BitVec 128 := BitVec.ofNat 128 (2 ^ 54 - 1 + 2 ^ 63 + (2 ^ 48 - 1) * 2 ^ 64)

/-- Entry i of a cluster as placement proposes it: the free descriptor with the mode of its operation in STRICT, and in the
conversion control word of a DMA task (R75, R109). -/
def plannedEntry (p : Package) (pl : Placement) (c i : Nat) : Option Planned :=
  let key := pl.key p
  match pl.stageOf key c i with
  | none => none
  | some g =>
    (p.oper g.op).map fun o =>
      let d := (List.range 16).foldl (fun d w => d ||| ((Config.taskWord key c i w).zeroExtend 1024 <<< (64 * w))) (0 : BitVec 1024)
      let d := d &&& descMask (fld d 0 3)
      let e : TEntry := { desc := d, state := .waiting }
      let ps := Config.tilePieces key c g.op
      let cmds := if e.kind = 1 then (List.range (e.f 5 32 16)).map fun k => BitVec.ofNat 256 (leBytes (pieceByte ps) (e.addr + 32 * k) 32) else []
      let stats := statsOf p key g.op (c / 16) e
      let strict := modeOf o stats e.kind cmds
      let d := putBit d 3 strict
      let d := if e.kind = 3 then putBit d (64 * 7 + 20) strict else d
      { index := i, cluster := c, fires := if e.rearm then Config.entryFires key c i else 1, stage := g, oper := o, entry := { desc := d, state := .waiting }, closing := Config.entryClosing key c i
        dual := (Config.dualWord key c i 1 ++ Config.dualWord key c i 0) &&& dualMask, cmds := cmds, stats := stats }

/-- The entries of a cluster; one that takes part in no segment has none. -/
def planned (p : Package) (pl : Placement) (c : Nat) : List Planned :=
  if (pl.stagesOn c).isEmpty then []
  else (List.range (Config.taskCount (pl.key p) c)).filterMap (plannedEntry p pl c)

/-! ### Slots, gates and closing entries (R233, R270 to R272) -/

def Planned.consumes (x : Planned) (slot : Nat) : Bool := x.entry.waits.any fun w => w.1 = slot
def Planned.feeds (x : Planned) (slot : Nat) : Bool := x.entry.prods.any fun w => w.1 = slot

/-- One consuming entry, or two bound to one guard under complementary values of POL (R233). -/
def consumersOk (es : List Planned) (slot : Nat) : Bool :=
  match es.filter (·.consumes slot) with
  | [] => true
  | [_] => true
  | [a, b] => a.entry.guardEn && b.entry.guardEn && a.entry.guardNo = b.entry.guardNo && a.entry.pol ≠ b.entry.pol
  | _ => false

/-- Two entries of which every step wants one: bound to one guard under complementary values of POL, with the same waits (R233). -/
def Planned.partners (d e : Planned) : Bool :=
  d.entry.guardEn && e.entry.guardEn && d.entry.guardNo = e.entry.guardNo && d.entry.pol ≠ e.entry.pol && d.entry.waits = e.entry.waits

/-- Whether each step needs a firing of an entry: it is bound to no guard, or it or its partner runs. -/
def Planned.needed (es : List Planned) (e : Planned) : Bool := !e.entry.guardEn || es.any e.partners

/-- What a slot holds in a step: its count after placement and what the entries add to it, one of two partners. -/
def supplied (es : List Planned) (init : Nat → Nat) (slot : Nat) : Nat :=
  init slot + ((es.filter fun e => e.entry.pol || !es.any e.partners).map fun e =>
    ((e.entry.prods.filter fun w => w.1 = slot).map (·.2)).foldl (· + ·) 0 * e.fires).foldl (· + ·) 0

/-- The last firing of x follows every firing of e through a slot: x takes more from it than it holds without one of e's signals (R272). -/
def follows (es : List Planned) (init : Nat → Nat) (x e : Planned) : Bool :=
  x.entry.waits.any fun w => decide (w.1 < 239) && e.entry.prods.any fun q => q.1 = w.1 && decide (supplied es init w.1 - q.2 < w.2 * x.fires)

/-- The entries whose firings some entries follow, in so many turns. -/
def followed (es : List Planned) (init : Nat → Nat) : Nat → List Planned → List Planned
  | 0, xs => xs
  | n + 1, xs => followed es init n (es.filter fun e => xs.contains e || xs.any fun x => follows es init x e)

/-- The entries of segment k that fire only after its gate: they wait on it, or on a signal of one that does (R271). -/
def gated (es : List Planned) (init : Nat → Nat) (k : Nat) : Nat → List Planned
  | 0 => es.filter fun e => e.entry.waits.contains (239 + k, 1)
  | n + 1 =>
    let xs := gated es init k n
    es.filter fun e => xs.contains e || e.entry.waits.any fun w => decide (w.1 < 239 ∧ init w.1 < w.2) && xs.any (·.feeds w.1)

/-- The gate, the closing entry and the slots of one segment on a cluster: nothing fires before the gate, and the closing entry follows
every firing that each step needs (R271, R272). -/
def segmentOk (es : List Planned) (init : Nat → Nat) (k : Nat) (last : Bool) : Bool :=
  let mine := es.filter (·.stage.segment = k)
  let closing := mine.filter (·.closing)
  let behind := gated mine init k 128
  let before := followed mine init 128 closing
  closing.length = 1 && closing.all (fun e => !e.entry.guardEn && (e.feeds 255 == last))
  && mine.all (fun e => behind.contains e && (!e.needed mine || before.contains e) && (e.closing || !e.feeds 255)
      && e.entry.waits.all (fun w => w.1 < 239 || w.1 = 239 + k)
      && e.entry.prods.all (fun w => w.1 < 239 || (w.1 = 255 && w.2 = 1))
      && e.entry.remotes.all fun w => w.1 < 384 && w.2.1 < 239)

/-- The counts of a cluster's slots after placement. -/
def slotInits (p : Package) (pl : Placement) (c n : Nat) : Nat := (slotAt p pl c n).toNat

/-- The table of a cluster as a whole: at most 128 entries, slots with their consumers, buffers inside tile memory. -/
def tableOk (p : Package) (pl : Placement) (c : Nat) : Bool :=
  let key := pl.key p
  let es := planned p pl c
  let segs := ((pl.stagesOn c).map (·.segment)).eraseDups
  decide (Config.taskCount key c ≤ 128) && tileApart p pl c && (List.range 255).all (consumersOk es)
  && segs.all (fun k => segmentOk es (slotInits p pl c) k (decide (segs.foldl max 0 = k)))
  && es.all fun e => e.entry.wbufs.all fun b =>
      let w := Config.bufInit key c b
      decide (fld w 0 16 * 128 + fld w 16 16 * 128 ≤ 0x600000)

/-! ### What DMA tasks move -/

/-- The transfer of an entry, in the package's formats. -/
def Package.xfer (p : Package) (e : TEntry) : Xfer :=
  let c := cvtOf (e.word 7)
  { cvt := c, src := e.side (p.fmtIx c.src) 5 8 9 12, dst := e.side (p.fmtIx c.dst) 6 10 11 13, resAddr := e.f 14 0 48 }

/-- The stretches of a side, its scale codes among them. -/
def Side.stretches (x : Side) : List (Nat × Nat) :=
  x.spans.map (fun q => (q.1.toNat, q.2)) ++ (if x.scaleSpan = 0 then [] else [(x.scaleAddr, x.scaleSpan)])

def liesIn (x y : Nat × Nat) : Bool := decide (y.1 ≤ x.1) && decide (x.1 + x.2 ≤ y.1 + y.2)

/-- A channel's tasks (R277 to R279): the producer's re-arming copy of one buffer from its own tile memory, which waits on the credit slot
and signals the data slot through REMOTE0, and the consumer's task, which claims the buffer that the copy writes and returns one credit. The
depth is lowered only where the consumer's tile memory could not hold its stretches otherwise. -/
def channelOk (p : Package) (pl : Placement) (x : Channel) : Bool :=
  let key := pl.key p
  let n := p.ringBytes pl x
  let ring := (tileBase x.consumer + x.ring key, x.depth key * p.ringStep pl x)
  let sends (e : Planned) :=
    let d := p.xfer e.entry
    e.stage.op = x.writer && e.entry.kind = 3 && e.entry.rearm && e.entry.waits.contains (x.credit key, 1)
    && e.entry.remotes.head? == some (x.consumer, x.data key, 1) && d.isCopy && fld e.dual 63 1 = 0
    && d.dst.stretches.all (liesIn · ring) && (d.dst.stretches.map (·.2)).foldl (· + ·) 0 = n
    && d.src.stretches.all (liesIn · (tileBase x.producer, 0x600000))
  let takes (d e : Planned) := e.stage.op = x.reader && e.consumes (x.data key) && e.entry.remotes.contains (x.producer, x.credit key, 1)
    && e.entry.wbufs.any fun b =>
      let w := Config.bufInit key x.consumer b
      let buf := (tileBase x.consumer + fld w 0 16 * 128, fld w 16 16 * 128)
      liesIn buf ring && (p.xfer d.entry).dst.stretches.all (liesIn · buf)
  let room : Nat := ((tileStretches p pl x.consumer).map (·.2)).foldl (· + ·) 0
    + (((p.channels pl).filter fun y => y.consumer = x.consumer && y.low key).map fun y => (y.full - 1) * p.ringStep pl y).foldl (· + ·) 0
  ((planned p pl x.producer).any fun d => sends d && (planned p pl x.consumer).any (takes d)) && decide (x.credit key < 239)
  && decide (x.data key < 239) && (!x.low key || decide (0x600000 < room))

/-- Channels share no slot. -/
def chanSlots (key : Nat) (xs : List Channel) : List (Nat × Nat) :=
  xs.flatMap fun x => [(x.producer, x.credit key), (x.consumer, x.data key)]

/-! ### Shares of tensors in DMA tasks (R275, R339, R353) -/

/-- The elements of a tensor that a cluster of a stage works on, first and number: of masters, optimiser state and working copies its part
of the shard that the module owns, of a SLICE tensor its share, of another all. `own` answers the shard of so many elements. -/
def Package.parts (p : Package) (own : Nat → Nat × Nat) (o : OperE) (g : Stage) (t c : Nat) : List (Nat × Nat) :=
  let master := fld (o.word 4) 0 32
  let e := (p.tensor master).elements
  let n := g.clusters.length
  let cutAt (k : Nat) : Nat := if n ≤ k then (own e).2 else min (own e).2 (((List.range k).map fun j => 64 * Config.shareCut p.digest.toNat master n j).foldl max 0)
  let lo := (own e).1 + cutAt (g.rank c)
  let len := cutAt (g.rank c + 1) - cutAt (g.rank c)
  if o.cls = 5 ∧ (t = master ∨ t = fld (o.word 4) 32 32) then [(lo, len)]
  else if o.cls = 5 ∧ t = fld (o.word 5) 0 32 then (List.range (fld (o.word 5) 32 4)).map fun k => (k * e + lo, len)
  else [p.shareIn t g c]

/-- The stretches of a side that lie in the device home of a tensor. -/
def inHome (h : Option Home) (xs : List (Nat × Nat)) : List (Nat × Nat) :=
  match h with
  | some h => if h.tier < 2 then xs.filter fun x => overlaps x (h.base, h.bytes) else []
  | none => []

/-- One side of a DMA task keeps to the cluster's part of every tensor that it reaches; a result of a split reduction is stored by the
stage's last cluster alone (R275). -/
def sideOk (p : Package) (pl : Placement) (own : Nat → Nat × Nat) (e : Planned) (xs : List (Nat × Nat)) (out : Bool) : Bool :=
  (List.range p.tensors.length).all fun t =>
    let mine := inHome pl.homes[t]? xs
    let base := ((pl.homes[t]?).map (·.base)).getD 0
    let ok := (p.parts own e.oper e.stage t e.cluster).flatMap fun q => elemRanges (p.fmtAt t) (p.tensor t).elements q.1 q.2
    mine.all (fun x => ok.any fun y => liesIn x (base + y.1, y.2))
    && (mine.isEmpty || !out || !e.oper.splitK || (p.producers e.stage).contains e.cluster)

/-- The carrier of so many limbs. -/
def limbsCarrier (l : Nat) : Carrier := if l = 0 then .half else .limb l

/-- A conversion of a DMA task runs at the carrier in use of the tensors that it reaches (R76, R268). -/
def carrierOk (p : Package) (pl : Placement) (e : Planned) : Bool :=
  let d := p.xfer e.entry
  d.isCopy || !e.stats.isEmpty || e.oper.cls = 6
  || (List.range p.tensors.length).all fun t =>
    (inHome pl.homes[t]? (d.src.stretches ++ d.dst.stretches)).isEmpty || (p.fmtAt t).isSI || d.carrier = limbsCarrier (p.carrierIn e.oper t)

/-- What a DMA task moves (R75, R76, R268, R275, R339, R353). -/
def moveOk (p : Package) (pl : Placement) (own : Nat → Nat × Nat) (e : Planned) : Bool :=
  e.entry.kind ≠ 3
  || (let d := p.xfer e.entry
      let second := if fld e.dual 63 1 = 0 then [] else [(fld e.dual 0 48, ((p.fmtIx (fld e.dual 48 6)).bytesOf d.src.count))]
      sideOk p pl own e d.src.stretches false && sideOk p pl own e (d.dst.stretches ++ second) true && carrierOk p pl e)

/-! ### What the tasks of each class look like -/

/-- The tensor of an edge with a role (R264). -/
def Package.operand (p : Package) (o : OperE) (role : Nat) : Option Nat := ((p.opEdges o).find? fun e => e.role = role).map (·.tensor)

/-- The array commands of a GEMM run at the carriers in use; a split reduction drains its partial sums in at least the three
limbs of binary32, and in strict mode at no less than the natural carrier of the result (R76, R268, R275). -/
def gemmOk (p : Package) (o : OperE) (cmds : List (BitVec 256)) : Bool :=
  let car (role : Nat) := (p.operand o role).map (p.carrierIn o)
  let least := if o.strict then (car 2).getD 0 else 0
  cmds.all fun c =>
    match cmdOpcode c with
    | 3 => (car 1).all fun l => cw c 0 12 4 = l
    | 5 => (car 0).all fun l => cw c 0 8 4 = l
    | 6 => if o.splitK then decide (max 3 least ≤ cw c 0 8 4) else (car 2).all fun l => cw c 0 8 4 = l
    | _ => true

/-- A strict reduction that would reach 2^31 block-pair sums is split over separate entries, each drained on its own (R146). -/
def sumsOk (o : OperE) (g : Stage) (es : List Planned) : Bool :=
  let sums := ((if o.splitK then o.k / max 1 g.clusters.length else o.k) + 31) / 32
  let drains := (es.flatMap (·.cmds)).countP fun c => cmdOpcode c = 6
  !o.strict || decide (sums < 2 ^ 31) || decide (sums < drains * (2 ^ 31 - 1))

/-- Instances of a cluster's calls: ⌈share ÷ 4,096⌉ calls, each with the global index of its first instance (R307). -/
def callsOf (share : Nat × Nat) : List (Nat × Nat) :=
  (List.range ((share.2 + 4095) / 4096)).map fun k => (share.1 + 4096 * k, min 4096 (share.2 - 4096 * k))

/-- The tensors of ROLE 4 and 5 reach the calls: a buffer of a call lies in a tile home, a DMA task of the cluster moves a device home, and
streams come by their rings (R309, R331). -/
def solverTied (p : Package) (pl : Placement) (c : Nat) (o : OperE) (es : List Planned) (cmd : Planned → BitVec 512) : Bool :=
  let calls := es.filter fun e => e.entry.kind = 4
  calls.isEmpty || (p.opEdges o).all fun x =>
    (x.role ≠ 4 && x.role ≠ 5) || match pl.homes[x.tensor]? with
    | none => false
    | some h =>
      if h.tier < 2 then es.any fun e => e.entry.kind = 3 &&
        !(inHome (some h) (if x.out then (p.xfer e.entry).dst.stretches else (p.xfer e.entry).src.stretches)).isEmpty
      else if h.tier = 2 then
        let y := (pl.tileAt x.tensor c, (tileBytes p pl.stages x.tensor c).2)
        calls.any fun e => ([(1, 0), (2, 0), (3, 0), (3, 23)].map fun (w : Nat × Nat) => cmdFld (cmd e) w.1 w.2 23).any fun q => liesIn (q, 1) y
      else true

/-- The solver calls of a cluster (R307): the words of the operation, the deadline, the instances of the share. -/
def solverOk (p : Package) (pl : Placement) (c : Nat) (g : Stage) (o : OperE) (es : List Planned) : Bool :=
  let calls := es.filter fun e => e.entry.kind = 4
  let cmd (e : Planned) := BitVec.ofNat 512 (leBytes (pieceByte (Config.tilePieces (pl.key p) c g.op)) e.entry.addr 64)
  let share := ((instanceShares (fld (o.word 5) 0 24) g.clusters).find? fun x => x.1 = c).map (·.2)
  calls.all (fun e => e.entry.rearm && e.fires = p.microbatches && e.entry.f 6 0 32 = fld (o.word 7) 0 32 && cmdFld (cmd e) 0 0 32 = fld (o.word 4) 0 32
    && cmdFld (cmd e) 0 45 3 = fld (o.word 4) 32 3 && cmdFld (cmd e) 4 0 64 = fld (o.word 6) 0 64
    && cmdFld (cmd e) 5 0 32 = fld (o.word 7) 32 32)
  && ((calls.map fun e => (cmdFld (cmd e) 6 0 24, cmdFld (cmd e) 0 32 13)).mergeSort fun a b => decide (a.1 ≤ b.1))
      == (share.map callsOf).getD []
  && solverTied p pl c o es cmd

/-- The kernel of a class-4 operation runs once for each micro-batch, and one further task of each cluster carries TRIGGER = 1 and
fires after the last of these firings (R348, R349). -/
def gradOk (p : Package) (pl : Placement) (c : Nat) (g : Stage) (es : List Planned) : Bool :=
  let kernel := es.filter fun e => e.entry.kind = 2 && e.entry.addr = Config.codeAddr (pl.key p) c g.op
  let triggers := es.filter (·.entry.trigger)
  let before := followed es (slotInits p pl c) 128 triggers
  (kernel.map fun e => (e.entry.rearm, e.entry.trigger, e.entry.guardEn, e.fires)) == [(true, false, false, p.microbatches)]
  && (triggers.map fun e => (e.entry.rearm, e.entry.guardEn)) == [(false, false)]
  && kernel.all before.contains

def within (a : Nat) (h : Option Home) : Bool := h.any fun h => decide (h.base ≤ a) && decide (a < h.base + h.bytes)

/-- A DMA task that stores MASTER and WORK at once (R344, R353). -/
def dualStore (p : Package) (pl : Placement) (o : OperE) (e : Planned) : Bool :=
  let work := fld (o.word 4) 32 32
  e.entry.kind = 3 && fld e.dual 63 1 = 1 && e.entry.f 7 8 6 = 2 && fld e.dual 48 6 = (p.tensor work).fmt
  && within (e.entry.f 6 0 48) (pl.homes[fld (o.word 4) 0 32]?) && within (fld e.dual 0 48) (pl.homes[work]?)

/-- The update tasks of a cluster: one with TRIGGER = 1, and no store to WORK but a dual-destination one (R353, R354). -/
def updateOk (pl : Placement) (o : OperE) (es : List Planned) : Bool :=
  let work := fld (o.word 4) 32 32
  ((es.filter (·.entry.trigger)).map fun e => e.entry.rearm) == [false]
  && (work = 0xFFFFFFFF || es.all fun e => e.entry.kind ≠ 3 || !within (e.entry.f 6 0 48) (pl.homes[work]?))

/-- Root GEMMs run with 4 limbs throughout (R366). -/
def rootOk (es : List Planned) : Bool :=
  es.all fun e => e.cmds.all fun c =>
    match cmdOpcode c with
    | 3 => cw c 0 12 4 = 4
    | 5 => cw c 0 8 4 = 4
    | 6 => cw c 0 8 4 = 4
    | _ => true

/-- A statistics GEMM: every stationary load transposes, the moving operand has one limb more than the stationary one, at most
8, and the result is drained at 8 limbs (R360, R361). -/
def statGemm (cmds : List (BitVec 256)) : Bool :=
  let loads := cmds.filter fun c => cmdOpcode c = 3
  let lb := (loads.map fun c => cw c 0 12 4).foldl max 0
  !loads.isEmpty && loads.all (fun c => isTurnLoad c && cw c 0 12 4 = lb) && (cmds.any fun c => cmdOpcode c = 6)
  && cmds.all fun c =>
    match cmdOpcode c with
    | 5 => cw c 0 8 4 = min 8 (lb + 1)
    | 6 => cw c 0 8 4 = 8 && cw c 0 12 3 = 0
    | _ => true

/-- The transposed copy of a statistics operand: into SI limb form, from SI form with one limb more than its source, at most 8;
GRAD reaches the stationary operand at 3 limbs and the moving one at 4 (R360). -/
def statCopy (e : Planned) : Bool :=
  let fmt (i : Nat) := fmtOf i (builtinDesc i)
  let src := fmt (e.entry.f 7 0 6)
  let dst := fmt (e.entry.f 7 8 6)
  e.entry.kind = 3 && dst.kind = .siLimb && (if src.kind = .siLimb then dst.nat = min 8 (src.nat + 1) else dst.nat = 4)

/-- The backward GEMM that forms the input gradient of a GEMM's layer: a later one on the same stationary operand with N and K
exchanged (R359). DEDUCED, log entry 173. -/
def Package.backwardOf (p : Package) (op : Nat) : Option Nat :=
  match p.oper op with
  | none => none
  | some o => (p.opers.zipIdx.find? fun x =>
      decide (op < x.2) && x.1.cls = 1 && (p.operand x.1 1).isSome && p.operand x.1 1 == p.operand o 1 && x.1.k = o.n && x.1.n = o.k).map (·.2)

/-- The operation whose moving operand an entry's statistics capture; none where they are of GRAD (R359). -/
def Package.captured (p : Package) (v : CurvE) : Option Nat :=
  match v.kind with
  | 0 => some v.op
  | 1 => some ((p.backwardOf v.op).getD v.op)
  | _ => none

/-- A list of array commands that captures. -/
def Planned.captures (e : Planned) : Bool := e.cmds.any fun c => cmdOpcode c = 5 && cw c 0 13 1 = 1

/-- The captured GEMM on a cluster of its stage: two array tasks, with and without CAPTURE, under complementary POL of the entry's guard,
on every micro-batch (R359). -/
def captureOk (p : Package) (key c k : Nat) (es : List Planned) : Bool :=
  let n := Config.statGuard key k (c / 16)
  let bound := es.filter fun e => e.entry.kind = 1 && e.entry.guardEn && e.entry.guardNo = n && !statGemm e.cmds
  decide (n < 64) && (bound.filter (·.entry.pol)).length = 1 && (bound.filter fun e => !e.entry.pol).length = 1
  && bound.all (fun e => e.entry.pol == e.captures && e.fires = p.microbatches && bound.any e.partners)

/-- Where the operands of an entry's statistics come from on a cluster, as stretches of tile memory: what its captures write, or what a task
of its statistics makes of GRAD (R359, R360). -/
def statSources (p : Package) (pl : Placement) (v : CurvE) (c : Nat) (bound : List Planned) : List (Nat × Nat) :=
  match p.captured v with
  | some op => ((planned p pl c).filter fun e => e.stage.op = op && e.captures).flatMap fun e =>
      (e.cmds.filter fun w => cmdOpcode w = 5).flatMap fun w => (streamOf w).writes false
  | none =>
    let grad := (p.oper v.op).bind fun o => pl.homes[fld (o.word 4) 0 32]?
    (bound.filter fun e => e.entry.kind = 3 && !(inHome grad (p.xfer e.entry).src.stretches).isEmpty
      && (p.xfer e.entry).dst.fmt.isSI && (p.xfer e.entry).carrier = .limb 3).flatMap fun e =>
        (p.xfer e.entry).dst.stretches.map fun x => (x.1 - tileBase c, x.2)

/-- Where the drains of a statistics GEMM add: block, row, rows, column, columns (R361). -/
def statTiles (p : Package) (key : Nat) (e : Planned) : List (Nat × Nat × Nat × Nat × Nat) :=
  ((e.cmds.filter fun w => cmdOpcode w = 6).zipIdx).map fun x =>
    let (b, row, col) := Config.statOrigin key e.cluster e.index x.2
    let n := ((p.block b).map (·.n)).getD 0
    (b, row, (drainOf x.1).rows, col, min 128 (n - col))

/-- The drains of an entry's statistics GEMMs on all clusters cover each of its blocks once (R361). -/
def statCover (p : Package) (pl : Placement) (k : Nat) (v : CurvE) : Bool :=
  let key := pl.key p
  let ts := ((stageClusters pl.stages v.op).flatMap fun c =>
    ((planned p pl c).filter fun e => e.stage.op = v.op && e.stats.contains k && statGemm e.cmds).flatMap (statTiles p key))
  let meets (x y : Nat × Nat × Nat × Nat × Nat) : Bool := x.1 = y.1 && overlaps (x.2.1, x.2.2.1) (y.2.1, y.2.2.1) && overlaps (x.2.2.2.1, x.2.2.2.2) (y.2.2.2.1, y.2.2.2.2)
  ts.all (fun x => (p.block x.1).any fun b => b.entry = k && decide (x.2.1 + x.2.2.1 ≤ b.n))
  && (List.range ts.length).all (fun i => (List.range i).all fun j => !meets (ts.getD i (0, 0, 0, 0, 0)) (ts.getD j (0, 0, 0, 0, 0)))
  && p.blocks.zipIdx.all fun x => x.1.entry ≠ k
    || ((ts.filter fun y => y.1 = x.2).map fun y => y.2.2.1 * y.2.2.2.2).foldl (· + ·) 0 = x.1.n * x.1.n

/-- The statistics work of a CURVATURE entry on a cluster of its operation's stage (R359 to R362): statistics GEMMs whose stationary operand
is the capture or GRAD, on every micro-batch or once, the transposed copies of the same data, and one task that updates F. -/
def statsOk (p : Package) (pl : Placement) (c k : Nat) (v : CurvE) (es : List Planned) : Bool :=
  let key := pl.key p
  let n := Config.statGuard key k (c / 16)
  let bound := es.filter (·.stats.contains k)
  let gemms := bound.filter fun e => statGemm e.cmds
  let sources := statSources p pl v c bound
  let grad := (p.oper v.op).bind fun o => pl.homes[fld (o.word 4) 0 32]?
  let times := if v.kind < 2 then p.microbatches else 1
  let copies := bound.filter fun e => statCopy e
    && (if v.kind < 2 then (p.xfer e.entry).src.stretches.all fun x => sources.any fun y => liesIn x (tileBase c + y.1, y.2)
        else !(inHome grad (p.xfer e.entry).src.stretches).isEmpty)
  decide (n < 64) && !gemms.isEmpty && !copies.isEmpty
  && gemms.all (fun e => e.fires = times && (e.cmds.filter isTurnLoad).all fun w => sources.any fun y => liesIn (cw w 0 40 23, 1) y)
  && copies.all (fun e => e.fires = times)
  && bound.all (fun e => e.entry.kind ≠ 1 || e.captures || statGemm e.cmds)
  && ((bound.filter fun e => e.entry.kind = 2 && Config.updatesFactor key c e.index).map (·.entry.rearm)) == [false]

/-- The tasks of one stage on one of its clusters. -/
def stageOk (p : Package) (pl : Placement) (c : Nat) (g : Stage) : Bool :=
  let key := pl.key p
  let es := (planned p pl c).filter (·.stage.op = g.op)
  match p.oper g.op with
  | none => false
  | some o =>
    es.all (fun e => o.cls = 1 || o.cls = 3 || o.cls = 6 || !e.stats.isEmpty || e.entry.kind ≠ 2 || e.entry.addr = Config.codeAddr key c g.op)
    && (match o.cls with
      | 1 => sumsOk o g es && es.all fun e => !e.stats.isEmpty && statGemm e.cmds || gemmOk p o e.cmds
      | 3 => solverOk p pl c g o es
      | 4 => gradOk p pl c g (es.filter (·.stats.isEmpty))
      | 5 => updateOk pl o es
      | 6 => rootOk es
      | _ => true)
    && (List.range p.curvature.length).all fun k => match p.curv k with
      | some v => (v.op ≠ g.op || statsOk p pl c k v es) && (p.captured v ≠ some g.op || captureOk p key c k es)
      | none => true

/-- WORK of a class-5 stage is written by a dual-destination store on some cluster of it (R353). -/
def workStored (p : Package) (pl : Placement) (g : Stage) : Bool :=
  match p.oper g.op with
  | some o => o.cls ≠ 5 || fld (o.word 4) 32 32 = 0xFFFFFFFF
      || g.clusters.any fun c => ((planned p pl c).filter (·.stage.op = g.op)).any (dualStore p pl o)
  | none => true

/-- NBOUND has eight bits: no more entries of a region are bound to one guard (R242, R257). -/
def guardsOk (p : Package) (pl : Placement) : Bool :=
  (List.range 24).all fun r =>
    let es := (List.range 16).flatMap fun i => planned p pl (16 * r + i)
    (List.range 64).all fun n => decide ((es.countP fun e => e.entry.guardEn && e.entry.guardNo = n) ≤ 255)

/-- A proposal breaks a rule, or a cluster would need more than its table, slots or buffers hold (DETAIL 0x23). -/
def tablesBad (p : Package) (pl : Placement) (own : Nat → Nat × Nat) : Bool :=
  let key := pl.key p
  let xs := p.channels pl
  let slots := chanSlots key xs
  (List.range 384).any (fun c => !(pl.stagesOn c).isEmpty && (!tableOk p pl c || (planned p pl c).any (fun e => !moveOk p pl own e)
    || (pl.stagesOn c).any fun g => !stageOk p pl c g))
  || xs.any (fun x => !channelOk p pl x) || decide (slots.eraseDups.length < slots.length) || pl.stages.any (fun g => !workStored p pl g)
  || !guardsOk p pl || (List.range p.curvature.length).any fun k => (p.curv k).any fun v => !statCover p pl k v

end Sys2Proof.Machine
end

