-- ==== Sys2Proof/Machine/Placer.lean ====
section
/-! DEFINITION. The placer (08 R267, R276, R286 to R292): whether a placement succeeds, what the region schedulers then write
into clusters, guards and regulators, the contents of tensors, and the report. -/
namespace Sys2Proof.Machine

/-! ### The whole placement -/

/-- The placer's proposals for stages and homes, in the order in which it makes them. -/
def proposals (p : Package) (pl : Placement) : List Placement :=
  { pl with attempt := 0 } :: (List.range (Config.attempts (pl.key p))).map fun n => { pl with attempt := n + 1 }

/-- A placement, or the DETAIL of R267 that it fails with; homes and curvature stretches that a placement before gave stay. The first
proposal that keeps every rule stands; where none does, tile memory is exhausted if each asks for more than 6 MiB, else tables, slots or buffers
are. DESIGN CHOICE, log entry 150: of several failures, the order below. -/
def State.placementOf (s : State) (p : Package) (old : Option Placement) : Placement ⊕ Nat :=
  let fenced := s.fencedSet
  let free := freeClusters fenced
  if free.isEmpty then .inr 0x20
  else if tooManySegments p free.length then .inr 5
  else
    let stages := stagesOf p s.desc free
    let areas := (old.map (·.areas)).getD []
    match placeHomes s.glob p stages old (curvTaken p stages areas) with
    | .inr d => .inr d
    | .inl given =>
      match placeCurv s.glob p stages areas given.taken with
      | none => .inr 0x22
      | some curv =>
        let pl : Placement :=
          { stages := stages, homes := given.homes.map (·.2), segments := (stages.map (·.segment)).foldl max 0 + 1, fenced := fenced, areas := curv
            tiles := given.tiles }
        let own (e : Nat) : Nat × Nat := shardOf e (s.fab.groupSize p.dpMask) (s.fab.rank p.dpMask)
        match (proposals p pl).find? fun x => !tablesBad p x own with
        | none => .inr (if (proposals p pl).all (tileFull p) then 0x21 else 0x23)
        | some pl => if storeBad p stages then .inr 0x24 else .inl pl

/-- Whether a cluster takes part in a segment. -/
def Placement.takesPart (pl : Placement) (c seg : Nat) : Bool := pl.stages.any fun g => g.segment = seg && g.clusters.contains c

/-- Whether a cluster takes part in the step at all. -/
def Placement.participates (pl : Placement) (c : Nat) : Bool := pl.stages.any fun g => g.clusters.contains c

/-! ### What the region schedulers write -/

/-- A cluster's volatile state of chapter 07 after an unload (R258, R267). -/
def Cluster.unload (k : Cluster) : Cluster :=
  { vec := k.vec, arr := k.arr, cvt := k.cvt, fenced := k.fenced, stl := k.stl }

/-- Table, bindings, slots and buffers of a cluster as placement makes them; everything else it holds stays (R225, R241,
R271, R345). A step that runs again finds them so (log entry 24). -/
def Cluster.rearm (k : Cluster) (p : Package) (pl : Placement) (c : Nat) : Cluster :=
  let es := planned p pl c
  { k with
    table := Vector.ofFn fun i => ((es.find? (·.index = i.val)).map (·.entry)).getD {}
    dual := Vector.ofFn fun i => ((es.find? (·.index = i.val)).map (·.dual)).getD 0
    slots := Vector.ofFn fun i => slotAt p pl c i.val
    bufs := Vector.ofFn fun i =>
      let w := Config.bufInit (pl.key p) c i.val
      { base := BitVec.ofNat 16 (fld w 0 16), lines := BitVec.ofNat 16 (fld w 16 16) } }

/-- A cluster loaded at placement: also its ring, empty. The bits of TSK_STAT stay until ones are written to them (R255,
R256). -/
def Cluster.install (k : Cluster) (p : Package) (pl : Placement) (c : Nat) : Cluster :=
  { k.unload.rearm p pl c with tstat := k.tstat, cringBase := Config.cringBase (pl.key p) c }

/-- NBOUND of a guard: the entries of the region's tables that are bound to it (R242). -/
def State.boundTo (s : State) (r : Rg) (g : Nat) : Nat :=
  ((clustersOf r).map fun c => (s.cl c).table.toList.countP fun e => e.guardEn && e.guardNo == g).foldl (· + ·) 0

/-- Every guard UNRESOLVED, with its bound entries counted. -/
def State.loadGuards (s : State) : State :=
  { s with rgs := Vector.ofFn fun r =>
      { s.rg r with guards := Vector.ofFn fun g => { nbound := BitVec.ofNat 8 (s.boundTo r g.val) }, hold := [], held := [] } }

/-- An engine's pages after placement. -/
def Region.install (x : Region) (p : Package) (stages : List Stage) (r : Nat) : Region :=
  let (a, b, c) := enginePages p stages r
  { x with nyala := { x.nyala with used := BitVec.ofNat 11 (a + b + c), context := BitVec.ofNat 11 b, dense := BitVec.ofNat 11 c } }

/-! ### Regulators (R285) -/

/-- Whether an address or a stripe lies in a partition. -/
def homeIn (g : MemGlobal) (h : Home) (q : Nat) : Bool :=
  h.tier < 2 && (if h.part = 31 then decide (q < 12) == decide (h.tier = 0) else h.part = q || (partitionOf g h.base).any fun x => x.1 = q)

/-- Whether a stage's traffic reaches a partition: the home of a tensor that it uses lies there, or a stretch of the curvature work of its
statistics or its roots (R285). -/
def touches (g : MemGlobal) (p : Package) (pl : Placement) (st : Stage) (q : Nat) : Bool :=
  (List.range p.tensors.length).any (fun t => (p.users t).contains st.op && (pl.homes[t]?).any fun h => homeIn g h q)
  || pl.areas.any fun a => (partitionOf g a.base).any (fun x => x.1 = q)
    && if a.kind = 2 ∨ a.kind = 3 ∨ a.kind = 4 ∨ a.kind = 8 then st.interleaved && (p.oper st.op).any (fun o => o.cls = 6) && st.clusters.any fun c => c / 16 = a.index
      else match p.block a.index with
        | none => false
        | some b => ((p.curv b.entry).any fun v => v.op = st.op) || p.rootOp b.entry == some st.op

/-- The expected bytes of a stage in a partition: none where nothing reaches it. -/
def reachBytes (g : MemGlobal) (p : Package) (pl : Placement) (q : Nat) (st : Stage) : Nat :=
  if touches g p pl st q then max 1 (Config.stageBytes (pl.key p) q st.op) else 0

/-- The stages whose traffic reaches a partition, in operation order, and the class of the n-th: 13 from the fourteenth on. -/
def reaching (g : MemGlobal) (p : Package) (pl : Placement) (q : Nat) : List Stage :=
  (pl.stages.filter fun st => reachBytes g p pl q st ≠ 0).mergeSort fun a b => decide (a.op ≤ b.op)

/-- Expected bytes of a class. -/
def classBytes (g : MemGlobal) (p : Package) (pl : Placement) (q i : Nat) : Nat :=
  (((reaching g p pl q).zipIdx.filter fun x => min x.2 13 = i).map fun x => reachBytes g p pl q x.1).foldl (· + ·) 0

/-- The rate of a class 0 to 13: in proportion to its bytes, within what classes 14 and 15 leave of 1,024 units. -/
def classRate (g : MemGlobal) (p : Package) (pl : Placement) (x : Part) (q i : Nat) : Nat :=
  let total := ((List.range 14).map (classBytes g p pl q)).foldl (· + ·) 0
  let left := 1024 - x.classes[14].rate.toNat - x.classes[15].rate.toNat
  Config.rateSum (pl.key p) q % (left + 1) * classBytes g p pl q i / total

/-- The class of a cluster's requests in a segment. -/
def classIn (g : MemGlobal) (p : Package) (pl : Placement) (q seg c : Nat) : Nat :=
  match (reaching g p pl q).zipIdx.find? fun x => x.1.segment = seg && x.1.clusters.contains c with
  | some x => min x.2 13
  | none => Config.spareClass (pl.key p) q seg c % 14

/-- A partition's regulators: rates and bursts of classes 0 to 13, work-conserving mode, one class map per segment. -/
def Part.install (x : Part) (g : MemGlobal) (p : Package) (pl : Placement) (q : Nat) : Part :=
  { x with
    wc := true
    classes := Vector.ofFn fun i =>
      if i.val < 14 then
        { x.classes[i] with rate := BitVec.ofNat 11 (classRate g p pl x q i.val), burst := BitVec.ofNat 11 (1 + Config.classBurst (pl.key p) q i.val % 2047) }
      else x.classes[i]
    cmap := Vector.ofFn fun i =>
      packBits ((List.range 16).map fun k => (classIn g p pl q (i.val / 24) (16 * (i.val % 24) + k), 4 * k)) }

/-- The code and data that placement puts into tile memory (R265). -/
def State.installTiles (s : State) (p : Package) (pl : Placement) : State :=
  { s with mem := (List.range 384).foldl (fun m c =>
      (codePieces p pl c).foldl (fun m x => m.write (writesAt (tileBase c + x.1) x.2)) m) s.mem }

/-- The unfenced clusters and the guards as placement makes them, before a step runs again (R287). -/
def State.rearmTables (s : State) (p : Package) (pl : Placement) : State :=
  { s with cls := Vector.ofFn fun c => if (s.cl c).fenced.isSome then s.cl c else (s.cl c).rearm p pl c.val }.loadGuards

/-- Slots, guards, tables, regulators and engine spaces of a placement. -/
def State.installTables (s : State) (p : Package) (pl : Placement) : State :=
  let t : State := { s with
    cls := Vector.ofFn fun c => if (s.cl c).fenced.isSome then { (s.cl c).unload with tstat := (s.cl c).tstat } else (s.cl c).install p pl c.val
    rgs := Vector.ofFn fun r => (s.rg r).install p pl.stages r.val
    parts := Vector.ofFn fun q => (s.part q).install s.glob p pl q.val }
  (t.loadGuards).installTiles p pl

/-- Installed problems reach the engines that need them, and context entries the engine that serves their instance
(R302, R303). -/
def State.installSolvers (s : State) (p : Package) (pl : Placement) : State :=
  let all := s.rgs.toList.flatMap fun r => r.nyala.ctxs
  { s with rgs := Vector.ofFn fun r =>
      let x := s.rg r
      let mine := all.foldl (fun (m : SMap Ctx) e =>
        let es := e.2.entries.filter fun i => serves p pl.stages e.1 i.1 == some r.val
        if es.isEmpty then m
        else
          let old := (smFind m e.1).getD {}
          smSet m e.1 { signature := old.signature.or e.2.signature, entries := es.foldl (fun a i => smSet a i.1 i.2) old.entries }) []
      { x with nyala := { x.nyala with
          ctxs := mine, slots := (slotsOn p pl.stages r.val).filter fun k => (smFind s.run.problems k).isSome } } }

/-! ### Contents of tensors (R262, R290, R634) -/

/-- The stretches that placement may allocate in: all of both tiers but for the service area of each HBM partition and the snapshot
area (R391). -/
def allocatable (g : MemGlobal) : List (Nat × Nat) :=
  let sh := g.hbmStripe.toNat
  let sf := g.farStripe.toNat
  let snap := g.snap.toNat * 4
  (0, 12 * sh * gib) :: ((List.range 12).map fun p => ((12 * sh + p * (48 - sh)) * gib, (48 - sh) * gib - 0x20000000))
  ++ [(farBase, (4 * sf - snap) * gib), (farBase + 4 * sf * gib, (1536 - 4 * sf) * gib)]

/-- What a host had placed there is not preserved across a load: every byte is free until the tensors are filled (R392). Sectors that
were uncorrectable stay so. -/
def State.forgetData (s : State) : State :=
  let (n, s) := s.draw
  { s with mem := { (allocatable s.glob).foldl (fun m x => m.fill x.1 x.2 (some n)) s.mem with ue := s.mem.ue } }

/-- The initial contents of every tensor: from INIT, or zero (R262, R634). -/
def State.fillTensors (s : State) (w : ImgWord) (p : Package) (pl : Placement) : State :=
  let init := (findSection (sectionsOf w) 9).map (·.off)
  let writes : List (Nat × Nat × Option Nat) := (List.range p.tensors.length).flatMap fun t =>
    (tensorSpans p pl t).map fun x => (x.1, x.2.2, if (p.tensor t).initOff = 0 then none else init.map (· + (p.tensor t).initOff + x.2.1))
  { s with mem := writes.foldl (fun m x => match x.2.2 with
      | none => m.fill x.1 x.2.1 none
      | some o => (m.fill x.1 x.2.1 none).write ((List.range x.2.1).map fun i => { addr := x.1 + i, data := imgByte w (o + i) })) s.mem }

/-- A byte of a tensor under a placement, where a cluster holds it. -/
def State.tensorByte (s : State) (p : Package) (pl : Placement) (t i : Nat) : Option Byte :=
  ((tensorSpans p pl t).find? fun x => decide (x.2.1 ≤ i ∧ i < x.2.1 + x.2.2)).map fun x => s.mem.get (x.1 + (i - x.2.1))

/-- TILE tensors move from the clusters of the old placement to those of the new one (R290); `s` is the state before. -/
def State.moveTiles (s t : State) (p : Package) (old new : Placement) : State :=
  let ws := ((List.range p.tensors.length).filter fun k => (new.homes[k]?).any fun h => h.tier == 2).flatMap fun k =>
    (tensorSpans p new k).flatMap fun x => (List.range x.2.2).filterMap fun i =>
      (s.tensorByte p old k (x.2.1 + i)).map fun b => ({ addr := x.1 + i, data := b } : WByte)
  { t with mem := t.mem.write ws }

/-! ### The report (R291) -/

def reportMap (cs : List Nat) : List Word :=
  (List.range 6).map fun k => BitVec.ofNat 64 (fld (cs.foldl (fun (m : BitVec 384) c => m ||| (1#384 <<< c)) 0) (64 * k) 64)

def ceilDiv (a b : Nat) : Nat := (a + b - 1) / b

/-- Tile-memory bytes of a stage on one of its clusters: its code and pieces, its rings, its TILE tensors. -/
def stageTile (p : Package) (pl : Placement) (g : Stage) (c : Nat) : Nat :=
  let key := pl.key p
  let code := (Config.tilePieces key c g.op).map (fun x => x.2.length) ++ (((p.oper g.op).bind p.codeOf).toList.map fun k => k.code.length)
  let rings := ((p.channels pl).filter fun x => x.consumer = c && x.reader = g.op).map fun x => x.depth key * p.ringStep pl x
  let tiles := (List.range p.tensors.length).filterMap fun t =>
    if ((pl.homes[t]?).any fun h => h.tier = 2) && (p.users t).contains g.op then some (tileBytes p pl.stages t c).2 else none
  (code ++ rings ++ tiles).foldl (· + ·) 0

/-- TILE_PEAK: the most on any of its clusters. -/
def tilePeak (p : Package) (pl : Placement) (g : Stage) : Nat := (g.clusters.map (stageTile p pl g)).foldl max 0

/-- Word 1 of a tensor entry: the most bytes that a cluster holds for a tile home, the total otherwise. -/
def bytesHeld (p : Package) (pl : Placement) (t : Nat) (h : Home) : Nat :=
  if h.tier = 2 then ((clustersUsing p pl.stages t).map fun c => (tileBytes p pl.stages t c).2).foldl max 0 else h.bytes

/-- Channels whose depth is lowered (R278). -/
def loweredChannels (p : Package) (pl : Placement) : Nat := ((p.channels pl).filter (·.low (pl.key p))).length

/-- Every word of the report. -/
def reportWords (p : Package) (pl : Placement) (id : BitVec 32) : List Word :=
  let key := pl.key p
  let n (g : Stage) := max 1 g.clusters.length
  let bottleneck := (pl.stages.map fun g => ceilDiv g.work (n g)).foldl max 0
  let head := [packBits [(id.toNat, 0), (p.packageId.toNat, 32)],
    packBits [((freeClusters pl.fenced).length, 0), (pl.segments - 1, 9), (loweredChannels p pl % 2 ^ 16, 16), (pl.stages.length, 32)],
    BitVec.ofNat 64 bottleneck] ++ reportMap ((List.range 384).filter pl.fenced.getLsbD)
  let stage (g : Stage) := [packBits [(g.op, 0), (g.segment, 16), (b2n g.interleaved, 20), (g.carrier, 21),
      (b2n (g.strict && !(p.oper g.op).any fun o => o.cls == 6), 25), (g.clusters.length, 34)],
    packBits [(ceilDiv g.work (n g) % 2 ^ 32, 0), (tilePeak p pl g % 2 ^ 32, 32)]] ++ reportMap g.clusters
  let tensor (x : Home × Nat) := [packBits [(x.1.base, 0), (x.1.tier, 48),
      (if x.1.tier < 2 then x.1.part else Config.homePart key x.2 % 32, 51)],
    BitVec.ofNat 64 (bytesHeld p pl x.2 x.1)]
  head ++ pl.stages.flatMap stage ++ pl.homes.zipIdx.flatMap tensor

end Sys2Proof.Machine
end

