-- ==== Sys2Proof/Machine/GraphExec.lean ====
section
/-! DEFINITION. Graph loading, fences and re-placement (08 R266 to R292): the operations behind the graph commands, and
the meanings of CLUSTER_FENCE, REPLACEMENT and PLACEMENT_FINISHED. -/
namespace Sys2Proof.Machine

/-- The module is quiesced (R253). -/
def State.quiesced (s : State) : Bool := s.run.graph.isSome && s.run.step.isNone && !s.run.stopping && s.quiet

/-- A graph command is barred (R266, R526): by an open transaction, by another GRAPH_LOAD, by a graph at work. A module that is
quiesced while it places its graph again takes one. -/
def State.graphBarred (s : State) : Option Reply :=
  let loading := match s.run.placing with | some (.load _ _ _) => true | _ => false
  if s.txn.isSome then some rejectedTxn
  else if loading || (s.run.graph.isSome && !s.quiesced) then some rejectedBusy
  else none

/-- Every factor, computation and staging area of the curvature work is cleared: at graph load and at a compute reset (R362, R376, R380). -/
def State.clearFactors (s : State) (p : Package) (pl : Placement) : State :=
  { s with mem := (p.curvNeeds pl.stages).foldl (fun m x => m.fill (pl.area x.1 x.2.1) (siLen x.2.2.2.1 x.2.2.1) none) s.mem }

/-- No reduction is left, nor what came for one. -/
def Fabric.dropReductions (f : Fabric) : Fabric :=
  let gone (r : SRun) : Bool := match r.kind with | .reduce _ _ _ | .factor _ _ _ | .drain => true | _ => false
  let ids := (f.runs.filter gone).map (·.id)
  { f with
    runs := f.runs.filter fun r => !gone r, tx := f.tx.filter fun t => !ids.contains t.run
    rx := f.rx.filter fun r => r.desc.service != 1 && r.desc.service != 3, landed := [] }

/-- The graph goes: its volatile state of chapters 07, 09 and 10 is lost (R258, R267, R303, R376). -/
def State.unloadGraph (s : State) : State :=
  let t := s.cutSteps
  { t with
    cls := t.cls.map Cluster.unload
    rgs := t.rgs.map fun x =>
      { x with
        guards := Vector.replicate 64 {}, hold := [], held := []
        nyala := { x.nyala with slots := [], ctxs := [], queue := [], run := none, held := [], used := 0, context := 0, dense := 0 }
        medlar := { x.medlar with block := 0, iter := 0, dcode := 0, newton := none, todo := [], codes := [], jacobi := none } }
    flights := [], reqs := [], fab := t.fab.dropReductions
    run := { t.run with
      graph := none, placing := none, step := none, rerun := false, stepped := false, lost := false, outcome := 0, deferred := []
      crvStep := 0, crvBlk := [], staged := [], triggered := [], started := [], problems := [] } }

/-- The DETAIL of the first load check that fails, 0 when none does (R267). -/
def State.loadDetail (s : State) (w : ImgWord) (addr len : Nat) : Nat :=
  let total := fld (w 8) 0 48
  let p := packageOf w
  let u := max 1 (freeClusters s.fencedSet).length
  if headerBad w addr len hbmEnd then 1
  else if sha3Num (s.mem.bytes (addr + 64) (total - 64)) != p.digest then 2
  else if s.sec.featureLevel.toNat < fld (w 0) 48 16 then 3
  else if sectionsBad w total then 4
  else if limitsBad p || tooManySegments p u then 5
  else if indicesBad p s.desc then 6
  else if formatsDiffer p s.desc then 7
  else if referencesBad w p s.desc (trainingRefs p) || curvatureRefs p then 8
  else if orderBad p then 9
  else if reservedBad w p || trainingReserved p then 0x0A
  else if solverBad p || p.opers.any solverOpBad then 0x0B
  else if trainingBad p then 0x0C
  else if kernelsBad w p then 0x0D
  else 0

/-- The image words at a device address. -/
def State.image (s : State) (addr : Nat) : ImgWord := fun i => s.mem.word (addr + i)

/-- The FENCE event of a cluster (R287, R289, R529). -/
def State.fenceEvent (s : State) (c : Cl) (reason outcome detail : Nat) : State :=
  s.event (fromCluster c) 2
    [packBits [(c.val, 0), (reason, 9), (outcome, 12), (detail, 16)], s.run.placementId.zeroExtend 64]

/-- Every fence that waited is reported. -/
def State.reportFences (s : State) (outcome detail : Nat) : State :=
  let t := s.onRun fun r => { r with fences := [] }
  s.run.fences.foldl (fun t f => t.fenceEvent f.1 f.2 outcome detail) t

/-- GRAPH_LOAD (R266, R267): the old graph goes, the checks run, and placement starts. The image is read again when
placement ends; its address stands in the graph's placing. Fences that no re-placement has reported are reported with the
outcome of the step that they stopped, unless the placement that now starts reports them. -/
def State.graphLoad (s : State) (port : HPort) (tag : BitVec 16) (addr len : Nat) : State :=
  match s.graphBarred with
  | some r => s.finish port tag r
  | none =>
    let t := s.unloadGraph
    let w := t.image addr
    let d := t.loadDetail w addr len
    if d ≠ 0 then (t.reportFences s.run.outcome 0).finish port tag (rejected d)
    else t.onRun fun r =>
      { r with graph := some { pkg := packageOf w, place := none }, placing := some (.load port tag addr), outcome := s.run.outcome }

/-- GRAPH_UNLOAD (R516). -/
def State.graphUnload (s : State) (port : HPort) (tag : BitVec 16) : State :=
  match s.graphBarred with
  | some r => s.finish port tag r
  | none => (s.unloadGraph.reportFences s.run.outcome 0).finish port tag done

/-- PLACE_REPORT (R291, R516). -/
def State.placeReport (s : State) (port : HPort) (tag : BitVec 16) (first count : Nat) : State :=
  match s.run.graph with
  | some ⟨p, some pl⟩ =>
    let ws := reportWords p pl s.run.placementId
    let part := (ws.drop first).take count
    s.finish port tag
      { status := if ws.length < first + count then 1 else 0
        words := [s.run.placementId.zeroExtend 64, BitVec.ofNat 64 ws.length] ++ part }
  | _ => s.finish port tag (rejected 1)

/-! ### Private image length (R472) -/

def up64k (n : Nat) : Nat := (n + 65535) / 65536 * 65536

/-- Words of a context entry (R305). -/
def ctxWidth (p : Package) (entry : List Word) : Nat :=
  let slot := fld (imgW entry 1) 0 6
  match solverEntry p 0 slot with
  | some e => let (j, v, l, _) := slotMax e; 2 * v + 6 * l + j
  | none => match solverEntry p 1 slot with
    | some e => fld (imgW e 1) 0 11 * fld (imgW e 1) 11 7
    | none => 0

/-- Contexts of a package in ID order. -/
def Package.contexts (p : Package) : List (List Word) :=
  (p.solver.filter fun e => fld (imgW e 0) 0 2 = 2).mergeSort fun a b => decide (fld (imgW a 0) 8 8 ≤ fld (imgW b 0) 8 8)

/-- Global instances of a context that some engine serves, ascending. -/
def ctxInstances (p : Package) (stages : List Stage) (entry : List Word) : List Nat :=
  (List.range (fld (imgW entry 1) 16 24)).filter fun i => (serves p stages (fld (imgW entry 0) 8 8) i).isSome

/-- Bytes of a factor block in the image: its elements at 8 limbs, then its scale codes. -/
def factorBytes (n : Nat) : Nat := 8 * n * n + (n * n + 31) / 32

def factorsAt : Nat := up64k (262144 + 512 + 73728)

def privBytes (p : Package) (stages : List Stage) : Nat :=
  let fs := (p.blocks.map fun b => factorBytes b.n).foldl (· + ·) 0
  let cs := (p.contexts.map fun e => 64 + 4 * (ctxInstances p stages e).length * ctxWidth p e).foldl (· + ·) 0
  up64k (factorsAt + fs) + cs

/-! ### A placement ends (R267, R286 to R290) -/

/-- The placement of a GRAPH_LOAD has finished. -/
def State.placedLoad (s : State) (port : HPort) (tag : BitVec 16) (addr : Nat) (p : Package) : State :=
  let s := s.onRun fun r => { r with placing := none }
  match s.placementOf p none with
  | .inr d => ((s.onRun fun r => { r with graph := none, outcome := 0 }).reportFences s.run.outcome 0).finish port tag (rejected d)
  | .inl pl =>
    let w := s.image addr
    let t := (((s.forgetData.installTables p pl).installSolvers p pl).fillTensors w p pl).clearFactors p pl
    let t := (t.onRun fun r =>
      { r with graph := some { pkg := p, place := some pl }, placementId := r.placementId + 1, outcome := 0 }).onHlt fun h =>
      { h with privBytes := BitVec.ofNat 48 (privBytes p pl.stages), seq := 0 }
    (t.reportFences s.run.outcome 0).finish port tag { words := [t.run.placementId.zeroExtend 64] }

/-- A re-placement has finished: the step it stopped runs again, is abandoned, or did not run; a failed one leaves the
graph unplaced (R287, R289, R290). -/
def State.placedFence (s : State) (g : Graph) : State :=
  let s := s.onRun fun r => { r with placing := none }
  let n := s.run.outcome
  match s.placementOf g.pkg g.place with
  | .inr d => (((s.onRun fun r => { r with graph := some { g with place := none } }).cutSteps).reportFences n d)
  | .inl pl =>
    let t := (s.installTables g.pkg pl).installSolvers g.pkg pl
    let t := match g.place with | some old => s.moveTiles t g.pkg old pl | none => t
    let t := t.onRun fun r =>
      { r with graph := some { g with place := some pl }, placementId := r.placementId + 1, budget := if n = 1 then satAdd r.budget 1 else r.budget }
    t.reportFences n 0

/-- PLACEMENT_FINISHED. -/
def execPlacementFinished (s : State) : Res :=
  match s.run.placing, s.run.graph with
  | some (.load port tag addr), some g => .next (s.placedLoad port tag addr g.pkg)
  | some .fence, some g => .next (s.placedFence g)
  | _, _ => .next s

/-- REPLACEMENT: the placer begins to place the loaded graph again once the module has quiesced after a fence. -/
def execReplacement (s : State) : Res :=
  if s.quiesced && !s.run.fences.isEmpty && s.run.placing.isNone then
    .next (s.onRun fun r => { r with placing := some .fence })
  else .next s

/-! ### A cluster is fenced (R28, R252, R287, R288, R290) -/

def fenceCode : FenceReason → Nat
  | .tileMemory => 1
  | .islandTimeout => 2
  | .internalCheck => 3

/-- The running firings of a fenced cluster end ABORTED, their buffers undefined; its speculative ones are discarded and its
held items go. -/
def State.abortCluster (s : State) (c : Cl) : State :=
  (s.cl c).firings.foldl (fun s f => s.dropFiring c f (if f.held then 1 else 5) 0) s

/-- A cluster with a fault is fenced. The fault record may hold it (log entry 21); a tile-memory fault loses what the
cluster's tile memory holds. -/
def State.fence (s : State) (c : Cl) (reason : FenceReason) : State :=
  if (s.cl c).fenced.isSome then s
  else
    let (n, s) := s.draw
    let s := s.onCl c fun k => { k with fenced := some (fenceCode reason) }
    let s := if Config.recordsFence (fenceCode reason) then { s with fenced := s.fenced ++ [c] } else s
    let lost := reason = .tileMemory
    let s := if lost then { s with mem := s.mem.fill (tileBase c.val) 0x600000 (some n) } else s
    match s.run.graph with
    | none => s.fenceEvent c (fenceCode reason) 0 0
    | some ⟨_, none⟩ =>
      (match s.run.placing with
       | some (.load _ _ _) => s.onRun fun r => { r with fences := r.fences ++ [(c, (fenceCode reason))] }
       | _ => s.fenceEvent c (fenceCode reason) 0 0)
    | some ⟨p, some pl⟩ =>
      let persists := (List.range p.tensors.length).any fun t =>
        (p.tensor t).persist && (pl.homes[t]?).any (fun h => h.tier == 2) && (clustersUsing p pl.stages t).contains c.val
      let hurts := lost && (s.run.step.isSome || persists)
      let again := !s.run.fences.isEmpty && !s.run.stopping
      let s := s.onRun fun r => { r with fences := r.fences ++ [(c, (fenceCode reason))], lost := r.lost || hurts }
      if again && !hurts then s.abortCluster c else (s.quiesceNow).abortCluster c |>.quietDone

/-- CLUSTER_FENCE. -/
def execClusterFence (c : Cl) (reason : FenceReason) (s : State) : Res := .next (s.fence c reason)

end Sys2Proof.Machine
end

