-- ==== Sys2Proof/Machine/SolverOps.lean ====
section
/-! DEFINITION. What a solver call computes (09 R308 to R331): its buffers, its checks, iterates, outcomes and records. Its results
are the quantities of Dynamics, off by the roundings of the fixed-point work, which are free (log entry 15). -/
namespace Sys2Proof.Machine

/-! ### The command (R308) -/

abbrev SlvCmd := BitVec 512

def slvOp (c : SlvCmd) : Nat := cmdFld c 0 0 5
def slvMode (c : SlvCmd) : Nat := cmdFld c 0 5 2
def slvFlag (c : SlvCmd) (b : Nat) : Bool := cmdFld c 0 b 1 = 1
def slvWarm (c : SlvCmd) : Bool := slvFlag c 8
def slvUpdate (c : SlvCmd) : Bool := slvFlag c 9
def slvConstrained (c : SlvCmd) : Bool := slvFlag c 11
def slvL (c : SlvCmd) : Nat := cmdFld c 0 12 4
def slvSlotNo (c : SlvCmd) : Nat := cmdFld c 0 16 6
def slvCtxNo (c : SlvCmd) : Nat := cmdFld c 0 24 8
def slvCount (c : SlvCmd) : Nat := cmdFld c 0 32 13
def slvRefine (c : SlvCmd) : Nat := cmdFld c 0 45 3
def slvIn (c : SlvCmd) : Nat := cmdFld c 1 0 23
def slvInScale (c : SlvCmd) : Nat := cmdFld c 1 23 23
def slvOut (c : SlvCmd) : Nat := cmdFld c 2 0 23
def slvOutScale (c : SlvCmd) : Nat := cmdFld c 2 23 23
def slvRec (c : SlvCmd) : Nat := cmdFld c 3 0 23
def slvFwd (c : SlvCmd) : Nat := cmdFld c 3 23 23
def slvMaxIter (c : SlvCmd) : Nat := cmdFld c 4 32 16
def slvBase (c : SlvCmd) : Nat := cmdFld c 6 0 24

def isIntegrator (c : SlvCmd) : Bool := slvOp c = 7 || slvOp c = 8

/-- Operations that keep iterates in a context (R324). -/
def warmKind (c : SlvCmd) : Bool := slvOp c = 6 || isDense c || (isIntegrator c && slvConstrained c)

/-! ### Buffers (R309) -/

/-- The fields of a dense call's buffers, as (used, padded) element counts: columns padded to whole blocks (R311). -/
def denseIn (c : SlvCmd) : List (Nat × Nat) :=
  let n := cmdFld c 5 0 11
  (n * (n + 1) / 2, padded (n * (n + 1) / 2)) :: List.replicate (cmdFld c 5 11 7) (n, padded n)

def denseOut (c : SlvCmd) : List (Nat × Nat) :=
  let n := cmdFld c 5 0 11
  List.replicate (cmdFld c 5 11 7) (n, padded n)
    ++ (if cmdFld c 5 18 1 = 1 then [(n * (n - 1) / 2, padded (n * (n - 1) / 2)), (n, padded n)] else [])

/-- Whether element e of such fields is padding. -/
def densePad : List (Nat × Nat) → Nat → Bool
  | [], _ => true
  | (n, p) :: fs, e => if e < p then decide (n ≤ e) else densePad fs (e - p)

/-- The forward record of an instance (R329). -/
def fwdRec (rd : Nat → Byte) (c : SlvCmd) (i : Nat) : FwdRec :=
  let w := BitVec.ofNat 64 (leBytes rd (slvFwd c + 16 * i) 8)
  { status := fld w 0 16, iter := fld w 16 16, fallback := bit w 32 }

/-- The input elements of an instance, coordinate by coordinate; of a dense call, every element, padding as zeros. -/
def slvInput (rd : Nat → Byte) (c : SlvCmd) (pr : Problem) (i : Nat) : List (Option Ex) :=
  let at_ (e : Nat) := slvElem rd (slvL c) (slvIn c) (slvInScale c) e
  if isDense c then (List.range (inElems c pr)).map fun e => if densePad (denseIn c) e then some Ex.zero else at_ e
  else (List.range (inCoords c pr)).map fun k => at_ (k * padded (slvCount c) + i)

/-- What the input transfer brings of an instance. -/
def slvFetch (rd : Nat → Byte) (c : SlvCmd) (pr : Problem) (i : Nat) : InstIn :=
  { xs := slvInput rd c pr i, fwd := if slvMode c = 2 then fwdRec rd c i else {} }

/-- The number of output elements of an instance. -/
def slvWidth (c : SlvCmd) (pr : Problem) : Nat := if isDense c then outElems c pr else outCoords c pr

/-- Tile ranges that the call writes: data, scale codes, records. -/
def slvWrites (c : SlvCmd) (pr : Problem) : List (Nat × Nat) :=
  let n := outElems c pr
  [(slvOut c, 32 * slvL c * slvBlocks n), (slvOutScale c, slvBlocks n), (slvRec c, 16 * slvCount c)]

def slvReads (c : SlvCmd) (pr : Problem) : List (Nat × Nat) :=
  let n := inElems c pr
  [(slvIn c, 32 * slvL c * slvBlocks n), (slvInScale c, slvBlocks n)]
  ++ (if slvMode c = 2 then [(slvFwd c, 16 * slvCount c)] else [])

/-! ### The checks of R315 -/

/-- Reserved values and fields: OP, MODE, refinement steps, the bits that R308 reserves. -/
def slvReserved (c : SlvCmd) : Bool :=
  slvOp c = 0 || 9 < slvOp c || slvMode c = 3 || 4 < slvRefine c
  || cmdFld c 0 48 16 ≠ 0 || cmdFld c 6 24 40 ≠ 0 || cmdFld c 7 0 64 ≠ 0

/-- A slot of either kind stands on the engine of a region whose clusters have a stage that names it (R302, R305). -/
def State.slvServes (s : State) (r : Rg) (slot : Nat) : Bool :=
  match s.run.graph with
  | some ⟨p, some pl⟩ => (slotsOn p pl.stages r.val).contains slot
  | _ => false

/-- A dense slot as a problem without joints, its bounds ENTRY_EXP, RHS_EXP and SOL_EXP (R306); a multibody slot's
installed problem. None where the slot is not on the engine. -/
def State.slvProblem (s : State) (p : Package) (r : Rg) (c : SlvCmd) : Option Problem :=
  if isDense c then
    if s.slvServes r (slvSlotNo c) then
      (solverEntry p 1 (slvSlotNo c)).map fun e =>
        { image := [], signature := 0, nv := 0, nq := 0, rows := 0, joints := 0
          bounds := [18, 26, 34].map fun k => signedOf 8 (fld (imgW e 1) k 8) }
    else none
  else if ((s.rg r).nyala.slots).contains (slvSlotNo c) then smFind s.run.problems (slvSlotNo c)
  else none

/-- R315: the reason of a refusal, 0 for none. -/
def State.slvReason (s : State) (p : Package) (cl : Cl) (f : Firing) (c : SlvCmd) : Nat :=
  if slvReserved c then 1
  else match s.slvProblem p (rgOf cl) c with
  | none => 2
  | some pr =>
    let dense := (solverEntry p 1 (slvSlotNo c)).getD []
    let ctx := solverEntry p 2 (slvCtxNo c)
    let usesCtx := slvCtxNo c ≠ 0xFF || slvWarm c || slvUpdate c
    if slvCount c = 0 || 4096 < slvCount c
        || (isDense c && (slvCount c ≠ 1 || fld (imgW dense 1) 0 11 < cmdFld c 5 0 11 || fld (imgW dense 1) 11 7 < cmdFld c 5 11 7)) then 3
    else if (slvReads c pr ++ slvWrites c pr).any (fun x => 0x600000 < x.1 + x.2)
        || (f.held && (slvWrites c pr).any fun x => (List.range x.2).any fun o => !(s.cl cl).inClaim f.entry (x.1 + o)) then 4
    else if usesCtx && (match ctx with
        | none => true
        | some e => fld (imgW e 1) 0 6 ≠ slvSlotNo c || fld (imgW e 1) 16 24 < slvBase c + slvCount c) then 5
    else if !modeOk (slvOp c) (slvMode c) (slvConstrained c) then 6
    else if slvL c = 0 || 8 < slvL c then 7
    else if slvMaxIter c = 0 && (slvOp c = 6 || (isIntegrator c && slvConstrained c)) then 8
    else 0

/-! ### Contexts (R305, R324) -/

/-- The values of an entry: X of a dense call, column after column, λ and a of the others (R305, R324). -/
def ctxWide (c : SlvCmd) (pr : Problem) : Nat :=
  if isDense c then cmdFld c 5 11 7 * cmdFld c 5 0 11 else pr.rows + pr.nv

/-- The values of X as the output buffer holds them, each column padded (R311). -/
def densePadded (c : SlvCmd) (w : List (Option Ex)) : List (Option Ex) :=
  let n := cmdFld c 5 0 11
  (List.range (cmdFld c 5 11 7 * padded n)).map fun i =>
    if i % padded n < n then w.getD (i / padded n * n + i % padded n) (some Ex.zero) else some Ex.zero

/-- The values of X without the padding. -/
def denseValues (c : SlvCmd) (outs : List (Option Ex)) : List (Option Ex) :=
  let n := cmdFld c 5 0 11
  (List.range (cmdFld c 5 11 7 * n)).map fun i => outs.getD (i / n * padded n + i % n) (some Ex.zero)

/-! ### Iterates (R320, R329) -/

/-- Where q, v and the adjoints of q′ and v′ begin among the inputs of an instance. -/
def Problem.primal (pr : Problem) (c : SlvCmd) : Nat :=
  pr.nq + 2 * pr.nv + (if slvFlag c 7 then 6 * probNF pr.image else 0)

/-- The forward λ among the inputs of an adjoint call (R329). -/
def Problem.lamIn (pr : Problem) (c : SlvCmd) : Nat :=
  if slvOp c = 6 || (slvOp c = 7 && slvConstrained c) then pr.rows else 0

/-- Iterate 0 as outputs (R320, R329): the integrators return q and v, or pass their adjoints through; the other
operations zeros, or λ and a from the context. -/
def iterate0 (c : SlvCmd) (pr : Problem) (xs : List (Option Ex)) (warm : Option (List (Option Ex))) : List (Option Ex) :=
  let zeros (n : Nat) : List (Option Ex) := List.replicate n (some Ex.zero)
  let base :=
    if slvMode c = 2 then
      if isIntegrator c then (xs.drop (pr.primal c + pr.lamIn c)).take (2 * pr.nv) else []
    else if isIntegrator c then xs.take (pr.nq + pr.nv)
    else match warm with
      | some w => if slvOp c = 6 then (w.drop pr.rows) ++ w.take pr.rows else if isDense c then densePadded c w else []
      | none => []
  (base ++ zeros (slvWidth c pr - base.length)).take (slvWidth c pr)

/-- The bound exponent of a value of an entry. -/
def ctxClass (c : SlvCmd) (pr : Problem) (k : Nat) : Int :=
  pr.bounds.getD (if isDense c then 2 else if k < pr.rows then 4 else 3) 0

/-! ### Quantity classes (R310) -/

/-- The bound exponents of the coordinates of q: Q_EXP, and 0 for quaternion components. -/
def qClasses (pr : Problem) : List Int :=
  let b := pr.bounds.getD 0 0
  (probJoints pr.image).flatMap fun j => match j.type with
    | 1 => [b]
    | 2 => [b]
    | 3 => List.replicate 4 0
    | 4 => List.replicate 3 b ++ List.replicate 4 0
    | _ => []

/-- The bound exponent of spatial forces, external wrenches among them. -/
def wrenchClass (pr : Problem) : Int := ((probBounds pr.image).map (·.2.getD 3 0)).getD 0

/-- The velocity that a coordinate of q integrates, for a revolute or prismatic joint. -/
def qRates : List JointE → Nat → List (Option Nat)
  | [], _ => []
  | j :: js, v =>
    let (n, m, _) := jointDims j.type
    (if n = 1 then [some v] else List.replicate n none) ++ qRates js (v + m)

/-- n coordinates of the class of row k of R310. -/
def classOf (pr : Problem) (k n : Nat) : List Int := List.replicate n (pr.bounds.getD k 0)

/-- The bound exponents of the input coordinates. -/
def inClasses (c : SlvCmd) (pr : Problem) : List Int :=
  let op := slvOp c
  if isDense c then
    let n := cmdFld c 5 0 11
    classOf pr 0 (padded (n * (n + 1) / 2)) ++ classOf pr 1 (cmdFld c 5 11 7 * padded n)
  else if op < 3 || op = 4 then qClasses pr
  else
    let wr := List.replicate (if slvFlag c 7 then 6 * probNF pr.image else 0) (wrenchClass pr)
    qClasses pr ++ classOf pr 2 pr.nv ++ classOf pr (if op = 3 then 3 else 4) pr.nv ++ wr
      ++ (match slvMode c with
          | 1 => classOf pr 7 (3 * pr.nv)
          | 2 => classOf pr 4 (pr.lamIn c) ++ classOf pr 7 (3 * pr.nv + pr.rows)
          | _ => [])

/-- The bound exponents of the output coordinates, none for the entries of Jacobians, to which R310 gives no row. -/
def outClasses (c : SlvCmd) (pr : Problem) : List (Option Int) :=
  if isDense c then
    let n := cmdFld c 5 0 11
    (classOf pr 2 (cmdFld c 5 11 7 * padded n) ++ List.replicate (padded (n * (n - 1) / 2)) 8 ++ classOf pr 0 (padded n)).map some
  else if slvMode c = 2 then (classOf pr 7 (outCoords c pr)).map some
  else
    match slvOp c with
     | 1 => (classOf pr 1 (7 * probNF pr.image)).map some
     | 2 => List.replicate (6 * pr.nv * probNF pr.image) none
     | 3 => (classOf pr 4 pr.nv).map some
     | 4 => (classOf pr 5 (pr.nv * (pr.nv + 1) / 2)).map some
     | 5 => (classOf pr 3 pr.nv ++ classOf pr 7 (outCoords c pr)).map some
     | 6 => (classOf pr 3 pr.nv ++ classOf pr 4 pr.rows ++ classOf pr 7 (outCoords c pr)).map some
     | _ => (qClasses pr ++ classOf pr 2 pr.nv ++ classOf pr 7 (outCoords c pr)).map some

/-- A code beyond 2^31 − 1 saturates (R316). -/
def codeBad (k : Int) : Bool := decide (2 ^ 31 - 1 < k.natAbs)

/-- An input whose code exceeds its class saturates (R316). -/
def inputSaturates (c : SlvCmd) (pr : Problem) (xs : List (Option Ex)) : Bool :=
  (xs.zip (inClasses c pr)).any fun x => match x.1 with
    | some v => codeBad (v.roundAt (x.2 - 30))
    | none => false

/-- What a path computes from: on the main path the codes of the inputs in their classes, ties to even (R316); on the fallback
path the inputs. -/
def slvHeld (c : SlvCmd) (pr : Problem) (fall : Bool) (xs : List (Option Ex)) : List (Option Ex) :=
  if fall then xs
  else (xs.zip (inClasses c pr)).map fun x => x.1.map fun v => unitsOf (v.roundAt (x.2 - 30)) (x.2 - 30)

/-- An exact value as integers, for the free functions of the operands. -/
def exKey : Option Ex → List Int
  | none => [0]
  | some x => [1, x.n, x.den, x.e]

/-- A value as a context holds it: its code in its class, or 0x80000000, which is no code (R316), for NaR; a value of the
fallback path that is no code stays as it is (R324). -/
def ctxCode (b : Int) : Option Ex → CtxVal
  | none => .code 0x80000000
  | some x =>
    let k := x.roundAt (b - 30)
    if (unitsOf k (b - 30)).eq x && !codeBad k then .code (BitVec.ofInt 32 k) else .wide x

/-- The value that a context holds. -/
def ctxValue (b : Int) : CtxVal → Option Ex
  | .code w => if w = 0x80000000 then none else some (unitsOf w.toInt (b - 30))
  | .wide x => some x

/-- The values of an entry; what it does not hold is zero. -/
def ctxValues (c : SlvCmd) (pr : Problem) (ws : List CtxVal) : List (Option Ex) :=
  (List.range (ctxWide c pr)).map fun k => ctxValue (ctxClass c pr k) (ws.getD k (.code 0))

/-- An entry of values. -/
def ctxCodes (c : SlvCmd) (pr : Problem) (xs : List (Option Ex)) : List CtxVal :=
  xs.zipIdx.map fun x => ctxCode (ctxClass c pr x.2) x.1

/-! ### What a result depends on -/

/-- Whether the operation is constrained dynamics or steps by it. -/
def slvRowed (c : SlvCmd) : Bool := slvOp c = 6 || (isIntegrator c && slvConstrained c)

/-- The parameters of a problem that an operation computes from (R298, R299, R311): poses and Jacobians from the tree's geometry
and the frames; the mass matrix also from masses and inertias; dynamics also from gravity; constrained dynamics also from its
rows, the loops with their stabilisation and the limits. `rows` says which of them count. -/
def slvParams (c : SlvCmd) (pr : Problem) (rows : List Bool) : List Int :=
  let ws := pr.image
  let js := probJoints ws
  let geometry := js.flatMap fun j => [(j.type : Int), (j.parent : Int)] ++ ((j.words.drop 1).take 10).map (·.toInt)
  let inertia := js.flatMap fun j => ((j.words.drop 11).take 10).map (·.toInt)
  let gravity := if bit (imgW ws 0) 19 then ((ws.drop 1).take 3).map (·.toInt) else []
  let frames := (List.range (probNF ws)).flatMap fun f => (List.range 4).map fun i => (frameWord ws f i).toInt
  let counts (k : Nat) : Bool := rows.getD k true
  let ls := List.range (probNL ws)
  let loops := (ls.filter fun (l : Nat) => (List.range (loopRows (fld (loopWord ws l 0) 0 2))).any fun i =>
      counts (((ls.take l).map fun m => loopRows (fld (loopWord ws m 0) 0 2)).foldl (· + ·) 0 + i)).flatMap fun (l : Nat) =>
    (l : Int) :: (List.range 8).map fun i => (loopWord ws l i).toInt
  let first := pr.rows - (js.filter (·.limit)).length
  let limits := ((js.zipIdx.filter (·.1.limit)).zipIdx.filter fun x => counts (first + x.2)).flatMap fun x =>
    [(x.1.2 : Int), (x.1.1.words.getD 21 0).toInt, (x.1.1.words.getD 22 0).toInt]
  let dynamics := pr.bounds ++ [wrenchClass pr] ++ geometry ++ inertia ++ gravity ++ (if slvFlag c 7 then frames else [])
  if isDense c then pr.bounds
  else match slvOp c with
    | 1 => pr.bounds.take 2 ++ geometry ++ frames
    | 2 => pr.bounds.take 2 ++ geometry ++ frames
    | 4 => pr.bounds.take 2 ++ [pr.bounds.getD 5 0] ++ geometry ++ inertia
    | _ => if slvRowed c then dynamics ++ loops ++ limits ++ [(fld (imgW ws 4) 48 16 : Int)] else dynamics

/-- The parameters of the command: OP, MODE, FEXT, CONSTRAINED, refinement, and words 4 and 5. -/
def slvWords (c : SlvCmd) (fall : Bool) : List Int :=
  [(slvOp c : Int), slvMode c, b2n (slvFlag c 7), b2n (slvConstrained c), slvRefine c, b2n fall, (cmdFld c 4 0 64 : Nat), (cmdFld c 5 0 64 : Nat)]

/-- Everything that an instance's primal result depends on (R319). -/
def slvArgs (c : SlvCmd) (pr : Problem) (fall : Bool) (xs : List (Option Ex)) (warm : Option (List (Option Ex))) : List Int :=
  let own := if slvMode c = 0 then xs else xs.take (pr.primal c)
  slvWords c fall ++ slvParams c pr [] ++ (slvHeld c pr fall own).flatMap exKey
    ++ (if warmKind c then (warm.getD []).flatMap exKey else [])

/-- Rows held as equalities by the derivatives: those whose forward λ is not zero (R330). -/
def heldRows (lams : List Ex) : List Bool := lams.map fun x => x.n ≠ 0

/-- Everything that the derivatives of an instance depend on: its inputs with λ as returned, and of the constraint rows those
held as equalities; the others contribute nothing, nor do the adjoints of their λ (R328 to R330). -/
def slvDerivArgs (c : SlvCmd) (pr : Problem) (fall : Bool) (xs : List (Option Ex)) (lams : List Ex) : List Int :=
  let rows := if slvRowed c then heldRows lams else []
  let seed := pr.primal c + pr.rows + pr.nv
  let own := (slvHeld c pr fall xs).zipIdx.map fun x =>
    if slvOp c = 6 && slvMode c = 2 && seed ≤ x.2 && !rows.getD (x.2 - seed) true then some Ex.zero else x.1
  slvWords c fall ++ slvParams c pr rows ++ own.flatMap exKey ++ lams.flatMap fun x => exKey (some x)

/-- The forward λ that an adjoint call is given. -/
def slvLamsIn (c : SlvCmd) (pr : Problem) (fall : Bool) (xs : List (Option Ex)) : List Ex :=
  (((slvHeld c pr fall xs).drop (pr.primal c)).take (pr.lamIn c)).map (·.getD Ex.zero)

/-- The STATUS that comes first in R323. -/
def firstStatus (xs : List Nat) : Nat := ([0x21, 0x20, 1, 0x30, 0x31].find? xs.contains).getD 0

/-- A multiple of 2^k, at most b of them in magnitude, n beside a quantity. -/
def near (b : Int) (x n k : Int) : Ex := unitsOf (max (-b) (min b ((fxEx x).roundAt k + n))) k

/-- 24 significant bits, n units beside a quantity, its binary point e beside that of the quantity (R318). -/
def nearSingle (x n e : Int) : Ex := near (2 ^ 24 - 1) x n (max (-150) (min 105 ((if x = 0 then 0 else (fxEx x).log2 - 23) + e)))

/-- What an engine forms of a quantity: the quantity in units of its class (R310, R316), of a free binary point where R310 gives none,
of 24 significant bits on the fallback path (R318), and a free number of units beside it, since no rule gives the order of the
elementary operations that round. -/
def slvValue (key : Nat) (args : List Int) (i : Nat) (cls : Option Int) (fall : Bool) (x : Int) : Ex :=
  let n := Config.nyalaCode key args (2 * i)
  let e := Config.nyalaCode key args (2 * i + 1)
  if fall then nearSingle x n e
  else match cls with
    | some b => unitsOf ((fxEx x).roundAt (b - 30) + n) (b - 30)
    | none => near (2 ^ 31 - 1) x n (e % 32 - 31)

/-- Whether a quantity, as an engine forms it on the main path, is beyond its class (R317). -/
def slvBeyond (key : Nat) (args : List Int) (i : Nat) (b x : Int) : Bool :=
  codeBad ((slvValue key args i (some b) false x).roundAt (b - 30))

/-! ### The integrator step (R312) -/

/-- A value rounded to 24 significant bits, none near the ends of the range (R318). -/
def single (x : Ex) : Option Ex :=
  if x.n = 0 then some Ex.zero
  else if x.log2 < -126 || 126 < x.log2 then none
  else let k := x.log2 - 23
    some (unitsOf (x.roundAt k) k)

/-- x + dt × y, as R312 steps a velocity and the coordinate of a joint with one: on the main path the product is rounded once into
the class, ties to even (R310). None where the fallback path leaves the range of binary32. -/
def stepValue (b : Int) (fall : Bool) (dt x y : Ex) : Option Ex :=
  if fall then
    (single x).bind fun x => (single (dt.mul y)).bind fun p => single (x.add p)
  else some (unitsOf (x.roundAt (b - 30) + (dt.mul y).roundAt (b - 30)) (b - 30))

/-- dt of the command. -/
def slvDt (c : SlvCmd) : Ex := unitsOf (cmdFld c 4 0 24) ((cmdFld c 4 24 8 : Nat) - 150)

/-! ### The quantities of an instance (R311) -/

/-- The inputs as numbers. -/
def slvNums (xs : List (Option Ex)) : List Dual := xs.map fun x => dualOfEx (x.getD Ex.zero)

/-- q, v, τ or, for RNEA, a, and the wrenches of an instance. -/
def slvMotion (c : SlvCmd) (pr : Problem) (xs : List Dual) : Motion :=
  { q := xs.take pr.nq, v := (xs.drop pr.nq).take pr.nv, tau := (xs.drop (pr.nq + pr.nv)).take pr.nv
    wrenches := if slvFlag c 7 then (xs.drop (pr.nq + 2 * pr.nv)).take (6 * probNF pr.image) else [] }

def slvEquations (c : SlvCmd) (pr : Problem) (m : Motion) : Equations := equations pr.image (slvRowed c) m

/-- A lower triangle by columns. -/
def packedLower (strict : Bool) (n : Nat) (f : Nat → Nat → Int) : List Int :=
  (List.range n).flatMap fun k => ((List.range n).drop (if strict then k + 1 else k)).map fun i => f i k

/-- The outputs of FK, JAC, RNEA and CRBA (R311). -/
def slvDirect (c : SlvCmd) (pr : Problem) (m : Motion) : List Int :=
  let ws := pr.image
  let n := kinOf (probJoints ws) m.q
  let frames := wrenchesOf ws (List.replicate (6 * probNF ws) Dual.zero)
  match slvOp c with
  | 1 => frames.flatMap fun f => let p := n.point f.link f.pos; (p.pos.list ++ p.rot.list).map (·.v)
  | 2 => frames.flatMap fun f => (List.range pr.nv).flatMap fun i =>
      let x := n.col f.link (n.point f.link f.pos).pos i
      (x.1.list ++ x.2.list).map (·.v)
  | 3 => (n.inverse (gravityOf ws) (wrenchesOf ws m.wrenches) m.v m.tau).map (·.v)
  | _ => let h := n.mass; packedLower false pr.nv fun i k => ((h.getD i []).getD k Dual.zero).v

/-- The tolerance 2^TOL_EXP, and whether a residual is above it (R308, R313, R314). -/
def slvUnmet (c : SlvCmd) (r : Ex) : Bool := (unitsOf 1 (signedOf 8 (cmdFld c 4 48 8))).lt r

/-! ### Constraint forces (R313) -/

/-- The sides of the limit rows in joint order: a joint at or beyond its lower limit, its upper, inside both; free
where the rounding of the coordinate or of the limit decides. -/
def limitSides (pr : Problem) (xs : List (Option Ex)) (fall : Bool) : List RowSide :=
  let b := pr.bounds.getD 0 0
  let rnd (x : Ex) : Ex := if fall then (single x).getD x else unitsOf (x.roundAt (b - 30)) (b - 30)
  let offsets := (probJoints pr.image).foldl (fun (a : Nat × List Nat) j => (a.1 + (jointDims j.type).1, a.2 ++ [a.1])) (0, [])
  (((probJoints pr.image).zip offsets.2).filter fun j => j.1.limit).map fun (j, o) =>
    let q := rnd ((xs.getD o none).getD Ex.zero)
    let lo := q32 (j.words.getD 21 0)
    let hi := q32 (j.words.getD 22 0)
    let low := [lo, rnd lo].map fun y => q.le y
    let high := [hi, rnd hi].map fun y => y.le q
    if low.all id && !high.any id then .lower
    else if high.all id && !low.any id then .upper
    else if low.any id || high.any id then .free
    else .inactive

/-- λ of a row held to its side: at least 0 at a lower limit, at most 0 at an upper one, 0 on a row that no sweep
touches and no context starts. -/
def RowSide.hold (r : RowSide) (warm : Bool) (x : Ex) : Ex :=
  match r with
  | .lower => if x.n < 0 then Ex.zero else x
  | .upper => if 0 < x.n then Ex.zero else x
  | .inactive => if warm then x else Ex.zero
  | .free => x

/-- The sides of every row: loop rows first, unbounded. -/
def rowSides (pr : Problem) (xs : List (Option Ex)) (fall : Bool) : List RowSide :=
  let ls := limitSides pr xs fall
  List.replicate (pr.rows - ls.length) RowSide.free ++ ls

/-- Constrained dynamics of one configuration: its equations, the sides of its rows, what its numbers depend on, λ at the start, and
whether a context gives that. -/
structure RowSolve where
  eqs : Equations
  sides : List RowSide
  args : List Int
  start : List Int
  warm : Bool
  fall : Bool
  deriving DecidableEq, Repr

def rowSolve (c : SlvCmd) (pr : Problem) (args : List Int) (m : Motion) (xs : List (Option Ex)) (warm : Option (List (Option Ex)))
    (fall : Bool) : RowSolve :=
  { eqs := slvEquations c pr m, sides := rowSides pr xs fall, args := args, warm := warm.isSome, fall := fall
    start := (List.range pr.rows).map fun i => fx (((warm.getD []).getD i none).getD Ex.zero) }

/-- A row whose Delassus diagonal is zero is skipped (R313). -/
def RowSolve.skips (r : RowSolve) (i : Nat) : Bool := (slvValue 3 r.args i none r.fall (r.eqs.diagonal.getD i Dual.zero).v).n = 0

/-- λ after k sweeps. -/
def RowSolve.after (r : RowSolve) (k : Nat) : List Dual := r.eqs.sweeps r.sides r.skips k (r.start.map fun v => { v := v })

/-- The residual of sweep k, in the class of joint accelerations: zero where no row is active (R313). -/
def RowSolve.residual (r : RowSolve) (pr : Problem) (k : Nat) : Ex :=
  if r.sides.all (· == .inactive) then Ex.zero
  else (slvValue 4 r.args k (some (pr.bounds.getD 3 0)) r.fall (r.eqs.violation r.sides (r.after k))).abs

/-- The sweep at which it ends: the first whose residual meets the tolerance, or MAX_ITER; and whether it does not meet it. -/
def RowSolve.last (r : RowSolve) (c : SlvCmd) (pr : Problem) : Nat × Bool :=
  match (List.range (slvMaxIter c)).find? fun k => !slvUnmet c (r.residual pr (k + 1)) with
  | some k => (k + 1, false)
  | none => (slvMaxIter c, true)

/-- λ of every row and a after k sweeps, a from the λ that are returned: as an engine forms them (R313). -/
def RowSolve.forces (r : RowSolve) (pr : Problem) (key k : Nat) : List Ex :=
  (r.after k).zipIdx.map fun (x, i) =>
    let side := r.sides.getD i .inactive
    if side ≠ .inactive && r.skips i then Ex.zero
    else side.hold r.warm (slvValue key r.args (pr.nv + i) (some (pr.bounds.getD 4 0)) r.fall x.v)

def RowSolve.accels (r : RowSolve) (pr : Problem) (key : Nat) (lams : List Ex) : List Ex :=
  (r.eqs.accel (lams.map dualOfEx)).zipIdx.map fun (x, i) => slvValue key r.args i (some (pr.bounds.getD 3 0)) r.fall x.v

/-! ### Dense solves (R314) -/

/-- A as rows and B as columns. -/
def denseA (c : SlvCmd) (xs : List Dual) : List (List Dual) :=
  let n := cmdFld c 5 0 11
  let at_ (i k : Nat) : Dual := xs.getD (k * n + i - k * (k + 1) / 2) Dual.zero
  (List.range n).map fun i => (List.range n).map fun k => if k ≤ i then at_ i k else at_ k i

def denseB (c : SlvCmd) (xs : List Dual) : List (List Dual) :=
  let n := cmdFld c 5 0 11
  (List.range (cmdFld c 5 11 7)).map fun j => (xs.drop (padded (n * (n + 1) / 2) + j * padded n)).take n

def subCols (x y : List (List Dual)) : List (List Dual) := (x.zip y).map fun z => (z.1.zip z.2).map fun w => w.1.sub w.2

/-- X as columns: after the solve for k = 1, and after k − 1 refinement steps X ← X + A⁻¹(B − AX) (R314, R320). -/
def denseX (c : SlvCmd) (pr : Problem) (args : List Int) (fall : Bool) (a : List (List Dual)) (b : List (List Dual)) : Nat → List (List Ex)
  | 0 => b.map fun x => x.map fun _ => Ex.zero
  | k + 1 =>
    let n := cmdFld c 5 0 11
    let x := (denseX c pr args fall a b k).map fun u => u.map dualOfEx
    let f := ldl n a
    let step := (subCols b (x.map (matVec a))).map (ldlSolve f)
    ((x.zip step).zipIdx).map fun (u, j) => (u.1.zip u.2).zipIdx.map fun (w, i) =>
      slvValue (k + 8) args (j * padded n + i) (some (pr.bounds.getD 2 0)) fall (w.1.add w.2).v

def colsMax (x : List (List Dual)) : Int := ((x.flatMap id).map fun v => (v.v.natAbs : Int)).foldl max 0

/-- max|B − AX| ÷ max|B| of iterate k, with A as the caller's buffer holds it (R314). -/
def denseResidual (c : SlvCmd) (pr : Problem) (args : List Int) (fall : Bool) (a b : List (List Dual)) (k : Nat) : Ex :=
  let x := (denseX c pr args fall a b k).map fun u => u.map dualOfEx
  (slvValue 4 args k none fall (fdivf (colsMax (subCols b (x.map (matVec a)))) (colsMax b))).abs

/-- The pivots of the LDLᵀ factor that the operation forms, of A, whose first is its first entry, or of M (R313, R314). -/
def slvPivots (c : SlvCmd) (pr : Problem) (args : List Int) (fall : Bool) (xs : List (Option Ex)) : List Ex :=
  let held := slvNums (slvHeld c pr fall xs)
  if isDense c then
    let n := cmdFld c 5 0 11
    let d0 := cmdFld c 5 11 7 * padded n + padded (n * (n - 1) / 2)
    let a0 := ((slvHeld c pr fall xs).headD none).getD Ex.zero
    (ldl n (denseA c held)).zipIdx.map fun (x, i) =>
      if i = 0 then (if fall then (single a0).getD (slvValue 0 args d0 none fall x.1.v) else a0)
      else slvValue 0 args (d0 + i) (some (pr.bounds.getD 0 0)) fall x.1.v
  else if slvOp c < 5 then []
  else (slvEquations c pr (slvMotion c pr held)).factor.zipIdx.map fun (x, i) =>
    slvValue 2 args i (some (pr.bounds.getD 5 0)) fall x.1.v

def pivotZero (ps : List Ex) : Bool := ps.any fun x => x.n = 0

/-! ### Integrators and derivatives (R312, R328 to R330) -/

/-- a of a configuration inside an integrator: of the unconstrained dynamics, or of as many sweeps as R313 gives. -/
def slvAccel (c : SlvCmd) (pr : Problem) (args : List Int) (m : Motion) (warm : Option (List (Option Ex))) (fall : Bool) : List Dual :=
  let r := rowSolve c pr args m (m.q.map fun x => some x.ex) warm fall
  if slvRowed c then r.eqs.accel (r.after (r.last c pr).1) else r.eqs.accel0

/-- The configurations of the stages of an integrator, the last one last: RK4 has four, EULER one. -/
def slvStages (c : SlvCmd) (pr : Problem) (args : List Int) (m : Motion) (warm : Option (List (Option Ex))) (fall : Bool) :
    List (List Dual × List Dual × List Dual) :=
  let f (q v : List Dual) : List Dual := slvAccel c pr args { m with q := q, v := v } warm fall
  if slvOp c = 8 then rk4Stages (probJoints pr.image) (slvDt c) f m.q m.v else [(m.q, m.v, f m.q m.v)]

/-- λ and a of the last dynamics of a constrained integrator, or a of another one. -/
def slvHidden (c : SlvCmd) (pr : Problem) (args : List Int) (xs : List (Option Ex)) (warm : Option (List (Option Ex))) (fall : Bool) : List Ex :=
  let m := slvMotion c pr (slvNums (slvHeld c pr fall xs))
  let (q, v, _) := (slvStages c pr args m warm fall).getLastD (m.q, m.v, [])
  let r := rowSolve c pr args { m with q := q, v := v } (if slvOp c = 8 then q.map fun x => some x.ex else xs) warm fall
  let lams := if slvRowed c then r.forces pr 1 (r.last c pr).1 else List.replicate pr.rows Ex.zero
  lams ++ r.accels pr 1 (if slvRowed c then lams else [])

/-- The tangents of the primal outputs along seeds, at the a and λ that were returned: δa and δλ, or δq′ and δv′ (R328 to R330). -/
def slvTangent (c : SlvCmd) (pr : Problem) (m : Motion) (a lams : List Ex) (s : Seeds) : List Int :=
  let js := probJoints pr.image
  let ms := m.seeded js s
  let step (x : List Dual × List Dual) : List Int := tangentOf js x.1 ++ x.2.map (·.d)
  let d := (slvEquations c pr ms).tangent (heldRows lams) (a.map fx) (lams.map fx)
  match slvOp c with
  | 5 => d.1
  | 6 => d.1 ++ d.2
  | 7 => step (eulerStep js (slvDt c) ms.q ms.v ((a.zip d.1).map fun x => { v := fx x.1, d := x.2 }))
  | _ => step (rk4Step js (slvDt c) ms.q ms.v
      (rk4Stages js (slvDt c) (fun q v => (slvEquations c pr { ms with q := q, v := v }).accel0) ms.q ms.v))

/-- The outputs of an adjoint call: q̄, v̄, τ̄ and the wrench adjoints, of the values that the primal call returned; its a follows from
its λ (R329, R330). -/
def slvAdjoint (c : SlvCmd) (pr : Problem) (m : Motion) (lams : List Ex) (bars : List Int) : List Int :=
  let a := ((slvEquations c pr m).accel (lams.map dualOfEx)).map (·.ex)
  adjointOf (3 * pr.nv + m.wrenches.length) (fun i => slvTangent c pr m a lams (unitSeed pr.nv i)) bars

/-- EULER from the a that an engine formed: v′ = v + dt × a, then q′ = q + dt × v′ for every joint with one coordinate, each rounded
once; quaternions and the free base as q ⊕ dt × v′. In tangent mode δq′ follows δv′ in the same way (R312, R328). -/
def eulerOuts (c : SlvCmd) (pr : Problem) (args dargs : List Int) (xs : List (Option Ex)) (hidden : List Ex) (tangents : List Int)
    (fall : Bool) : List Ex :=
  let x (k : Nat) : Ex := (xs.getD k none).getD Ex.zero
  let cls := outClasses c pr
  let js := probJoints pr.image
  let m := slvMotion c pr (slvNums xs)
  let b (k : Nat) : Int := pr.bounds.getD k 0
  let whole := eulerStep js (slvDt c) m.q m.v ((hidden.drop pr.rows).map dualOfEx)
  let formed (args : List Int) (k : Nat) (y : Int) : Ex := slvValue 0 args k ((cls[k]?).getD none) fall y
  let v (k : Nat) : Ex :=
    (stepValue (b 2) fall (slvDt c) (x (pr.nq + k)) (hidden.getD (pr.rows + k) Ex.zero)).getD
      (formed args (pr.nq + k) (whole.2.getD k Dual.zero).v)
  let vs := (List.range pr.nv).map v
  let moved := stepCoords js m.q (vs.map fun y => (dualOfEx y).scale (slvDt c))
  let qs := (qRates js 0).zipIdx.map fun (r, k) =>
    let y := formed args k (moved.getD k Dual.zero).v
    match r with
    | some i => (stepValue (b 0) fall (slvDt c) (x k) (v i)).getD y
    | none => y
  let dv (k : Nat) : Ex := formed dargs (pr.nq + pr.nv + pr.nv + k) (tangents.getD (pr.nv + k) 0)
  let seed := pr.primal c
  let rates := (qRates js 0).filterMap id
  let dqs := (List.range pr.nv).map fun k =>
    let y := formed dargs (pr.nq + pr.nv + k) (tangents.getD k 0)
    if rates.contains k then (stepValue (b 7) fall (slvDt c) (x (seed + k)) (dv k)).getD y else y
  qs ++ vs ++ (if slvMode c = 1 then dqs ++ (List.range pr.nv).map dv else [])

/-! ### Results -/

/-- The seeds of a tangent call: δq, δv, δτ behind the primal inputs (R328). -/
def slvSeeds (c : SlvCmd) (pr : Problem) (xs : List Dual) : Seeds :=
  let f (i : Nat) : List Int := ((xs.drop (pr.primal c + i * pr.nv)).take pr.nv).map (·.v)
  { q := f 0, v := f 1, tau := f 2 }

/-- The outputs of an instance that is neither NaR nor at iterate 0, at iterate k of the operations that iterate: X of a dense
call, a and λ of CFD. The padding of a dense call is zero. The tangent of a λ whose row is not held as an equality is zero (R330). -/
def slvOuts (c : SlvCmd) (pr : Problem) (k : Nat) (fall : Bool) (xs : List (Option Ex)) (warm : Option (List (Option Ex))) : List Ex :=
  let cls := outClasses c pr
  let value (args : List Int) (i : Nat) (x : Int) : Ex := slvValue 0 args i ((cls[i]?).getD none) fall x
  let args := slvArgs c pr fall xs warm
  let held := slvNums (slvHeld c pr fall xs)
  let m := slvMotion c pr held
  if isDense c then
    let n := cmdFld c 5 0 11
    let x := cmdFld c 5 11 7 * padded n
    let d0 := x + padded (n * (n - 1) / 2)
    let a := denseA c held
    let cols := denseX c pr args fall a (denseB c held) k
    let ds := slvPivots c pr args fall xs
    let ls := (ldl n a).flatMap fun f => f.2
    (List.range (outElems c pr)).map fun i =>
      if densePad (denseOut c) i then Ex.zero
      else if i < x then (cols.getD (i / padded n) []).getD (i % padded n) Ex.zero
      else if i < d0 then value args i (ls.getD (i - x) Dual.zero).v
      else ds.getD (i - d0) Ex.zero
  else if slvMode c = 2 then
    let lams := slvLamsIn c pr fall xs
    let dargs := slvDerivArgs c pr fall xs lams
    let bars := (held.drop (pr.primal c + pr.lamIn c)).map (·.v)
    (slvAdjoint c pr m lams bars).zipIdx.map fun x => value dargs x.2 x.1
  else
    let seeds := slvSeeds c pr held
    if slvOp c = 7 then
      let hidden := slvHidden c pr args xs warm fall
      let lams := if slvRowed c then hidden.take pr.rows else []
      eulerOuts c pr args (slvDerivArgs c pr fall xs lams) (slvHeld c pr fall xs) hidden
        (if slvMode c = 1 then slvTangent c pr m (hidden.drop pr.rows) lams seeds else []) fall
    else if slvOp c = 6 then
      let r := rowSolve c pr args m xs warm fall
      let lams := r.forces pr (k + 8) k
      let as := r.accels pr (k + 8) lams
      let dl := pr.nv + pr.rows
      as ++ lams ++ (if slvMode c = 1 then (slvTangent c pr m as lams seeds).zipIdx.map fun (x, i) =>
          if pr.nv ≤ i && !(heldRows lams).getD (i - pr.nv) true then Ex.zero
          else value (slvDerivArgs c pr fall xs lams) (dl + i) x
        else [])
    else
      let primal :=
        if slvOp c = 5 then (slvEquations c pr m).accel0.map (·.v)
        else if slvOp c = 8 then
          let x := rk4Step (probJoints pr.image) (slvDt c) m.q m.v (slvStages c pr args m warm fall)
          (x.1 ++ x.2).map (·.v)
        else slvDirect c pr m
      let outs := primal.zipIdx.map fun x => value args x.2 x.1
      outs ++ (if slvMode c = 1 then (slvTangent c pr m outs [] seeds).zipIdx.map fun x =>
          value (slvDerivArgs c pr fall xs []) (outs.length + x.2) x.1
        else [])

/-! ### Quantities on the way (R310, R317) -/

/-- The quantities that an operation forms on its way, each with its class: places of links, spatial velocities, accelerations and
forces, M, D, L, and what an integrator's dynamics give. -/
def slvInner (c : SlvCmd) (pr : Problem) (args : List Int) (xs : List (Option Ex)) (warm : Option (List (Option Ex))) : List (Int × Int) :=
  let held := slvNums (slvHeld c pr false xs)
  let first (k : Nat) : Int := pr.bounds.getD k 0
  let factor (f : List (Dual × List Dual)) (d : Int) : List (Int × Int) := f.flatMap fun x => (d, x.1.v) :: x.2.map fun l => (8, l.v)
  if isDense c then factor (ldl (cmdFld c 5 0 11) (denseA c held)) (first 0)
  else
    let m := slvMotion c pr held
    let n := kinOf (probJoints pr.image) m.q
    let second (k : Nat) : Int := ((probBounds pr.image).map (·.2.getD k 0)).getD 0
    let all (b : Int) (x : V3) : List (Int × Int) := x.list.map fun y => (b, y.v)
    let a := if slvOp c = 3 then m.tau else slvAccel c pr args m warm false
    let moves := slvOp c = 3 || 5 ≤ slvOp c
    let parts := mergedParts n.js
    n.places.flatMap (fun p => all (first 1) p.pos)
      ++ (if moves then parts.flatMap fun p =>
            let x := n.com p
            let f := n.effort (gravityOf pr.image) m.v a p
            all (second 1) (n.spin m.v p.link) ++ all (second 1) (n.speed m.v p.link x)
              ++ all (second 2) (n.spinRate m.v a p.link) ++ all (second 2) (n.accel m.v a p.link x) ++ all (second 3) f.1 ++ all (second 3) f.2
          else [])
      ++ (if 4 ≤ slvOp c then n.mass.flatMap fun r => r.map fun x => (first 5, x.v) else [])
      ++ (if 5 ≤ slvOp c then factor (slvEquations c pr m).factor (first 5) else [])
      ++ (if isIntegrator c then (slvHidden c pr args xs warm false).zipIdx.map fun x => (first (if x.2 < pr.rows then 4 else 3), fx x.1) else [])

/-- A quantity on the way exceeds its class, or, freely, an accumulator overflows (R317). -/
def innerSaturates (c : SlvCmd) (pr : Problem) (args : List Int) (xs : List (Option Ex)) (warm : Option (List (Option Ex))) : Bool :=
  (slvInner c pr args xs warm).zipIdx.any (fun x => slvBeyond 5 args x.2 x.1.1 x.1.2) || Config.nyalaOverflows args

/-- A result that exceeds its class (R317). -/
def outputSaturates (c : SlvCmd) (pr : Problem) (outs : List Ex) : Bool :=
  (outs.zip (outClasses c pr)).any fun x => match x.2 with
    | some b => codeBad (x.1.roundAt (b - 30))
    | none => false

/-- The operations that iterate (R320). -/
def slvIterates (c : SlvCmd) : Bool := slvMode c ≠ 2 && (slvOp c = 6 || isDense c)

/-- The residual of iterate k (R313, R314). -/
def slvResidual (c : SlvCmd) (pr : Problem) (args : List Int) (xs : List (Option Ex)) (warm : Option (List (Option Ex))) (fall : Bool) (k : Nat) : Ex :=
  let held := slvNums (slvHeld c pr fall xs)
  if isDense c then denseResidual c pr args fall (denseA c held) (denseB c held) k
  else (rowSolve c pr args (slvMotion c pr held) xs warm fall).residual pr k

/-- RES_MAN and RES_SCALE of a residual: how many of the 16 bits its mantissa leaves unused is free, and so is the scale of zero
(R319). -/
def resWord (args : List Int) (k : Nat) (r : Ex) : Nat × Nat :=
  let n := Config.nyalaCode 6 args k
  if r.n = 0 then (0, (n % 255).toNat)
  else
    let s := (max 0 (min 254 (r.log2 - 15 + n % 16 + 142))).toNat
    (min 65535 (r.roundAt ((s : Int) - 142)).toNat, s)

/-- The most iterates that a call computes: MAX_ITER sweeps, or the solve and MAX_REFINE refinement steps (R313, R314, R320). -/
def slvMost (c : SlvCmd) : Nat := if isDense c then slvRefine c + 1 else slvMaxIter c

/-- The iterate at which an instance ends, the first whose residual meets the tolerance or the last one, and whether it does not
meet it. -/
def slvEnd (c : SlvCmd) (pr : Problem) (fall : Bool) (xs : List (Option Ex)) (warm : Option (List (Option Ex))) : Nat × Bool :=
  if slvIterates c then
    match (List.range (slvMost c)).find? fun k => !slvUnmet c (slvResidual c pr (slvArgs c pr fall xs warm) xs warm fall (k + 1)) with
    | some k => (k + 1, false)
    | none => (slvMost c, true)
  else (1, false)

/-- The refinement steps of a record: of a dense call those behind its iterate; of another solve on the fallback path as many as
the stopping rule of R314 takes, MAX_REFINE at most; none on the main path (R318, R319). -/
def slvSteps (c : SlvCmd) (args : List Int) (fall : Bool) (k : Nat) : Nat :=
  if isDense c then k - 1
  else if fall && 5 ≤ slvOp c && k ≠ 0 then
    ((List.range (slvRefine c)).find? fun i => !slvUnmet c (slvValue 7 args i none fall 0).abs).getD (slvRefine c)
  else 0

/-- The iterate that a context keeps (R324): λ and a of CFD, X of a dense call, λ and a of the last dynamics of an
integrator, which its outputs do not show. -/
def slvKept (c : SlvCmd) (pr : Problem) (outs hidden : List (Option Ex)) : List (Option Ex) :=
  if slvOp c = 6 then (outs.drop pr.nv).take pr.rows ++ outs.take pr.nv
  else if isDense c then denseValues c outs
  else hidden

/-- The STATUS of an instance: the first of its own and of its forward record's in adjoint mode (R323, R329). -/
def slvStatus (c : SlvCmd) (x : InstIn) (own : List Nat) : Nat := firstStatus (own ++ (if slvMode c = 2 then [x.fwd.status] else []))

/-- Whether an instance takes the fallback path from its start: by the command, or after its forward record (R308, R329). -/
def slvForced (c : SlvCmd) (strict : Bool) (x : InstIn) : Bool := slvFlag c 10 || strict || (slvMode c = 2 && x.fwd.fallback)

/-- An instance that a deadline ends: before or inside a factorisation phase, or at iterate k of an operation that iterates
(R321). `moved` says that it had moved to the fallback path (R317). -/
def slvExpired (c : SlvCmd) (pr : Problem) (x : InstIn) (warm : Option (List (Option Ex))) (fall moved fact : Bool) (k : Nat) : InstOut :=
  let it := if fact || !slvIterates c then 0 else k
  let args := slvArgs c pr fall x.xs warm
  let outs := if it = 0 then iterate0 c pr x.xs warm else (slvOuts c pr it fall x.xs warm).map some
  let res := resWord args it (slvResidual c pr args x.xs warm fall it)
  { status := slvStatus c x [if fact then 0x21 else 0x20], iter := it, fallback := fall, warm := warm.isSome
    refine := slvSteps c args fall it
    resMan := if it = 0 then 0 else res.1, resScale := if it = 0 then 0xFF else res.2
    outs := outs
    iterate := slvKept c pr outs (warm.getD (List.replicate (ctxWide c pr) (some Ex.zero))), moved := moved }

/-- What one instance returns when it runs to its end (R316 to R323, R329). -/
def slvRun (c : SlvCmd) (pr : Problem) (strict discarded : Bool) (x : InstIn) (warm : Option (List (Option Ex))) : InstOut :=
  let xs := x.xs
  let nar : List (Option Ex) :=
    if isDense c then (List.range (outElems c pr)).map fun k => if densePad (denseOut c) k then some Ex.zero else none
    else List.replicate (slvWidth c pr) none
  let iterates := slvIterates c
  if xs.any (·.isNone) then
    { status := slvStatus c x [], iter := 0, nar := true, resScale := if iterates then 0xFF else 0, outs := nar, iterate := [], cond := cNarIn }
  else
    let adjoint := slvMode c = 2
    let zero := adjoint && (x.fwd.status = 0x21 || x.fwd.iter = 0)
    let args (fall : Bool) : List Int :=
      if adjoint then slvDerivArgs c pr fall xs (slvLamsIn c pr fall xs) else slvArgs c pr fall xs warm
    let forced := slvForced c strict x
    let moved := !forced && (inputSaturates c pr xs || (!zero && (pivotZero (slvPivots c pr (args false) false xs)
      || innerSaturates c pr (args false) xs warm || outputSaturates c pr (slvOuts c pr (slvEnd c pr false xs warm).1 false xs warm))))
    let fall := forced || moved
    let pivot := !zero && fall && pivotZero (slvPivots c pr (args true) true xs)
    let (iter, part) := slvEnd c pr fall xs warm
    let res := if iterates then resWord (args fall) iter (slvResidual c pr (args fall) xs warm fall iter) else (0, 0)
    let own := (if part then [1] else []) ++ (if discarded then [0x30] else []) ++ (if fall then [0x31] else [])
    let outs := if zero then iterate0 c pr xs none else if pivot then nar else (slvOuts c pr iter fall xs warm).map some
    { status := slvStatus c x own
      iter := iter, fallback := fall, warm := warm.isSome, refine := slvSteps c (args fall) fall iter
      resMan := res.1, resScale := res.2, outs := outs
      iterate := slvKept c pr outs ((slvHidden c pr (args fall) xs warm fall).map some)
      cond := if pivot then cNarGen else 0, moved := moved }

/-! ### Records and outputs (R309, R319) -/

def InstOut.record (o : InstOut) (sat : Bool) : List Word :=
  [packBits [(o.status, 0), (o.iter % 65536, 16), (b2n o.fallback, 32), (b2n o.warm, 33), (b2n o.nar, 34), (b2n sat, 35), (o.refine, 36)],
   packBits [(o.resMan, 0), (o.resScale, 16)]]

/-- The output elements of the call in buffer order, padding as zeros. -/
def slvElems (c : SlvCmd) (pr : Problem) (outs : List InstOut) : List (Option Ex) :=
  if isDense c then (outs.headD { status := 0, iter := 0, outs := [], iterate := [] }).outs
  else (List.range (outCoords c pr)).flatMap fun k =>
    (List.range (padded (slvCount c))).map fun i => match outs[i]? with
      | some o => o.outs.getD k (some Ex.zero)
      | none => some Ex.zero

/-- Whether an instance has an output element that saturated. -/
def slvSat (c : SlvCmd) (pr : Problem) (bs : List (Blk × Cond)) (xs : List (Option Ex)) (i : Nat) : Bool :=
  let hit (e : Nat) : Bool :=
    match bs[e / 32]? with
    | some (b, _) => (roundElem (.limb (slvL c)) b.e { val := xs.getD e (some Ex.zero) }).2 == cSat
    | none => false
  if isDense c then (List.range xs.length).any hit
  else (List.range (outCoords c pr)).any fun k => hit (k * padded (slvCount c) + i)

/-- The blocks of the call's output buffer with their conditions. -/
def slvBlks (c : SlvCmd) (pr : Problem) (outs : List InstOut) : List (Blk × Cond) :=
  let xs := slvElems c pr outs
  slvForm (slvL c) (slvBlocks xs.length) xs

/-- A block of the output buffer is complete once every instance in it has its outputs (R309). -/
def blkDone (c : SlvCmd) (n k : Nat) : Bool :=
  let per := padded (slvCount c) / 32
  if isDense c then n ≠ 0 else min (32 * (k % per) + 32) (slvCount c) ≤ n

/-- The output bytes of the blocks that became complete while the outcomes grew from n instances to m: the output transfers of the
waves (R337). -/
def slvData (c : SlvCmd) (bs : List (Blk × Cond)) (n m : Nat) : List WByte :=
  (bs.zipIdx.filter fun x => blkDone c m x.2 && !blkDone c n x.2).flatMap fun (b, k) =>
    writesAt (slvOut c + 32 * slvL c * k) (blkData (.limb (slvL c)) b.1.m)
      ++ writesAt (slvOutScale c + k) [BitVec.ofNat 8 (scaleCode b.1.e)]

/-- Every record of the call. -/
def slvRecords (c : SlvCmd) (pr : Problem) (bs : List (Blk × Cond)) (outs : List InstOut) : List WByte :=
  outs.zipIdx.flatMap fun (o, i) => writesAt (slvRec c + 16 * i) (wordBytes (o.record (slvSat c pr bs (slvElems c pr outs) i)))

end Sys2Proof.Machine
end

