-- ==== Sys2Proof/Machine/SolverExec.lean ====
section
/-! DEFINITION. The meanings of the Nyala engine's steps (09 R294, R315 to R337). -/
namespace Sys2Proof.Machine

def State.onNyala (s : State) (r : Rg) (f : Nyala → Nyala) : State := s.onRg r fun x => { x with nyala := f x.nyala }

/-- The tile memory that a call reads. -/
def State.slvRead (s : State) (c : Cl) (entry : Nat) : Nat → Byte := s.tileAs c ((s.cl c).firing entry)

/-- A refusal (R315): REFUSED, the first refusal's place, and the fault. -/
def State.slvRefuse (s : State) (c : Cl) (f : Firing) (reason : Nat) : State :=
  (s.onNyala (rgOf c) fun n =>
    let n := if n.stat.getLsbD 0 then n else
      { n with errReason := BitVec.ofNat 4 reason, errCluster := BitVec.ofNat 9 c.val, errEntry := BitVec.ofNat 7 f.entry }
    { n with stat := n.stat ||| 1 }).faultFiring c f 6

/-- What a call starts from: the entries of its context where its signature is the problem's; whether it differs (R325). -/
def State.slvWarmStart (s : State) (r : Rg) (c : SlvCmd) (pr : Problem) : Option (SMap CtxEntry) × Bool :=
  if !slvWarm c then (none, false)
  else match smFind (s.rg r).nyala.ctxs (slvCtxNo c) with
  | some x => if x.differs pr.signature then (none, true) else if x.signature.isSome then (some x.entries, false) else (none, false)
  | none => (none, false)

/-- SOLVER_CALL_START: the next queued call is taken, checked and begun; a call whose deadline has passed in the queue
does no work; none starts in the pause of a level 3 snapshot (R294, R315, R321, R332, R486). -/
def execSolverCallStart (r : Rg) (s : State) : Res :=
  let n := (s.rg r).nyala
  if s.run.paused then .next s
  else match n.run, n.queue with
  | none, q :: rest =>
    let s := s.onNyala r fun n => { n with queue := rest }
    match (s.cl q.cl).firing q.entry, s.run.graph with
    | some f, some g =>
      let e := (s.cl q.cl).entry q.entry
      let c : SlvCmd := BitVec.ofNat 512 (leBytes (s.slvRead q.cl q.entry) e.addr 64)
      let reason := s.slvReason g.pkg q.cl f c
      if reason ≠ 0 then .next (s.slvRefuse q.cl f reason)
      else
        let pr := (s.slvProblem g.pkg r c).getD { image := [], signature := 0, nv := 0, nq := 0, rows := 0, joints := 0, bounds := [] }
        let (warm, discarded) := s.slvWarmStart r c pr
        let u : NyalaRun :=
          { cl := q.cl, entry := q.entry, cmd := c, warm := warm, discarded := discarded, expired := q.expired
            phase := if q.expired then .finished else .input }
        .next (s.onNyala r fun n => { n with run := some u })
    | _, _ => .next s
  | _, _ => .next s

/-- The instances of a wave (R295). -/
def waveInst (c : SlvCmd) (pr : Problem) (w : Nat) : List Nat :=
  let n := lanesFor c pr
  (List.range n).map (w * n + ·) |>.filter (· < slvCount c)

/-- The instances of the current wave. -/
def NyalaRun.wavesInst (u : NyalaRun) (pr : Problem) : List Nat := waveInst u.cmd pr u.wave

/-- The problem of the running call. -/
def State.slvRunProblem (s : State) (r : Rg) (u : NyalaRun) : Option Problem :=
  s.run.graph.bind fun g => s.slvProblem g.pkg r u.cmd

/-- The outputs of the waves that have computed are written, the run goes on as u (R337). -/
def State.sendWave (s : State) (r : Rg) (pr : Problem) (u : NyalaRun) : State :=
  let ws := slvData u.cmd (slvBlks u.cmd pr u.outs) u.written u.outs.length
  (s.onNyala r fun n => { n with run := some { u with written := u.outs.length } }).firingWrite u.cl ((s.cl u.cl).firing u.entry) ws

/-- NYALA_WAVE_INPUT_DONE: the inputs of a wave have arrived, of the wave that waits for them, or of the next while one computes;
a wave computes once its input has arrived and the one before it has finished (R337). Outputs that were asked for after this input are
written after it has been read (R294). -/
def execNyalaWaveInputDone (r : Rg) (s : State) : Res :=
  match (s.rg r).nyala.run with
  | some u =>
    (match u.phase, s.slvRunProblem r u with
     | .input, some pr =>
       let xs := (waveInst u.cmd pr u.wave).map (slvFetch (s.slvRead u.cl u.entry) u.cmd pr)
       .next (s.sendWave r pr { u with phase := .compute, inputs := xs })
     | .compute, some pr =>
       let is := waveInst u.cmd pr (u.wave + 1)
       if u.ahead.isSome || is.isEmpty then .next s
       else
         let xs := is.map (slvFetch (s.slvRead u.cl u.entry) u.cmd pr)
         .next (s.onNyala r fun n => { n with run := some { u with ahead := some xs } })
     | _, _ => .next s)
  | none => .next s

/-- The context entry that an instance starts from. -/
def NyalaRun.start (u : NyalaRun) (pr : Problem) (i : Nat) : Option (List (Option Ex)) :=
  u.warm.map fun m => ctxValues u.cmd pr (((smFind m (slvBase u.cmd + i)).map (·.values)).getD [])

/-- The outcomes of the current wave. -/
def NyalaRun.outcomes (u : NyalaRun) (pr : Problem) (strict : Bool) : List InstOut :=
  ((u.wavesInst pr).zip u.inputs).map fun x => slvRun u.cmd pr strict u.discarded x.2 (u.start pr x.1)

/-- NYALA_WAVE_COMPUTE_DONE: the wave's outcomes are fixed and its outputs are sent, behind the next wave's input, which was asked for
before them; the next wave, or the end of the call, follows (R294, R337). -/
def execNyalaWaveComputeDone (r : Rg) (s : State) : Res :=
  match (s.rg r).nyala.run with
  | some u =>
    (match u.phase, s.slvRunProblem r u with
     | .compute, some pr =>
       let outs := u.outs ++ u.outcomes pr ((s.cl u.cl).entry u.entry).strict
       let last := slvCount u.cmd ≤ (u.wave + 1) * lanesFor u.cmd pr
       let v := { u with
         outs := outs, inputs := u.ahead.getD [], ahead := none
         wave := if last then u.wave else u.wave + 1
         phase := if last then .finished else if u.ahead.isSome then .compute else .input }
       .next (if v.phase = .input then s.onNyala r fun n => { n with run := some v } else s.sendWave r pr v)
     | _, _ => .next s)
  | none => .next s

/-- Instances that have not been computed when a deadline ends the call: not started, they return iterate 0. -/
def NyalaRun.unstarted (u : NyalaRun) (rd : Nat → Byte) (pr : Problem) (strict : Bool) : List InstOut :=
  ((List.range (slvCount u.cmd)).drop u.outs.length).map fun i =>
    let x := slvFetch rd u.cmd pr i
    slvExpired u.cmd pr x (u.start pr i) (slvForced u.cmd strict x) false false 0

/-- An instance of the wave that computes when a deadline passes: `w` says, freely, how far it has come. It has finished; or it is
inside a factorisation phase, which the whole of an operation without iterates is; or it stands after an iterate before its last
(R320, R321). One that saturates after its inputs may not have done so yet (R317). -/
def NyalaRun.caught (u : NyalaRun) (pr : Problem) (strict : Bool) (i : Nat) (x : InstIn) (w : Nat) : InstOut :=
  let warm := u.start pr i
  let o := slvRun u.cmd pr strict u.discarded x warm
  if o.nar || w % 3 = 0 then o
  else
    let moved := o.moved && (inputSaturates u.cmd pr x.xs || w / 3 % 2 = 1)
    let last := if moved || !o.moved then o.iter else (slvEnd u.cmd pr false x.xs warm).1
    slvExpired u.cmd pr x warm (slvForced u.cmd strict x || moved) moved (w % 3 = 1 || !slvIterates u.cmd) (w / 6 % max 1 last)

/-- SOLVER_DEADLINE: a deadline passes, of a queued call (`k` from 1) or of the running one (`k` = 0). An instance of
the wave that computes has finished, or is inside a factorisation phase, or between iterates: which is timing, and free
here (R321). -/
def execSolverDeadline (r : Rg) (k : Nat) (s : State) : Res :=
  let n := (s.rg r).nyala
  let has (c : Cl) (i : Nat) : Bool := ((s.cl c).entry i).f 6 0 32 ≠ 0
  if k ≠ 0 then
    .next (s.onNyala r fun n =>
      { n with queue := n.queue.zipIdx.map fun x => if x.2 + 1 = k && has x.1.cl x.1.entry then { x.1 with expired := true } else x.1 })
  else match n.run with
    | none => .next s
    | some u =>
      if !has u.cl u.entry || decide (u.phase = .finished) then .next s
      else match s.slvRunProblem r u with
        | none => .next s
        | some pr =>
          let (nonce, s) := s.draw
          let strict := ((s.cl u.cl).entry u.entry).strict
          let now := if u.phase = .compute then
              ((u.wavesInst pr).zip u.inputs).map fun x => u.caught pr strict x.1 x.2 (Config.freeWord nonce x.1).toNat
            else []
          .next (s.onNyala r fun n => { n with run := some { u with outs := u.outs ++ now, inputs := [], ahead := none, phase := .finished, expired := true } })

/-- Everything that a finished call does to counters and contexts (R317, R321, R325, R326). -/
def NyalaRun.effects (u : NyalaRun) (pr : Problem) (outs : List InstOut) : HeldWarm :=
  let stat := (if outs.any (·.fallback) then 2 else 0) + (if u.expired then 4 else 0) + (if u.discarded then 8 else 0)
    + (if firstStatus (outs.map (·.status)) = 1 then 16 else 0)
  { cl := u.cl, entry := u.entry
    ctx := if slvCtxNo u.cmd = 0xFF then none else some (slvCtxNo u.cmd)
    signature := pr.signature, update := slvUpdate u.cmd && warmKind u.cmd && slvMode u.cmd ≠ 2
    entries := (outs.zipIdx.filter fun x => x.1.status ≠ 0x21 && !x.1.nar).map fun x => (slvBase u.cmd + x.2, ctxCodes u.cmd pr x.1.iterate)
    discard := u.discarded, falls := outs.countP (·.moved), deadline := u.expired
    stat := BitVec.ofNat 5 stat }

/-- NYALA_CALL_DONE: the last outputs and then the records are written, the firing has ended, the engine is free; what a call does
to contexts and counters waits for the commit of a firing that has not committed (R319, R323, R333, R337). -/
def execNyalaCallDone (r : Rg) (s : State) : Res :=
  match (s.rg r).nyala.run with
  | none => .next s
  | some u =>
    match u.phase, s.slvRunProblem r u, (s.cl u.cl).firing u.entry with
    | .finished, some pr, some f =>
      let strict := ((s.cl u.cl).entry u.entry).strict
      let outs := u.outs ++ u.unstarted (s.slvRead u.cl u.entry) pr strict
      let bs := slvBlks u.cmd pr outs
      let ws := slvData u.cmd bs u.written outs.length ++ slvRecords u.cmd pr bs outs
      let conds := orAll (bs.map (·.2)) ||| orAll (outs.map (·.cond))
      let h := u.effects pr outs
      let t := s.onNyala r fun n =>
        let n := { n with run := none }
        if f.held || f.committing then { n with held := n.held ++ [h] } else n.applyWarm h
      let t := t.onCl u.cl fun k => k.onFiring u.entry fun f =>
        { f with
          conds := f.conds ||| conds, ended := true, result := BitVec.ofNat 32 ((outs.map (·.iter)).foldl max 0)
          status := BitVec.ofNat 16 (firstStatus (outs.map (·.status))) }
      .next (t.firingWrite u.cl (some f) ws)
    | .finished, _, _ => .next (s.onNyala r fun n => { n with run := none })
    | _, _, _ => .next s

/-! ### Problems and contexts of the host (R300 to R303, R327) -/

/-- SLV_PROBLEM_LOAD (R301, R302). -/
def State.slvProblemLoad (s : State) (port : HPort) (tag : BitVec 16) (slot : Nat) (image : List Word) : State :=
  if s.run.loads.any fun l => l.slot == slot then s.finish port tag rejectedBusy
  else match s.run.graph.bind fun g => solverEntry g.pkg 0 slot with
    | none => s.finish port tag (rejected 1)
    | some e =>
      let d := probDetail image e
      if d ≠ 0 then s.finish port tag (rejected d)
      else
        let pr := problemOf image
        if s.run.step.isSome then
          s.onRun fun r => { r with loads := r.loads ++ [{ slot := slot, problem := pr, port := port, tag := tag }] }
        else (s.installProblem slot pr).finish port tag { words := [pr.signature] }

/-- SLV_PROBLEM_INFO (R300): an empty slot answers zeros (log entry 25). -/
def State.slvProblemInfo (s : State) (port : HPort) (tag : BitVec 16) (slot : Nat) : State :=
  let waiting := BitVec.ofNat 64 (b2n (s.run.loads.any fun l => l.slot == slot))
  let on := (List.finRange 24).foldl (fun n r => if (s.rg r).nyala.slots.contains slot then n + 2 ^ r.val else n) 0
  match smFind s.run.problems slot with
  | none => s.finish port tag { words := [0, 0, 0, 0, waiting] }
  | some pr =>
    s.finish port tag { words :=
      [pr.signature, packBits [(pr.nv, 0), (pr.nq, 10), (pr.rows, 21), (pr.joints, 30)],
       packBits (pr.bounds.zipIdx.map fun x => (codeOf 8 x.1, 8 * x.2)), BitVec.ofNat 64 on, waiting] }

/-- SLV_CONTEXT_CLEAR (R327). -/
def State.slvContextClear (s : State) (port : HPort) (tag : BitVec 16) (ctx : Nat) : State :=
  if s.run.step.isSome then s.onRun fun r => { r with clears := r.clears ++ [(port, tag, ctx)] }
  else (s.clearContext ctx).finish port tag done

end Sys2Proof.Machine
end

