-- ==== Sys2Proof/Machine/CurvOps.lean ====
section
/-! DEFINITION. Curvature blocks at work (10 R363, R372, R373): which region steers a block, where its data lies, what
a step's start does to statistics and roots. -/
namespace Sys2Proof.Machine

/-- The placed graph. -/
def State.placed (s : State) : Option (Package × Placement) :=
  match s.run.graph with
  | some ⟨p, some pl⟩ => some (p, pl)
  | _ => none

/-- The group size and rank of this module for a package. -/
def State.group (s : State) (p : Package) : Nat := s.fab.groupSize p.dpMask
def State.rank (s : State) (p : Package) : Nat := s.fab.rank p.dpMask

/-- Whether this module owns a block (R363). -/
def State.owns (s : State) (p : Package) (b : Nat) : Bool := b % s.group p == s.rank p

/-- Regions that hold clusters of a stage, ascending. -/
def stageRegions (g : Stage) : List Nat := (List.range 24).filter fun r => g.clusters.any fun c => c / 16 == r

/-- The region that steers each owned block: the one with the least n³ so far, the lower of equals (R363). -/
def State.steering (s : State) (p : Package) (pl : Placement) : List (Nat × Nat) :=
  (p.blocks.zipIdx.foldl (fun (a : List Nat × List (Nat × Nat)) x =>
    let (loads, out) := a
    if !s.owns p x.2 then a
    else match (p.rootOp x.1.entry).bind fun o => pl.stages.find? fun g => g.op == o with
      | none => a
      | some g =>
        match stageRegions g with
        | [] => a
        | r0 :: rs =>
          let r := rs.foldl (fun b r => if loads.getD r 0 < loads.getD b 0 then r else b) r0
          (loads.set r (loads.getD r 0 + x.1.n ^ 3), out ++ [(x.2, r)])) (List.replicate 24 0, [])).2

def State.steerer (s : State) (p : Package) (pl : Placement) (b : Nat) : Option Rg :=
  ((s.steering p pl).find? fun x => x.1 == b).bind fun x => rgAt x.2

/-- Whether a region's unit has a computation of a block in progress (R372). -/
def Medlar.working (m : Medlar) (b : Nat) : Bool :=
  m.newton.any (fun n => n.block == b) || m.todo.contains b || m.jacobi.any fun j => j.block == b

/-- Whether a run is the factor reduction of a block, whose sum its owner will use. -/
def SRun.reduces (r : SRun) (b : Nat) : Bool :=
  !r.unused && match r.kind with | .factor k _ _ => k == b | _ => false

/-- Whether a root computation of a block is in progress on this module, from its factor reduction on (R372). -/
def State.working (s : State) (b : Nat) : Bool :=
  s.rgs.toList.any (fun g => g.medlar.working b) || s.fab.runs.any (·.reduces b)

/-- A sticky bit of CRV_STAT. -/
def Medlar.flag (m : Medlar) (bit : Nat) : Medlar := { m with stat := m.stat ||| (1#5 <<< bit) }

def State.onMedlar (s : State) (r : Rg) (f : Medlar → Medlar) : State := s.onRg r fun x => { x with medlar := f x.medlar }

def Run.blk (r : Run) (b : Nat) : CrvBlk := smGet {} r.crvBlk b
def Run.onBlk (r : Run) (b : Nat) (f : CrvBlk → CrvBlk) : Run := { r with crvBlk := smPut {} r.crvBlk b (f (r.blk b)) }

/-- The class of Medlar's requests for a block: that of the lowest-numbered cluster of its root group, in the segment of the
class-6 stage (R404). -/
def State.medlarClass (s : State) (p : Package) (pl : Placement) (b line : Nat) : Nat :=
  let g := ((p.block b).bind fun k => p.rootOp k.entry).bind fun o => pl.stages.find? fun g => g.op == o
  match g, (s.steerer p pl b).bind fun r => (rootGroup p pl b r).head? with
  | some g, some c => s.cmapClass g.segment c line
  | _, _ => 0

/-- The elements of SI blocks as bytes, data first, then scale codes: the limbs of NaR for an element in an uncorrectable sector
(R56, R86, R413). -/
def Memory.siBytes (m : Memory) (l addr n : Nat) : List Byte :=
  let raw := m.bytes addr (siLen l n)
  if m.ue.isEmpty then raw
  else raw.zipIdx.map fun (v, i) =>
    if i < 32 * l * slvBlocks n && siMarked m.ue l addr n (i / (32 * l) * 32 + i % 32) then
      (if i % (32 * l) < 32 then 0x80 else 0)
    else v

/-- Medlar meets an uncorrectable sector in what it reads: STAT_NAR (R413). -/
def State.medlarMarks (s : State) (r : Rg) (a len : Nat) : State := if s.mem.marked a len then s.onMedlar r (·.flag 3) else s

/-- The device addresses of a byte of a tensor: one home, or every cluster that holds it. -/
def tensorAddrs (p : Package) (pl : Placement) (t i : Nat) : List Nat :=
  (tensorSpans p pl t).filterMap fun x => if x.2.1 ≤ i ∧ i < x.2.1 + x.2.2 then some (x.1 + (i - x.2.1)) else none

/-- Bytes from an offset of a tensor on, wherever it lies. -/
def tensorWrites (p : Package) (pl : Placement) (t off : Nat) (bs : List Byte) : List WByte :=
  bs.zipIdx.flatMap fun (v, i) => (tensorAddrs p pl t (off + i)).map fun a => { addr := a, data := v }

/-! ### The start of a step -/

/-- A staged root enters the ROOT tensor, wherever it lies, and its record (R373, R379). A block that starts inside a storage block of the
tensor leaves that stretch undefined (log entry 23). -/
def State.installRoot (s : State) (p : Package) (pl : Placement) (x : Staged) : State :=
  let t := s.onRun fun r => r.onBlk x.block fun b =>
    { b with rootStep := BitVec.ofNat 32 x.finished, iters := BitVec.ofNat 8 x.iters, jacobi := x.jacobi }
  match p.block x.block with
  | none => t
  | some k =>
    match p.curv k.entry with
    | none => t
    | some e =>
      let cls := s.medlarClass p pl x.block
      let nb := (k.n * k.n + 31) / 32
      let all := ((p.tensor e.root).elements + 31) / 32
      let src := pl.area 5 x.block
      let bs := t.mem.siBytes 4 src (k.n * k.n)
      let t := match s.steerer p pl x.block with
        | some r => t.medlarMarks r src bs.length
        | none => t
      let t := t.busRead cls src bs.length
      if k.first % 32 = 0 then
        t.busWrite cls (tensorWrites p pl e.root (k.first / 32 * 128) (bs.take (128 * nb))
          ++ tensorWrites p pl e.root (128 * all + k.first / 32) (bs.drop (128 * nb)))
      else
        let (n, t) := t.draw
        t.busWrite cls (tensorWrites p pl e.root (k.first / 32 * 128)
          ((List.range (128 * (nb + 1))).map fun i => (Config.freeWord n i).truncate 8))

/-- Roots that finished two steps ago or earlier are copied in before slot 239 is signalled (R373). -/
def State.copyRoots (s : State) (p : Package) (pl : Placement) : State :=
  let n := s.run.crvStep.toNat
  let (due, rest) := s.run.staged.partition fun x => decide (x.finished + 2 ≤ n)
  due.foldl (fun s x => s.installRoot p pl x) (s.onRun fun r => { r with staged := rest })

/-- The statistics guards of a step: TRUE on a statistics step, whose S starts from zero, FALSE otherwise (R359, R361, R377). -/
def State.resolveStats (s : State) (p : Package) (pl : Placement) : State :=
  let n := s.run.crvStep.toNat
  let key := pl.key p
  p.curvature.zipIdx.foldl (fun s x =>
    let e := curvOf x.1
    let on := s.run.statsEn && n % max 1 e.stat == 0
    let s := if on then
        (p.blocks.zipIdx.filter fun k => k.1.entry == x.2).foldl (fun s k =>
          let s := s.onRun fun r => r.onBlk k.2 fun b => { b with statsStep := BitVec.ofNat 32 n }
          { s with mem := s.mem.fill (pl.area 7 k.2) (siLen 8 (k.1.n * k.1.n)) none }) s
      else s
    (List.finRange 24).foldl (fun s r =>
      let g := Config.statGuard key x.2 r.val
      if g < 64 ∧ (pl.stages.any fun q => (q.op == e.op || p.captured e == some q.op) && (stageRegions q).contains r.val) then s.resolve guardDepth r g on else s) s) s

/-- Whether the latest computation of another module's block failed is known to its owner alone until a root comes: a free value at each
step's start. DESIGN CHOICE, log entry 132. -/
def State.othersFail (s : State) (p : Package) (due : List Nat) : State :=
  let (n, s) := s.draw
  p.blocks.zipIdx.foldl (fun s x =>
    if s.owns p x.2 || !((s.run.blk x.2).awaited || due.contains x.1.entry) then s
    else s.onRun fun r => r.onBlk x.2 fun b => { b with awaited := true, lastFailed := (Config.freeWord n x.2).getLsbD 0 }) s

/-- Entries due for roots in a step, and owned blocks of theirs that still have a computation in progress: those are
overrun (R372). -/
def State.dueRoots (s : State) (p : Package) (pl : Placement) : State :=
  let n := s.run.crvStep.toNat
  let due := (List.range p.curvature.length).filter fun i =>
    s.run.rootsEn && (s.run.forcePending || (p.curv i).any fun e => n % max 1 e.rootEvery == 0)
  let busy := (s.steering p pl).filter fun x =>
    (p.block x.1).any (fun k => due.contains k.entry) && s.working x.1
  let s := busy.foldl (fun s x => match rgAt x.2 with
    | some r => s.onMedlar r fun m => { m.flag 2 with overrunCnt := m.overrunCnt + 1 }
    | none => s) s
  let s := s.onRun fun r =>
    { r with forcePending := false, step := r.step.map fun k => { k with due := due, busy := busy.map (·.1) } }
  s.othersFail p due


/-- Paused Newton computations go on (R368). -/
def State.resumeNewton (s : State) : State :=
  { s with rgs := s.rgs.map fun x =>
      { x with medlar := { x.medlar with newton := x.medlar.newton.map fun w => { w with stepIters := 0, paused := false } } } }

end Sys2Proof.Machine
end

