-- ==== Sys2Proof/Machine/Steps.lean ====
section
/-! DEFINITION. How a step starts and its segments follow each other (08 R272, 10 R373, 14 R517): the meanings of
STEP_START and SEGMENT_FINISH. -/
namespace Sys2Proof.Machine

/-- HLT_RCV.STATE NORMAL. -/
def rcvNormal : BitVec 3 := 5

/-- A0, and no change of state under way. -/
def Power.steady (p : Power) : Bool := decide (p.state = .a0) && p.transition.isNone && p.creset.isNone && !p.off

/-- Whether Markhor may start a step now (R253, R517). -/
def State.mayStart (s : State) : Bool :=
  s.placed.isSome && s.hlt.rcv == rcvNormal && s.pwr.steady && s.sec.boot == .ready
  && s.run.step.isNone && !s.run.stopping && s.run.placing.isNone && s.run.fences.isEmpty && !s.txn.any (·.commit.isSome)
  && s.hlt.phase != .freeze && !s.hlt.freeze3 && !s.run.paused && s.run.budget != 0 && s.quiet

/-- A signal of Markhor to a slot of every cluster that takes part in a segment (R271, R272). -/
def State.openSegment (s : State) (pl : Placement) (seg : Nat) : State :=
  (List.finRange 384).foldl (fun s c => if pl.takesPart c.val seg then s.onCl c (·.addSlot (239 + seg) 1) else s) s

/-- A step starts: it is taken from the budget; a step that runs again finds tables, slots, buffers and guards as placement
made them (log entry 24); staged roots are copied in; statistics guards resolve. -/
def State.startStep (s : State) (p : Package) (pl : Placement) : State :=
  let s := if s.run.rerun then s.rearmTables p pl else s
  let t := s.onRun fun r =>
    { r with
      budget := r.budget - 1
      step := some { start := s.pwr.islands[96].ticks.toNat }
      rerun := false, stopped := false, outcome := 0, triggered := [], started := [] }
  let t := { t with perf := { t.perf with interval := some (t.perf.interval.getD 0) } }
  let t := (t.copyRoots p pl).dueRoots p pl
  let t := (t.resolveStats p pl).resumeNewton
  t.openSegment pl 0

/-- STEP_START. -/
def execStepStart (s : State) : Res :=
  match s.placed with
  | some (p, pl) => .next (if s.mayStart then s.startStep p pl else s)
  | none => .next s

/-! ### Segments (R272) -/

/-- The clusters of a region in a segment. -/
def Placement.inSegment (pl : Placement) (r : Rg) (seg : Nat) : List Cl :=
  (clustersOf r).filter fun c => pl.takesPart c.val seg

/-- A region has finished the open segment: its clusters have retired their closing entries, and no firing or held item
of the segment remains. -/
def State.segmentDone (s : State) (pl : Placement) (r : Rg) (k : StepRun) : Bool :=
  (pl.inSegment r k.segment).all (fun c => k.closed.contains (c.val, k.segment))
  && (clustersOf r).all (fun c => (s.cl c).firings.all fun f => s.segmentOf c f.entry != k.segment)
  && (s.rg r).hold.all (fun h => s.segmentOf h.cl h.entry != k.segment)
  && (s.rg r).held.all (fun h => s.segmentOf h.cl h.entry != k.segment)

/-- Markhor has all 24 reports: the next segment opens. -/
def State.nextSegment (s : State) (pl : Placement) (k : StepRun) : State :=
  if k.reported.length < 24 ∨ pl.segments ≤ k.segment + 1 then s
  else (s.onRun fun r => { r with step := some { k with segment := k.segment + 1, reported := [] } }).openSegment pl (k.segment + 1)

/-- SEGMENT_FINISH: a region reports the open segment once. -/
def execSegmentFinish (rg : Rg) (s : State) : Res :=
  match s.placed, s.run.step with
  | some (_, pl), some k =>
    if k.reported.contains rg || !s.segmentDone pl rg k then .next s
    else
      let k := { k with reported := k.reported ++ [rg] }
      .next ((s.onRun fun r => { r with step := some k }).nextSegment pl k)
  | _, _ => .next s

end Sys2Proof.Machine
end

