-- ==== Sys2Proof/Machine/Curvature.lean ====
section
/-! DEFINITION. Inverse roots under Medlar (10 R364 to R371, R375): how Z is formed, and the meanings of
NEWTON_NORMALISATION, MEDLAR_ITERATION_DECISION and JACOBI_ROUND. -/
namespace Sys2Proof.Machine

/-! ### Z (R364) -/

/-- ε of an entry. -/
def CurvE.eps (e : CurvE) : Ex := unitsOf e.epsMan ((e.epsScale : Int) - 150)

/-- Z of a block from the sum of the factors, rounded once into 4-limb form. -/
def zBytes (e : CurvE) (n g addr : Nat) (sum : List (Option Ex)) : List WByte :=
  siWrite 4 addr (sum.zipIdx.map fun (x, i) =>
    x.map fun v => let q := v.div (unitsOf g 0); if i / n = i % n then q.add e.eps else q)

/-- The owner has the sum of a block's factors: Z is written and the block waits for its region's Medlar; Z does not change while a
computation of the block runs (R363, R364, R372). -/
def State.formZ (s : State) (p : Package) (pl : Placement) (b : Nat) (sum : List (Option Ex)) : State :=
  if s.rgs.toList.any fun g => g.medlar.working b then s
  else match p.block b, s.steerer p pl b with
  | some k, some r =>
    (match p.curv k.entry with
     | some e =>
       let ws := zBytes e k.n (s.group p) (pl.area 1 b) sum
       (s.busWrite (s.medlarClass p pl b) ws).onMedlar r fun m => { m with todo := (b :: m.todo).mergeSort fun a b => decide (a ≤ b) }
     | none => s)
  | _, _ => s

/-- STAT_NAR for an operation: in the region of its stage's lowest cluster (R362; log entry 31). -/
def State.statNar (s : State) (pl : Placement) (op : Nat) : State :=
  match ((pl.stages.find? fun g => g.op == op).bind fun g => g.clusters.head?).bind fun c => rgAt (c / 16) with
  | some r => s.onMedlar r fun m => m.flag 3
  | none => s

/-! ### A computation ends without a root, or goes to Jacobi (R368, R369, R375) -/

/-- The block keeps its root. -/
def State.rootFailed (s : State) (r : Rg) (b : Nat) : State :=
  (s.onMedlar r fun m => { m.flag 0 with newton := none, jacobi := none, failCnt := m.failCnt + 1 }).onRun fun x =>
    x.onBlk b fun k => { k with lastFailed := true }

/-- A matrix as the root store takes it at 3 limbs (R62, R369). -/
def rootMat (n : Nat) (xs : List (Option Ex)) : RootMat :=
  (slvForm 3 (slvBlocks (n * n)) xs).map fun b => (scaleCode b.1.e, b.1.m)

/-- An element of the root store, row after row. -/
def RootMat.at (z : RootMat) (i : Nat) : Option Ex := match z[i / 32]? with
  | some b => mantVal (.limb 3) b.1 (b.2.getD (i % 32) none)
  | none => none

/-- A unit matrix. -/
def unitMat (n : Nat) : List (Option Ex) := (List.range (n * n)).map fun i => some (if i / n = i % n then unitsOf 1 0 else Ex.zero)

/-- Fallback: Jacobi for a block of at most 1,024 rows while JACOBI_EN is 1. -/
def State.fallBack (s : State) (p : Package) (pl : Placement) (r : Rg) (b : Nat) : State :=
  match p.block b with
  | none => s.rootFailed r b
  | some k =>
    if k.n ≤ 1024 ∧ s.run.jacobiEn then
      let a := pl.area 1 b
      let z := rootMat k.n (s.mem.siRead 4 a (k.n * k.n))
      let s := (s.medlarMarks r a (siLen 4 (k.n * k.n))).busRead (s.medlarClass p pl b) a (siLen 4 (k.n * k.n))
      s.onMedlar r fun m => { m.flag 1 with newton := none, jacobi := some { block := b, n := k.n, z := z, q := rootMat k.n (unitMat k.n) } }
    else s.rootFailed r b

/-! ### Normalisation (R365) -/

/-- The exact trace of a matrix of n rows, none for NaR. -/
def traceOf (n : Nat) (xs : List (Option Ex)) : Option Ex :=
  (List.range n).foldl (fun a i => match a, xs.getD (i * n + i) none with
    | some x, some y => some (x.add y)
    | _, _ => none) (some Ex.zero)

/-- ⌈log₂ t ÷ p⌉. -/
def normExp (t : Ex) (p : Nat) : Int := -((-(ceilLog2 t)) / (p : Int))

/-- NEWTON_NORMALISATION: the region's next block is normalised. -/
def execNewtonNormalisation (r : Rg) (s : State) : Res :=
  let m := (s.rg r).medlar
  match s.placed, m.newton, m.jacobi, m.todo with
  | some (p, pl), none, none, b :: rest =>
    let s := s.onMedlar r fun m => { m with todo := rest, codes := [] }
    (match p.block b, (p.block b).bind fun k => p.curv k.entry with
     | some k, some e =>
       let z := s.mem.siRead 4 (pl.area 1 b) (k.n * k.n)
       let cls := s.medlarClass p pl b
       let s := (s.medlarMarks r (pl.area 1 b) (siLen 4 (k.n * k.n))).busRead cls (pl.area 1 b) (siLen 4 (k.n * k.n))
       let s := s.onMedlar r fun m => { m with block := BitVec.ofNat 16 b, iter := 0, dcode := 0, newton := some { block := b, started := true } }
       match traceOf k.n z with
       | none => .next (s.fallBack p pl r b)
       | some t =>
         if t.n ≤ 0 then .next (s.fallBack p pl r b)
         else
           let h := normExp t e.p
           let x0 := (List.range (k.n * k.n)).map fun i => some (if i / k.n = i % k.n then unitsOf 1 (-h) else Ex.zero)
           let m0 := z.map fun v => v.map fun x => { x with e := x.e - h * e.p }
           .next (s.busWrite cls (siWrite 4 (pl.area 2 r.val) x0 ++ siWrite 4 (pl.area 3 r.val) m0))
     | _, _ => .next s)
  | _, _, _, _ => .next s

/-! ### Decisions (R367, R368) -/

/-- The iteration's guard resolves. -/
def State.iterGuard (s : State) (key : Nat) (r : Rg) (v : Bool) : State :=
  let g := Config.iterGuard key r.val
  if g < 64 then s.resolve guardDepth r g v else s

/-- A root has been formed and stands in the staging area. -/
def State.rootFormed (s : State) (b iters : Nat) (jacobi : Bool) : State :=
  s.onRun fun x =>
    { x.onBlk b fun k => { k with lastFailed := false } with
      staged := x.staged ++ [{ block := b, finished := x.crvStep.toNat, iters := iters, jacobi := jacobi, own := true }] }

/-- What R368 says of an iteration: its number, the codes of it and of the one before. -/
inductive Verdict where
  | fallback (diverged : Bool)
  | converged
  | pause
  | go
  deriving DecidableEq, Repr

def verdict (e : CurvE) (perStep k code before stepIters : Nat) : Verdict :=
  if code = 0xFF then .fallback false
  else if (code : Int) ≤ 127 + e.tol then .converged
  else if 2 ≤ k ∧ before < code then .fallback true
  else if k = e.maxNewton then .fallback false
  else if stepIters = perStep then .pause
  else .go

/-- X, M, T and U of an iteration in HBM. -/
def NewtonStep.writes (x : NewtonStep) (pl : Placement) (r : Rg) : List WByte :=
  siWrite 4 (pl.area 2 r.val) x.x ++ siWrite 4 (pl.area 3 r.val) x.m ++ siWrite 4 (pl.area 4 r.val) x.t ++ siWrite 4 (pl.area 8 r.val) x.u

/-- A Newton iteration has ended on every cluster of the root group: X, M, T and U are what R366 makes of them, and the code is
the largest of the group's (R367). DESIGN CHOICE, log entry 16: the root kernels are the module's own, so that their effect is taken as a whole
here. -/
def State.iterationEnds (s : State) (p : Package) (pl : Placement) (r : Rg) (w : Newton) : State :=
  match (p.block w.block).bind fun k => (p.curv k.entry).map fun e => (k, e) with
  | none => s
  | some (k, e) =>
    let x := s.newtonOf pl r k e
    let code := ((s.rg r).medlar.codes.map (·.2)).foldl max 0
    let cls := s.medlarClass p pl w.block
    let len := siLen 4 (k.n * k.n)
    let s := [pl.area 2 r.val, pl.area 3 r.val].foldl (fun s a => (s.medlarMarks r a len).busRead cls a len) s
    let s := s.busWrite cls (x.writes pl r)
    let n := w.iter + 1
    let perStep : Nat := if s.run.itersOverride.toNat = 0 then e.perStep else s.run.itersOverride.toNat
    let key := pl.key p
    let w := { w with iter := n, stepIters := w.stepIters + 1, code := code }
    let t := s.onMedlar r fun m => { m with codes := [], newton := some w, iter := BitVec.ofNat 8 n, dcode := BitVec.ofNat 8 code }
    match verdict e perStep n code (s.rg r).medlar.dcode.toNat w.stepIters with
    | .fallback d =>
      ((if d then t.onMedlar r (·.flag 4) else t).fallBack p pl r w.block).iterGuard key r false
    | .converged =>
      let t := (t.busRead cls (pl.area 2 r.val) len).busWrite cls (writesAt (pl.area 5 w.block) (t.mem.siBytes 4 (pl.area 2 r.val) (k.n * k.n)))
      ((t.onMedlar r fun m => { m with newton := none, rootCnt := m.rootCnt + 1 }).rootFormed w.block n false).iterGuard key r false
    | .pause => (t.onMedlar r fun m => { m with newton := some { w with paused := true } }).iterGuard key r false
    | .go => t.iterGuard key r true

/-- The GEMM of a Jacobi root has drained V × Vᵀ into the staging area (R370). -/
def State.jacobiRoot (s : State) (p : Package) (pl : Placement) (r : Rg) (j : Jacobi) : State :=
  let a := pl.area 6 j.block
  let v := s.mem.siRead 3 a (j.n * j.n)
  let cls := s.medlarClass p pl j.block
  (((s.medlarMarks r a (siLen 3 (j.n * j.n))).busRead cls a (siLen 3 (j.n * j.n))).busWrite cls
    (siWrite 4 (pl.area 5 j.block) (gramOf j.n v))).rootFormed j.block 0 true

/-- The root GEMM of a converged block runs in this step: the next after the one that converged, or after a quiesce the first that can
run it. -/
def Jacobi.gemmDue (j : Jacobi) (step : Nat) : Bool := j.gemmStep.any fun n => decide (n ≤ step)

/-- MEDLAR_ITERATION_DECISION: after an iteration of the root group; or after the GEMM that forms a Jacobi root, in the step after the one
that converged (R368, R370). -/
def execMedlarIterationDecision (r : Rg) (s : State) : Res :=
  let m := (s.rg r).medlar
  match s.placed, m.newton, m.jacobi with
  | some (p, pl), some w, _ =>
    if w.started && !w.paused && (rootGroup p pl w.block r).all (fun c => m.codes.any fun x => x.1 == c) && !(rootGroup p pl w.block r).isEmpty then
      .next (s.iterationEnds p pl r w)
    else .next s
  | some (p, pl), none, some j =>
    if s.run.step.isSome && j.gemmDue s.run.crvStep.toNat then
      .next ((s.jacobiRoot p pl r j).onMedlar r fun m => { m with jacobi := none, jacobiCnt := m.jacobiCnt + 1 })
    else .next s
  | _, _, _ => .next s

/-! ### Jacobi (R369 to R371) -/

/-- A NaR in the root store keeps the work from converging (R413). -/
def Jacobi.nar (j : Jacobi) : Bool := (j.z ++ j.q).any fun b => b.1 == 255 || b.2.any Option.isNone

/-- The exact sum of the squares of some elements of Z. -/
def Jacobi.squares (j : Jacobi) (f : Nat → Bool) : Ex :=
  (List.range (j.n * j.n)).foldl (fun a i => match j.z.at i with
    | some x => if f i then a.add (x.mul x) else a
    | none => a) Ex.zero

/-- The test after a sweep: the norm of the off-diagonal part against 2^−20 of that of Z. The norms are sums in fallback-path arithmetic of no
given order, so that quotients between 4/5 and 5/4 of the bound may fall either way. DESIGN CHOICE, log entry 16. -/
def Jacobi.converges (j : Jacobi) (free : Bool) : Bool :=
  let off := j.squares fun i => i / j.n != i % j.n
  let all := j.squares fun _ => true
  let bound : Ex := { all with e := all.e - 40 }
  !j.nar && (Ex.le (off.mul (unitsOf 25 0)) (bound.mul (unitsOf 16 0))
    || (free && Ex.le (off.mul (unitsOf 16 0)) (bound.mul (unitsOf 25 0))))

/-- The pairs of round k of a sweep over n rows, row n standing for none where n is odd: every row meets every other one, each round in
disjoint pairs (R332, R370). -/
def jacobiPairs (n k : Nat) : List (Nat × Nat) :=
  let m := (n + 1) / 2 * 2
  let at_ (i : Nat) : Nat := (k + i) % (m - 1)
  ((m - 1, at_ 0) :: (List.range (m / 2)).tail.map fun i => (at_ i, at_ (m - 1 - i))).filter fun x => decide (x.1 < n) && decide (x.2 < n)

/-- Cosine and sine of the rotation that zeroes z between the diagonal elements a and b. -/
def jacobiAngle (a b z : Int) : Int × Int :=
  if z = 0 then (2 ^ 400, 0)
  else
    let root (x : Int) : Int := isqrt ((2 ^ 400 + fmul x x) * 2 ^ 400).toNat
    let tau := fdivf (b - a) (2 * z)
    let t := fdivf (if tau < 0 then -(2 ^ 400) else 2 ^ 400) ((tau.natAbs : Int) + root tau)
    let c := fdivf (2 ^ 400) (root t)
    (c, fmul t c)

/-- The rotations of a round: pairs with their cosines and sines. -/
def Jacobi.turns (j : Jacobi) : List ((Nat × Nat) × Int × Int) :=
  let z (i k : Nat) : Int := fx ((j.z.at (i * j.n + k)).getD Ex.zero)
  (jacobiPairs j.n j.round).map fun x => (x, jacobiAngle (z x.1 x.1) (z x.2 x.2) (z x.1 x.2))

/-- Column i of what a round makes of columns. -/
def jacobiTurn (ts : List ((Nat × Nat) × Int × Int)) (f : Nat → Int) (i : Nat) : Int :=
  match ts.find? fun t => t.1.1 == i || t.1.2 == i with
  | some ((p, q), c, s) => if p = i then fmul c (f p) - fmul s (f q) else fmul s (f p) + fmul c (f q)
  | none => f i

/-- A matrix in the root store near quantities: fallback-path arithmetic of no given order leaves each scale code and each mantissa a
free number of units beside them (R318, R370; log entry 16). -/
def nearMat (n nonce part : Nat) (f : Nat → Int) : RootMat :=
  (rootMat n ((List.range (n * n)).map fun i => some (fxEx (f i)))).zipIdx.map fun (b, k) =>
    let free (i : Nat) : Int := signedOf 26 (fld (Config.freeWord nonce (part + 64 * k + i)) 0 26)
    let s := (max 0 (min 254 ((b.1 : Int) + free 0))).toNat
    (s, (List.range 32).map fun i =>
      some (if k * 32 + i < n * n then (near (limbMax 3) (f (k * 32 + i)) (free (i + 1)) ((s : Int) - 149)).n else 0))

/-- A round: Z becomes Jᵀ Z J and Q becomes Q J. -/
def Jacobi.rotate (j : Jacobi) (nonce : Nat) : Jacobi :=
  let ts := j.turns
  let el (m : RootMat) (i k : Nat) : Int := fx ((m.at (i * j.n + k)).getD Ex.zero)
  { j with
    z := nearMat j.n nonce 0 fun i => jacobiTurn ts (fun a => jacobiTurn ts (el j.z a) (i % j.n)) (i / j.n)
    q := nearMat j.n nonce (64 * (slvBlocks (j.n * j.n) + 1)) fun i => jacobiTurn ts (el j.q (i / j.n)) (i % j.n) }

/-- λ^(−1 ÷ (2p)). -/
def rootPower (l : Ex) (p : Nat) : Ex := exExp ((exLn l).mul { n := -1, d := 2 * p })

/-- V = Q × diag(λ^(−1 ÷ (2p))), every eigenvalue raised to at least ε; its elements are fallback-path results (R318, R370; log entry 16). -/
def Jacobi.v (j : Jacobi) (e : CurvE) : List (Option Ex) :=
  (List.range (j.n * j.n)).map fun i =>
    match j.q.at i, j.z.at (i % j.n * j.n + i % j.n) with
    | some q, some l =>
      let l := if l.lt e.eps then e.eps else l
      some (if q.n = 0 then Ex.zero else
        let n := Config.jacobiRoot e.p [q.n, q.e, l.n, l.e]
        nearSingle (fx (q.mul (rootPower l e.p))) n.1 n.2)
    | _, _ => none

/-- The end of a sweep: convergence, failure after 24 sweeps, or the next sweep. The root GEMM runs in the next step. -/
def State.jacobiSweep (s : State) (r : Rg) (j : Jacobi) (free : Bool) : State :=
  let j := { j with round := 0, sweep := j.sweep + 1 }
  match s.placed with
  | none => s
  | some (p, pl) =>
    if j.converges free then
      let next := s.run.crvStep.toNat + (if s.run.step.isSome then 1 else 0)
      let e := (p.block j.block).bind fun k => p.curv k.entry
      let s := match e with
        | some e => s.busWrite (s.medlarClass p pl j.block) (siWrite 3 (pl.area 6 j.block) (j.v e))
        | none => s
      s.onMedlar r fun m => { m with jacobi := some { j with gemmStep := some next } }
    else if 24 ≤ j.sweep then s.rootFailed r j.block
    else s.onMedlar r fun m => { m with jacobi := some j }

/-- JACOBI_ROUND: Nyala applies one round while it has no call and no quiesce or level 3 freeze holds it (R371, R486). -/
def execJacobiRound (r : Rg) (s : State) : Res :=
  let x := s.rg r
  match x.medlar.jacobi with
  | none => .next s
  | some j =>
    if j.gemmStep.isSome || x.nyala.run.isSome || !x.nyala.queue.isEmpty || s.run.stopped || s.run.paused then .next s
    else
      let (nonce, s) := s.draw
      let j := if j.n ≤ 1 || j.nar then j else j.rotate nonce
      if j.n ≤ j.round + 2 then .next (s.jacobiSweep r j ((Config.freeWord nonce (2 ^ 40)).getLsbD 0))
      else .next (s.onMedlar r fun m => { m with jacobi := some { j with round := j.round + 1 } })

end Sys2Proof.Machine
end

