-- ==== Sys2Proof/Machine/Streams.lean ====
section
/-! DEFINITION. Streams (12 R448 to R457): how a source opens, feeds, repairs and ends them, and what a service run is. -/
namespace Sys2Proof.Machine

/-! ### Tensor ranges on the wire (R354, R455; log entry 26) -/

/-- Elements that so many bytes of a range hold. -/
def elemsIn (f : Fmt) (bytes : Nat) : Nat :=
  if f.block = 0 then bytes * 8 / max 1 f.ew
  else bytes / (f.blkBytes + (if f.scale = 1 then 1 else 0)) * f.block

def State.tensorFmt (s : State) (p : Package) (t : Nat) : Fmt := fmtOf (p.tensor t).fmt (s.desc (p.tensor t).fmt)

/-- A byte range of a tensor as pieces of a stream. -/
def State.tensorPieces (s : State) (p : Package) (pl : Placement) (t lo len : Nat) : List Piece :=
  match pl.homes[t]? with
  | some h => if h.tier < 2 then [.memory (h.base + lo) len]
    else [.bytes ((List.range len).map fun i => ((tensorAddrs p pl t (lo + i)).head?.map s.mem.get).getD 0)]
  | none => []

/-- Elements that one stream carries at most: 1,048,575 packets of 48 bytes hold them and the longest list of roots, which leads
a distribution's first stream (R454; log entry 26). -/
def streamElems (f : Fmt) : Nat :=
  let b := ((elemRanges f 64 0 64).map (·.2)).foldl (· + ·) 0
  max 64 (48 * (1048575 - 2731) / max 1 b * 64)

/-- A range of elements cut into streams: first element, count. -/
def cutRange (size : Nat) : Nat → Nat → Nat → List (Nat × Nat)
  | 0, _, _ => []
  | fuel + 1, first, n =>
    if n = 0 then [] else if n ≤ size then [(first, n)] else (first, size) :: cutRange size fuel (first + size) (n - size)

/-- The streams of a range of a tensor: DESC and pieces. -/
def State.tensorStreams (s : State) (p : Package) (pl : Placement) (d : DescF) (t first n : Nat) : List (DescF × List Piece) :=
  let f := s.tensorFmt p t
  (cutRange (streamElems f) (n / streamElems f + 1) first n).map fun r =>
    let rs := elemRanges f (p.tensor t).elements r.1 r.2
    ({ d with target := t, offset := r.1, bytes := (rs.map (·.2)).foldl (· + ·) 0 }, rs.flatMap fun x => s.tensorPieces p pl t x.1 x.2)

/-! ### The packets of a stream (R454, R457) -/

/-- A byte of a stream and whether it was read from an uncorrectable sector. -/
def State.pieceByte (s : State) : List Piece → Nat → Byte × Bool
  | [], _ => (0, false)
  | .bytes b bad :: ps, i => if i < b.length then (b.getD i 0, bad.contains i) else s.pieceByte ps (i - b.length)
  | .memory a n :: ps, i => if i < n then (s.mem.get (a + i), s.mem.ue.contains ((a + i) / 32)) else s.pieceByte ps (i - n)

/-- The stretches of memory that bytes of a stream come from. -/
def pieceStretches : List Piece → Nat → Nat → List (Nat × Nat)
  | [], _, _ => []
  | .bytes b _ :: ps, lo, len => pieceStretches ps (lo - b.length) (len - (b.length - lo))
  | .memory a n :: ps, lo, len =>
    (if min len (n - lo) = 0 then [] else [(a + lo, min len (n - lo))]) ++ pieceStretches ps (lo - n) (len - (n - lo))

/-- Addresses in order as stretches. -/
def stretchesOf (as_ : List Nat) : List (Nat × Nat) :=
  (as_.foldl (fun (x : List (Nat × Nat)) a => match x with
    | (b, n) :: r => if a = b + n then (b, n + 1) :: r else (a, 1) :: x
    | [] => [(a, 1)]) []).reverse

/-- A source reads what a packet carries (R404, R413). -/
def State.packetRead (s : State) (t : TxStream) (seq : Nat) : State :=
  if seq = 0 then s
  else (pieceStretches t.src ((seq - 1) * 48) (min 48 (t.desc.bytes - (seq - 1) * 48))).foldl (fun s x => s.svcRead x.1 x.2) s

def descBytes (d : DescF) : List Byte :=
  [BitVec.ofNat 8 d.service, BitVec.ofNat 8 (b2n d.relay + 2 * b2n d.first + 4 * b2n d.root)] ++ bytesOf 2 d.rootCount
  ++ bytesOf 4 d.target ++ bytesOf 8 d.offset ++ bytesOf 8 d.bytes ++ bytesOf 8 d.step ++ bytesOf 4 d.packageId.toNat

/-- The DESC of a packet. -/
def descOf (p : Packet) : DescF :=
  let fl := p.pf 1 1
  { service := p.pf 0 1, relay := fl % 2 = 1, first := fl / 2 % 2 = 1, root := fl / 4 % 2 = 1, rootCount := p.pf 2 2, target := p.pf 4 4
    offset := p.pf 8 8, bytes := p.pf 16 8, step := p.pf 24 8, packageId := BitVec.ofNat 32 (p.pf 32 4) }

/-- The endpoint of a service (R434, R458). -/
def serviceEp (n : Nat) : Nat := if n ≤ 3 then 1 else 2

/-- Packet SEQ of a stream. -/
def State.streamPacket (s : State) (t : TxStream) (seq : Nat) : Packet :=
  let bs := (List.range 48).filterMap fun i =>
    let o := (seq - 1) * 48 + i
    if o < t.desc.bytes then some (s.pieceByte t.src o) else none
  let poison := seq ≠ 0 && bs.any (·.2)
  let dest := match t.cut with | some a => a | none => t.dest
  mkPacket (headerOf (if seq = 0 then 1 else 2) t.vc t.epoch dest (s.fab.own (serviceEp t.desc.service)) t.mc poison)
    (BitVec.ofNat 32 (t.id * 2 ^ 20 + seq)) (payloadOf (if seq = 0 then descBytes t.desc else bs.map (·.1)))

/-- The SEQ below which every destination has written everything. -/
def TxStream.low (t : TxStream) : Nat :=
  (t.waits.map fun w => ((t.acked.find? fun a => a.1 == w).map (·.2)).getD 1).foldl min (t.total + 1)

/-- Packets that the window allows now (R455). -/
def TxStream.sendable (t : TxStream) : List Nat :=
  (List.range (t.total + 1 - t.next)).map (t.next + ·) |>.filter fun q => q < t.low + 4096

def Fabric.onTx (f : Fabric) (id : Nat) (g : TxStream → TxStream) : Fabric :=
  { f with tx := f.tx.map fun t => if t.id = id then g t else t }

/-- A stream injects what its window allows; poisoned data sets UE (R457). It waits while memory fills or sleeps (R418, R421). -/
def State.pump (s : State) (id : Nat) : State :=
  match s.fab.tx.find? fun t => t.id == id with
  | none => s
  | some t =>
    if s.memBusy then s
    else t.sendable.foldl (fun s q =>
      let k := s.streamPacket t q
      let s := s.packetRead t q
      s.onFab fun f =>
        let f := if k.poison then (f.flag 7).onTx id fun t => { t with poisoned := true } else f
        (f.onTx id fun t => { t with next := q + 1 }).inject k) s

/-- Every open stream goes on, once memory serves again. -/
def State.pumpAll (s : State) : State := s.fab.tx.foldl (fun s t => s.pump t.id) s

/-! ### Runs (R451, R453) -/

def Fabric.onRunId (f : Fabric) (id : Nat) (g : SRun → SRun) : Fabric :=
  { f with runs := f.runs.map fun r => if r.id = id then g r else r }

def Fabric.run (f : Fabric) (id : Nat) : Option SRun := f.runs.find? fun r => r.id == id

/-- A free STREAM number. -/
def Fabric.freeId (f : Fabric) : Nat :=
  ((List.range 4096).map fun k => (f.nextStream + k) % 4096 |>.min 4095).find? (fun n => !f.tx.any fun t => t.id == n) |>.getD 0

/-- A stream as it waits in a run. -/
def newStream (run vc : Nat) (dest : BitVec 24) (mc : Option (Nat × Bool)) (waits : List (BitVec 24)) (d : DescF) (src : List Piece) : TxStream :=
  { id := 0, run := run, vc := vc, epoch := false, dest := dest, mc := mc, desc := d, src := src, total := (d.bytes + 47) / 48, waits := waits }

/-- The output port that a stream takes at its source; none where it goes nowhere. -/
def Fabric.firstPort (f : Fabric) (t : TxStream) : Option FPort :=
  match t.mc with
  | some (d, m) => some (portAt (2 * d + b2n m))
  | none =>
    match f.way 8 (mkPacket (headerOf 1 t.vc f.cur t.dest 0) (BitVec.ofNat 32 (t.id * 2 ^ 20)) 0) with
    | .out p => some p
    | _ => none

/-- A queued stream opens with a number and the present epoch (R446, R454). -/
def State.openStream (s : State) (t : TxStream) : State :=
  let id := s.fab.freeId
  let u := { t with id := id, epoch := s.fab.cur }
  let s := s.onFab fun f => { f with tx := f.tx ++ [u], nextStream := (id + 1) % 4096 }
  let s := s.onRun fun r => { r with step := r.step.map fun k => { k with sent := true } }
  s.pump id

/-- Streams of a run whose output port carries no other open stream of its service; the others wait (R451), and so do all while every
STREAM number belongs to a stream that has not completed (R454). -/
def State.runPump : Nat → State → Nat → State
  | 0, s, _ => s
  | fuel + 1, s, id =>
    match s.fab.run id with
    | none => s
    | some r =>
      let busy := s.fab.tx.map fun t => (serviceEp t.desc.service, s.fab.firstPort t)
      match r.queue.findIdx? fun t => let p := s.fab.firstPort t; p.isNone || !busy.contains (serviceEp t.desc.service, p) with
      | none => s
      | some i =>
        if 4096 ≤ s.fab.tx.length then s
        else match r.queue[i]? with
        | none => s
        | some t =>
          let s := s.onFab (·.onRunId id fun r => { r with queue := r.queue.eraseIdx i })
          State.runPump fuel (s.openStream t) id

/-- A run begins with its streams. -/
def State.startRun (s : State) (kind : RunKind) (step : Nat) (mk : Nat → List TxStream) : State :=
  let id := s.fab.nextRun
  let q := mk id
  (s.onFab fun f => { f with runs := f.runs ++ [{ id := id, kind := kind, step := step, queue := q }], nextRun := id + 1 }).runPump (q.length + 1) id

/-! ### Destinations (R453) -/

/-- Every address of the group of a mask, this module's among them. -/
def Fabric.members (f : Fabric) (mask ep : Nat) : List (BitVec 24) :=
  ((dimsOf mask).foldl (fun xs d => xs.flatMap fun (x : List Nat) =>
    (List.range (max 1 (f.extents.getD d 1))).map fun c => x.set d c) [f.coords]).map fun x => addrAt x ep

/-- The others of the line of an address in dimension d, in + order. -/
def Fabric.line (f : Fabric) (xs : List Nat) (d ep : Nat) : List (BitVec 24) :=
  let n := max 1 (f.extents.getD d 1)
  (List.range (n - 1)).map fun k => addrAt (xs.set d ((xs.getD d 0 + k + 1) % n)) ep

/-- One stream of data to the line of this module: by multicast, or to the partner alone. -/
def Fabric.toLine (f : Fabric) (run d ep vc : Nat) (desc : DescF) (src : List Piece) : List TxStream :=
  let ws := f.line f.coords d ep
  match ws.getLast? with
  | none => []
  | some a => if d < 3 then [newStream run vc a (some (d, false)) ws desc src] else ws.map fun w => newStream run vc w none [w] desc src

/-- One stream of data to the whole group: the own line, and one RELAY copy for each other line. -/
def Fabric.toGroup (f : Fabric) (run mask ep vc : Nat) (desc : DescF) (src : List Piece) : List TxStream :=
  match dimsOf mask with
  | [] => []
  | d :: _ =>
    let own := f.coords
    let heads := (f.members mask ep).filter fun a =>
      let x := coordsAt a
      x.getD d 0 == own.getD d 0 && x != own
    let relayed := if max 1 (f.extents.getD d 1) = 1 then { desc with relay := false } else { desc with relay := true }
    f.toLine run d ep vc desc src ++ heads.map fun a => newStream run vc a none [a] relayed src

end Sys2Proof.Machine
end

