-- ==== Sys2Proof/Machine/Services.lean ====
section
/-! DEFINITION. The collective services (12 R458 to R461; 10 R349 to R356, R364): reductions, factor reductions and
distributions, and how they start. -/
namespace Sys2Proof.Machine

/-! ### Combining (R460) -/

/-- A binary32 operand: an infinity counts as (2 − 2^−23) × 2^127 (R460). -/
def f32Val (code : Nat) : Option (Ex × Bool) :=
  match (fmtOf 2 (builtinDesc 2)).value code with
  | .val x => some (x, false)
  | .inf m => some (unitsOf (if m then -(2 ^ 24 - 1) else 2 ^ 24 - 1) 104, true)
  | _ => none

/-- a ⊕ b: the sum's code, NAN_IN, SAT. -/
def f32Add (a b : Nat) : Nat × Bool × Bool :=
  match f32Val a, f32Val b with
  | some (x, i), some (y, j) =>
    let (c, k) := (fmtOf 2 (builtinDesc 2)).storeFloat false false (x.add y)
    (c, false, i || j || k &&& cSat != 0)
  | _, _ => (0x7FC00000, true, false)

/-- Elements of four bytes. -/
def f32At (bs : List Byte) (i : Nat) : Nat := bytesWord ((bs.drop (4 * i)).take 4)

/-- Two runs of binary32 elements combined; `bad` says which elements are poisoned. -/
def f32Combine (a b : List Byte) (bad : Nat → Bool) : List Byte × Bool × Bool :=
  let rs := (List.range (b.length / 4)).map fun i =>
    if bad i then (0x7FC00000, true, false) else f32Add (f32At a i) (f32At b i)
  (rs.flatMap fun r => bytesOf 4 r.1, rs.any (·.2.1), rs.any (·.2.2))

/-- Factor blocks: 8-limb SI data, then scale codes (R459, R460). -/
def factorCombine (a b : List Byte) : List Byte :=
  let nb := b.length / 257
  let vals (x : List Byte) (k : Nat) : List (Option Ex) :=
    let y := (x.drop (256 * k)).take 256
    (readMants (fun i => y.getD i 0) (.limb 8) 0).map (mantVal (.limb 8) ((x.getD (256 * nb + k) 0).toNat))
  let bs := (List.range nb).map fun k =>
    (formBlock (.limb 8) (((vals a k).zip (vals b k)).map fun v => match v with
      | (some x, some y) => { val := some (x.add y) }
      | _ => { val := none })).1
  (bs.flatMap fun k => blkData (.limb 8) k.m) ++ bs.map fun k => BitVec.ofNat 8 (scaleCode k.e)

/-! ### Reduction runs (R459) -/

/-- Coordinates of a rank within a mask. -/
def Fabric.rankCoords (f : Fabric) (mask k : Nat) : List Nat :=
  ((dimsOf mask).foldl (fun (a : List Nat × Nat) d =>
    let n := max 1 (f.extents.getD d 1)
    (a.1.set d (a.2 % n), a.2 / n)) (f.coords, k)).1

/-- The dimensions of a mask with more than one module. -/
def Fabric.realDims (f : Fabric) (mask : Nat) : List Nat := (dimsOf mask).filter fun d => 1 < f.extents.getD d 1

def Fabric.ownerCoord (f : Fabric) (mask owner d : Nat) : Nat := (f.rankCoords mask owner).getD d 0

/-- The neighbour a chunk goes to in a dimension, and the one it comes from. -/
def Fabric.stepTo (f : Fabric) (d k : Nat) : BitVec 24 :=
  let n := max 1 (f.extents.getD d 1)
  addrAt (f.coords.set d ((f.coords.getD d 0 + k) % n)) 1

def State.descFor (s : State) (p : Package) (service target offset bytes : Nat) : DescF :=
  { service := service, target := target, offset := offset, bytes := bytes, step := s.run.crvStep.toNat, packageId := p.packageId }

/-- Streams that carry bytes of a shard, from byte `lo` of it on; `bad` are the places of bytes from an uncorrectable
sector (R457). -/
def shardStreams (run : Nat) (dest : BitVec 24) (d : DescF) (lo : Nat) (bs : List Byte) (bad : List Nat := []) : List TxStream :=
  (cutRange (48 * 1048575) (bs.length / (48 * 1048575) + 1) lo bs.length).map fun r =>
    newStream run 2 dest none [dest]
      { d with offset := if d.service = 1 then d.offset + r.1 / 4 else r.1, bytes := r.2 } 
        [.bytes ((bs.drop (r.1 - lo)).take r.2)
          ((bad.filter fun i => decide (r.1 - lo ≤ i) && decide (i < r.1 - lo + r.2)).map (· - (r.1 - lo)))]

/-- The DESC of a run's shard. -/
def State.shardDesc (s : State) (p : Package) (r : SRun) (x : Shard) : Option DescF :=
  match r.kind with
  | .reduce op _ _ => (p.oper op).map fun o => { s.descFor p 1 (fld (o.word 4) 0 32) x.first 0 with step := r.step }
  | .factor b _ _ => some { s.descFor p 3 b 0 0 with step := r.step }
  | _ => none

def SRun.shards (r : SRun) : List Shard :=
  match r.kind with
  | .reduce _ _ xs => xs
  | .factor _ _ xs => xs
  | _ => []

def SRun.dim (r : SRun) : Nat :=
  match r.kind with
  | .reduce _ d _ => d
  | .factor _ d _ => d
  | _ => 4

def SRun.withShards (r : SRun) (d : Nat) (xs : List Shard) : SRun :=
  { r with kind := match r.kind with
    | .reduce op _ _ => .reduce op d xs
    | .factor b _ _ => .factor b d xs
    | k => k }

/-- More streams of a run. -/
def State.enqueue (s : State) (id : Nat) (ts : List TxStream) : State :=
  (s.onFab (·.onRunId id fun r => { r with queue := r.queue ++ ts })).runPump (ts.length + 1) id

/-- What the owner does with a finished sum (R350, R364). -/
def State.reduceDone (s : State) (p : Package) (pl : Placement) (r : SRun) : State :=
  match r.kind with
  | .reduce op _ xs =>
    (match p.oper op with
     | some o =>
       let t := fld (o.word 4) 32 32
       let size := (p.tensor t).elements
       let (n, s) := s.draw
       let s := (tensorSpans p pl t).foldl (fun s x => { s with mem := s.mem.fill x.1 x.2.2 (some n) }) s
       s.svcWrite <| xs.flatMap fun x => x.partials.zipIdx.flatMap fun b =>
         if 4 * x.first + b.2 < 4 * size then (tensorAddrs p pl t (4 * x.first + b.2)).map fun a => ({ addr := a, data := b.1 } : WByte) else []
     | none => s)
  | .factor b _ xs =>
    if r.unused then s
    else (match xs with
     | x :: _ => s.formZ p pl b (((List.range (x.partials.length / 257)).flatMap fun k =>
         let y := (x.partials.drop (256 * k)).take 256
         (readMants (fun i => y.getD i 0) (.limb 8) 0).map
           (mantVal (.limb 8) ((x.partials.getD (256 * (x.partials.length / 257) + k) 0).toNat))).take (match p.block b with
             | some k => k.n * k.n
             | none => 0))
     | [] => s)
  | _ => s

/-- The owner ends a factor reduction whose block was at work: its sum is not used (R372). -/
def SRun.without (r : SRun) (unused : Bool) : SRun := { r with unused := unused }

/-- A run whose sum is formed ends with its last stream. -/
def State.endDrained (s : State) (id : Nat) : State :=
  match s.fab.run id with
  | some r => if r.kind = .drain ∧ r.queue.isEmpty ∧ !s.fab.tx.any (fun t => t.run == id) then
      s.onFab fun f => { f with runs := f.runs.filter fun x => x.id != id }
    else s
  | none => s

/-- A run enters its next dimension, sending the chunk next to this module, or is done. `ds` are the dimensions left. -/
def State.enterDim (s : State) (p : Package) (pl : Placement) (id : Nat) : List Nat → State
  | [] =>
    match s.fab.run id with
    | some r => ((s.reduceDone p pl r).onFab (·.onRunId id fun r => { r with kind := .drain })).endDrained id
    | none => s
  | d :: _ =>
    match s.fab.run id with
    | none => s
    | some r =>
      let n := max 1 (s.fab.extents.getD d 1)
      let me := s.fab.coords.getD d 0
      let xs := r.shards.map fun x => { x with got := 0 }
      let s := s.onFab (·.onRunId id fun r => r.withShards d xs)
      let first := xs.filter fun x => s.fab.ownerCoord p.dpMask x.owner d == (me + n - 1) % n
      s.enqueue id (first.flatMap fun x => match s.shardDesc p r x with
        | some desc =>
          shardStreams id (s.fab.stepTo d 1) desc 0 x.partials (x.poison.flatMap fun e => (List.range 4).map fun i => 4 * (e - x.first) + i)
        | none => [])

/-- Whether a dimension is finished: every chunk that comes to this module has come whole, all but the one that it sends first. -/
def State.dimDone (s : State) (p : Package) (r : SRun) : Bool :=
  let n := max 1 (s.fab.extents.getD r.dim 1)
  r.shards.all fun x =>
    s.fab.ownerCoord p.dpMask x.owner r.dim == (s.fab.coords.getD r.dim 0 + n - 1) % n || decide (x.partials.length ≤ x.got)

/-- The dimensions after the one that a run stands in. -/
def State.dimsLeft (s : State) (p : Package) (r : SRun) : List Nat := (s.fab.realDims p.dpMask).filter fun d => r.dim < d

/-- What a landed stream holds, as the service reads it: an element in an uncorrectable sector is poisoned or NaR (R413, R460). -/
def State.landedData (s : State) (l : Landed) : List Byte :=
  if l.desc.service = 3 then s.mem.siBytes 8 l.base (l.desc.bytes / 257 * 32) else s.mem.bytes l.base l.desc.bytes

/-- A landed stream is combined with the shard it belongs to, and passed on unless this module keeps it. -/
def State.combine (s : State) (p : Package) (r : SRun) (l : Landed) : State :=
  let data := s.landedData l
  let lost (i : Nat) : Bool := s.mem.ue.contains ((l.base + 4 * i) / 32)
  let s := s.svcRead l.base l.desc.bytes
  let lo := if l.desc.service = 1 then 4 * l.desc.offset else l.desc.offset
  match r.shards.find? fun x => if l.desc.service = 1 then decide (4 * x.first ≤ lo ∧ lo < 4 * x.first + x.partials.length) else true with
  | none => s
  | some x =>
    let o := if l.desc.service = 1 then lo - 4 * x.first else lo
    let mine := (x.partials.drop o).take data.length
    let bad (i : Nat) : Bool := lost i || l.bad.contains (4 * i / 48 + 1) || x.poison.contains (x.first + o / 4 + i)
    let (bs, nan, sat) := if l.desc.service = 1 then f32Combine data mine bad else (factorCombine data mine, false, false)
    let y := { x with
      partials := x.partials.take o ++ bs ++ x.partials.drop (o + bs.length), got := x.got + bs.length
      poison := x.poison.filter fun e => !(decide (x.first + o / 4 ≤ e) && decide (e < x.first + o / 4 + bs.length / 4)) }
    let s := s.onFab fun f =>
      let f := if nan then f.flag 5 else f
      let f := if sat then f.flag 6 else f
      f.onRunId r.id fun r => r.withShards r.dim (r.shards.map fun z => if z.owner = x.owner then y else z)
    if s.fab.ownerCoord p.dpMask x.owner r.dim = s.fab.coords.getD r.dim 0 then s
    else match s.shardDesc p r x with
      | some desc => s.enqueue r.id (shardStreams r.id (s.fab.stepTo r.dim 1) desc o bs)
      | none => s

/-- Whether a landed stream is the one that a run waits for: of its data, its step, from the neighbour in its dimension. -/
def State.landsIn (s : State) (p : Package) (r : SRun) (l : Landed) : Bool :=
  let n := max 1 (s.fab.extents.getD r.dim 1)
  (r.shards.any fun x => match s.shardDesc p r x with
    | some d => d.service == l.desc.service && d.target == l.desc.target && d.step == l.desc.step
    | none => false)
  && coordsAt l.src == coordsAt (s.fab.stepTo r.dim (n - 1))

/-- Everything that has landed for a run is used; a finished dimension leads to the next (R459). -/
def State.advance : Nat → State → Package → Placement → Nat → State
  | 0, s, _, _, _ => s
  | fuel + 1, s, p, pl, id =>
    match s.fab.run id with
    | none => s
    | some r =>
      match s.fab.landed.findIdx? (s.landsIn p r) with
      | some i =>
        (match s.fab.landed[i]? with
         | some l =>
           let s := s.onFab fun f => { f with landed := f.landed.eraseIdx i }
           State.advance fuel (s.combine p r l) p pl id
         | none => s)
      | none =>
        if !s.dimDone p r then s
        else
          let keep := r.shards.filter fun x => s.fab.ownerCoord p.dpMask x.owner r.dim == s.fab.coords.getD r.dim 0
          let s := s.onFab (·.onRunId id fun r => r.withShards r.dim keep)
          State.advance fuel (s.enterDim p pl id (if keep.isEmpty then [] else s.dimsLeft p r)) p pl id

def State.runFuel (s : State) : Nat := s.fab.landed.length + 8

/-- A reduction begins over the real dimensions of the group; alone, it is a local copy (R351). -/
def State.beginReduce (s : State) (p : Package) (pl : Placement) (kind : RunKind) (unused : Bool := false) : State :=
  let id := s.fab.nextRun
  let s := (s.startRun kind s.run.crvStep.toNat fun _ => []).onFab (·.onRunId id (·.without unused))
  let s := s.enterDim p pl id (s.fab.realDims p.dpMask)
  State.advance s.runFuel s p pl id

/-! ### REDUCE_SCATTER_START (R349 to R351) -/

/-- Every cluster of an operation's stage has completed its TRIGGER task. -/
def State.allTriggered (s : State) (p : Package) (pl : Placement) (op : Nat) : Bool :=
  match pl.stages.find? fun g => g.op == op with
  | some g => !g.clusters.isEmpty && g.clusters.all fun c => s.run.triggered.any fun t =>
      t.1 == c && (pl.stageOf (pl.key p) t.1 t.2).any fun q => q.op == op
  | none => false

/-- When the last TRIGGER of an operation came, as a place in the order of completion. -/
def State.triggerTime (s : State) (p : Package) (pl : Placement) (op : Nat) : Nat :=
  (s.run.triggered.zipIdx.map fun t =>
    if (pl.stageOf (pl.key p) t.1.1 t.1.2).any fun q => q.op == op then t.2 + 1 else 0).foldl max 0

/-- No reduction whose triggers were complete earlier still waits: reductions begin in that order (R349). -/
def State.firstTriggered (s : State) (p : Package) (pl : Placement) (op : Nat) : Bool :=
  (List.range p.opers.length).all fun k =>
    !((p.oper k).any fun o => o.cls == 4) || k == op || s.run.started.contains k || !s.allTriggered p pl k
      || decide (s.triggerTime p pl op < s.triggerTime p pl k)

/-- Whether a service of the group may run: alone, it needs no fabric; else the route configuration is committed (R40). -/
def State.groupOpen (s : State) (p : Package) : Bool := s.fab.valid || decide (s.group p ≤ 1)

/-- The partials of GRAD by shard. -/
def State.gradShards (s : State) (p : Package) (pl : Placement) (grad : Nat) : List Shard :=
  let e := (p.tensor grad).elements
  let g := s.group p
  let addr (i : Nat) : Nat := ((tensorAddrs p pl grad i).head?).getD 0
  (List.range g).filterMap fun k =>
    let (first, n) := shardOf e g k
    if n = 0 then none
    else
      let as_ := (List.range (4 * n)).map fun i => addr (4 * first + i)
      let bad := (List.range n).filter fun i => s.mem.ue.contains (as_.getD (4 * i) 0 / 32)
      some { owner := k, first := first, partials := as_.map s.mem.get, poison := bad.map (first + ·) }

def execReduceScatterStart (op : BitVec 16) (s : State) : Res :=
  match s.placed with
  | some (p, pl) =>
    (match p.oper op.toNat with
     | some o =>
       if o.cls = 4 ∧ s.run.step.isSome ∧ !s.run.started.contains op.toNat ∧ s.allTriggered p pl op.toNat
           ∧ s.firstTriggered p pl op.toNat ∧ s.groupOpen p then
         let xs := s.gradShards p pl (fld (o.word 4) 0 32)
         let t := s.onRun fun r => { r with started := r.started ++ [op.toNat] }
         let t := (tensorSpans p pl (fld (o.word 4) 0 32)).foldl (fun t x => t.svcRead x.1 x.2.2) t
         .next (t.beginReduce p pl (.reduce op.toNat 4 xs))
       else .next s
     | none => .next s)
  | none => .next s

/-! ### FACTOR_REDUCTION_START (R364, R372) -/

/-- F of a block, data then scale codes, padded to whole blocks; an element in an uncorrectable sector is NaR (R413). -/
def State.factorBytesOf (s : State) (pl : Placement) (b n : Nat) : List Byte := s.mem.siBytes 8 (pl.area 0 b) (n * n)

/-- The factors of an entry are those of this step: it takes no statistics in it, or their update has ended (R364). -/
def State.factorsReady (s : State) (k : StepRun) (b entry : Nat) : Bool :=
  (s.run.blk b).statsStep.toNat != s.run.crvStep.toNat || k.factored.contains entry

/-- FACTOR_REDUCTION_START. The owner of a block that was at work when it fell due takes part and uses no sum. -/
def execFactorReductionStart (block : BitVec 16) (s : State) : Res :=
  match s.placed, s.run.step with
  | some (p, pl), some k =>
    let b := block.toNat
    (match p.block b with
     | some x =>
       if k.due.contains x.entry ∧ !s.run.started.contains (65536 + b) ∧ s.factorsReady k b x.entry ∧ s.groupOpen p then
         let t := s.onRun fun r => { r with started := r.started ++ [65536 + b] }
         let data := s.factorBytesOf pl b x.n
         let t := if s.mem.marked (pl.area 0 b) (siLen 8 (x.n * x.n)) then
             (match p.curv x.entry with
              | some e => t.statNar pl e.op
              | none => t)
           else t
         let t := t.svcRead (pl.area 0 b) (siLen 8 (x.n * x.n))
         .next (t.beginReduce p pl (.factor b 4 [{ owner := b % s.group p, first := 0, partials := data }]) (k.busy.contains b))
       else .next s
     | none => .next s)
  | _, _ => .next s

/-! ### DISTRIBUTION_START (R353 to R356, R461) -/

/-- Own roots that finished in the step before this one: they go out now (R373). -/
def Run.rootsToSend (r : Run) : List Staged := r.staged.filter fun x => x.own && x.finished + 1 == r.crvStep.toNat

/-- The list that leads the first stream of a distribution (R454). -/
def rootList (bs : List Nat) : List Byte :=
  let raw := bs.flatMap (bytesOf 2)
  raw ++ List.replicate ((raw.length + 47) / 48 * 48 - raw.length) 0

/-- The streams of a distribution: the owned shard of MASTER, of every STATE plane and of WORK, the first with the list of the
roots that go out in the step, then those that go with it. -/
def State.distribution (s : State) (p : Package) (pl : Placement) (o : OperE) (roots sent : List Staged) : List (DescF × List Piece) :=
  let master := fld (o.word 4) 0 32
  let work := fld (o.word 4) 32 32
  let e := (p.tensor master).elements
  let (first, n) := shardOf e (s.group p) (s.rank p)
  let d := s.descFor p 2 0 0 0
  let main := s.tensorStreams p pl d master first n
    ++ (List.range (fld (o.word 5) 32 4)).flatMap (fun k => s.tensorStreams p pl d (fld (o.word 5) 0 32) (k * e + first) n)
    ++ (if work = 0xFFFFFFFF then [] else s.tensorStreams p pl d work first n)
  let list := rootList (roots.map (·.block))
  let lead := match main with
    | [] => [({ d with target := master, first := true, rootCount := roots.length, bytes := list.length }, [Piece.bytes list])]
    | x :: xs => ({ x.1 with first := true, rootCount := roots.length, bytes := x.1.bytes + list.length }, Piece.bytes list :: x.2) :: xs
  lead ++ sent.filterMap fun r => (p.block r.block).map fun k =>
    let len := siLen 4 (k.n * k.n)
    ({ d with root := true, target := r.block, bytes := len }, [Piece.memory (pl.area 5 r.block) len])

/-- DISTRIBUTION_START: every distribution of the step lists the step's roots, and the first carries them (R356, R454; log entry 53). -/
def execDistributionStart (op : BitVec 16) (s : State) : Res :=
  match s.placed with
  | some (p, pl) =>
    (match p.oper op.toNat with
     | some o =>
       if o.cls = 5 ∧ s.run.step.isSome ∧ !s.run.started.contains op.toNat ∧ s.allTriggered p pl op.toNat ∧ s.groupOpen p then
         let roots := s.run.rootsToSend
         let ds := s.distribution p pl o roots (if s.run.started.any (fun k => (p.oper k).any fun q => q.cls == 5) then [] else roots)
         let t := s.onRun fun r => { r with started := r.started ++ [op.toNat] }
         .next (if s.group p ≤ 1 then t
           else t.startRun (.distribute op.toNat) s.run.crvStep.toNat fun id => ds.flatMap fun x => s.fab.toGroup id p.dpMask 1 2 x.1 x.2)
       else .next s
     | none => .next s)
  | none => .next s

end Sys2Proof.Machine
end

