-- ==== Sys2Proof/Machine/Snapshot.lean ====
section
/-! DEFINITION. Snapshots (13 R471 to R474, R480 to R486): the private image, its freeze, sending, commit and mirror. -/
namespace Sys2Proof.Machine

/-! ### The snapshot area (R474) -/

def MemGlobal.quarterBytes (g : MemGlobal) : Nat := g.snap.toNat * gib
def MemGlobal.quarter (g : MemGlobal) (q : Nat) : Nat :=
  farBase + 4 * (g.farStripe.toNat - g.snap.toNat) * gib + q * g.quarterBytes

/-- Where the digested part of an image starts, and the length of a digested chunk (R463, R472). -/
def imageHead : Nat := 262144
def chunkBytes : Nat := 64 * 2 ^ 20

/-- Chunks of so many bytes: offset and length. -/
def chunksIn (bytes : Nat) : List (Nat × Nat) :=
  (List.range ((bytes + chunkBytes - 1) / chunkBytes)).map fun k => (k * chunkBytes, min chunkBytes (bytes - k * chunkBytes))

/-! ### The private image (R471, R472) -/

/-- A sample as 64 bytes, a log entry as 32: the order of their fields is the model's (log entry 27). -/
def Sample.bytes (x : Sample) : List Byte :=
  ([x.ce, x.ue, x.farCe, x.retries, x.thermal, x.timeouts, 0, 0]).flatMap (bytesOf 8)

def LevelLog.bytes (x : LevelLog) : List Byte := ([x.level.toNat, x.score.toNat, x.sample, 0]).flatMap (bytesOf 8)

def sampleOf (b : List Byte) : Sample :=
  let w (i : Nat) := bytesWord ((b.drop (8 * i)).take 8)
  { ce := w 0, ue := w 1, farCe := w 2, retries := w 3, thermal := w 4, timeouts := w 5 }

def levelLogOf (b : List Byte) : LevelLog :=
  let w (i : Nat) := bytesWord ((b.drop (8 * i)).take 8)
  { level := BitVec.ofNat 2 (w 0), score := BitVec.ofNat 8 (w 1), sample := w 2 }

/-- The 1,024 samples and 256 log entries, newest first, missing ones as zeros. -/
def Health.history (h : Health) : List Byte :=
  ((h.window ++ List.replicate 1024 ({} : Sample)).take 1024).flatMap Sample.bytes
  ++ ((h.log ++ List.replicate 256 ({ level := 0, score := 0, sample := 0 } : LevelLog)).take 256).flatMap LevelLog.bytes

/-- Factor blocks in the image: block, rows, offset. -/
def factorOffsets (p : Package) : List (Nat × Nat × Nat) :=
  (p.blocks.zipIdx.foldl (fun (a : Nat × List (Nat × Nat × Nat)) x =>
    (a.1 + factorBytes x.1.n, a.2 ++ [(x.2, x.1.n, a.1)])) (factorsAt, [])).2

def factorsEnd (p : Package) : Nat := factorsAt + ((p.blocks.map fun b => factorBytes b.n).foldl (· + ·) 0)

/-- Contexts in the image: their SOLVER entry, their instances, offset. -/
def contextOffsets (p : Package) (stages : List Stage) : List (List Word × List Nat × Nat) :=
  (p.contexts.foldl (fun (a : Nat × List (List Word × List Nat × Nat)) e =>
    let is := ctxInstances p stages e
    (a.1 + 64 + 4 * is.length * ctxWidth p e, a.2 ++ [(e, is, a.1)])) (up64k (factorsEnd p), [])).2

/-- A factor block as it lies in HBM: 8 bytes an element, then a scale code for each 32. -/
def State.factorImage (s : State) (pl : Placement) (b n : Nat) : List Byte :=
  let a := pl.area 0 b
  s.mem.bytes a (8 * n * n) ++ s.mem.bytes (a + 256 * slvBlocks (n * n)) (slvBlocks (n * n))

/-- A context of the module: the signature of the first engine that holds one, and the entries on all engines that hold it (log entry 174). -/
def State.wholeCtx (s : State) (id : Nat) : Option Ctx :=
  let cs := s.rgs.toList.filterMap fun r => smFind r.nyala.ctxs id
  match cs with
  | [] => none
  | c :: _ =>
    let es := (cs.flatMap (·.entries)).filter fun e => c.signature.any (· == e.2.signature)
    some { signature := c.signature, entries := es.foldl (fun m x => smSet m x.1 x.2) [] }

/-- The four bytes of a value (R305): its code; a value that is no code takes a free form (log entry 147). -/
def CtxVal.word : CtxVal → BitVec 32
  | .code w => w
  | .wide x => BitVec.ofNat 32 (Config.ctxWord [x.n, x.den, x.e])

/-- A context entry, four bytes a value; what it does not hold is zero. -/
def ctxEntryBytes (width : Nat) (xs : Option CtxEntry) : List Byte :=
  (List.range width).flatMap fun i => bytesOf 4 ((xs.elim [] CtxEntry.values).getD i (CtxVal.code 0)).word.toNat

/-- A context in the image: its head of ID, whether it holds anything, INST_CAP and SIGNATURE, then its entries. -/
def State.ctxImage (s : State) (p : Package) (e : List Word) (insts : List Nat) : List Byte :=
  let id := fld (imgW e 0) 8 8
  let c := s.wholeCtx id
  bytesOf 8 (id + 256 * b2n c.isSome) ++ bytesOf 8 (fld (imgW e 1) 16 24)
  ++ bytesOf 8 ((c.bind (·.signature)).getD 0).toNat ++ List.replicate 40 0
  ++ insts.flatMap fun i => ctxEntryBytes (ctxWidth p e) (c.bind fun c => smFind c.entries i)

/-- Every private item with its offset in the image. -/
def State.privateItems (s : State) (p : Package) (pl : Placement) : List (Nat × List Byte) :=
  [(imageHead, wordBytes s.hlt.cursor.toList), (imageHead + 512, s.hlt.history)]
  ++ (factorOffsets p).map (fun x => (x.2.2, s.factorImage pl x.1 x.2.1))
  ++ (contextOffsets p pl.stages).map fun x => (x.2.2, s.ctxImage p x.1 x.2.1)

/-- Whether a factor block lies in an uncorrectable sector. -/
def State.factorsMarked (s : State) (p : Package) (pl : Placement) : Bool :=
  (factorOffsets p).any fun x => s.mem.marked (pl.area 0 x.1) (siLen 8 (x.2.1 * x.2.1))

/-- The header of R473. -/
def imageHeader (seq step : Nat) (mid : Bool) (packageId : BitVec 32) (bytes chunks : Nat) (feed : BitVec 48) (addr : BitVec 24) : List Word :=
  [packBits [(0x50534C53, 0), (seq, 32)], packBits [(step, 0), (b2n mid, 48)], packageId.zeroExtend 64, BitVec.ofNat 64 bytes,
    BitVec.ofNat 64 chunks, feed.zeroExtend 64, addr.zeroExtend 64]

/-- PACKAGE_ID of the loaded package, 0 without one. -/
def State.pkgId (s : State) : BitVec 32 := match s.run.graph with | some g => g.pkg.packageId | none => 0

/-! ### Freeze (R480, R481) -/

def Health.snapFlag (h : Health) (bit : Nat) : Health := { h with snapStat := h.snapStat ||| (1#5 <<< bit) }
def Health.paired (h : Health) : Bool := h.pairState == 2 || h.pairState == 3

/-- A SNAPSHOT event (R529). -/
def State.snapEvent (s : State) (kind seq step addr : Nat) : State :=
  s.event fromSloe 0x32 [BitVec.ofNat 64 kind, BitVec.ofNat 64 seq, BitVec.ofNat 64 step, BitVec.ofNat 64 addr]

/-- The number of the last completed step. -/
def State.lastStep (s : State) : Nat := s.run.crvStep.toNat - 1

/-- A freeze begins: every private item is copied into staging, unless the image exceeds a quarter (R474, R481). -/
def State.startFreeze (s : State) (mid : Bool) : State :=
  match s.placed with
  | none => s
  | some (p, pl) =>
    if s.glob.quarterBytes < s.hlt.privBytes.toNat then
      (s.onHlt fun h => { h.snapFlag 3 with pending2 := false, deferred := false }).snapEvent 3 (s.hlt.seq + 1) s.lastStep 0
    else
      let seq := s.hlt.seq + 1
      let h := s.hlt
      let mirror := (h.mirrorEvery != 0 && seq % h.mirrorEvery.toNat == 0) || mid || h.pairState != 2
      let k : Snap := { seq := seq, step := s.lastStep, midstep := mid, mirror := mirror, poisoned := s.factorsMarked p pl }
      let base := s.glob.quarter 0
      let ws := (s.privateItems p pl).flatMap fun x => writesAt (base + x.1) x.2
      (s.svcWrite ws).onHlt fun h =>
        { h with
          seq := seq, snap := some k, phase := .freeze, pending2 := false, deferred := false
          t3Cnt := if mid then h.t3Cnt + 1 else h.t3Cnt
          snapNow := h.snapNow.map fun x => if x.2.2.isNone then (x.1, x.2.1, some seq) else x }

/-! ### Ends (R481, R482, R485) -/

/-- The snapshot is over; a SNAP_NOW that rode on it without a commit stays pending. -/
def State.endSnapshot (s : State) : State :=
  s.onHlt fun h =>
    { h with
      phase := .idle, snap := none
      snapNow := h.snapNow.map fun x => (x.1, x.2.1, none) }

/-- The partner has acknowledged the header of this snapshot already. -/
def Health.hasCommitted (h : Health) (k : Snap) : Bool := h.lastValid && h.committed == BitVec.ofNat 32 k.seq

/-- The snapshot is committed: its SNAP_NOWs complete. -/
def State.commitSnapshot (s : State) (k : Snap) : State :=
  let (mine, rest) := s.hlt.snapNow.partition fun x => x.2.2 == some k.seq
  mine.foldl (fun s x => s.finish x.1 x.2.1 { words := [BitVec.ofNat 64 k.seq, BitVec.ofNat 64 k.step] })
    (s.onHlt fun h =>
      { h with
        lastStep := BitVec.ofNat 48 k.step, lastValid := true, committed := BitVec.ofNat 32 k.seq, snapCnt := h.snapCnt + 1
        fresh := false, snapNow := rest })

/-- Buffers that a mirror writes to: long enough, of a host that is not lost. -/
def State.mirrorTargets (s : State) : List MirrorBuf :=
  s.hlt.mirrors.filter fun b => decide (s.hlt.privBytes.toNat ≤ b.len) && (s.port b.port).host != .lost

/-- The mirror phase, or MIRROR_MISSED where no buffer can take the image. -/
def State.startMirror (s : State) (k : Snap) : State :=
  if s.mirrorTargets.isEmpty then ((s.onHlt (·.snapFlag 2)).snapEvent 2 k.seq k.step 0).endSnapshot
  else s.onHlt fun h => { h with phase := .mirror, snap := some k }

/-- Runs and streams of a kind go. -/
def State.dropRuns (s : State) (g : RunKind → Bool) : State :=
  s.onFab fun f =>
    let ids := (f.runs.filter fun r => g r.kind).map (·.id)
    { f with runs := f.runs.filter fun r => !g r.kind, tx := f.tx.filter fun t => !ids.contains t.run }

def RunKind.isSnapshot : RunKind → Bool
  | .snapshot _ => true
  | _ => false

/-- A send that cannot finish is abandoned and mirrored (R485). -/
def State.abandonSnapshot (s : State) : State :=
  match s.hlt.snap, s.hlt.phase with
  | some k, .send => ((s.dropRuns RunKind.isSnapshot).onHlt (·.snapFlag 0)).startMirror k
  | _, _ => s

/-- A level 3 snapshot aborts what is in progress (R484). -/
def State.abortSnapshot (s : State) : State :=
  match s.hlt.snap with
  | none => s
  | some k =>
    let t := (s.dropRuns RunKind.isSnapshot).onHlt (·.snapFlag 0)
    let t := if s.hlt.phase = .mirror then s.mirrorTargets.foldl (fun t b => t.snapEvent 4 k.seq k.step b.addr.toNat) t else t
    t.endSnapshot

/-! ### Send (R481) -/

/-- Bytes of one stream of an image: the model's cut (log entry 28). -/
def imageStream : Nat := 32 * 2 ^ 20

/-- Streams of a stretch of device memory to an address. -/
def memStreams (run vc : Nat) (dest : BitVec 24) (d : DescF) (base first n : Nat) : List TxStream :=
  (cutRange imageStream (n / imageStream + 1) first n).map fun r =>
    newStream run vc dest none [dest] { d with offset := r.1, bytes := r.2 } [.memory (base + r.1) r.2]

def State.snapDesc (s : State) (k : Snap) : DescF :=
  { service := 4, step := k.step, packageId := s.pkgId }

/-- Digest table and header are written into staging. -/
def State.sealStaging (s : State) (k : Snap) : State :=
  let base := s.glob.quarter 0
  let n := s.hlt.privBytes.toNat
  let cs := chunksIn (n - imageHead)
  let head := wordBytes (imageHeader k.seq k.step k.midstep s.pkgId n cs.length s.hlt.feedId (s.fab.own 0))
  let table := cs.flatMap fun c => sha3 (s.mem.bytes (base + imageHead + c.1) c.2)
  let raw := head ++ List.replicate (64 - head.length) 0 ++ table
  (s.svcRead (base + imageHead) (n - imageHead)).svcWrite (writesAt base (raw ++ List.replicate (imageHead - raw.length) 0))

/-- Guard resolutions that waited for the freeze take effect, and dispatch goes on (R486). -/
def State.endPause (s : State) : State :=
  s.run.deferred.foldl (fun s d => s.resolve guardDepth d.1 d.2.1 d.2.2)
    (s.onRun fun r => { r with paused := false, deferred := [] })

/-- SNAPSHOT_FREEZE_DONE: staging holds the image; the send begins, or the mirror where the module is not paired. -/
def execSnapshotFreezeDone (s : State) : Res :=
  match s.hlt.snap, s.hlt.phase with
  | some k, .freeze =>
    let t := s.sealStaging k
    let t := if k.midstep then t.endPause else t
    if t.hlt.paired then
      let u := t.onHlt fun h => { h with phase := .send, snap := some { k with sent := true } }
      .next (u.startRun (.snapshot false) k.step fun id =>
        memStreams id 3 (u.fab.partnerAddr 2) (u.snapDesc k) (u.glob.quarter 0) imageHead (u.hlt.privBytes.toNat - imageHead))
    else if k.poisoned then .next ((t.onHlt (·.snapFlag 4)).endSnapshot)
    else .next (t.startMirror k)
  | _, _ => .next s

/-- A snapshot run has ended: the header follows the data, and the header's acknowledgement commits; a snapshot that read
an uncorrectable sector is not committed (R481, R485). -/
def State.snapshotSent (s : State) (header partly : Bool) : State :=
  match s.hlt.snap with
  | none => s
  | some k =>
    if k.poisoned || partly then (s.onHlt (·.snapFlag 4)).endSnapshot
    else if !header then
      s.startRun (.snapshot true) k.step fun id =>
        memStreams id 3 (s.fab.partnerAddr 2) (s.snapDesc k) (s.glob.quarter 0) 0 imageHead
    else
      let t := s.commitSnapshot k
      if k.mirror then t.startMirror k else t.endSnapshot

/-- Whether a mirror that is done commits its snapshot: it had no send phase, or its partner is lost (R481). DEDUCED, log entry
151. -/
def State.mirrorCommits (s : State) (k : Snap) : Bool := (!k.sent || !s.hlt.paired) && !s.hlt.hasCommitted k

/-- SNAPSHOT_MIRROR_DONE: every registered buffer that can hold the image and whose host is not lost has it, and where no partner was
to take it, that commits the snapshot; with no such buffer left the mirror has reached none (R481, R482). -/
def execSnapshotMirrorDone (s : State) : Res :=
  match s.hlt.snap, s.hlt.phase with
  | some k, .mirror =>
    if s.mirrorTargets.isEmpty then .next (s.startMirror k) else
    let t := s.onHlt fun h => { h with mirrored := BitVec.ofNat 32 k.seq, mirrorCnt := h.mirrorCnt + 1 }
    let t := s.mirrorTargets.foldl (fun t b => t.snapEvent 1 k.seq k.step b.addr.toNat) t
    .next ((if s.mirrorCommits k then t.commitSnapshot k else t).endSnapshot)
  | _, _ => .next s

/-! ### Level 3 (R484, R486) -/

/-- No firing runs but held ones and solver calls that wait in a queue. -/
def State.taskBoundary (s : State) : Bool :=
  s.rgs.toList.all (fun r => r.nyala.run.isNone)
  && (List.finRange 384).all fun c => (s.cl c).firings.all fun f =>
    (f.final && f.held && !f.committing) || (s.rg (rgOf c)).nyala.queue.any fun q => q.cl == c && q.entry == f.entry

/-- LEVEL3_FREEZE: dispatch has stopped and every running firing has ended. -/
def execLevel3Freeze (s : State) : Res :=
  if s.hlt.freeze3 && s.taskBoundary && s.hlt.phase != .freeze then
    let t := s.abortSnapshot.onHlt fun h => { h with freeze3 := false }
    let u := t.startFreeze true
    .next (if u.hlt.phase = .freeze then u else u.endPause)
  else .next s

/-- A snapshot is due at the boundary of step n, or one that was deferred still is (R480). -/
def State.snapshotDue (s : State) (n : Nat) : Bool :=
  let h := s.hlt
  let i := if 1 ≤ h.level.toNat then max 1 (h.maxSteps.toNat / 4) else h.maxSteps.toNat
  (h.maxSteps != 0 && (!h.lastValid || h.fresh || decide (i ≤ n - h.lastStep.toNat))) || h.pending2
  || h.deferred || h.snapNow.any fun x => x.2.2.isNone

end Sys2Proof.Machine
end

