-- ==== Sys2Proof/Machine/StreamExec.lean ====
section
/-! DEFINITION. The meanings of the stream packets (12 R451 to R457, R459, R461; 13 R483, R489 to R491): DESC, DATA, ACK, NACK,
CUT and STREAM_STALL_TIMEOUT. -/
namespace Sys2Proof

/-- Packets whose order is kept: of one source, destination, VC and epoch (R440). -/
def Packet.sameFlow (p q : Packet) : Bool := p.src == q.src && p.dest == q.dest && p.vc == q.vc && p.epoch == q.epoch

/-- SEQ of an ACK; 0 stands for 2^20 (log entry 171). -/
def Packet.ackSeq (p : Packet) : Nat := if p.seq = 0 then 2 ^ 20 else p.seq

end Sys2Proof

namespace Sys2Proof.Machine

/-- The place of the oldest packet of a kind that a local endpoint can take: none of its flow is before it (R440). -/
def Fabric.takeable (f : Fabric) (g : Packet → Bool) : Option Nat :=
  (List.range f.inbox.length).find? fun i => match f.inbox[i]? with
    | some d => g d.packet && !(f.inbox.take i).any fun e => e.packet.sameFlow d.packet
    | none => false

/-- The oldest packet of a kind that a local endpoint holds, taken (R433); its buffer is free where no other copy stands in it. -/
def State.takePacket (s : State) (g : Packet → Bool) : Option (Packet × State) :=
  match s.fab.takeable g with
  | some i => (s.fab.inbox[i]?).map fun d => (d.packet, s.onFab fun f => { f with inbox := f.inbox.eraseIdx i }.leave d.input d.slot d.packet)
  | none => none

/-- An answer on the response VC (R433). The SEQ behind the last packet of a longest stream, 2^20, has no code but 0. DEDUCED, log entry
171. -/
def State.answer (s : State) (type : Nat) (p : Packet) (seq : Nat) (payload : List Byte) (poison : Bool := false) : State :=
  s.onFab fun f => f.inject (mkPacket (headerOf type 1 f.cur p.src (f.own (endpointOf p.dest)) none poison)
    (BitVec.ofNat 32 (p.stream * 2 ^ 20 + seq % 2 ^ 20)) (payloadOf payload))

def State.nackWith (s : State) (p : Packet) (reason : Nat) : State := s.onFab fun f => f.inject (nackPacket f p reason)

/-! ### Receiving: DESC (R455) -/

/-- The leading list of a FIRST stream (R454). -/
def DescF.lead (d : DescF) : Nat := if d.first then 48 * ((2 * d.rootCount + 47) / 48) else 0

/-- A range that leaves its tensor or block, or that this module has nowhere to put. -/
def State.rangeBad (s : State) (p : Package) (pl : Placement) (d : DescF) : Bool :=
  let n := d.bytes - d.lead
  if d.root || d.service == 3 then
    match p.block d.target with
    | none => true
    | some k => decide (siLen (if d.root then 4 else 8) (k.n * k.n) < d.offset + n)
  else if p.tensors.length ≤ d.target then true
  else
    let t := p.tensor d.target
    let elems := if d.service = 1 then n / 4 else elemsIn (s.tensorFmt p d.target) n
    decide (t.elements < d.offset + elems) || (d.service != 1 && n != 0 && (pl.homes[d.target]?).all fun h => decide (2 < h.tier))

/-- A DESC is refused with BAD_TARGET (R455). -/
def State.descBad (s : State) (d : DescF) : Bool :=
  match s.run.graph with
  | none => true
  | some g =>
    d.packageId != g.pkg.packageId || d.service == 0 || decide (6 < d.service)
    || (if d.service = 4 ∨ d.service = 6 then decide (s.glob.quarterBytes < d.offset + d.bytes)
      else match g.place with
        | none => true
        | some pl => s.rangeBad g.pkg pl d)

/-- The slot that a snapshot of the partner is written into: the one that does not hold the newest valid image (R483). -/
def Health.targetSlot (h : Health) : Bool :=
  if h.slotA.valid && h.slotB.valid then decide (h.slotB.seq.toNat < h.slotA.seq.toNat)
  else h.slotA.valid

def Health.slot (h : Health) (b : Bool) : Slot := if b then h.slotB else h.slotA
def Health.onSlot (h : Health) (b : Bool) (g : Slot → Slot) : Health :=
  if b then { h with slotB := g h.slotB } else { h with slotA := g h.slotA }

/-- The first DESC of a snapshot chooses its slot, which stops being valid. -/
def Health.beginSlot (h : Health) : Health :=
  match h.receiving with
  | some _ => h
  | none => let b := h.targetSlot; { (h.onSlot b fun x => { x with valid := false }) with receiving := some b }

/-- A fill of this restore comes from a source. -/
def Health.fillSource (h : Health) (service : Nat) (src : BitVec 24) : Health :=
  if h.fillFrom.contains (service, src) then h else { h with fillFrom := h.fillFrom ++ [(service, src)] }

/-! ### Receiving: what a whole stream does -/

/-- Every PERSIST tensor has been received whole (R489). -/
def Health.sharedWhole (h : Health) (p : Package) : Bool :=
  (List.range p.tensors.length).all fun t =>
    !(p.tensor t).persist || decide ((p.tensor t).elements ≤ ((h.filled.filter fun x => x.1 == t).map (·.2)).foldl (· + ·) 0)

/-- HLT_RCV enters INVALID with the status of the step that failed (R490, R491). -/
def State.invalid (s : State) (status : Nat) : State :=
  s.onHlt fun h => { h with rcv := 4, lastStatus := BitVec.ofNat 16 status, sharedDone := false, privateDone := false, filled := [], fillFrom := [], privateGot := 0 }

/-- A stream of service 1 or 3 has landed: the reductions that wait for it go on. -/
def State.landed (s : State) (p : Package) (pl : Placement) (r : RxStream) : State :=
  let t := s.onFab fun f => { f with landed := f.landed ++ [{ src := r.src, desc := r.desc, base := r.base, bad := r.bad }] }
  t.fab.runs.foldl (fun s x => State.advance s.runFuel s p pl x.id) t

/-- Another module's root has come: it is staged. How it was formed travels with no packet; a root of Jacobi has no iterations (R379; log
entry 132). -/
def State.stageRoot (s : State) (p : Package) (d : DescF) : State :=
  let (n, s) := s.draw
  let w := Config.freeWord n 0
  let k := p.block d.target
  let jacobi := bit w 8 && k.any fun k => decide (k.n ≤ 1024)
  let most := (k.bind fun k => p.curv k.entry).elim 255 (·.maxNewton)
  s.onRun fun x => { x.onBlk d.target (fun b => { b with awaited := false, lastFailed := false }) with
    staged := x.staged ++ [{ block := d.target, finished := d.step - 1, iters := if jacobi then 0 else 1 + fld w 0 8 % max 1 most, jacobi := jacobi, own := false }] }

/-- A stream has been written whole for the first time. -/
def State.streamWhole (s : State) (r : RxStream) : State :=
  let d := r.desc
  let own : State → State := fun s => match s.placed with
    | some (p, pl) =>
      if d.service = 1 ∨ d.service = 3 then s.landed p pl r
      else if d.service = 2 then
        let n := d.bytes - d.lead
        let a : Arrival :=
          { src := r.src, step := d.step, root := d.root, target := d.target
            elems := if d.root then 0 else elemsIn (s.tensorFmt p d.target) n, roots := if d.first then some d.rootCount else none }
        let t := s.onFab fun f => { f with arrivals := f.arrivals ++ [a] }
        if d.root then t.stageRoot p d else t
      else if d.service = 5 ∧ s.hlt.rcv = 1 then
        if !r.bad.isEmpty then s.invalid 1
        else
          let n := elemsIn (s.tensorFmt p d.target) d.bytes
          s.onHlt fun h =>
            let h := { h with filled := h.filled ++ [(d.target, n)], rcvStep := BitVec.ofNat 48 d.step }
            { h with sharedDone := h.sharedDone || h.sharedWhole p }
      else s
    | none => s
  if d.service = 4 then
    match s.hlt.receiving with
    | some b =>
      if d.offset < imageHead ∧ r.bad.isEmpty then
        let a := s.glob.quarter (if b then 2 else 1)
        let w0 := s.mem.word a
        let w1 := s.mem.word (a + 8)
        s.onHlt fun h =>
          { (h.onSlot b fun _ => { step := w1.extractLsb' 0 48, valid := true, seq := w0.extractLsb' 32 32 }) with receiving := none }
      else s
    | none => s
  else if d.service = 6 then s.onHlt fun h => { h with privateGot := h.privateGot + d.bytes }
  else own s

/-! ### Receiving: DATA (R454, R455) -/

/-- The HBM service area: the last 512 MiB of each HBM partition's local region (R391). -/
def serviceSpans (g : MemGlobal) : List (Nat × Nat) :=
  let sh := g.hbmStripe.toNat
  (List.range 12).map fun p => ((12 * sh + (p + 1) * (48 - sh)) * gib - 0x20000000, 0x20000000)

/-- A stream of a reduction, which lands in the service area (R459). -/
def DescF.lands (d : DescF) : Bool := d.service == 1 || d.service == 3

/-- Data packets of a stream. -/
def DescF.total (d : DescF) : Nat := (d.bytes + 47) / 48

/-- What the service area holds: streams that arrive, and those that no reduction has used. -/
def Fabric.landing (f : Fabric) : List (Nat × Nat) :=
  ((f.rx.filter fun r => r.desc.lands && (!r.whole || decide (r.next ≤ r.desc.total))).map fun r => (r.base, r.desc.bytes))
  ++ f.landed.map fun l => (l.base, l.desc.bytes)

/-- The first place of the service area that holds nothing of so many bytes. DESIGN CHOICE, log entry 64. -/
def Fabric.landAt (f : Fabric) (g : MemGlobal) (n : Nat) : Option Nat :=
  (serviceSpans g).findSome? fun x => (x.1 :: f.landing.map fun u => u.1 + u.2).find? fun c =>
    decide (x.1 ≤ c ∧ c + n ≤ x.1 + x.2) && f.landing.all fun u => decide (c + n ≤ u.1 ∨ u.1 + u.2 ≤ c)

/-- Where a byte of a stream goes: held by the service, or device addresses. -/
def State.target (s : State) (d : DescF) (base i : Nat) : Option (List Nat) :=
  if d.lands then some [base + i]
  else if d.service = 4 then some [s.glob.quarter (if s.hlt.receiving = some true then 2 else 1) + d.offset + i]
  else if d.service = 6 then some [s.glob.quarter 3 + d.offset + i]
  else
    match s.placed with
    | none => some []
    | some (p, pl) =>
      if i < d.lead then none
      else
        let k := i - d.lead
        if d.root then some [pl.area 5 d.target + d.offset + k]
        else
          let n := d.bytes - d.lead
          let f := s.tensorFmt p d.target
          let rs := elemRanges f (p.tensor d.target).elements d.offset (elemsIn f n)
          some ((rs.foldl (fun (a : Nat × List Nat) x =>
            (a.1 + x.2, if a.1 ≤ k ∧ k < a.1 + x.2 then tensorAddrs p pl d.target (x.1 + (k - a.1)) else a.2)) (0, [])).2)

/-- The bytes of DATA packet SEQ are written. -/
def State.writeData (s : State) (r : RxStream) (p : Packet) : State × RxStream :=
  let lo := (p.seq - 1) * 48
  let bs := (p.data.take (r.desc.bytes - lo)).zipIdx.map fun x => (lo + x.2, x.1)
  let ws := bs.flatMap fun x => match s.target r.desc r.base x.1 with
    | some as_ => as_.map fun a => ({ addr := a, data := x.2 } : WByte)
    | none => []
  let held := bs.foldl (fun m x => match s.target r.desc r.base x.1 with
    | none => smPut 0 m x.1 x.2
    | some _ => m) r.held
  (s.svcWrite ws, { r with held := held, bad := if p.poison then (r.bad.filter (· != p.seq)) ++ [p.seq] else r.bad })

/-- Whether a place of a packet's bytes waits for its memory (R418, R421). -/
def State.dataWaits (s : State) (r : RxStream) (p : Packet) : Bool :=
  let lo := (p.seq - 1) * 48
  (List.range (min 48 (r.desc.bytes - lo))).any fun i => (s.target r.desc r.base (lo + i)).any fun as_ => as_.any s.waitsAt

def Fabric.onRx (f : Fabric) (src : BitVec 24) (id : Nat) (g : RxStream → RxStream) : Fabric :=
  { f with rx := f.rx.map fun r => if r.src = src ∧ r.id = id then g r else r }

/-- The final ACK tells the source of poisoned bytes (R457). -/
def RxStream.poisoned (r : RxStream) : Bool := !r.bad.isEmpty && [2, 4, 5, 6].contains r.desc.service

/-- The end of a stream: its effect, once; a RELAY stream goes on along this module's line before it is acknowledged
(R453, log entry 29), with POISON where it came poisoned (R457); the others get their final ACK. -/
def State.rxEnd (s : State) (r : RxStream) (p : Packet) : State :=
  let s := if r.whole then s else (s.onFab (·.onRx r.src r.id fun x => { x with whole := true })).streamWhole r
  let ack (s : State) : State := s.answer 3 p (r.desc.total + 1) [] r.poisoned
  if r.desc.relay then
    match s.placed with
    | some (k, _) =>
      if r.whole then (if s.fab.runs.any fun x => x.kind == .relay r.src r.id then s else ack s)
      else
        let d := { r.desc with relay := false }
        let place (i : Nat) : Option Nat := (s.target d r.base i).bind List.head?
        let bytes := (List.range d.bytes).map fun i => match place i with
          | some a => s.mem.get a
          | none => smGet 0 r.held i
        let bad := (List.range d.bytes).filter fun i => r.bad.contains (i / 48 + 1) || (place i).any fun a => s.mem.ue.contains (a / 32)
        let s := (stretchesOf ((List.range d.bytes).filterMap place)).foldl (fun s x => s.svcRead x.1 x.2) s
        (match dimsOf k.dpMask with
         | d0 :: _ => s.startRun (.relay r.src r.id) d.step fun id =>
             s.fab.toLine id d0 (serviceEp d.service) 2 d [.bytes bytes bad]
         | [] => ack s)
    | none => ack s
  else ack s

/-- A stream is forgotten. -/
def Fabric.dropRx (f : Fabric) (src : BitVec 24) (id : Nat) : Fabric := { f with rx := f.rx.filter fun r => !(r.src == src && r.id == id) }

/-- DESC: refused when busy, when its data has no place; else the stream opens, or opens again from its start. Nothing of a refused
stream is written (R455). A stream of a reduction waits for room in the service area. -/
def execDesc (s : State) : Res :=
  match s.takePacket fun p => p.type == 1 with
  | none => .next s
  | some (p, t) =>
    let d := descOf p
    let u := t.onFab (·.dropRx p.src p.stream)
    if t.pwr.state = .a2 ∨ t.pwr.state = .a3 then .next (u.nackWith p 3)
    else if t.descBad d then .next ((u.onFab (·.flag 8)).nackWith p 4)
    else match (if d.lands then u.fab.landAt u.glob d.bytes else some 0) with
      | none => .next s
      | some base =>
        let u := if d.service = 4 then u.onHlt Health.beginSlot else u
        let u := if (d.service = 5 ∨ d.service = 6) ∧ u.hlt.rcv = 1 then u.onHlt (·.fillSource d.service p.src) else u
        let whole := (t.fab.rx.find? fun r => r.src == p.src && r.id == p.stream).any fun r => r.desc == d && r.whole
        let r : RxStream := { src := p.src, id := p.stream, desc := d, whole := whole, base := base }
        let u := u.onFab fun f => { f with rx := f.rx ++ [r] }
        .next (if d.total = 0 then u.rxEnd r p else u)

/-- DATA: the next packet of a stream is written, once its memory serves, and every 1,024th and the last are acknowledged; one that comes out of
order, or of no open stream, is dropped. -/
def execData (s : State) : Res :=
  match s.takePacket fun p => p.type == 2 with
  | none => .next s
  | some (p, t) =>
    match t.fab.rx.find? fun r => r.src == p.src && r.id == p.stream with
    | none => .next t
    | some r =>
      if p.seq ≠ r.next ∨ r.desc.total < p.seq then .next t
      else if s.dataWaits r p then .next s
      else
        let (s, r) := t.writeData r p
        let r := { r with next := p.seq + 1 }
        let s := s.onFab (·.onRx r.src r.id fun _ => r)
        .next (if p.seq = r.desc.total then s.rxEnd r p
          else if p.seq % 1024 = 0 then s.answer 3 p (p.seq + 1) [] else s)

/-! ### Sending: the end of streams and runs -/

/-- The TARGET of a distribution's streams, for its event. -/
def skippedEvents (s : State) (xs : List (BitVec 24 × Nat)) : State :=
  ((xs.map (·.2)).eraseDups).foldl (fun s t =>
    let as_ := (xs.filter fun x => x.2 == t).map (·.1)
    (List.range ((as_.length + 7) / 8)).foldl (fun s k =>
      let part := (as_.drop (8 * k)).take 8
      let pair (i : Nat) : Word := packBits [((part.getD (2 * i) 0).toNat, 0), ((part.getD (2 * i + 1) 0).toNat, 32)]
      s.event fromSloe 0x23 [packBits [(t, 0), (part.length, 32)], pair 0, pair 1, pair 2, pair 3] 0x50) s) s

/-- A fill run has ended: its FILL_SEND completes with the bytes and the step sent (R493). -/
def State.fillSent (s : State) (r : SRun) (port : HPort) (tag : BitVec 16) (bytes : Nat) : State :=
  s.finish port tag
    { status := if r.partly || !r.skipped.isEmpty then 1 else 0, words := [BitVec.ofNat 64 bytes, BitVec.ofNat 64 r.step] }

/-- The status of a distribution: MCAST_CUT where it skipped a destination, DONE_PARTIAL where it sent poisoned bytes (R451, R452,
R457). -/
def SRun.status (r : SRun) : Byte := if !r.skipped.isEmpty then 0x50 else if r.partly then 1 else 0

/-- A run has no stream left (R451 to R453, R461). -/
def State.runDone (s : State) (r : SRun) : State :=
  let s := s.onFab fun f => { f with runs := f.runs.filter fun x => x.id != r.id, cutCnt := f.cutCnt + BitVec.ofNat 48 r.cuts }
  match r.kind with
  | .distribute _ => (skippedEvents s r.skipped).onFab fun f => { f with distStatus := r.status }
  | .relay src id =>
    let s := skippedEvents s r.skipped
    (match s.fab.rx.find? fun x => x.src == src && x.id == id with
     | some x => s.onFab fun f => f.inject (mkPacket (headerOf 3 1 f.cur src (f.own (serviceEp x.desc.service)) none (x.poisoned || r.partly))
         (BitVec.ofNat 32 (id * 2 ^ 20 + (x.desc.total + 1) % 2 ^ 20)) 0)
     | none => s)
  | .snapshot h => s.snapshotSent h r.partly
  | .fill _ port tag bytes => s.fillSent r port tag bytes
  | _ => s

/-- A run whose streams have all ended is done. -/
def State.settleRun (s : State) (id : Nat) : State :=
  match s.fab.run id with
  | none => s
  | some r =>
    if !r.queue.isEmpty || s.fab.tx.any fun t => t.run == id then s
    else match r.kind with
      | .reduce _ _ _ => s
      | .factor _ _ _ => s
      | _ => s.runDone r

/-- Streams of a run that nobody has to acknowledge any more end, and those that wait for their ports follow. -/
def State.settleStreams (s : State) (id : Nat) : State :=
  let s := s.onFab fun f =>
    { (f.onRunId id fun r => { r with
        queue := r.queue.filter fun t => !t.waits.isEmpty
        partly := r.partly || f.tx.any fun t => t.run == id && t.poisoned }) with
      tx := f.tx.filter fun t => !(t.run == id && t.waits.isEmpty) }
  (s.fab.runs.foldl (fun s r => s.runPump (r.queue.length + 1) r.id) s).settleRun id

/-- What an ACK of a destination tells a stream (R455 to R457). -/
def TxStream.hear (t : TxStream) (src : BitVec 24) (seq : Nat) (poison : Bool) : TxStream :=
  let old := (t.acked.find? fun (a : BitVec 24 × Nat) => a.1 == src).map (·.2)
  { t with
    acked := (t.acked.filter fun a => a.1 != src) ++ [(src, seq)]
    heard := if old.all (· < seq) && !t.heard.contains src then t.heard ++ [src] else t.heard
    waits := if t.total < seq then t.waits.filter (· != src) else t.waits
    poisoned := t.poisoned || poison }

/-- ACK: the receiver has written everything below SEQ; after the last packet it is done (R455, R457). -/
def execAck (s : State) : Res :=
  match s.takePacket fun p => p.type == 3 with
  | none => .next s
  | some (p, s) =>
    match s.fab.tx.find? fun t => t.id == p.stream with
    | none => .next s
    | some t =>
      if !t.waits.contains p.src then .next s
      else
        let s := s.onFab fun f => (if p.poison then f.flag 7 else f).onTx t.id (·.hear p.src p.ackSeq p.poison)
        .next ((s.pump t.id).settleStreams t.run)

/-- A run begins; one without streams is done at once. -/
def State.beginRun (s : State) (kind : RunKind) (step : Nat) (mk : Nat → List TxStream) : State :=
  (s.startRun kind step mk).settleRun s.fab.nextRun

/-! ### Sending: destinations that fall out (R451 to R453, R456) -/

/-- Where a skip of a run leads besides the run itself: a snapshot is abandoned, any other run sets MCAST_CUT (R451, R467, R485). -/
def State.skipDest (s : State) (id : Nat) (a : BitVec 24) (target : Nat) : State :=
  match s.fab.run id with
  | none => s
  | some r =>
    if r.kind.isSnapshot then s.abandonSnapshot
    else
      let s := s.onFab fun f =>
        { ((f.flag 3).onRunId id fun r => { r with
            skipped := if r.skipped.any (fun x => x.1 == a) then r.skipped else r.skipped ++ [(a, target)]
            queue := r.queue.map fun t => { t with waits := t.waits.filter (· != a) } }) with
          tx := f.tx.map fun t => if t.run = id then { t with waits := t.waits.filter (· != a) } else t }
      s.settleStreams id

/-- The members of the line through an address in dimension d, that address first (R453). -/
def Fabric.lineOf (f : Fabric) (a : BitVec 24) (d : Nat) : List (BitVec 24) := a :: f.line (coordsAt a) d (endpointOf a)

/-- Unicasts of a stream of a run, to those that the run has not skipped (R451, R452). -/
def Fabric.unicasts (f : Fabric) (t : TxStream) (ws : List (BitVec 24)) : List TxStream :=
  (ws.filter fun w => !(f.run t.run).any fun r => r.skipped.any fun x => x.1 == w).map fun w =>
    { newStream t.run t.vc w none [w] { t.desc with relay := false } t.src with repair := true }

/-- A RELAY target that does not take its copy: every module of its line gets a unicast of its own (R453). Where the target is skipped,
the others of its line do, of every stream that was to go through it (R452). -/
def State.unicastLine (s : State) (t : TxStream) (d : Nat) (a : BitVec 24) (skip : Bool) : State :=
  let mine (x : TxStream) : Bool := if skip then x.run == t.run && x.desc.relay && x.dest == a else x.id == t.id
  let ws := (s.fab.lineOf a d).filter fun w => !skip || w != a
  let queued := match s.fab.run t.run with
    | some r => if skip then r.queue.filter mine else []
    | none => []
  let ts := (s.fab.tx.filter mine ++ queued).flatMap fun x => s.fab.unicasts x ws
  let s := s.onFab fun f =>
    { (f.onRunId t.run fun r => { r with queue := if skip then r.queue.filter (fun x => !mine x) else r.queue }) with
      tx := f.tx.filter fun x => !mine x }
  let s := s.enqueue t.run ts
  if skip then s.skipDest t.run a t.desc.target else s.settleStreams t.run

/-- The lowest dimension of the loaded package's group. -/
def State.firstDim (s : State) : Nat :=
  match s.run.graph with
  | some g => (dimsOf g.pkg.dpMask).headD 0
  | none => 0

/-- A stream's packet was refused: its destination is skipped where R451 and R452 say so; a busy partner ends a snapshot
(R589). -/
def State.nackStream (s : State) (p : Packet) : State :=
  match s.fab.tx.find? fun t => t.id == p.stream with
  | none => s
  | some t =>
    let who := match t.mc with
      | some _ => t.waits.find? fun w => coordsAt w == coordsAt p.src
      | none => t.waits.head?
    let reason := p.pf 0 1
    match who with
    | none => s
    | some a =>
      if t.desc.relay then s.unicastLine t s.firstDim a (decide (p.seq = 0 ∧ [2, 4, 5].contains reason))
      else if (p.seq = 0 ∧ [2, 4, 5].contains reason) ∨ (t.repair ∧ [1, 2, 4, 5].contains reason) ∨ (t.desc.service = 4 ∧ reason = 3) then
        s.skipDest t.run a t.desc.target
      else s

/-- CUT: the first one of a stream shortens its span, and unicasts reach what lies beyond (R451). -/
def execCut (s : State) : Res :=
  match s.takePacket fun p => p.type == 5 with
  | none => .next s
  | some (p, s) =>
    match s.fab.tx.find? fun t => t.id == p.stream with
    | none => .next s
    | some t =>
      match t.mc, t.cut with
      | some (d, _), none =>
        let hop := BitVec.ofNat 24 (p.pf 0 3)
        let last := BitVec.ofNat 24 (p.pf 3 3)
        let span := s.fab.line s.fab.coords d (endpointOf t.dest)
        let beyond := span.drop ((span.findIdx? fun w => coordsAt w == coordsAt hop).getD span.length)
        let far := beyond.filter t.waits.contains
        let s := s.onFab fun f =>
          (f.onTx t.id fun t => { t with cut := some last, waits := t.waits.filter fun w => !beyond.contains w }).onRunId t.run fun r =>
            { r with cuts := r.cuts + 1 }
        let s := s.enqueue t.run (s.fab.unicasts t far)
        .next ((s.pump t.id).settleStreams t.run)
      | _, _ => .next s

/-- The destinations that a second stall makes unreachable: those without ACK progress since the last one, all where every one had some
(R452, R456). -/
def TxStream.silent (t : TxStream) : List (BitVec 24) :=
  let xs := t.waits.filter fun a => !t.heard.contains a
  if xs.isEmpty then t.waits else xs

/-- STREAM_STALL_TIMEOUT: once, the whole stream is sent again; a second stall makes the silent destinations unreachable
for the run (R456). -/
def execStreamStallTimeout (stream : BitVec 12) (s : State) : Res :=
  match s.fab.tx.find? fun t => t.id == stream.toNat with
  | none => .next s
  | some t =>
    if !t.resent then
      let s := s.onFab fun f =>
        { (f.flag 4).onTx t.id (fun t => { t with resent := true, next := 0, acked := [], heard := [] }) with resendCnt := f.resendCnt + 1 }
      .next (s.pump t.id)
    else if t.desc.relay then .next (match t.waits with
      | a :: _ => s.unicastLine t s.firstDim a true
      | [] => s)
    else .next (t.silent.foldl (fun s a => s.skipDest t.run a t.desc.target) (s.onFab (·.onTx t.id fun t => { t with heard := [] })))

end Sys2Proof.Machine
end

