-- ==== Sys2Proof/Machine/Epoch.lean ====
section
/-! DEFINITION. Route epochs (12 R442 to R447): the meanings of the epoch messages, and how a switch starts and ends. -/
namespace Sys2Proof.Machine

/-- The management endpoint of every module of FAB_EXTENT, this one among them; a message's ID is its place in this
list. -/
def Fabric.everyone (f : Fabric) : List (BitVec 24) :=
  let n (d : Nat) := max 1 (f.extents.getD d 1)
  (List.range (n 3)).flatMap fun r => (List.range (n 2)).flatMap fun z => (List.range (n 1)).flatMap fun y =>
    (List.range (n 0)).map fun x => addrOf r x y z 0

/-- A message to every module. -/
def Fabric.broadcast (f : Fabric) (msg : Nat) (payload : List Byte) : Fabric :=
  f.everyone.zipIdx.foldl (fun f x => f.inject (f.message 0 x.1 msg (BitVec.ofNat 24 x.2) payload)) f

def State.takeMsg (s : State) (msg : Nat) : Option (Packet × State) := s.takePacket fun p => p.type == 6 && p.msg == msg

/-- GEN of an epoch message. -/
def genOf (p : Packet) : BitVec 16 := BitVec.ofNat 16 (p.pf 0 2)

/-! ### The initiator (R444, R447) -/

/-- The result of a switch (R529). -/
def State.epochResult (s : State) (gen : BitVec 16) (status : Nat) : State :=
  (s.onFab fun f => { f with epoch := none }).event fromSloe 0x21 [gen.zeroExtend 64] status

/-- A switch begins with PREPARE to every module, unless one still runs here or an old bank is held. -/
def State.startSwitch (s : State) (gen : BitVec 16) : State :=
  if s.fab.epoch.isSome || s.fab.readyFor.isSome then s.event fromSloe 0x21 [gen.zeroExtend 64] 0x10
  else s.onFab fun f => { f with epoch := some { gen := gen } }.broadcast 1 (bytesOf 2 gen.toNat)

/-- The bank of the standby generation becomes active at once and locally (R443). -/
def Fabric.activate (f : Fabric) : Fabric :=
  { f with cur := !f.cur, activeGen := f.standbyGen, standbyGen := f.activeGen, standbyLoaded := false }

/-- A committed FAB_EPOCH_SWITCH: the first one activates locally, a later one starts a switch; FORCE releases the old
bank (R443, R444, R447). -/
def State.epochSwitch (s : State) (gen : BitVec 16) (force : Bool) : State :=
  if force then
    match s.fab.epoch with
    | some e => if e.phase = .polling ∨ e.phase = .switching then
        s.onFab fun f => { f with epoch := some { e with phase := .releasing, answered := [] } }.broadcast 6 (bytesOf 2 e.gen.toNat)
      else s
    | none => s
  else if s.fab.activeGen = 0 ∧ gen = s.fab.standbyGen ∧ gen ≠ 0 then s.onFab Fabric.activate
  else s.startSwitch gen

/-- The initiator gives up. -/
def State.abortSwitch (s : State) (e : EpochRun) (status : Nat) : State :=
  (s.onFab (·.broadcast 7 (bytesOf 2 e.gen.toNat))).epochResult e.gen status

/-- Every module has answered. -/
def Fabric.allIn (f : Fabric) (xs : List (BitVec 24)) : Bool := f.everyone.all fun a => xs.contains a

/-- A reply to the initiator. -/
def State.epochAnswer (s : State) (e : EpochRun) (src : BitVec 24) (code : Nat) : State :=
  let heard := if e.answered.contains src then e.answered else e.answered ++ [src]
  let all := s.fab.allIn heard
  let keep (x : EpochRun) : State := s.onFab fun f => { f with epoch := some x }
  match e.phase, code with
  | .prepare, 0 =>
    if all then (keep { e with phase := .switching, answered := [] }).onFab (·.broadcast 3 (bytesOf 2 e.gen.toNat))
    else keep { e with answered := heard }
  | .prepare, 1 => s.abortSwitch e 0x12
  | .prepare, 2 => s.abortSwitch e 0x10
  | .switching, 3 =>
    if all then (keep { e with phase := .polling, answered := [] }).onFab fun f => { f with epochState := 3 }
    else keep { e with answered := heard }
  | .releasing, 4 => if all then s.epochResult e.gen 0 else keep { e with answered := heard }
  | _, _ => s

/-- EPOCH_REPLY. -/
def execEpochReply (s : State) : Res :=
  match s.takeMsg 2 with
  | none => .next s
  | some (p, s) =>
    match s.fab.epoch with
    | some e => .next (if genOf p = e.gen then s.epochAnswer e p.src (p.pf 2 1) else s)
    | none => .next s

/-- EPOCH_PREPARE_TIMEOUT: some module has not answered PREPARE within 10 ms. -/
def execEpochPrepareTimeout (s : State) : Res :=
  match s.fab.epoch with
  | some e => .next (if e.phase = .prepare then s.abortSwitch e 0x12 else s)
  | none => .next s

/-- EPOCH_POLL_ROUND: the next round of polls, the first one round 0; a round cut off before all answers does not count as one of the
two. -/
def execEpochPollRound (s : State) : Res :=
  match s.fab.epoch with
  | some e =>
    if e.phase = .polling then
      let e' := { e with round := e.round + 1, before := if s.fab.allIn (e.now.map (·.1)) then e.now else [], now := [] }
      .next (s.onFab fun f => { f with epoch := some e' }.broadcast 4 (bytesOf 2 e.gen.toNat ++ bytesOf 4 e.round))
    else .next s
  | none => .next s

/-- Two consecutive rounds that found every DRAIN 0 and every PASSED unchanged. -/
def EpochRun.drained (e : EpochRun) (all : List (BitVec 24)) : Bool :=
  all.all fun a => match e.now.find? (fun (x : BitVec 24 × Nat × Nat) => x.1 == a), e.before.find? (fun (x : BitVec 24 × Nat × Nat) => x.1 == a) with
    | some x, some y => x.2.1 == 0 && y.2.1 == 0 && x.2.2 == y.2.2
    | _, _ => false

/-- What a module tells of the round; the old bank is released once nothing is left of the old epoch. -/
def State.pollHeard (s : State) (e : EpochRun) (a : BitVec 24) (drain passed : Nat) : State :=
  let e := { e with now := (e.now.filter fun (x : BitVec 24 × Nat × Nat) => x.1 != a) ++ [(a, drain, passed)] }
  if e.drained s.fab.everyone then
    s.onFab fun f => { f with epoch := some { e with phase := .releasing, answered := [] } }.broadcast 6 (bytesOf 2 e.gen.toNat)
  else s.onFab fun f => { f with epoch := some e }

/-- EPOCH_POLL_REPLY. -/
def execEpochPollReply (s : State) : Res :=
  match s.takeMsg 5 with
  | none => .next s
  | some (p, s) =>
    match s.fab.epoch with
    | some e =>
      .next (if e.phase = .polling ∧ genOf p = e.gen ∧ p.pf 2 4 + 1 = e.round then s.pollHeard e p.src (p.pf 6 4) (p.pf 10 4) else s)
    | none => .next s

/-- A module that a poll cannot reach counts as DRAIN 0 with PASSED unchanged. -/
def State.pollLost (s : State) (id : Nat) : State :=
  match s.fab.epoch, s.fab.everyone[id]? with
  | some e, some a =>
    if e.phase = .polling then
      let old := (e.before.find? fun (x : BitVec 24 × Nat × Nat) => x.1 == a).map (·.2.2)
      s.pollHeard e a 0 (old.getD 0)
    else s
  | _, _ => s

/-- DRAIN_TIMEOUT: 100 ms after SWITCH the old epoch still holds packets (R447). -/
def execDrainTimeout (s : State) : Res :=
  match s.fab.epoch with
  | some e =>
    if (e.phase = .polling ∨ e.phase = .switching) ∧ !e.timedOut then
      .next ((s.onFab fun f => { f.flag 9 with epoch := some { e with timedOut := true } }).event fromSloe 0x22 [e.gen.zeroExtend 64])
    else .next s
  | none => .next s

/-! ### Every module (R444, R445) -/

/-- EPOCH_PREPARE. -/
def execEpochPrepare (s : State) : Res :=
  match s.takeMsg 1 with
  | none => .next s
  | some (p, s) =>
    let g := genOf p
    if s.fab.readyFor.any (· != g) then .next (s.epochReply p.src p.msgId g 2)
    else if s.fab.standbyLoaded && s.fab.standbyGen == g then
      .next ((s.onFab fun f => { f with readyFor := some g, epochState := 1 }).epochReply p.src p.msgId g 0)
    else .next (s.epochReply p.src p.msgId g 1)

/-- EPOCH_SWITCH: at the next safe point, or at once when no step runs. -/
def execEpochSwitch (s : State) : Res :=
  match s.takeMsg 3 with
  | none => .next s
  | some (p, s) =>
    if s.fab.readyFor != some (genOf p) || s.fab.epochState != 1 then .next s
    else if s.run.step.isNone then .next (s.switchBank p.src p.msgId)
    else .next (s.onFab fun f => { f with switchDue := some (p.src, p.msgId) })

/-- EPOCH_POLL: DRAIN and PASSED of the old epoch. -/
def execEpochPoll (s : State) : Res :=
  match s.takeMsg 4 with
  | none => .next s
  | some (p, s) =>
    let old := !s.fab.cur
    let passed := if old then s.fab.passed[1] else s.fab.passed[0]
    .next (s.onFab (·.reply p.src 5 p.msgId
      (bytesOf 2 (p.pf 0 2) ++ bytesOf 4 (p.pf 2 4) ++ bytesOf 4 (s.fab.drain old) ++ bytesOf 4 passed.toNat)))

/-- A packet in place of one that was dropped from a replay buffer: it keeps the number on the link, and the next router drops it for its
TYPE (R428, R433). DESIGN CHOICE, log entry 170. -/
def voidPacket (f : Fabric) : Packet := mkPacket (headerOf 0 0 f.cur 0 0) 0 0

/-- The copies in inbox and waiting list that are of the old epoch, and have no other copy before them. -/
def Fabric.oldHeld (f : Fabric) : List Delivered :=
  (f.waiting.map (fun w => ({ packet := w.packet, input := w.input, slot := w.slot } : Delivered))
    ++ f.inbox.filter fun d => !f.waiting.any (·.slot == d.slot)).filter fun d => d.packet.epoch != f.cur

/-- Packets of the old epoch that the router still holds, in its buffers, at its endpoints or in its replay buffers, are dropped and
counted (R447). -/
def Fabric.dropOld (f : Fabric) : Fabric :=
  let g := { f with waiting := f.waiting.filter (fun w => w.packet.epoch == f.cur), inbox := f.inbox.filter fun d => d.packet.epoch == f.cur }
  let g := f.oldHeld.foldl (fun g d => g.noRoute.freeBuffer d.input d.packet) g
  let n := (f.ports.toList.flatMap (·.replay)).countP fun k => k.epoch != f.cur
  let g := if n = 0 then g else { g.flag 0 with noroute := g.noroute + BitVec.ofNat 48 n }
  { g with ports := g.ports.map fun q => { q with replay := q.replay.map fun k => if k.epoch != f.cur then voidPacket f else k } }

/-- EPOCH_RELEASE: the old bank becomes the standby bank. -/
def execEpochRelease (s : State) : Res :=
  match s.takeMsg 6 with
  | none => .next s
  | some (p, s) =>
    if s.fab.readyFor = some (genOf p) ∧ s.fab.activeGen = genOf p then
      .next ((s.onFab fun f =>
        { f.dropOld with standbyLoaded := false, readyFor := none, epochState := 0, switchDue := none }).epochReply p.src p.msgId (genOf p) 4)
    else .next s

/-- EPOCH_ABORT. -/
def execEpochAbort (s : State) : Res :=
  match s.takeMsg 7 with
  | none => .next s
  | some (p, s) =>
    .next (s.onFab fun f => if f.readyFor = some (genOf p) ∧ f.epochState = 1 then { f with readyFor := none, epochState := 0, switchDue := none } else f)

end Sys2Proof.Machine
end

