-- ==== Sys2Proof/Machine/Recovery.lean ====
section
/-! DEFINITION. Pairing, restore and verification (12 R463, R466; 13 R475 to R477, R487 to R493). -/
namespace Sys2Proof.Machine

/-! ### Pairing (R475 to R477) -/

/-- The module pairs (R475). -/
def State.pairs (s : State) : Bool := s.fab.mirror && s.fab.valid && s.hlt.pairEn

/-- Entry into a pairing state: PAIRED, PAIRED_SHARED and LOST raise an event; a new pairing has no committed snapshot. -/
def State.enterPair (s : State) (n : BitVec 3) : State :=
  if s.hlt.pairState = n then s
  else
    let t := s.onHlt fun h => { h with pairState := n, fresh := if n = 2 ∨ n = 3 then true else h.fresh }
    if n = 2 ∨ n = 3 ∨ n = 4 then
      t.event fromMarkhor 0x30 [n.zeroExtend 64, t.hlt.feedId.zeroExtend 64, t.hlt.peerFeed.zeroExtend 64]
        (if n = 2 then 0 else if n = 3 then 0x41 else 0x40)
    else t

/-- PAIRED or PAIRED_SHARED by the two identifiers. -/
def Health.pairKind (h : Health) : BitVec 3 :=
  if h.feedId != 0 && h.peerFeed != 0 && h.feedId != h.peerFeed then 2 else 3

/-- The settings of pairing have changed (R475). -/
def State.repair (s : State) : State :=
  if !s.hlt.pairEn || !s.fab.mirror then s.enterPair 0
  else if s.pairs && s.hlt.pairState = 0 then s.enterPair 1
  else s

/-- What a heartbeat says (R466). -/
def State.heartbeatBytes (s : State) : List Byte :=
  bytesOf 8 s.hlt.feedId.toNat ++ [s.hlt.score, s.hlt.pairState.zeroExtend 8] ++ List.replicate 6 0 ++ bytesOf 8 s.lastStep
  ++ bytesOf 4 s.run.placementId.toNat ++ bytesOf 4 s.pkgId.toNat ++ bytesOf 3 (s.fab.own 0).toNat

/-- PARTNER_HEARTBEAT_SEND: one heartbeat on each partner port that is UP; none before the route configuration is committed
(R40). -/
def execPartnerHeartbeatSend (s : State) : Res :=
  if !s.fab.mirror || !s.fab.valid then .next s
  else
    let k := s.fab.message 0 (s.fab.partnerAddr 0) 0x10 0 s.heartbeatBytes
    .next (s.onFab fun f => ([6, 7] : List FPort).foldl (fun f p =>
      if f.up p then { f.into k with waiting := f.waiting ++ [{ input := 8, output := p, packet := k, slot := f.accepted }] } else f) f)

/-- HEARTBEAT: a foreign one is dropped and reported; the partner's is recorded, and the pairing follows it. -/
def execHeartbeat (s : State) : Res :=
  match s.takeMsg 0x10 with
  | none => .next s
  | some (p, s) =>
    let sender := BitVec.ofNat 24 (p.pf 32 3)
    if coordsAt sender != coordsAt (s.fab.partnerAddr 0) then .next (s.event fromSloe 0x25 [sender.zeroExtend 64])
    else
      let t := s.onHlt fun h =>
        { h with peerFeed := BitVec.ofNat 48 (p.pf 0 8), peerRisk := BitVec.ofNat 8 (p.pf 8 1), peerState := BitVec.ofNat 3 (p.pf 9 1) }
      let n := p.pf 9 1
      let t := t.onFab fun f => { f with partnerLost := false }
      .next (if t.pairs && decide (1 ≤ n ∧ n ≤ 4) then t.enterPair t.hlt.pairKind else t)

/-! ### Fills (R489 to R491) -/

/-- Streams of a fill that this module receives. -/
def RxStream.isFill (r : RxStream) : Bool := r.desc.service == 5 || r.desc.service == 6

/-- A fill stops: everything received is dropped, quarter 3 and the tensors it was for are undefined, the restore ends
(R490). -/
def State.stopFill (s : State) : State :=
  let t := match s.placed with
    | some (p, pl) =>
      ((List.range p.tensors.length).filter fun i => (p.tensor i).persist && s.hlt.filled.any (·.1 == i)).foldl (fun (s : State) i =>
        (tensorSpans p pl i).foldl (fun (t : State) (x : Nat × Nat × Nat) => { t with mem := t.mem.fill x.1 x.2.2 (some s.nonce) }) s.draw.2) s
    | none => s
  let (n, t) := t.draw
  let t := { t with mem := t.mem.fill (t.glob.quarter 3) t.glob.quarterBytes (some n) }
  let t := t.onFab fun f => { f with rx := f.rx.filter fun r => !r.isFill }
  let t := match s.hlt.privateHost with
    | some (port, tag, _) => t.finish port tag { status := 0x40 }
    | none => t
  (t.invalid 0x40).onHlt fun h => { h with privateHost := none, fillAbortCnt := h.fillAbortCnt + 1 }

/-- A fill has begun and is not complete. -/
def State.filling (s : State) : Bool :=
  s.hlt.rcv == 1 && !(s.hlt.sharedDone && s.hlt.privateDone)
  && (s.fab.rx.any (·.isFill) || !s.hlt.filled.isEmpty || s.hlt.privateGot != 0 || s.hlt.privateHost.isSome)

/-- A fill that is not complete comes from the partner (R490). -/
def State.fillsFrom (s : State) (mine : BitVec 24 → Bool) : Bool :=
  s.hlt.fillFrom.any fun x => mine x.2 && !(if x.1 = 5 then s.hlt.sharedDone else s.hlt.privateDone)

/-- FILL_STALL_TIMEOUT: 10 ms without progress. -/
def execFillStallTimeout (s : State) : Res := .next (if s.filling then s.stopFill else s)

/-! ### Verification (R463) -/

/-- The bytes of the shared image: every PERSIST tensor in tensor order. -/
def State.sharedImage (s : State) (p : Package) (pl : Placement) : List Byte :=
  ((List.range p.tensors.length).filter fun t => (p.tensor t).persist).flatMap fun t =>
    match pl.homes[t]? with
    | some h => (List.range h.bytes).map fun i => (s.tensorByte p pl t i).getD 0
    | none => []

/-- The digest of a chunk of the shared image. -/
def State.chunkDigest (s : State) (k : Nat) : Option (BitVec 256) :=
  match s.placed with
  | some (p, pl) =>
    let m := s.sharedImage p pl
    (chunksIn m.length)[k]?.map fun c => sha3Num ((m.drop c.1).take c.2)
  | none => none

/-- The module stands at the state reached after step S (R463): that step is its last, and no other runs. DEDUCED, log entry 172. -/
def State.after (s : State) (step : Nat) : Bool := s.placed.isSome && decide (s.lastStep = step) && s.run.step.isNone

/-- VERIFY_DIGEST: the peer compares with its own digest of the chunk, at the same step. -/
def execVerifyDigest (s : State) : Res :=
  match (if s.memBusy then none else s.takeMsg 0x20) with
  | none => .next s
  | some (p, s) =>
    let chunk := p.pf 32 8
    let same := s.after (p.pf 40 8)
    let ok := same && s.chunkDigest chunk == some (BitVec.ofNat 256 (p.pf 0 32))
    let first := if ok then 2 ^ 64 - 1 else if same then chunk else 0
    .next (s.onFab (·.reply p.src 0x21 p.msgId (bytesOf 8 1 ++ bytesOf 8 first)))

/-- A verification ends: with every chunk equal the target is VERIFIED, with a mismatch INVALID (R487, R491). -/
def State.endVerify (s : State) (v : Verify) : State :=
  let bad := v.mismatch.isSome
  let t := s.onFab fun f => { f with verify := none }
  let t := t.onHlt fun h =>
    if h.rcv = 2 ∨ h.rcv = 3 then
      { h with rcv := if bad then 4 else 3, lastStatus := if bad then 0x42 else 0 }
    else h
  t.finish v.port v.tag
    { status := if bad then 0x42 else 0, words := [BitVec.ofNat 64 v.compared, BitVec.ofNat 64 (v.mismatch.getD (2 ^ 64 - 1))] }

/-- VERIFY_RESULT. -/
def execVerifyResult (s : State) : Res :=
  match s.takeMsg 0x21 with
  | none => .next s
  | some (p, s) =>
    match s.fab.verify with
    | none => .next s
    | some v =>
      if coordsAt p.src != coordsAt v.peer then .next s
      else
        let first := p.pf 8 8
        let v := { v with
          compared := v.compared + 1
          mismatch := if first = 2 ^ 64 - 1 then v.mismatch else some (min first (v.mismatch.getD first)) }
        .next (if v.chunks ≤ v.compared then s.endVerify v else s.onFab fun f => { f with verify := some v })

/-- CHUNK_DIGEST_DONE: the next chunk's digest goes to the peer; a module that has left the state after step S cannot hash it, which is
a mismatch at chunk 0 (log entry 172). -/
def execChunkDigestDone (s : State) : Res :=
  match s.fab.verify with
  | some v =>
    if !s.after v.step then .next (s.endVerify { v with mismatch := some 0 })
    else (match s.chunkDigest v.sent with
     | some d =>
       if v.sent < v.chunks ∧ !s.memBusy then
         .next (s.onFab fun f =>
           { f with verify := some { v with sent := v.sent + 1 } }.inject
             (f.message 0 (withEp v.peer 0) 0x20 (BitVec.ofNat 24 v.sent) (bytesOf 32 d.toNat ++ bytesOf 8 v.sent ++ bytesOf 8 v.step)))
       else .next s
     | none => .next s)
  | none => .next s

/-- The peer of a verification is lost (R492). -/
def State.verifyLost (s : State) : State :=
  match s.fab.verify with
  | some v => (s.onFab fun f => { f with verify := none }).finish v.port v.tag (rejected 1)
  | none => s

/-- PARTNER_LOST: 1 ms has passed without a heartbeat, and this silence has not been reported. A paired module enters LOST, which ends what needed the partner
(R466, R475, R485, R490, R492). -/
def execPartnerLost (s : State) : Res :=
  if !s.fab.mirror || s.fab.partnerLost then .next s
  else
    let t := (s.onFab fun f => { f.flag 10 with partnerLost := true }).event fromSloe 0x24
    if !s.hlt.paired then .next t
    else
      let t := (t.enterPair 4).abandonSnapshot
      let mine (a : BitVec 24) : Bool := coordsAt a == coordsAt (s.fab.partnerAddr 0)
      let t := if t.hlt.rcv = 1 ∧ t.fillsFrom mine then t.stopFill else t
      .next (if t.fab.verify.any fun v => mine v.peer then t.verifyLost else t)

/-- NACK: of a stream, or of a management message: a poll or a verification that does not reach its module (R433, R438,
R444, R492). -/
def execNack (s : State) : Res :=
  match s.takePacket fun p => p.type == 4 with
  | none => .next s
  | some (p, s) =>
    if endpointOf p.dest = 0 then
      .next (if p.msg = 4 then s.pollLost p.msgId.toNat else if p.msg = 0x20 then s.verifyLost else s)
    else .next (s.nackStream p)

/-! ### Commands (R489, R493) -/

/-- CURSOR_SET (R471). -/
def State.cursorSet (s : State) (port : HPort) (tag : BitVec 16) (ws : List Word) : State :=
  if s.run.step.isSome then s.finish port tag (rejected 0)
  else (s.onHlt fun h => { h with cursor := Vector.ofFn fun i => ws.getD i.val 0 }).finish port tag done

/-- SNAP_NOW: a snapshot is due at the next step boundary (R480). -/
def State.snapNowCmd (s : State) (port : HPort) (tag : BitVec 16) : State :=
  s.onHlt fun h => { h with snapNow := h.snapNow ++ [(port, tag, none)] }

/-- SNAP_MIRROR_BUF: a port registers one buffer by its address; length 0 unregisters it (R482). -/
def State.snapMirrorBuf (s : State) (port : HPort) (tag : BitVec 16) (addr len : Word) : State :=
  (s.onHlt fun h =>
    let rest := h.mirrors.filter fun b => !(b.port == port && b.addr == addr)
    { h with mirrors := if len = 0 then rest else rest ++ [{ port := port, addr := addr, len := len.toNat }] }).finish port tag done

/-- RESTORE_BEGIN. The module leaves NORMAL, and with it the steps credited (R518). -/
def State.restoreBegin (s : State) (port : HPort) (tag : BitVec 16) : State :=
  if s.placed.isNone || s.run.step.isSome then s.finish port tag (rejected 0)
  else
    (s.cutSteps.onHlt fun h =>
      { h with rcv := 1, sharedDone := false, privateDone := false, lastStatus := 0, filled := [], fillFrom := [], privateGot := 0 }).finish port tag done

/-- The newest valid slot. -/
def Health.bestSlot (h : Health) : Option Bool :=
  if !h.slotA.valid && !h.slotB.valid then none
  else if h.slotA.valid && h.slotB.valid then some (decide (h.slotA.seq.toNat ≤ h.slotB.seq.toNat))
  else some h.slotB.valid

/-- The streams of a shared fill. -/
def State.sharedStreams (s : State) (p : Package) (pl : Placement) (dest : BitVec 24) (run : Nat) : List TxStream :=
  let d : DescF := { service := 5, step := s.lastStep, packageId := p.packageId }
  ((List.range p.tensors.length).filter fun t => (p.tensor t).persist).flatMap fun t =>
    (s.tensorStreams p pl d t 0 (p.tensor t).elements).map fun x => newStream run 3 dest none [dest] x.1 x.2

def sumBytes (ts : List TxStream) : Nat := (ts.map (·.desc.bytes)).foldl (· + ·) 0

/-- FILL_SEND: KIND 1 the shared state of a quiesced module in service, KIND 2 the partner's newest image; neither runs without a committed
route configuration (R40). -/
def State.fillSend (s : State) (port : HPort) (tag : BitVec 16) (w : Word) : State :=
  let dest := withEp (w.extractLsb' 0 24) 2
  let kind := fld w 24 2
  if !s.fab.valid then s.finish port tag (rejected 0)
  else if kind = 1 then
    match s.placed with
    | some (p, pl) =>
      if s.hlt.rcv = 5 ∧ s.quiesced then
        let ts := s.sharedStreams p pl dest
        s.beginRun (.fill 1 port tag (sumBytes (ts 0))) s.lastStep ts
      else s.finish port tag (rejected 0)
    | none => s.finish port tag (rejected 0)
  else if kind = 2 then
    match s.hlt.bestSlot with
    | some b =>
      let base := s.glob.quarter (if b then 2 else 1)
      let len := min s.glob.quarterBytes (fld (s.mem.word (base + 24)) 0 48)
      let x := s.hlt.slot b
      let d : DescF := { service := 6, step := x.step.toNat, packageId := BitVec.ofNat 32 (fld (s.mem.word (base + 16)) 0 32) }
      s.beginRun (.fill 2 port tag len) x.step.toNat fun id => memStreams id 3 dest d base 0 len
    | none => s.finish port tag (rejected 0)
  else s.finish port tag (rejected 0)

/-- RESTORE_PRIVATE_HOST: the port's DMA engines begin to read the image. -/
def State.restorePrivateHost (s : State) (port : HPort) (tag : BitVec 16) (len : Word) : State :=
  if s.hlt.rcv ≠ 1 ∨ s.glob.quarterBytes < len.toNat then s.finish port tag (rejected 0)
  else if s.hlt.privateHost.isSome then s.finish port tag rejectedBusy
  else s.onHlt fun h => { h with privateHost := some (port, tag, len.toNat) }

/-- The image in quarter 3 is one of this package's, with every digest right (R489). -/
def State.imageGood (s : State) : Bool :=
  let a := s.glob.quarter 3
  let w (i : Nat) := s.mem.word (a + 8 * i)
  let len := fld (w 3) 0 48
  fld (w 0) 0 32 == 0x50534C53
  && s.run.graph.any (fun g => g.pkg.packageId.toNat == fld (w 2) 0 32)
  && decide (imageHead ≤ len ∧ len ≤ s.glob.quarterBytes)
  && (chunksIn (len - imageHead)).zipIdx.all fun c =>
    sha3 (s.mem.bytes (a + imageHead + c.1.1) c.1.2) == s.mem.bytes (a + 64 + 32 * c.2) 32

/-- PRIVATE_FILL_DONE: the whole image stands in quarter 3, from the partner or, with the bytes that its DMA read, from a
host; it is checked. -/
def execPrivateFillDone (data : List Byte) (s : State) : Res :=
  let a := s.glob.quarter 3
  let checked (s : State) : State :=
    let ok := s.imageGood
    s.onHlt fun h => { h with privateDone := h.privateDone || ok, lastStatus := if ok then 0 else 0x42, privateGot := 0 }
  if s.hlt.rcv ≠ 1 ∨ s.memBusy then .next s
  else match s.hlt.privateHost with
    | some (port, tag, len) =>
      let t := checked (s.svcWrite (writesAt a (data.take len)))
      let u := t.onHlt fun h => { h with privateHost := none }
      .next (u.finish port tag (if t.imageGood then
        { words := [BitVec.ofNat 64 (fld (t.mem.word a) 32 32), BitVec.ofNat 64 (fld (t.mem.word (a + 8)) 0 48)] }
      else { status := 0x42 }))
    | none => .next (if s.hlt.privateGot ≠ 0 ∧ fld (s.mem.word (a + 24)) 0 48 ≤ s.hlt.privateGot then checked s else s)

/-! ### RESTORE_COMMIT (R471, R472, R489) -/

/-- A context of an image goes to the engines that serve its instances. -/
def State.installCtx (s : State) (p : Package) (pl : Placement) (a : Nat) (e : List Word) (insts : List Nat) : State :=
  let id := fld (imgW e 0) 8 8
  let holds := decide (fld (s.mem.word a) 8 1 = 1)
  let sig := s.mem.word (a + 16)
  let w := ctxWidth p e
  let entries := insts.zipIdx.map fun x => (x.1, (List.range w).map fun i => CtxVal.code (BitVec.ofNat 32 (leBytes s.mem.get (a + 64 + 4 * (w * x.2 + i)) 4)))
  { s with rgs := Vector.ofFn fun r =>
      let x := s.rg r
      let mine := entries.filter fun y => serves p pl.stages id y.1 == some r.val
      if holds && !mine.isEmpty then
        { x with nyala := { x.nyala with
            ctxs := smSet x.nyala.ctxs id (Ctx.take {} sig mine) } }
      else { x with nyala := { x.nyala with ctxs := smErase x.nyala.ctxs id } } }

/-- Every item of quarter 3 goes into its live place. -/
def State.installPrivate (s : State) (p : Package) (pl : Placement) : State :=
  let a := s.glob.quarter 3
  let at_ (o n : Nat) := s.mem.bytes (a + o) n
  let h0 := imageHead + 512
  let t := s.onHlt fun h =>
    { h with
      cursor := Vector.ofFn fun i => s.mem.word (a + imageHead + 8 * i.val)
      window := (List.range 1024).map fun i => sampleOf (at_ (h0 + 64 * i) 64)
      log := (List.range 256).map fun i => levelLogOf (at_ (h0 + 65536 + 32 * i) 32) }
  let t := (factorOffsets p).foldl (fun t x =>
    let b := pl.area 0 x.1
    let n := x.2.1
    t.svcWrite (writesAt b (at_ x.2.2 (8 * n * n)) ++ writesAt (b + 256 * slvBlocks (n * n)) (at_ (x.2.2 + 8 * n * n) (slvBlocks (n * n))))) t
  (contextOffsets p pl.stages).foldl (fun t x => t.installCtx p pl (a + x.2.2) x.1 x.2.1) t

/-- RESTORE_COMMIT. -/
def State.restoreCommit (s : State) (port : HPort) (tag : BitVec 16) : State :=
  match s.placed with
  | some (p, pl) =>
    if s.hlt.rcv = 1 ∧ s.hlt.sharedDone ∧ s.hlt.privateDone then
      let t := s.installPrivate p pl
      let n := s.hlt.rcvStep + 1
      ((t.onHlt fun h => { h with rcv := 2, lastStatus := 0 }).onRun fun r => { r with crvStep := n }).finish port tag { words := [n.zeroExtend 64] }
    else s.finish port tag (rejected 0)
  | none => s.finish port tag (rejected 0)

/-- VERIFY_START: chunks of the shared image against a peer, the partner by default. -/
def State.verifyStart (s : State) (port : HPort) (tag : BitVec 16) (w : Word) : State :=
  match s.placed with
  | none => s.finish port tag (rejected 0)
  | some (p, pl) =>
    if s.fab.verify.isSome then s.finish port tag rejectedBusy
    else if s.run.step.isSome || !s.fab.valid then s.finish port tag (rejected 0)
    else
      let named := w.extractLsb' 0 24
      let peer := if named = 0 then s.fab.partnerAddr 0 else withEp named 0
      let v : Verify := { port := port, tag := tag, peer := peer, step := s.lastStep, chunks := (chunksIn (s.sharedImage p pl).length).length }
      if v.chunks = 0 then s.endVerify v else s.onFab fun f => { f with verify := some v }

end Sys2Proof.Machine
end

