-- ==== Sys2Proof/Machine/Txn.lean ====
section
/-! DEFINITION. Configuration transactions (14 R521 to R526): settable registers, their checks, and how staged words are
applied. -/
namespace Sys2Proof.Machine

/-! ### Settable registers (R522) -/

/-- An address that its chapter says is written through CFG_SET. -/
def settable (a : Nat) : Bool :=
  match regAt a with
  | .format i _ => decide (32 ≤ i)
  | .crv off => off == 0
  | .partition _ off => off == 0x18
  | .memory off => off == 0 || off == 8
  | .fabric off => [0, 8, 0x10, 0x18, 0x20, 0x28].contains off
  | .route off => routeByte (off % 0x800)
  | .health off => [0, 0x10, 0x28, 0x40].contains off
  | _ => false

/-- One word of a descriptor replaced. -/
def descWith (d : Desc) (k : Nat) (w : Word) : Desc :=
  BitVec.ofNat 256 (d.toNat - fld d (64 * k) 64 * 2 ^ (64 * k) + w.toNat * 2 ^ (64 * k))

/-- The bits that an entry of a route bank has: PORT and VALID of a table entry, or of a partner entry (R436); the others are
reserved (R21). -/
def routeBits (off : Nat) : Byte := if 0x600 ≤ off then 0x09 else 0x0F

/-- Eight route bytes of a bank. -/
def Fabric.setRoutes (f : Fabric) (off : Nat) (w : Word) : Fabric :=
  let o := off % 0x800
  let g (m : SMap Byte) : SMap Byte :=
    (List.range 8).foldl (fun m i => smPut 0 m (o + i) (BitVec.ofNat 8 (fld w (8 * i) 8) &&& routeBits (o + i))) m
  { f with banks := if off < 0x800 then f.banks.set 0 (g f.banks[0]) else f.banks.set 1 (g f.banks[1]) }

/-- The RW, RWS and WO fields of a register take a value; WO fields and what follows from a value act when the
transaction has been applied. -/
def State.setWord (s : State) (a : Nat) (w : Word) : State :=
  match regAt a with
  | .format i k =>
    if h : 32 ≤ i ∧ i < 64 then
      { s with glob := { s.glob with custom := s.glob.custom.set (i - 32) (descWith s.glob.custom[i - 32] k w) } }
    else s
  | .crv _ =>
    s.onRun fun r =>
      { r with statsEn := w.getLsbD 0, rootsEn := w.getLsbD 1, jacobiEn := w.getLsbD 2, itersOverride := w.extractLsb' 16 6 }
  | .partition p _ => s.onPart p fun x => { x with scrubEn := w.getLsbD 0, scrubGap := w.extractLsb' 8 16 }
  | .memory off =>
    if off = 0 then
      { s with glob := { s.glob with hbmStripe := w.extractLsb' 0 6, farStripe := w.extractLsb' 16 9, snap := w.extractLsb' 32 10 } }
    else
      { s with glob := { s.glob with
          hostRate := w.extractLsb' 0 11, svcRate := w.extractLsb' 16 11, hostBurst := w.extractLsb' 32 11, svcBurst := w.extractLsb' 48 11 } }
  | .fabric off =>
    s.onFab fun f =>
      if off = 0 then
        { f with replica := w.getLsbD 0, x := w.extractLsb' 8 5, y := w.extractLsb' 16 5, z := w.extractLsb' 24 4, valid := w.getLsbD 31 }
      else if off = 8 then { f with xn := w.extractLsb' 0 6, yn := w.extractLsb' 8 6, zn := w.extractLsb' 16 5, mirror := w.getLsbD 24 }
      else if off = 0x10 then { f with dateline := w.truncate 8 }
      else if off = 0x18 then { f with ep := w.getLsbD 0, rtr := w.getLsbD 1 }
      else if off = 0x20 then { f with standbyGen := w.extractLsb' 32 16 }
      else f
  | .route off => s.onFab (·.setRoutes off w)
  | .health off =>
    s.onHlt fun h =>
      if off = 0 then { h with pairEn := w.getLsbD 0 }
      else if off = 0x10 then { h with feedOvr := w.extractLsb' 0 48, feedOvrValid := w.getLsbD 63 }
      else if off = 0x28 then { h with t1 := w.extractLsb' 0 8, t2 := w.extractLsb' 8 8, t3 := w.extractLsb' 16 8 }
      else { h with maxSteps := w.extractLsb' 0 16, mirrorEvery := w.extractLsb' 16 16 }
  | _ => s

/-- The module as it would stand with the staged words set. -/
def State.withStaged (s : State) (ws : List StagedWord) : State := ws.foldl (fun s w => s.setWord w.addr w.value) s

/-! ### Checks (R522) -/

/-- An entry byte of table d on an input that R437 refuses: another dimension's port, or a reversal. -/
def routeBad (off : Nat) (b : Byte) : Bool :=
  let o := off % 0x800
  let p := fld b 0 3
  let input := o / 0x80
  let d := o % 0x80 / 0x20
  b.getLsbD 3 && decide (o < 0x480) && (decide (p ≠ 2 * d ∧ p ≠ 2 * d + 1) || (decide (input = 2 * d) && decide (p = 2 * d))
    || (decide (input = 2 * d + 1) && decide (p = 2 * d + 1)))

/-- A value breaks a field rule; `t` is the staged image (DETAIL 0x0002). -/
def State.fieldBad (s t : State) (a : Nat) (w : Word) : Bool :=
  match regAt a with
  | .format i _ => !(t.glob.custom[i - 32]?).all descOk
  | .memory off =>
    if off = 0 then
      decide (47 < t.glob.hbmStripe.toNat) || decide (383 < t.glob.farStripe.toNat) || decide (t.glob.farStripe.toNat < t.glob.snap.toNat)
    else
      decide (1024 < t.glob.hostRate.toNat + t.glob.svcRate.toNat) || t.glob.hostBurst == 0 || t.glob.svcBurst == 0
  | .partition p _ => (t.part p).scrubGap == 0
  | .fabric off =>
    if off = 8 then
      let f := t.fab
      f.xn == 0 || decide (32 < f.xn.toNat) || f.yn == 0 || decide (32 < f.yn.toNat) || f.zn == 0 || decide (16 < f.zn.toNat)
    else if off = 0x20 then t.fab.standbyGen == 0 || t.fab.standbyGen == s.fab.activeGen
    else false
  | .route off => (List.range 8).any fun i => routeBad (off + i) (BitVec.ofNat 8 (fld w (8 * i) 8))
  | .health off => off == 0x28 && !(decide (t.hlt.t1.toNat < t.hlt.t2.toNat) && decide (t.hlt.t2.toNat < t.hlt.t3.toNat))
  | _ => false

/-- Descriptor indices that a package uses. -/
def Package.usesFormat (p : Package) (i : Nat) : Bool := p.tensors.any (·.fmt == i) || p.formats.any (·.1 == i)

/-- A state condition fails (DETAIL 0x0003): R106, R388, R442, R444, R467, R488. -/
def State.stateBad (s : State) (a : Nat) (w : Word) : Bool :=
  match regAt a with
  | .format i k => decide (descWord (s.desc i) k ≠ w) && s.run.graph.any fun g => g.pkg.usesFormat i
  | .memory off => off == 0 && s.run.graph.isSome
  | .fabric off =>
    if off = 0 then s.run.graph.isSome
    else if off = 0x18 then !w.getLsbD 0 && (s.hlt.rcv == 1 || s.hlt.rcv == 2 || s.hlt.rcv == 4)
    else false
  | .route off => (decide (0x800 ≤ off) == s.fab.cur) || s.fab.readyFor.isSome
  | _ => false

/-- The DETAIL of a word under the staged image, 0 when it passes. -/
def State.wordDetail (s t : State) (w : StagedWord) : Nat :=
  if !settable w.addr then 1 else if s.fieldBad t w.addr w.value then 2 else if s.stateBad w.addr w.value then 3 else 0

/-- The words that a CFG_SET stages. -/
def stagedOf (a : Nat) (vs : List Word) : List StagedWord := vs.zipIdx.map fun v => { addr := a + 8 * v.2, value := v.1 }

/-- The DETAIL of a CFG_SET, 0 when it is staged. -/
def State.setDetail (s : State) (x : Txn) (w : Word) (vs : List Word) : Nat :=
  let a := fld w 0 48
  let n := fld w 48 8
  if x.commit.isSome then 6
  else if n = 0 ∨ 32 < n then 4
  else if !settable a then 1
  else
    let ws := stagedOf a vs
    if ws.any fun y => !settable y.addr then 4
    else
      let t := s.withStaged (x.staged ++ ws)
      let ds := ws.map (s.wordDetail t)
      if ds.contains 2 then 2 else if ds.contains 3 then 3 else 0

/-! ### Applying (R524) -/

/-- What follows from words that have been set (R388, R442, R475, R487). -/
def State.afterSet (s t : State) (ws : List StagedWord) : State :=
  let wrote (a : Nat) : Bool := ws.any fun w => w.addr == regsBase + a
  let (n, t) := t.draw
  let t := if s.glob.hbmStripe = t.glob.hbmStripe then t else { t with mem := t.mem.fill 0 hbmEnd (some n) }
  let (n, t) := t.draw
  let t := if s.glob.farStripe = t.glob.farStripe then t else { t with mem := t.mem.fill farBase (farEnd - farBase) (some n) }
  let t := if wrote 0x4000020 then t.onFab fun f => { f with standbyLoaded := true } else t
  let t := if wrote 0x4000018 && !t.fab.ep then t.onHlt fun h => { h with rcv := 5 } else t
  t.repair

/-- WO fields act last (R377, R443, R444, R447). -/
def State.writeOnly (s : State) (w : StagedWord) : State :=
  match regAt w.addr with
  | .crv _ => if w.value.getLsbD 3 then s.onRun fun r => { r with forcePending := true } else s
  | .fabric off =>
    if off = 0x28 then
      let t := if w.value.extractLsb' 0 16 = 0 then s else s.epochSwitch (w.value.extractLsb' 0 16) false
      if w.value.getLsbD 16 then t.epochSwitch 0 true else t
    else s
  | _ => s

/-- The staged words take effect in the order of their CFG_SETs; the transaction is closed. -/
def State.applyTxn (s : State) (x : Txn) : State :=
  let t := s.afterSet (s.withStaged x.staged) x.staged
  { x.staged.foldl State.writeOnly t with txn := none }

/-- No step runs, and no GRAPH_LOAD is placing. -/
def State.canApply (s : State) : Bool :=
  s.run.step.isNone && !s.run.stopping && match s.run.placing with
    | some (.load _ _ _) => false
    | _ => true

/-- A committing transaction is applied later than at its commit (R524). -/
def State.applyLate (s : State) : State :=
  match s.txn with
  | some x =>
    (match x.commit with
     | some tag =>
       let q := s.port x.owner
       let host := (((q.outstanding ++ q.orphans).find? (·.id == tag)).map (·.tag)).getD 0
       ((s.applyTxn x).finish x.owner tag { words := [1] }).event fromMarkhor 0x40 [packBits [(host.toNat, 0), (x.owner.val, 16)]]
     | none => s)
  | none => s

/-- CFG_APPLY. -/
def execCfgApply (s : State) : Res := .next (if s.canApply then s.applyLate else s)

/-- An open transaction that is not committing rolls back (R525). -/
def State.rollback (s : State) (cause : Nat) : State :=
  match s.txn with
  | some x =>
    if x.commit.isSome then s
    else { s with txn := none }.event fromMarkhor 0x41 [packBits [(cause, 0), (x.owner.val, 16)]]
  | none => s

/-- The transaction of a port rolls back. -/
def State.rollbackOf (s : State) (p : HPort) (cause : Nat) : State := if s.txn.any (·.owner == p) then s.rollback cause else s

/-- CFG_IDLE_TIMEOUT. -/
def execCfgIdleTimeout (s : State) : Res := .next (s.rollback 1)

/-! ### Commands (R521, R524) -/

def rejectedNoTxn : Reply := rejected 5

/-- What bars a port from the open transaction. -/
def State.notMine (s : State) (p : HPort) : Option Reply :=
  match s.txn with
  | none => some rejectedNoTxn
  | some x => if x.owner = p then none else some rejectedTxn

def State.cfgBegin (s : State) (port : HPort) (tag : BitVec 16) : State :=
  if s.txn.isSome then s.finish port tag rejectedTxn else { s with txn := some { owner := port } }.finish port tag done

def State.cfgSet (s : State) (port : HPort) (tag : BitVec 16) (ws : List Word) : State :=
  match s.notMine port, s.txn with
  | none, some x =>
    let w := ws.headD 0
    let d := s.setDetail x w ws.tail
    if d ≠ 0 then s.finish port tag (rejected d)
    else { s with txn := some { x with staged := x.staged ++ stagedOf (fld w 0 48) ws.tail } }.finish port tag done
  | some r, _ => s.finish port tag r
  | none, none => s

/-- The first staged word that fails now: its DETAIL and address. -/
def State.firstBad (s : State) (x : Txn) : Option (Nat × Nat) :=
  let t := s.withStaged x.staged
  x.staged.findSome? fun w => let d := s.wordDetail t w; if d = 0 then none else some (d, w.addr)

def State.cfgCommit (s : State) (port : HPort) (tag : BitVec 16) : State :=
  match s.notMine port, s.txn with
  | none, some x =>
    if x.commit.isSome then s.finish port tag (rejected 6)
    else
      match s.firstBad x with
      | some (d, a) =>
        ({ s with txn := none }.event fromMarkhor 0x41 [packBits [(5, 0), (port.val, 16)]]).finish port tag
          { status := 0x12, detail := d, words := [BitVec.ofNat 64 a] }
      | none =>
        if s.canApply then (s.applyTxn x).finish port tag { words := [1] }
        else { s with txn := some { x with commit := some tag } }
  | some r, _ => s.finish port tag r
  | none, none => s

def State.cfgRollback (s : State) (port : HPort) (tag : BitVec 16) : State :=
  match s.notMine port, s.txn with
  | none, some x => if x.commit.isSome then s.finish port tag (rejected 6) else { s with txn := none }.finish port tag done
  | some r, _ => s.finish port tag r
  | none, none => s

def State.cfgStatus (s : State) (port : HPort) (tag : BitVec 16) : State :=
  s.finish port tag { words := [match s.txn with
    | some x => packBits [(1, 0), (b2n x.commit.isSome, 1), (x.owner.val, 2), (x.staged.length / 8 % 256, 8)]
    | none => 0] }

end Sys2Proof.Machine
end

