-- ==== Sys2Proof/Machine/HostExec.lean ====
section
/-! DEFINITION. The meanings of the host commands of classes 0x01, 0x02 and 0x04 to 0x07 (14 R515 to R532). -/
namespace Sys2Proof.Machine

/-- Payload word i, counted from 1 (R507). -/
def arg (ws : List Word) (i : Nat) : Word := ws.getD (i - 1) 0

/-- A payload value outside the range that its command states is refused without a DETAIL (log entry 37). -/
def rejectedRange : Reply := rejected 0

/-! ### Configuration transactions (R521 to R524) -/

def execCfgBegin (c : HostCmd) (s : State) : Res := hostCmd 0x101 c (fun s p id _ => s.cfgBegin p id) s
def execCfgSet (c : HostCmd) (s : State) : Res := hostCmd 0x102 c (fun s p id ws => s.cfgSet p id ws) s
def execCfgCommit (c : HostCmd) (s : State) : Res := hostCmd 0x103 c (fun s p id _ => s.cfgCommit p id) s
def execCfgRollback (c : HostCmd) (s : State) : Res := hostCmd 0x104 c (fun s p id _ => s.cfgRollback p id) s
def execCfgStatus (c : HostCmd) (s : State) : Res := hostCmd 0x105 c (fun s p id _ => s.cfgStatus p id) s

/-! ### Registers (R520) -/

/-- The domain that a register's block is supplied by, where it is a switched one (R575). -/
def RegAt.domain : RegAt → Option Nat
  | .region r _ => some r.val
  | .cluster c _ => some (c.val / 16)
  | .partition p _ => some (24 + p.val)
  | .link p _ => some (40 + p.val)
  | _ => none

/-- The live value of a register; a block whose supply is off reads as 0 (R584). -/
def State.liveReg (s : State) (a : Nat) : Option Word :=
  let off := (regAt a).domain.any fun d => !s.pwr.domains.getLsbD d && !s.pwr.retention.getLsbD d
  (s.readReg a).map fun w => if off then 0 else w

/-- REG_READ: count consecutive registers. -/
def State.regRead (s : State) (p : HPort) (id : BitVec 16) (ws : List Word) : State :=
  let a := fld (arg ws 1) 0 48
  let n := fld (arg ws 1) 48 8
  if n = 0 ∨ 32 < n then s.finish p id rejectedRange
  else
    let vs := (List.range n).map fun i => s.liveReg (a + 8 * i)
    if vs.any Option.isNone then s.finish p id (rejected 1) else s.finish p id { words := vs.filterMap fun v => v }

def execRegRead (c : HostCmd) (s : State) : Res := hostCmd 0x110 c State.regRead s

/-- STAT_CLEAR: the mask goes to every W1C field of one register. -/
def State.statClear (s : State) (p : HPort) (id : BitVec 16) (ws : List Word) : State :=
  let a := (arg ws 1).toNat
  if (s.readReg a).isNone then s.finish p id (rejected 1)
  else match s.clearReg a (arg ws 2) with
    | some t => t.finish p id done
    | none => s.finish p id (rejected 2)

def execStatClear (c : HostCmd) (s : State) : Res := hostCmd 0x111 c State.statClear s

/-! ### Graphs and steps (R516 to R518) -/

def execGraphLoad (c : HostCmd) (s : State) : Res :=
  hostCmd 0x201 c (fun s p id ws => s.graphLoad p id (fld (arg ws 1) 0 48) (fld (arg ws 2) 0 48)) s
def execGraphUnload (c : HostCmd) (s : State) : Res := hostCmd 0x202 c (fun s p id _ => s.graphUnload p id) s

/-- PLACE_REPORT: 1 to 65,532 words. -/
def State.placeReportCmd (s : State) (p : HPort) (id : BitVec 16) (ws : List Word) : State :=
  let n := fld (arg ws 2) 0 16
  if s.placed.isSome ∧ (n = 0 ∨ 65532 < n) then s.finish p id rejectedRange else s.placeReport p id (fld (arg ws 1) 0 32) n

def execPlaceReport (c : HostCmd) (s : State) : Res := hostCmd 0x203 c State.placeReportCmd s

/-- STEP_RUN: N steps are added to the budget. A step that runs already is none of the N (log entry 39). -/
def State.stepRunCmd (s : State) (p : HPort) (id : BitVec 16) (ws : List Word) : State :=
  let n := fld (arg ws 1) 0 32
  if s.placed.isNone then s.finish p id (rejected 1)
  else if s.hlt.rcv ≠ rcvNormal then s.finish p id (rejected 2)
  else if n = 0 then s.finish p id rejectedRange
  else s.onRun fun r =>
    { r with budget := satAdd r.budget n, waits := r.waits ++ [{ port := p, tag := id, left := n + b2n r.step.isSome }] }

def execStepRun (c : HostCmd) (s : State) : Res := hostCmd 0x210 c State.stepRunCmd s

/-- The budget is set to zero; a STEP_RUN whose last step is the one that runs is not cut short. -/
def State.haltSteps (s : State) : State :=
  let stays (w : StepWait) : Bool := s.run.step.isSome && w.left == 1
  (s.onRun fun r => { r with budget := 0, waits := r.waits.filter stays }).cutWaits (s.run.waits.filter fun w => !stays w)

def execStepHalt (c : HostCmd) (s : State) : Res := hostCmd 0x211 c (fun s p id _ => s.haltSteps.finish p id done) s

/-- QUIESCE: at the boundary of the step that runs, or at once. -/
def State.quiesceCmd (s : State) (p : HPort) (id : BitVec 16) (ws : List Word) : State :=
  let now := (arg ws 1).getLsbD 0
  if now || s.run.step.isNone then
    ((if now then s.cutSteps else s.haltSteps).onRun fun r =>
      { r with quiescing := r.quiescing ++ [{ port := p, tag := id, immediate := true }] }).quiesceNow
  else s.haltSteps.onRun fun r => { r with quiescing := r.quiescing ++ [{ port := p, tag := id }] }

def execQuiesce (c : HostCmd) (s : State) : Res := hostCmd 0x212 c State.quiesceCmd s

/-! ### Solver problems (R300 to R302, R327) -/

def execSlvProblemLoad (c : HostCmd) (s : State) : Res :=
  hostCmd 0x401 c (fun s p id ws => s.slvProblemLoad p id (fld (arg ws 1) 0 6) ws.tail) s
def execSlvProblemInfo (c : HostCmd) (s : State) : Res :=
  hostCmd 0x402 c (fun s p id ws => s.slvProblemInfo p id (fld (arg ws 1) 0 6)) s
def execSlvContextClear (c : HostCmd) (s : State) : Res :=
  hostCmd 0x403 c (fun s p id ws => s.slvContextClear p id (fld (arg ws 1) 0 6)) s

/-! ### Snapshots and restores (R489, R493) -/

def execCursorSet (c : HostCmd) (s : State) : Res := hostCmd 0x501 c (fun s p id ws => s.cursorSet p id ws) s
def execSnapNow (c : HostCmd) (s : State) : Res := hostCmd 0x502 c (fun s p id _ => s.snapNowCmd p id) s
def execSnapMirrorBuf (c : HostCmd) (s : State) : Res :=
  hostCmd 0x503 c (fun s p id ws => s.snapMirrorBuf p id (arg ws 1) (arg ws 2)) s
def execRestoreBegin (c : HostCmd) (s : State) : Res := hostCmd 0x510 c (fun s p id _ => s.restoreBegin p id) s
def execFillSend (c : HostCmd) (s : State) : Res := hostCmd 0x511 c (fun s p id ws => s.fillSend p id (arg ws 1)) s
def execRestorePrivateHost (c : HostCmd) (s : State) : Res :=
  hostCmd 0x512 c (fun s p id ws => s.restorePrivateHost p id (arg ws 2)) s
def execRestoreCommit (c : HostCmd) (s : State) : Res := hostCmd 0x513 c (fun s p id _ => s.restoreCommit p id) s
def execVerifyStart (c : HostCmd) (s : State) : Res := hostCmd 0x514 c (fun s p id ws => s.verifyStart p id (arg ws 1)) s

/-! ### Events (R528, R530, R532) -/

/-- A record as its eight words (R528). -/
def EventRec.words (e : EventRec) : List Word :=
  [e.seq, e.d1, e.d2, e.d3, e.d4, e.d5, packBits [(e.code.toNat, 0), (e.status.toNat, 16), (e.kind.toNat, 32), (e.index.toNat, 40)],
   packBits [(e.ticks.toNat, 0), (e.island.toNat, 48)]]

/-- EVT_READ: records in EVT_SEQ order; those that have left the log make the answer partial. -/
def State.evtRead (s : State) (p : HPort) (id : BitVec 16) (ws : List Word) : State :=
  let first := max 1 (arg ws 1).toNat
  let n := fld (arg ws 2) 0 7
  let log := s.events.reverse
  let oldest := ((log.head?).map fun e => e.seq.toNat).getD s.evtSeq.toNat
  if n = 0 ∨ 64 < n then s.finish p id rejectedRange
  else
    let rs := (log.filter fun e => decide (first ≤ e.seq.toNat)).take n
    s.finish p id
      { status := b2n (!log.isEmpty && decide (first < oldest))
        words := [BitVec.ofNat 64 oldest, BitVec.ofNat 64 rs.length] ++ rs.flatMap EventRec.words }

def execEvtRead (c : HostCmd) (s : State) : Res := hostCmd 0x601 c State.evtRead s

/-- EVT_MASK. -/
def State.evtMaskCmd (s : State) (p : HPort) (id : BitVec 16) (ws : List Word) : State :=
  (s.onPort p fun q => { q with evtMask := BitVec.ofNat 256 (bytesWord (wordBytes (ws.take 4))) }).finish p id done

def execEvtMask (c : HostCmd) (s : State) : Res := hostCmd 0x602 c State.evtMaskCmd s

/-! ### Counters (R611, R612) -/

def execCntRead (c : HostCmd) (s : State) : Res := hostCmd 0x701 c (fun s p id ws => s.cntRead p id (arg ws 1)) s
def execCntClear (c : HostCmd) (s : State) : Res := hostCmd 0x702 c (fun s p id ws => s.cntClear p id (arg ws 1)) s

end Sys2Proof.Machine
end

