-- ==== Sys2Proof/Machine/Security.lean ====
section
/-! DEFINITION. Images, firmware sessions, identity, attestation and debug unlock (15 R540 to R571): the meanings of the
commands of classes 0x0E and 0x0F. -/
namespace Sys2Proof.Machine

/-! ### Images (R541 to R547) -/

/-- The kinds of R542 in order. -/
def kinds : List Nat := [1, 2, 3, 4, 5, 6, 7, 8, 15]

/-- Bytes an image may have (R542). -/
def imageMax : Nat := 2 ^ 25

def bankIx (b : Bool) : Fin 2 := if b then 1 else 0

/-- A byte of an image of a bank. -/
def Bank.byte (x : Bank) (kind off : Nat) : Byte :=
  (smFind x.images (kind * imageMax + off)).getD (if x.factory then Config.flashByte kind off else 0xFF)

def Bank.num (x : Bank) (kind off n : Nat) : Nat := leBytes (x.byte kind) off n

/-- How far an image has been written; a maker's image fills its area (R546). -/
def Bank.extent (x : Bank) (kind : Nat) : Nat :=
  if x.factory then imageMax
  else (x.images.filter fun w => w.1 / imageMax == kind).foldl (fun n w => max n (w.1 % imageMax + 1)) 0

/-- LENGTH of an image, and all its bytes: header, payload, padding, signature block (R543, R544). -/
def Bank.payload (x : Bank) (kind : Nat) : Nat := x.num kind 16 8
def Bank.total (x : Bank) (kind : Nat) : Nat := 64 + (x.payload kind + 7) / 8 * 8 + 5360
def Bank.image (x : Bank) (kind : Nat) : List Byte := (List.range (x.total kind)).map (x.byte kind)

/-- VERSION of an image (R543). -/
def Bank.version (x : Bank) (kind : Nat) : Nat := x.num kind 8 4

/-- A field of the manifest's payload (R545). -/
def Bank.manifest (x : Bank) (off n : Nat) : Nat := x.num 15 (64 + off) n

def Bank.present (x : Bank) (kind : Nat) : Bool :=
  x.num kind 0 4 == 0x4B494D47 && x.num kind 4 1 == kind && decide (x.total kind ≤ imageMax) && decide (x.total kind ≤ x.extent kind)

/-- The image-signing slot of an image may be used: the slot is not revoked, and the bank's own mask does not name it. -/
def Security.slotOk (x : Security) (b : Bank) (kind : Nat) : Bool :=
  let n := b.num kind 5 1
  decide (n < 4) && !x.revoked.getLsbD n && !(b.manifest 4 2).testBit n

/-- The first combination of the manifest that the images' versions equal (R545). -/
def Bank.combination (x : Bank) : Option Nat :=
  (List.range (min 256 (x.manifest 6 2))).find? fun c => (List.range 8).all fun k => x.manifest (16 + 40 * c + 4 * k) 4 == x.version (k + 1)

/-- FEATURE_LEVEL of the bank (R546). -/
def Bank.feature (x : Bank) : Nat := (x.combination.map fun c => x.manifest (16 + 40 * c + 32) 2).getD 0

/-- Descriptor i of the format section (R547). -/
def Bank.format (x : Bank) (i : Nat) : Desc := BitVec.ofNat 256 (x.num 4 (64 + 8 + 32 * i) 32)

def Bank.formatsOk (x : Bank) : Bool :=
  x.num 4 64 1 == 0x20 && decide (8 + 32 * 32 ≤ x.payload 4) && (List.range 32).all fun i => x.format i == 0 || descOk (x.format i)

/-- Why a bank is not consistent, in the order of R546: REASON and the kind concerned. -/
def Security.inconsistent (x : Security) (b : Bank) : Option (Nat × Nat) :=
  match kinds.find? fun k => !b.present k with
  | some k => some (1, k)
  | none =>
    match kinds.find? fun k => !x.slotOk b k with
    | some k => some (2, k)
    | none =>
      match kinds.find? fun k => !Config.sigVerifies (b.image k) (b.num k 5 1) with
      | some k => some (3, k)
      | none =>
        if b.combination.isNone then some (4, 15)
        else if b.manifest 1 1 ≠ 0x43 ∨ b.manifest 2 1 ≠ 0xB1 ∨ b.manifest 3 1 ≠ 0xA2 then some (5, 15)
        else if b.manifest 0 1 < x.svn then some (6, 15)
        else if !b.formatsOk then some (7, 4)
        else none

/-- The status of a REASON (R546). -/
def reasonStatus (reason : Nat) : Nat := if reason = 2 ∨ reason = 3 then 0x61 else 0x60

def Security.bankAt (x : Security) (b : Bool) : Bank := x.banks[bankIx b]
def Security.onBank (x : Security) (b : Bool) (f : Bank → Bank) : Security :=
  { x with banks := x.banks.set (bankIx b) (f x.banks[bankIx b]) }

/-! ### Debug scopes (R563, R567) -/

/-- Every scope closes; a Tahr that EBREAK halted ends its task FAULTED with cause 1 when scope 0 does. -/
def State.closeScopes (s : State) : State :=
  let t := s.onSec fun x => { x with debugOpen := 0 }
  if s.sec.debugOpen.getLsbD 0 then
    (List.finRange 384).foldl (fun t c =>
      if (s.cl c).tahr.wait = some .debug then
        match (s.cl c).kernelFiring with
        | some f => t.faultFiring c f 1
        | none => t
      else t) t
  else t

/-- What every reset of any kind does: one more reset on the challenge record, and no scope open (R566, R567). -/
def State.anyReset (s : State) : State :=
  s.closeScopes.onSec fun x => { x with challenge := x.challenge.map fun c => { c with resets := satAdd c.resets 1 } }

/-- DEBUG_LOCK. -/
def State.debugLock (s : State) (p : HPort) (id : BitVec 16) : State :=
  ((s.closeScopes.onSec fun x => { x with challenge := none }).event fromMarkhor 0xC5 [packBits [(p.val, 16)]]).finish p id done

def execDebugLock (c : HostCmd) (s : State) : Res := hostCmd 0xE04 c (fun s p id _ => s.debugLock p id) s

/-- The bytes of a number as words. -/
def uidWords : List Word := [Config.uid.truncate 64, Config.uid.extractLsb' 64 64]

/-- UNLOCK_CHALLENGE (R564). -/
def State.unlockChallenge (s : State) (p : HPort) (id : BitVec 16) : State :=
  let (n, s) := s.draw
  let nonce := Config.randomNonce n
  let slots := BitVec.ofNat 64 (3 - fld s.sec.revoked 4 2)
  (s.onSec fun x => { x with challenge := some { nonce := nonce } }).finish p id
    { words := (List.range 4).map (fun i => BitVec.ofNat 64 (fld nonce (64 * i) 64)) ++ uidWords ++ [slots] }

def execUnlockChallenge (c : HostCmd) (s : State) : Res := hostCmd 0xE02 c (fun s p id _ => s.unlockChallenge p id) s

/-- A failed check of a token (R566). -/
def State.tokenFails (s : State) (p : HPort) (id : BitVec 16) (status detail : Nat) : State :=
  let c := s.sec.challenge.map fun c => { c with fails := c.fails + 1 }
  let fails := (c.map fun c => c.fails.toNat).getD 0
  ((s.onSec fun x => { x with challenge := if 4 ≤ fails then none else c }).event fromMarkhor 0xC6
    [packBits [(detail, 0), (fails, 16)]] status).finish p id { status := status, detail := detail }

/-- UNLOCK_TOKEN (R565, R566). -/
def State.unlockToken (s : State) (p : HPort) (id : BitVec 16) (ws : List Word) : State :=
  let bs := wordBytes ws
  let f (off n : Nat) : Nat := bytesWord ((bs.drop off).take n)
  let slot := f 6 1
  let scope := BitVec.ofNat 16 (f 56 2)
  match s.sec.challenge with
  | none => s.tokenFails p id 0x12 1
  | some c =>
    if 2 ≤ slot ∨ s.sec.revoked.getLsbD (4 + slot) ∨ !Config.sigVerifies bs (16 + slot) then s.tokenFails p id 0x61 0
    else if f 8 16 ≠ Config.uid.toNat ∨ f 24 32 ≠ c.nonce.toNat then s.tokenFails p id 0x12 2
    else if f 58 1 < c.resets.toNat then s.tokenFails p id 0x12 3
    else if scope.extractLsb' 6 10 ≠ 0 ∨ (scope.getLsbD 5 ∧ s.run.graph.isSome) then s.tokenFails p id 0x12 4
    else
      let t := s.onSec fun x => { x with debugOpen := x.debugOpen ||| scope, sinceBoot := x.sinceBoot ||| scope }
      (t.event fromMarkhor 0xC4 [packBits [(t.sec.debugOpen.toNat, 0), (p.val, 16)]]).finish p id done

def execUnlockToken (c : HostCmd) (s : State) : Res := hostCmd 0xE03 c State.unlockToken s

/-! ### Identity (R568, R569) -/

def partNumber : List Byte := [0x4B, 0x54, 0x58, 0x39, 0x2D, 0x4D, 0x33, 0x38, 0x34]

/-- IDENT word 4. -/
def Security.identWord (x : Security) : Word :=
  packBits [(0x43, 0), (0xB1, 8), (0xA2, 16), (Config.romVersion.toNat, 24), (x.boot.code, 32), (bankCode x.bank, 36), (x.svn, 40),
    (if x.bank.isSome then x.featureLevel.toNat else 0, 48)]

/-- VERSION of a kind in the running bank, 0 with none running. -/
def Security.version (x : Security) (kind : Nat) : Nat := match x.bank with
  | some b => (x.bankAt b).version kind
  | none => 0

def State.identWords (s : State) : List Word :=
  let x := s.sec
  bytesWords 2 (partNumber ++ List.replicate 7 0) ++ [x.identWord] ++ uidWords
  ++ (List.range 4).map (fun i => packBits [(x.version (2 * i + 1), 0), (x.version (2 * i + 2), 32)])
  ++ [packBits [(x.version 15, 0), (x.cnt[0].toNat, 32), (x.cnt[1].toNat, 40), (bankCode (some x.preferred), 48), (b2n x.bootable[0], 50),
        (b2n x.bootable[1], 51)], x.debugOpen.zeroExtend 64]

def execIdent (c : HostCmd) (s : State) : Res := hostCmd 0xF01 c (fun s p id _ => s.finish p id { words := s.identWords }) s

/-- IDENT_FUSEMAP. -/
def State.fuseWords (s : State) : List Word :=
  (List.finRange 24).map fun r =>
    packBits [((Config.fuseMap r.val).toNat, 0), ((clustersOf r).foldl (fun n c => if s.fenced.contains c then n + 2 ^ (c.val % 16) else n) 0, 32)]

def execIdentFusemap (c : HostCmd) (s : State) : Res := hostCmd 0xF02 c (fun s p id _ => s.finish p id { words := s.fuseWords }) s

/-! ### Attestation (R559 to R562) -/

/-- So many bytes of a free list. -/
def freeBytes (n : Nat) (bs : List Byte) : List Byte := (List.range n).map fun i => bs.getD i 0

/-- A signature block: free keys and signatures, three zero bytes (R544). -/
def signature (body : List Byte) (key : Nat) : List Byte := freeBytes 5357 (Config.sigBlock body key) ++ [0, 0, 0]

/-- The nine image measurements (R559). -/
def State.measurements (s : State) : List Byte :=
  kinds.flatMap fun k => match s.sec.bank with
    | some b => sha3 ((s.sec.bankAt b).image k)
    | none => List.replicate 32 0

/-- M of R559, as it was when INIT derived the keys; an advance at READY (R558) changes it at the next boot only. -/
def State.measure (s : State) : List Byte :=
  sha3 (s.measurements ++ [BitVec.ofNat 8 (bankCode s.sec.bank), BitVec.ofNat 8 s.sec.keySvn])

/-- A certificate of R560: kind 1 identity, 2 attestation. -/
def State.certificate (s : State) (kind : Nat) : List Byte :=
  let m := if kind = 2 then s.measure else List.replicate 32 0
  let body := bytesOf 4 0x4B434552 ++ bytesOf 2 kind ++ bytesOf 2 1 ++ bytesOf 16 Config.uid.toNat ++ m ++ List.replicate 8 0
  let object := body ++ freeBytes 1984 (Config.certBody (kind + 4 * bytesWord m))
  object ++ signature object kind

/-- The body of a report (R561). -/
def State.reportBody (s : State) (nonce : List Word) : List Byte :=
  bytesOf 4 0x4B415452 ++ bytesOf 2 1 ++ bytesOf 2 (b2n (s.sec.sinceBoot != 0)) ++ wordBytes nonce ++ bytesOf 16 Config.uid.toNat
  ++ wordBytes [s.sec.identWord, (s.sec.reg 8).getD 0, BitVec.ofNat 64 (s.sec.version 15)] ++ s.measurements
  ++ wordBytes [s.evtSeq - 1, BitVec.ofNat 64 s.sec.reports]

/-- ATTEST. -/
def State.attest (s : State) (p : HPort) (id : BitVec 16) (ws : List Word) : State :=
  let sel := fld (arg ws 5) 0 2
  if s.sec.sinceBoot.getLsbD 3 || s.sec.sinceBoot.getLsbD 5 then s.finish p id (rejected 1)
  else if sel = 0 then
    let t := s.onSec fun x => { x with reports := x.reports + 1 }
    let body := t.reportBody (ws.take 4)
    t.finish p id { words := bytesWords 718 (body ++ signature body (2 + 4 * bytesWord t.measure)) }
  else if sel = 3 then s.finish p id rejectedRange
  else s.finish p id { words := bytesWords 926 (s.certificate (3 - sel)) }

def execAttest (c : HostCmd) (s : State) : Res := hostCmd 0xE01 c State.attest s

/-! ### Firmware sessions (R553 to R557) -/

/-- The states in which the firmware is replaced (R553). -/
def Security.updates (x : Security) : Bool := x.boot == .ready || x.boot == .recovery

/-- Why a command of a session is refused: the boot state, no session, another owner (R553, R554). -/
def State.noSession (s : State) (p : HPort) : Option Reply :=
  if !s.sec.updates then some (rejected 1)
  else match s.sec.session with
    | none => some (rejected 5)
    | some f => if f.owner = p then none else some rejectedBusy

/-- The bank that FW_BEGIN names: in RECOVERY, where none runs, 0 names the bank that is not PREFERRED (log entry 40). -/
def Security.target (x : Security) (n : Nat) : Option Bool :=
  if n = 0 then some (!(x.bank.getD x.preferred)) else if n = 1 then some false else if n = 2 then some true else none

/-- FW_BEGIN. -/
def State.fwBegin (s : State) (p : HPort) (id : BitVec 16) (ws : List Word) : State :=
  if !s.sec.updates then s.finish p id (rejected 1)
  else if s.sec.session.isSome then s.finish p id rejectedBusy
  else match s.sec.target (fld (arg ws 1) 0 2) with
    | none => s.finish p id rejectedRange
    | some b =>
      if s.sec.bank = some b then s.finish p id (rejected 2)
      else
        (s.onSec fun x =>
          { x.onBank b (fun _ => {}) with
            bootable := x.bootable.set (bankIx b) false, session := some { owner := p, bank := b } }).finish p id
          { words := [BitVec.ofNat 64 (bankCode (some b))] }

def execFwBegin (c : HostCmd) (s : State) : Res := hostCmd 0xF10 c State.fwBegin s

/-- FW_WRITE. -/
def State.fwWrite (s : State) (p : HPort) (id : BitVec 16) (ws : List Word) : State :=
  match s.noSession p, s.sec.session with
  | none, some f =>
    let kind := fld (arg ws 1) 0 8
    let off := fld (arg ws 1) 8 32
    let bs := wordBytes ws.tail
    if !kinds.contains kind ∨ imageMax < off + bs.length then s.finish p id (rejected 3)
    else if off % 8 ≠ 0 then s.finish p id rejectedRange
    else
      (s.onSec fun x => x.onBank f.bank fun b =>
        { b with images := bs.zipIdx.foldl (fun m v => smSet m (kind * imageMax + off + v.2) v.1) b.images }).finish p id done
  | some r, _ => s.finish p id r
  | none, none => s

def execFwWrite (c : HostCmd) (s : State) : Res := hostCmd 0xF11 c State.fwWrite s

/-- FW_COMMIT: the interim completion, then the result of the check (R556). -/
def State.fwCommit (s : State) (p : HPort) (id : BitVec 16) (ws : List Word) : State :=
  match s.noSession p, s.sec.session with
  | none, some f =>
    let activate := (arg ws 1).getLsbD 0
    let advance := (arg ws 1).getLsbD 1
    let b := s.sec.bankAt f.bank
    let s := s.interim p id
    match s.sec.inconsistent b with
    | some (reason, kind) => s.finish p id { status := reasonStatus reason, detail := kind, words := [BitVec.ofNat 64 reason] }
    | none =>
      ((s.onSec fun x =>
        { x with
          bootable := x.bootable.set (bankIx f.bank) true, cnt := x.cnt.set (bankIx f.bank) 0
          pendingSvn := x.pendingSvn.set (bankIx f.bank) advance
          preferred := if activate then f.bank else x.preferred, session := none }).event fromMarkhor 0xC2
        [packBits [(bankCode (some f.bank), 0), (b2n activate, 8), (b2n advance, 9)]]).finish p id
        { words := [BitVec.ofNat 64 b.feature, BitVec.ofNat 64 (b.manifest 0 1)] }
  | some r, _ => s.finish p id r
  | none, none => s

def execFwCommit (c : HostCmd) (s : State) : Res := hostCmd 0xF12 c State.fwCommit s

/-- The session ends without a commit. -/
def State.endSession (s : State) : State := s.onSec fun x => { x with session := none }

/-- The session of a port ends. -/
def State.endSessionOf (s : State) (p : HPort) : State := if s.sec.session.any (·.owner == p) then s.endSession else s

/-- FW_ABORT. -/
def State.fwAbort (s : State) (p : HPort) (id : BitVec 16) : State :=
  match s.noSession p with
  | some r => s.finish p id r
  | none => s.endSession.finish p id done

def execFwAbort (c : HostCmd) (s : State) : Res := hostCmd 0xF13 c (fun s p id _ => s.fwAbort p id) s

/-- FW_SESSION_TIMEOUT: 60 s without a command of the owner. -/
def execFwSessionTimeout (s : State) : Res := .next s.endSession

/-! ### Logs and reset requests (R570, R571) -/

/-- A boot log record as its four words. -/
def BootRec.words (r : BootRec) : List Word :=
  [BitVec.ofNat 64 r.number, packBits [(r.state, 0), (r.bank, 4), (r.kind, 8), (r.reason, 16), (r.status, 32)], BitVec.ofNat 64 r.cnt, 0]

/-- LOG_READ: boot log records under the rule of R530, or bytes of the runtime text log, whose text is free (log
entry 18). -/
def State.logRead (s : State) (p : HPort) (id : BitVec 16) (ws : List Word) : State :=
  let n := (arg ws 3).toNat
  if (arg ws 1).getLsbD 0 then
    if s.sec.boot ≠ .ready then s.finish p id (rejected 1)
    else if n = 0 ∨ 32768 < n then s.finish p id rejectedRange
    else
      let bs := (List.range n).map fun i => Config.logByte (s.sec.bootCount * 2 ^ 64 + (arg ws 2).toNat + i)
      s.finish p id { words := bytesWords ((n + 7) / 8) bs }
  else if n = 0 ∨ 256 < n then s.finish p id rejectedRange
  else
    let log := s.sec.bootLog.reverse
    let first := max 1 (arg ws 2).toNat
    let oldest := ((log.head?).map (·.number)).getD (s.sec.bootCount + 1)
    let rs := (log.filter fun r => decide (first ≤ r.number)).take n
    s.finish p id
      { status := b2n (!log.isEmpty && decide (first < oldest))
        words := [BitVec.ofNat 64 oldest, BitVec.ofNat 64 rs.length] ++ rs.flatMap BootRec.words }

def execLogRead (c : HostCmd) (s : State) : Res := hostCmd 0xF20 c State.logRead s

/-- MODULE_RESET: the reset waits for the outbound streams. -/
def State.moduleResetCmd (s : State) (p : HPort) (id : BitVec 16) (ws : List Word) : State :=
  let n := fld (arg ws 1) 0 2
  if n = 3 then s.finish p id rejectedRange
  else if n ≠ 0 ∧ !s.sec.bootable[bankIx (n == 2)] then s.finish p id (rejected 1)
  else (s.onSec fun x => { x with resetDue := true, oneShot := if n = 0 then x.oneShot else some (n == 2) }).finish p id done

def execModuleReset (c : HostCmd) (s : State) : Res := hostCmd 0xF30 c State.moduleResetCmd s

end Sys2Proof.Machine
end

