-- ==== Sys2Proof/Machine/PortExec.lean ====
section
/-! DEFINITION. The host ports (14 R499 to R504, R518, R519, R533 to R537; 18 R622): doorbells, the window, register writes,
DMA copies, host liveness and port resets. -/
namespace Sys2Proof.Machine

/-! ### Doorbells (R500, R504, R518, R534) -/

def HostState.code : HostState → Nat
  | .absent => 0
  | .present => 1
  | .lost => 2

/-- A host's state changes, with its event (R534). -/
def State.setHost (s : State) (p : HPort) (h : HostState) : State :=
  if (s.port p).host = h then s
  else (s.onPort p fun q => { q with host := h }).event (fromPort p) 0x50 [packBits [(p.val, 0), (h.code, 1)]]

/-- MBX_DB_HEARTBEAT. -/
def execMbxDbHeartbeat (port : HPort) (s : State) : Res := .next (if s.portUp port then s.setHost port .present else s)

/-- MBX_DB_STEP: adds to the budget; 0 has no effect; it is ignored where no step may be credited. -/
def execMbxDbStep (port : HPort) (value : BitVec 16) (s : State) : Res :=
  if !s.portUp port || value == 0 then .next s
  else if s.placed.isNone || s.hlt.rcv != rcvNormal || !s.pwr.steady then .next (s.mbxStat port 5)
  else .next (s.onRun fun r => { r with budget := satAdd r.budget value.toNat })

/-- MBX_DB_IRQ: vectors are armed again, and fire at once where their condition holds. -/
def execMbxDbIrq (port : HPort) (bits : BitVec 4) (s : State) : Res :=
  .next (if s.portUp port then s.onPort port fun q => { q with armed := q.armed ||| bits }.poll else s)

/-! ### The window (R501 to R503) -/

def HostPort.winAddr (q : HostPort) (off : BitVec 36) : Nat := q.winBase.toNat * gib + off.toNat

/-- One page of a window read: the bytes follow those before. -/
def State.windowReadPage (s : State) (p : HPort) (r : HostRead) (a len : Nat) : State × HostRead :=
  match s.reach a with
  | .reached =>
    (s.busRead hostClass a len, { r with data := r.data ++ s.mem.bytes a len, poisoned := r.poisoned || s.mem.marked a len })
  | .asleep => (s.mbxStat p 4, { r with unsupported := true })
  | _ => ((s.mbxStat p 3).noTarget a, { r with data := r.data ++ List.replicate len 0xFF })

/-- One page of a window write: the enabled bytes are written. -/
def State.windowWritePage (s : State) (p : HPort) (a : Nat) (bs : List (Option Byte)) : State :=
  match s.reach a with
  | .reached => s.busWrite hostClass (bs.zipIdx.filterMap fun b => b.1.map fun v => { addr := a + b.2, data := v })
  | .asleep => s.mbxStat p 4
  | _ => (s.mbxStat p 3).noTarget a

def WinReq.addr : WinReq → Nat
  | .read a _ => a
  | .write a _ => a

def WinReq.len : WinReq → Nat
  | .read _ n => n
  | .write _ bs => bs.length

/-- A window access takes place, page by page (R501 to R503). -/
def State.windowServe (s : State) (p : HPort) (w : WinReq) : State :=
  let ps := pagesOf w.addr w.len
  match w with
  | .read _ _ =>
    let (t, r) := ps.foldl (fun (x : State × HostRead) g => x.1.windowReadPage p x.2 g.1 g.2.2) (s, {})
    t.onPort p fun q => { q with reply := if r.unsupported then { unsupported := true } else r }
  | .write _ bs => ps.foldl (fun s g => s.windowWritePage p g.1 ((bs.drop g.2.1).take g.2.2)) s

/-- Whether a window access waits for the fill (R418). -/
def State.windowWaits (s : State) (w : WinReq) : Bool := (pagesOf w.addr w.len).any fun g => s.reach g.1 == .waits

/-- A window access arrives: it waits for the fill, or behind one that does. -/
def State.windowAccess (s : State) (p : HPort) (w : WinReq) : State :=
  if !s.portUp p then s
  else if s.windowWaits w || !(s.port p).winWaits.isEmpty then s.onPort p fun q => { q with winWaits := q.winWaits ++ [w] }
  else s.windowServe p w

/-- The bytes of an access that lie in BAR2, 64 GiB (R497). -/
def barBytes (off : BitVec 36) (len : Nat) : Nat := min len (2 ^ 36 - off.toNat)

/-- WINDOW_READ. -/
def execWindowRead (port : HPort) (off : BitVec 36) (len : Nat) (s : State) : Res :=
  .next (s.windowAccess port (.read ((s.port port).winAddr off) (barBytes off len)))

/-- WINDOW_WRITE. -/
def execWindowWrite (port : HPort) (off : BitVec 36) (data : List (Option Byte)) (s : State) : Res :=
  .next (s.windowAccess port (.write ((s.port port).winAddr off) (data.take (barBytes off data.length))))

/-- The window accesses of a port that have waited take place, in order. -/
def State.windowResume (s : State) (p : HPort) : State :=
  (s.port p).winWaits.foldl (fun s w => s.windowServe p w) (s.onPort p fun q => { q with winWaits := [] })

/-- HBM_INIT_DONE: the zero fill has ended, and the window accesses that waited for it take place (R418). -/
def execHbmInitDone (s : State) : Res :=
  .next ((({ s with parts := s.parts.map fun x => { x with initBusy := false } } : State).windowResume 0).windowResume 1)

/-! ### Register writes (R18, R499, R629) -/

/-- The bits of an MSI-X entry that are not reserved: an address in steps of 4 bytes, the data, the mask bit (R21; log entry
7). -/
def msixMask : BitVec 128 := BitVec.ofNat 128 (2 ^ 97 - 4)

/-- A half of an MSI-X table entry is written; an entry that is unmasked sends its pending interrupt. -/
def HostPort.writeMsix (q : HostPort) (off : Nat) (w : Word) : HostPort :=
  let v : Fin 4 := ⟨off / 16 % 4, Nat.mod_lt _ (by decide)⟩
  let e := BitVec.ofNat 128 (setBits q.msix[v] (64 * (off / 8 % 2)) 64 w.toNat).toNat &&& msixMask
  let q := { q with msix := q.msix.set v e }
  if !e.getLsbD 96 && q.pba.getLsbD v.val then
    { q with pba := q.pba &&& ~~~(1#4 <<< v.val), fired := q.fired.set v (q.fired[v] + 1) }
  else q

/-- An aligned 64-bit write to BAR0 (R499). -/
def State.bar0Write (s : State) (p : HPort) (off : Nat) (w : Word) : State :=
  if off < 0x1000 then (s.wordIn p w).frameAll p
  else if off = 0x1018 then s.onPort p fun q => { q with stat := w1c q.stat (w.truncate 6) }
  else if off = 0x1020 then (if w.getLsbD 0 then s.resync p else s)
  else if off = 0x1028 then s.onPort p fun q => { q with winBase := w.extractLsb' 30 18 }
  else if 0x2000 ≤ off ∧ off < 0x2040 then s.onPort p (·.writeMsix (off - 0x2000) w)
  else s

/-- An access of a host to BAR0 that is not one aligned 64-bit word is dropped with SIZE_ERR (R499), except that one of several
words within the range of MBX_IN delivers them in address order (R505). -/
def State.bar0Access (s : State) (p : HPort) (off : Nat) (ws : List Word) : State :=
  match ws with
  | [w] => if off % 8 = 0 then s.bar0Write p off w else s.mbxStat p 2
  | _ =>
    if off % 8 = 0 ∧ off + 8 * ws.length ≤ 0x1000 then ws.foldl (fun s w => s.bar0Write p off w) s
    else s.mbxStat p 2

/-- REGISTER_WRITE: by an agent that addresses the register space, by a host through BAR0, or by the sideband controller
to ADDR of the debug window. -/
def execRegisterWrite (w : RegWriter) (addr : BitVec 45) (value : Word) (s : State) : Res :=
  .next
    (match w with
     | .device => s.writeReg (8 * addr.toNat) value
     | .bar0 p more => if !s.portUp p then s else s.bar0Access p (addr.toNat % 0x10000) (value :: more)
     | .bar0Part p => if !s.portUp p then s else s.mbxStat p 2
     | .sideband => if s.pwr.off then s else { s with debugAddr := value })

/-- BAR0_MISSIZED_READ. -/
def execBar0MissizedRead (port : HPort) (s : State) : Res :=
  if !s.portUp port then .next s
  else .next ((s.onPort port fun q => { q with reply := { data := List.replicate 8 0 } }).mbxStat port 2)

/-! ### DMA_COPY (R519) -/

/-- DMA_COPY: the range lies wholly within one that has a target; the copy runs on one of four engines, or waits. -/
def State.dmaCopyCmd (s : State) (p : HPort) (id : BitVec 16) (ws : List Word) : State :=
  let dev := fld (arg ws 2) 0 48
  let len := fld (arg ws 3) 0 40
  let reaches := match rangeOf dev with
    | .tile _ => s.reach dev == .reached
    | _ => true
  if len = 0 ∨ !oneRange dev (dev + len - 1) ∨ !reaches then s.finish p id (rejected 1)
  else s.onPort p fun q =>
    { q with copies := q.copies ++ [{ tag := id, host := arg ws 1, device := dev, len := len, read := (arg ws 3).getLsbD 63 }] }

def execDmaCopy (c : HostCmd) (s : State) : Res := hostCmd 0x301 c State.dmaCopyCmd s

/-- A copy leaves the port's list. -/
def HostPort.dropCopy (q : HostPort) (c : Copy) : HostPort := { q with copies := q.copies.filter fun x => x.tag != c.tag }

/-- A copy to the host has moved its bytes: those of an uncorrectable sector go out poisoned; from a page without a target nothing is
read, and ones go out (R386, R413; log entry 165). -/
def State.copyOut (s : State) (p : HPort) (c : Copy) : State :=
  let bad := (s.mem.ue.filter fun n => decide (32 * n < c.device + c.len) && decide (c.device < 32 * n + 32)).map fun n => max c.device (32 * n)
  let moved := BitVec.ofNat 64 c.len
  let r : Reply := match bad with
    | [] => { words := [moved] }
    | b :: bs => { status := 1, words := [moved, BitVec.ofNat 64 (bs.foldl min b)] }
  ((pagesOf c.device c.len).foldl (fun s g =>
    if s.reach g.1 = .reached then s.busRead hostClass g.1 g.2.2 else s.noTarget g.1) s).finish p c.tag r

/-- A copy from the host: its bytes are written, but for the request that failed, whose bytes are missing from those
read. -/
def State.copyIn (s : State) (p : HPort) (c : Copy) (data : List Byte) (bad : Option Nat) : State :=
  let put (s : State) (off : Nat) (bs : List Byte) : State :=
    (pagesOf (c.device + off) bs.length).foldl (fun s g =>
      if s.reach g.1 = .reached then s.busWrite hostClass (writesAt g.1 ((bs.drop g.2.1).take g.2.2)) else s.noTarget g.1) s
  match bad with
  | none => (put s 0 (data.take c.len)).finish p c.tag { words := [BitVec.ofNat 64 c.len] }
  | some o =>
    let gap := c.len - data.length
    (put (put s 0 (data.take o)) (o + gap) (data.drop o)).finish p c.tag
      { status := 1, words := [BitVec.ofNat 64 data.length, BitVec.ofNat 64 (c.device + o)] }

/-- Memory that a copy would wait for (R421). -/
def State.copyWaits (s : State) (c : Copy) : Bool := [c.device, c.device + c.len - 1].any s.waitsAt

/-- DMA_COPY_DONE: the k-th running copy has ended; `data` is what a copy from the host read, `bad` the offset of the
request that came poisoned or with an error. -/
def execDmaCopyDone (port : HPort) (k : Fin 4) (data : List Byte) (bad : Option Nat) (s : State) : Res :=
  .next
    (match ((s.port port).copies.take 4)[k.val]? with
     | none => s
     | some c =>
       let t := s.onPort port (·.dropCopy c)
       if s.copyWaits c then s
       else if c.read then t.copyOut port c
       else match bad with
         | none => if data.length < c.len then s else t.copyIn port c data none
         | some o => if data.length < c.len ∧ o ≤ data.length then t.copyIn port c data (some o) else s)

/-- A copy stops after its current TLP: how far it came is free, and so are the bytes it had brought to device memory
(R536, R537). -/
def State.stopCopy (s : State) (p : HPort) (c : Copy) : State :=
  let (n, s) := s.draw
  let moved := (Config.freeWord n 0).toNat % (c.len + 1)
  let t := s.onPort p (·.dropCopy c)
  let t := if c.read then t else { t with mem := t.mem.fill c.device moved (some n) }
  t.finish p c.tag { status := 1, words := [BitVec.ofNat 64 moved] }

/-- Every copy of a port stops; one that still waits for an engine has moved nothing. -/
def State.stopCopies (s : State) (p : HPort) : State :=
  let cs := (s.port p).copies
  (cs.drop 4).foldl (fun t c => (t.onPort p (·.dropCopy c)).finish p c.tag { status := 1, words := [0] })
    ((cs.take 4).foldl (fun t c => t.stopCopy p c) s)

/-! ### Host liveness (R534 to R536) -/

/-- HOST_HEARTBEAT_TIMEOUT: a PRESENT host becomes LOST. -/
def execHostHeartbeatTimeout (port : HPort) (s : State) : Res :=
  if (s.port port).host = .present then
    let t := (s.setHost port .lost).rollbackOf port 2
    let t := ((t.port port).copies.take 4).foldl (fun t c => t.stopCopy port c) t
    .next (t.endSessionOf port)
  else .next s

/-! ### Port resets (R537, R566, R567, R593, R622) -/

/-- What a port reset leaves of a port's registers and queues. Commands that have started go on. -/
def HostPort.resetTo (q : HostPort) (down : Bool) : HostPort :=
  let held := q.held.filterMap (·.1)
  let started := q.outstanding.filter fun o =>
    !held.contains o.id && !q.ready.any (fun a => a.id == o.id)
      && (match q.frame with | .words _ (some i) _ => i != o.id | _ => true)
  { host := q.host, orphans := q.orphans ++ started, fired := q.fired, fullRate := q.fullRate, perst := down, copies := q.copies }

/-- PCIE_PORT_RESET: a hot reset or FLR; with `perst` the link stays down until PERST# is released. -/
def execPciePortReset (port : HPort) (perst : Bool) (s : State) : Res :=
  if s.pwr.off then .next s
  else
    let t := s.onPort port (·.resetTo (perst || (s.port port).perst))
    let t := t.stopCopies port
    let t := ((t.setHost port .absent).rollbackOf port 3).endSessionOf port
    .next t.anyReset

/-- PERST_DEASSERT. -/
def execPerstDeassert (port : HPort) (s : State) : Res := .next (s.onPort port fun q => { q with perst := false })

end Sys2Proof.Machine
end

