-- ==== Sys2Proof/Machine/Resets.lean ====
section
/-! DEFINITION. What resets and power states reach (16 R576, R582, R590 to R594): supplies and islands, the loss of the
volatile class, and the state that a boot starts from. -/
namespace Sys2Proof.Machine

/-! ### Supplies (R575 to R579, R582) -/

def allRegions : BitVec 24 := BitVec.allOnes 24

/-- Whether a state keeps the HBM and far-tier groups ON; the others keep them in RETENTION. -/
def PState.memOn (st : PState) : Bool := st == .a0 || st == .a1

/-- The fabric port domains of a state: a port held off, or whose cage has been cut, stays off (R586, R623). -/
def Power.fabricOn (p : Power) (st : PState) (cut : Byte) : Byte := if st = .a3 then 0 else ~~~(p.fabOff ||| cut)

/-- Whether an island has its supply. -/
def islandOn (st : PState) (regions : BitVec 24) (fab : Byte) (n : Nat) : Bool :=
  if n < 24 then regions.getLsbD n
  else if n < 48 then regions.getLsbD (n - 24)
  else if n < 80 then st.memOn
  else if 84 ≤ n ∧ n < 92 then fab.getLsbD (n - 84)
  else decide (96 ≤ n) || st != .a3

/-- The clocks that stop in A2. -/
def islandStops (st : PState) (n : Nat) : Bool := st == .a2 && (decide (n < 48) || n == 94 || n == 95)

/-- An island takes its supply and clock; one whose supply comes on starts from reset, but for the memory controllers that
RETENTION had off, whose counters A2 keeps (R593). -/
def Island.supply (i : Island) (on stop keep : Bool) : Island :=
  let fresh := on && !i.powered && !keep
  { i with running := on && !stop, powered := on, ticks := if fresh then 0 else i.ticks }

/-- The supplies of a state with the region domains named. -/
def Power.supply (p : Power) (st : PState) (regions : BitVec 24) (cut : Byte) : Power :=
  let fab := p.fabricOn st cut
  let mem : BitVec 16 := if st.memOn then BitVec.allOnes 16 else 0
  let host : BitVec 2 := if st = .a3 then 0 else 3
  { p with
    domains := BitVec.ofNat 50 (regions.toNat + mem.toNat * 2 ^ 24 + fab.toNat * 2 ^ 40 + host.toNat * 2 ^ 48)
    retention := if st.memOn then 0 else BitVec.ofNat 50 ((2 ^ 16 - 1) * 2 ^ 24)
    islands := Vector.ofFn fun n =>
      p.islands[n].supply (islandOn st regions fab n.val) (islandStops st n.val)
        (decide (48 ≤ n.val ∧ n.val < 80) && p.state == .a2) }

/-- The region domains that are ON. -/
def Power.regions (p : Power) : BitVec 24 := p.domains.extractLsb' 0 24

/-- The ports whose cage supply has been cut. -/
def State.cuts (s : State) : Byte :=
  BitVec.ofNat 8 ((List.finRange 8).foldl (fun n p => if (s.link p).cageCut then n + 2 ^ p.val else n) 0)

/-- The module's supplies for a state. -/
def State.supply (s : State) (st : PState) (regions : BitVec 24) : State := s.onPwr fun p => p.supply st regions s.cuts

/-- Every accepted write goes to memory, in order of acceptance; one to an uncorrectable sector that it covers in part is dropped
(R414, R420). -/
def State.settleAll (s : State) : State :=
  (s.reqs.filter fun q => q.state = .sorted && !q.writes.isEmpty).foldl (fun s q =>
    match s.partAt q.line with
    | some (p, _) => ({ s with reqs := s.reqs.erase q } : State).settleWrites p q {}
    | none => s) s

/-- The partitions complete the writes they have accepted and sleep (R420). -/
def State.sleep (s : State) : State :=
  let s := s.settleAll
  { s with
    reqs := s.reqs.filter fun q => !(q.state = .sorted && !q.writes.isEmpty)
    parts := s.parts.map fun x => { x with selfRefresh := true, openRow := [] }
    glob := { s.glob with selfRefresh := true } }

/-- The partitions leave self-refresh (R421). -/
def State.wake (s : State) : State :=
  { s with parts := s.parts.map fun x => { x with selfRefresh := false }, glob := { s.glob with selfRefresh := false } }

/-! ### Fabric ports (R470, R583, R590) -/

/-- A fabric port's link, replay buffer and input buffers go. -/
def State.dropPort (s : State) (p : FPort) : State :=
  (s.linkDown p).onFab fun f =>
    { f.onLink p (·.fresh .down) with
      waiting := f.waiting.filter (fun w => w.input != p.val), inbox := f.inbox.filter fun d => d.input != p.val }

/-- A fabric port reset: the link retrains from the start, the port's island restarts, every scope closes. -/
def State.fabricPortReset (s : State) (p : FPort) : State :=
  let t := s.dropPort p
  let held := s.pwr.fabOff.getLsbD p.val || (s.link p).cageCut || s.pwr.state == .a3
  let t := if held then t else t.onFab (·.onLink p (·.fresh .training))
  let n : Fin 100 := ⟨84 + p.val, by omega⟩
  (t.onPwr fun w => { w with islands := w.islands.set n { w.islands[n] with ticks := 0, timeouts := 0 } }).anyReset

/-- Every fabric link goes DOWN. -/
def State.dropPorts (s : State) : State := (List.finRange 8).foldl State.dropPort s

/-! ### The volatile class (R593) -/

/-- What a compute reset or A3 keeps of a cluster: that it is fenced (R28). -/
def Cluster.lost (k : Cluster) : Cluster := { fenced := k.fenced }

/-- MEM_SCRUB and the erasures are kept (R424). -/
def Part.lost (x : Part) : Part :=
  { selfRefresh := x.selfRefresh, initBusy := x.initBusy, scrubEn := x.scrubEn, scrubGap := x.scrubGap, scrubPos := x.scrubPos
    erased := x.erased }

/-- MEM_MAP and the format descriptors are kept (R107, R424). -/
def MemGlobal.lost (g : MemGlobal) : MemGlobal :=
  { hbmStripe := g.hbmStripe, farStripe := g.farStripe, snap := g.snap, custom := g.custom, selfRefresh := g.selfRefresh }

/-- Coordinates, banks, generations and links are kept; streams, services and what they hold end (R449, R470). -/
def Fabric.lost (f : Fabric) : Fabric :=
  { replica := f.replica, x := f.x, y := f.y, z := f.z, valid := f.valid, xn := f.xn, yn := f.yn, zn := f.zn, mirror := f.mirror
    dateline := f.dateline, rtr := f.rtr, cur := f.cur, activeGen := f.activeGen, standbyGen := f.standbyGen, banks := f.banks
    ports := (f.inbox.foldl (fun (g : Fabric) d => g.leave d.input d.slot d.packet) { f with inbox := [] }).ports.map fun p =>
      { p.clearCounts with stl := Vector.replicate 4 0, margin := 0, most := 0 }
    waiting := f.waiting.filter fun w => w.input != 8
    accepted := f.accepted, nextRun := f.nextRun, nextStream := f.nextStream }

/-- Pairing and thresholds, the health history and the slots are kept (R495, R593). -/
def Health.lost (h : Health) : Health :=
  { pairEn := h.pairEn, strap := h.strap, feedOvr := h.feedOvr, feedOvrValid := h.feedOvrValid, t1 := h.t1, t2 := h.t2, t3 := h.t3
    maxSteps := h.maxSteps, mirrorEvery := h.mirrorEvery, slotA := h.slotA, slotB := h.slotB, window := h.window, samples := h.samples
    log := h.log, rise := h.rise }

/-- PWR_FAB_OFF, the supplies, what resets count and a leak that has tripped are kept (R600, R621). -/
def Power.lost (p : Power) : Power :=
  { off := p.off, state := p.state, transition := p.transition, creset := p.creset, domains := p.domains, retention := p.retention
    fabOff := p.fabOff, leak := p.leak, leakHeld := p.leakHeld, rstCause := p.rstCause, rstComputeCnt := p.rstComputeCnt
    islands := p.islands.map fun i => { i with timeouts := 0 } }

/-- The volatile class takes its reset values; tile memory is undefined, and so is quarter 3 where a restore was open (R492). -/
def State.loseVolatile (s : State) : State :=
  let (n, s) := s.draw
  let s := match s.placed with
    | some (p, pl) => s.clearFactors p pl
    | none => s
  let s := if s.hlt.rcv.toNat = 1 then { s with mem := s.mem.fill (s.glob.quarter 3) s.glob.quarterBytes (some n) } else s
  ({ s with
    mem := s.mem.fill tileWindows (384 * tileStep) (some n)
    glob := s.glob.lost, parts := s.parts.map Part.lost, reqs := [], cls := s.cls.map Cluster.lost
    rgs := Vector.replicate 24 {}, flights := [], run := { placementId := s.run.placementId }, fab := s.fab.lost, hlt := s.hlt.lost, pwr := s.pwr.lost
    perf := {} } : State).repair

/-- Commands that have started and not completed when the volatile class goes complete now: a DMA_COPY or a FILL_SEND in
part, another not at all (R591). -/
def State.cutCommands (s : State) (own : Option (HPort × BitVec 16)) : State :=
  let t := s.cutSteps
  let t := (List.finRange 2).foldl State.stopCopies t
  (List.finRange 2).foldl (fun t p =>
    let q := t.port p
    let idle (i : BitVec 16) : Bool :=
      q.ready.any (·.id == i) || (match q.frame with | .words _ (some j) _ => i == j | _ => false) || some (p, i) == own
    (q.outstanding.filter fun o => !idle o.id).foldl (fun t o =>
      let fill := s.fab.runs.find? fun r => match r.kind with
        | .fill _ port tag _ => port == p && tag == o.id
        | _ => false
      match fill with
      | some r =>
        let (n, t) := t.draw
        t.finish p o.id { status := 1, words := [Config.freeWord n 0, BitVec.ofNat 64 r.step] }
      | none => t.finish p o.id (rejected 0xF1)) t) t

/-- The transaction at a safe point that a reset or A3 gives: a committing one is applied, an open one rolls back (R525,
R591, R593). -/
def State.resetTxn (s : State) : State := s.applyLate.rollback 4

/-! ### What a boot starts from (R540, R548, R574, R593) -/

/-- The persistent part of the security state; the rest starts anew. -/
def Security.booted (x : Security) : Security :=
  { boot := .rom, preferred := x.preferred, bootable := x.bootable, cnt := x.cnt, pendingSvn := x.pendingSvn, oneShot := x.oneShot
    banks := x.banks, svn := x.svn, revoked := x.revoked, challenge := x.challenge, bootLog := x.bootLog, bootCount := x.bootCount }

/-- A module that nothing runs on yet: every class but the persistent one is at its reset value, memory is undefined, the
switched domains are off, and the always-on supervisor runs. -/
def State.cold (s : State) (cause : Nat) (strap : Byte) : State :=
  let (n, s) := s.draw
  let pwr : Power := { state := .a0, rstCause := BitVec.ofNat 3 cause, leak := s.pwr.leak, domains := 0 }
  { pending := s.pending, nonce := s.nonce
    mem := { fills := [{ base := 0, len := 2 ^ 48, nonce := some n }] }
    parts := s.parts.map fun x => { erased := x.erased }
    cls := Vector.ofFn fun c => { fenced := if s.fenced.contains c then some 3 else none }
    hlt := { strap := strap, feedOvr := s.hlt.feedOvr, feedOvrValid := s.hlt.feedOvrValid }
    ports := s.ports.map fun q => { fired := q.fired, perst := q.perst, fullRate := false }
    sec := s.sec.booted, fenced := s.fenced, erasures := s.erasures
    pwr := { pwr with islands := Vector.ofFn fun i =>
      { running := decide (96 ≤ i.val), powered := decide (96 ≤ i.val) } } }

end Sys2Proof.Machine
end

