-- ==== Sys2Proof/Machine/BootExec.lean ====
section
/-! DEFINITION. Boot and the resets that run it (15 R540, R548 to R552, R558, R570 to R572; 16 R590, R592; 18 R614, R625,
R626): their meanings. -/
namespace Sys2Proof.Machine

/-! ### Boot attempts (R550, R570) -/

/-- A boot attempt ends: one boot log record, the newest 2,048 kept (R541, R570). -/
def State.bootRecord (s : State) (bank : Bool) (kind reason status : Nat) : State :=
  s.onSec fun x =>
    let n := x.bootCount + 1
    let r : BootRec :=
      { number := n, state := x.boot.code, bank := bankCode (some bank), kind := kind, reason := reason, status := status
        cnt := x.cnt[bankIx bank].toNat }
    { x with bootCount := n, bootLog := (r :: x.bootLog).take 2048, trying := none }

/-- An attempt that a reset cuts off, with its REASON; the status of its record is free. -/
def State.cutAttempt (s : State) (reason : Option Nat) : State :=
  match s.sec.trying with
  | none => s
  | some b =>
    let (n, t) := s.draw
    t.bootRecord b 0 (reason.getD (fld (Config.freeWord n 0) 16 8)) (fld (Config.freeWord n 0) 0 16)

/-- usable(b) of R550. -/
def Security.usable (x : Security) (b : Bool) : Bool := x.bootable[bankIx b] && decide (x.cnt[bankIx b].toNat < 3)

/-- The ROM selects a bank, counts the attempt and starts to load it, or enters RECOVERY with no bank. -/
def Security.romSelect (x : Security) : Security :=
  let start (b : Bool) : Security :=
    { x with cnt := x.cnt.set (bankIx b) (satAdd x.cnt[bankIx b] 1), oneShot := none, trying := some b, boot := .load }
  match x.oneShot with
  | some b => start b
  | none =>
    if x.usable x.preferred then start x.preferred
    else if x.usable (!x.preferred) then start (!x.preferred)
    else { x with boot := .recovery }

/-- A reset that runs the boot: an attempt under way ends, every class but the persistent one is lost, the ROM samples
the strap and selects a bank. -/
def State.reboot (s : State) (cause : Nat) (strap : Byte) (reason : Option Nat) : State :=
  (((s.cutAttempt reason).anyReset).cold cause strap).onSec Security.romSelect

/-! ### Resets that run the boot (R551, R571, R590, R592, R626) -/

/-- POWER_ON_RESET: only from Off. -/
def execPowerOnReset (strap : Byte) (s : State) : Res := .next (if s.pwr.off then s.reboot 1 strap (some 11) else s)

/-- MODULE_RESET_EXECUTE: the reset that MODULE_RESET asked for. -/
def execModuleResetExecute (strap : Byte) (s : State) : Res :=
  .next (if s.sec.resetDue && !s.pwr.off && !s.sec.extHeld then s.reboot 2 strap none else s)

/-- Whether INIT is under way. -/
def State.inInit (s : State) : Bool := s.sec.boot == .init && !s.pwr.off && !s.sec.extHeld

/-- BOOT_WATCHDOG: 10 s of INIT have passed. -/
def execBootWatchdog (strap : Byte) (s : State) : Res := .next (if s.inInit then s.reboot 4 strap (some 9) else s)

/-- INIT_CHECK_FAILED. -/
def execInitCheckFailed (strap : Byte) (s : State) : Res := .next (if s.inInit then s.reboot 4 strap (some 10) else s)

/-- EXT_RST_ASSERT: the module is held in reset; the one-shot bank of a MODULE_RESET that waits is kept. -/
def execExtRstAssert (s : State) : Res :=
  if s.pwr.off || s.sec.extHeld then .next s
  else .next (((s.cutAttempt none).cold s.pwr.rstCause.toNat s.hlt.strap).onSec fun x => { x with extHeld := true })

/-- EXT_RST_RELEASE. -/
def execExtRstRelease (strap : Byte) (s : State) : Res :=
  .next (if s.sec.extHeld && !s.pwr.off then s.reboot 3 strap none else s)

/-- POWER_INPUT_LOST: the event, then Off without a quiesce. An attempt under way is recorded at the next boot. -/
def execPowerInputLost (mv : BitVec 16) (high : Bool) (s : State) : Res :=
  if s.pwr.off then .next s
  else
    let t := if s.sec.boot = .ready then s.event fromMarkhor 0x76 [packBits [(mv.toNat, 0), (if high then 2 else 1, 16)]] else s
    let u := (t.cold t.pwr.rstCause.toNat t.hlt.strap).onSec fun x => { x with boot := t.sec.boot, trying := t.sec.trying }
    let u := u.onPwr fun p => { p with off := true, islands := Vector.replicate 100 { running := false, powered := false } }
    .next { u with events := t.events, evtSeq := t.evtSeq }

/-! ### LOAD, INIT, READY (R549 to R552, R558) -/

/-- INIT: the dies are powered, HBM is filled with zeros, the fabric ports and PCIe links train, descriptors 0x20 to 0x3F
are loaded, and the attestation keys are derived (R549, R559). -/
def State.enterInit (s : State) (b : Bank) : State :=
  let t := s.supply .a0 allRegions
  let t := t.onSec fun x => { x with boot := .init, keySvn := x.svn, featureLevel := BitVec.ofNat 16 b.feature }
  let t := t.onFab fun f => { f with ports := f.ports.map fun q => q.fresh .training }
  { t with
    mem := t.mem.fill 0 (576 * gib) none
    parts := Vector.ofFn fun p => { t.parts[p] with initBusy := decide (p.val < 12) }
    glob := { t.glob with custom := Vector.ofFn fun i => b.format i.val }
    ports := t.ports.map fun q => { q with fullRate := true } }

/-- BOOT_LOAD_DONE: the bank is consistent and INIT starts, or the attempt ends in RECOVERY. -/
def execBootLoadDone (s : State) : Res :=
  match s.sec.boot, s.sec.trying with
  | .load, some b =>
    if s.pwr.off || s.sec.extHeld then .next s
    else match s.sec.inconsistent (s.sec.bankAt b) with
      | some (reason, kind) =>
        .next ((s.bootRecord b kind reason (reasonStatus reason)).onSec fun x => { x with boot := .recovery })
      | none => .next (s.enterInit (s.sec.bankAt b))
  | _, _ => .next s

/-- A pending advance of the bank that runs (R558). -/
def State.advanceSvn (s : State) (b : Bool) : State :=
  if !s.sec.pendingSvn[bankIx b] then s
  else
    let x := s.sec.bankAt b
    let svn := max s.sec.svn (min 64 (x.manifest 0 1))
    let mask := x.manifest 4 2 % 64
    let t := s.onSec fun y =>
      { y with svn := svn, revoked := y.revoked ||| BitVec.ofNat 6 mask, pendingSvn := y.pendingSvn.set (bankIx b) false }
    let t := t.event fromMarkhor 0xC3 [packBits [(svn, 0), (mask, 8)]]
    if (s.sec.bankAt (!b)).manifest 0 1 < svn then
      t.onSec fun y => { y with bootable := y.bootable.set (bankIx (!b)) false }
    else t

/-- BOOT_READY: the bank runs; BOOT_RESULT, BANK_FALLBACK and SVN_ADVANCED follow in this order. -/
def execBootReady (s : State) : Res :=
  match s.sec.trying with
  | some b =>
    if !s.inInit then .next s
    else
      let t := s.onSec fun x => { x with boot := .ready, bank := some b }
      let t := t.bootRecord b 0 0 0
      let t := t.onSec fun x => { x with cnt := x.cnt.set (bankIx b) 0 }
      let t := t.event fromMarkhor 0xC0 [packBits [(bankCode (some b), 0), (t.sec.bootCount % 256, 8)]]
      let t := if b = s.sec.preferred then t
        else (t.onSec fun x => { x with preferred := b }).event fromMarkhor 0xC1
          [packBits [(bankCode (some b), 0), (bankCode (some s.sec.preferred), 2)]]
      .next (t.advanceSvn b)
  | none => .next s

end Sys2Proof.Machine
end

