-- ==== Sys2Proof/Machine/Boundary.lean ====
section
/-! DEFINITION. The step boundary (01 R47; 08 R272; 10 R355; 13 R480; 14 R517; 17 R609, R610): when a step ends, and what
happens there. -/
namespace Sys2Proof.Machine

/-! ### When a step ends (R47, R272, R355, R356) -/

/-- Elements of a tensor that have arrived from a module in a step. -/
def Fabric.arrived (f : Fabric) (step target : Nat) (m : BitVec 24) : Nat :=
  ((f.arrivals.filter fun a => a.step == step && !a.root && a.target == target && coordsAt a.src == coordsAt m).map (·.elems)).foldl (· + ·) 0

/-- What every other module of the group distributes in a step: tensor, elements (R354; log entry 30). -/
def State.expects (s : State) (p : Package) (m : BitVec 24) : List (Nat × Nat) :=
  (p.opers.filter fun o => o.cls == 5).flatMap fun o =>
    let master := fld (o.word 4) 0 32
    let work := fld (o.word 4) 32 32
    let n := (shardOf (p.tensor master).elements (s.group p) (s.fab.rankOf p.dpMask (coordsAt m))).2
    [(master, n)] ++ (if fld (o.word 5) 32 4 = 0 then [] else [(fld (o.word 5) 0 32, fld (o.word 5) 32 4 * n)])
    ++ (if work = 0xFFFFFFFF then [] else [(work, n)])

/-- Every distribution addressed to this module in the step has arrived: the elements, the header of each, and the roots that the headers
of a module list (R355, R356); a fenced collective endpoint gets none. -/
def State.allArrived (s : State) (p : Package) : Bool :=
  let n := s.run.crvStep.toNat
  let here := s.fab.arrivals.filter fun a => a.step == n
  s.fab.ep || decide (s.group p ≤ 1)
  || ((s.fab.members p.dpMask 1).filter fun m => !s.fab.isOwn m).all fun m =>
    let mine := here.filter fun a => coordsAt a.src == coordsAt m
    let heads := mine.filterMap (·.roots)
    (s.expects p m).all (fun x => decide (x.2 ≤ s.fab.arrived n x.1 m))
    && decide (p.opers.countP (·.cls == 5) ≤ heads.length) && decide (heads.foldl max 0 ≤ mine.countP (·.root))

/-- No distribution of this module is under way. -/
def Fabric.distributing (f : Fabric) : Bool := f.runs.any fun r => match r.kind with | .distribute _ => true | _ => false

/-- The operations that own a distribution have all started it. -/
def State.allStarted (s : State) (p : Package) : Bool :=
  p.opers.zipIdx.all fun x => x.1.cls != 5 || s.run.started.contains x.2

/-- The step is at its boundary. A root GEMM that is due has run (R370). A guard that is resolved has bound entries that have not settled (R242, R252). -/
def State.atBoundary (s : State) (p : Package) (pl : Placement) (k : StepRun) : Bool :=
  decide (pl.segments ≤ k.segment + 1) && decide (24 ≤ k.reported.length) && !s.run.stopping && s.run.deferred.isEmpty
  && (List.finRange 384).all (fun c => !pl.participates c.val || decide (1 ≤ (s.cl c).slot 255))
  && s.quiet && s.rgs.toList.all (fun x => !x.medlar.jacobi.any (·.gemmDue s.run.crvStep.toNat))
  && s.rgs.toList.all (fun x => x.guards.toList.all fun g => decide (g.state = .unresolved)) && s.allStarted p && !s.fab.distributing && s.allArrived p

/-! ### What happens there -/

/-- The step interval and the phase times of the step that ends (R609). -/
def Phase.latch (p : Phase) : Phase :=
  { p with
    last := BitVec.ofNat 48 p.active
    start := (p.first.map fun n => BitVec.ofNat 48 n).getD (BitVec.allOnes 48)
    stop := if p.first.isSome then BitVec.ofNat 48 p.latest else BitVec.allOnes 48
    active := 0, first := none, latest := 0 }

def Perf.latch (x : Perf) (step : BitVec 48) : Perf :=
  let n := BitVec.ofNat 48 (x.interval.getD 0)
  { x with
    stepLast := n, stepNum := step, stepTotal := x.stepTotal + n, stepCnt := x.stepCnt + 1, interval := none
    phases := x.phases.map Phase.latch }

/-- A statistics step that left a NaR in a factor sets STAT_NAR in the region of the operation's lowest cluster (R362;
log entry 31). -/
def State.checkStats (s : State) (p : Package) (pl : Placement) (n : Nat) : State :=
  p.blocks.zipIdx.foldl (fun s x =>
    match p.curv x.1.entry with
    | none => s
    | some e =>
      let on := s.run.statsEn && n % max 1 e.stat == 0
      let rows := x.1.n * x.1.n
      if on && (s.mem.siRead 8 (pl.area 0 x.2) rows).any Option.isNone then s.statNar pl e.op
      else s) s

/-- The commands that waited for this boundary: STEP_RUNs whose last step it was, QUIESCEs. A QUIESCE leaves the module
quiesced (R253, R376, R517). -/
def State.boundaryReplies (s : State) (step : BitVec 48) : State :=
  let ws := s.run.waits.map fun w => { w with left := w.left - 1 }
  let qs := s.run.quiescing.filter (!·.immediate)
  let t := s.onRun fun r =>
    { r with
      waits := ws.filter fun w => w.left != 0, quiescing := r.quiescing.filter (·.immediate)
      stopped := r.stopped || !qs.isEmpty }
  let t := if qs.isEmpty then t else t.dropRoots
  let t := (ws.filter fun w => w.left == 0).foldl (fun t w => t.finish w.port w.tag { words := [step.zeroExtend 64] }) t
  qs.foldl (fun t w => t.finish w.port w.tag { words := [0] }) t

/-- A due snapshot starts its freeze, or is deferred while staging is busy (R480, R484). -/
def State.boundarySnapshot (s : State) (n : Nat) : State :=
  if !s.snapshotDue n then s
  else if s.hlt.phase != .idle then s.onHlt fun h => { h.snapFlag 1 with deferred := true }
  else
    let t := s.startFreeze false
    if t.hlt.phase = .freeze ∧ t.run.budget ≠ 0 then { t with perf := { t.perf with interval := some 0 } } else t

/-- The step ends. -/
def State.endStep (s : State) (p : Package) (pl : Placement) : State :=
  let n := s.run.crvStep
  let t := (List.finRange 384).foldl (fun s c =>
    if pl.participates c.val then s.onCl c fun k => { k with slots := k.slots.set! 255 0 } else s) s
  let t := t.checkStats p pl n.toNat
  let t := t.onRun fun r => { r with step := none, stepped := true, crvStep := r.crvStep + 1, lost := false }
  let t := t.onFab fun f => { f with arrivals := f.arrivals.filter fun a => decide (n.toNat < a.step) }
  let t := { t with perf := t.perf.latch n }
  let t := { t with perf := { t.perf with copy := some (n.toNat, t.counterCopy) } }
  let t := t.event fromMarkhor 3 [n.zeroExtend 64]
  let t := (t.boundaryReplies n).installLoads.clearContexts
  t.serveSwitch.boundarySnapshot n.toNat

/-- STEP_BOUNDARY. -/
def execStepBoundary (s : State) : Res :=
  match s.placed, s.run.step with
  | some (p, pl), some k => .next (if s.atBoundary p pl k then s.endStep p pl else s)
  | _, _ => .next s

end Sys2Proof.Machine
end

