-- ==== Sys2Proof/Machine/DebugExec.lean ====
section
/-! DEFINITION. The debug window of the management sideband (15 R563; 18 R627, R629): its meaning. -/
namespace Sys2Proof.Machine

def debugSpace : Nat := 0xFF8000000000

/-- A cluster whose Tahr EBREAK has halted. -/
def State.halted (s : State) (c : Cl) : Bool := decide ((s.cl c).tahr.wait = some .debug)

/-- Where an address of the debug window leads. -/
inductive DebugAt where
  | directory (word : Nat)
  | register (c : Cl)
  | tile
  /-- a range that the directory assigns to an open scope -/
  | range
  | closed
  deriving DecidableEq, Repr

/-- Whether a directory entry opens an address: its base, its length in pages and its scope bit. -/
def debugRange (entry : BitVec 128) (scopes : BitVec 16) (a : Nat) : Bool :=
  let base := fld entry 0 48
  scopes.getLsbD (fld entry 64 8) && decide (base ≤ a ∧ a < base + fld entry 48 16 * 4096)

/-- The scopes opened so far decide what an address opens (R629). -/
def State.debugAt (s : State) (a : Nat) : DebugAt :=
  let scopes := s.sec.debugOpen
  if a % 8 ≠ 0 ∨ scopes = 0 then .closed
  else if debugSpace ≤ a ∧ a < debugSpace + 16 * (Config.debugDir.length + 1) then .directory ((a - debugSpace) / 8)
  else
    let other := if Config.debugDir.any fun e => debugRange e scopes a then DebugAt.range else .closed
    if !scopes.getLsbD 0 then other
    else match regAt a, rangeOf a with
      | .cluster c _, _ => if s.halted c then .register c else other
      | _, .tile n => (match clOf n with
          | some c => if s.halted c then .tile else other
          | none => other)
      | _, _ => other

/-- A word of the directory; the zero entry follows the last. -/
def directoryWord (i : Nat) : Word := BitVec.ofNat 64 (fld (Config.debugDir.getD (i / 2) 0) (64 * (i % 2)) 64)

/-- An acknowledged access: the word moved, and ADDR 8 higher. -/
def State.debugMoved (s : State) (w : Word) : State := { s with debugReply := some w, debugAddr := s.debugAddr + 8 }

/-- DEBUG_DATA_ACCESS: a read, or a write of a word. What a debug-space range holds is free, and what a write to one does
is not given: it is acknowledged alone (log entry 17). -/
def execDebugDataAccess (write : Option Word) (s : State) : Res :=
  let a := s.debugAddr.toNat
  let refused : State := { s with debugReply := none }
  if s.pwr.off || s.sec.extHeld || s.sec.boot != .ready then .next refused
  else match s.debugAt a, write with
    | .closed, _ => .next refused
    | .directory i, none => .next (s.debugMoved (directoryWord i))
    | .directory _, some w => .next (s.debugMoved w)
    | .register _, none => .next (s.debugMoved ((s.liveReg a).getD 0))
    | .register _, some w => .next (if settable a then refused else (s.writeReg a w).debugMoved w)
    | .tile, none => .next (s.debugMoved (s.mem.word a))
    | .tile, some w =>
      .next (({ s with mem := s.mem.write ((bytesOf 8 w.toNat).zipIdx.map fun b => { addr := a + b.2, data := b.1 }) } : State).debugMoved w)
    | .range, none => let (n, t) := s.draw
      .next (t.debugMoved (Config.freeWord n 0))
    | .range, some w => .next (s.debugMoved w)

end Sys2Proof.Machine
end

