-- ==== Sys2Proof/Machine/LinkExec.lean ====
section
/-! DEFINITION. The meanings of the links' and routers' steps (12 R426 to R450, 16 R590, R623). -/
namespace Sys2Proof.Machine

/-- LINK_TRAINING_START: a DOWN link whose port may run sees its neighbour's signal (R429, R589, R623). -/
def execLinkTrainingStart (p : FPort) (s : State) : Res :=
  let q := s.link p
  if q.link = .down ∧ !q.cageCut ∧ !s.pwr.fabOff.getLsbD p.val ∧ !s.pwr.off then
    .next (s.onFab (·.onLink p fun q => { q with link := .training }))
  else .next s

/-- LINK_TRAINING_DONE: the link comes UP, and what it counts from link-up on starts anew (R427, R429). -/
def execLinkTrainingDone (p : FPort) (s : State) : Res :=
  if (s.link p).link = .training then .next (s.onFab (·.onLink p fun q => q.fresh .up)) else .next s

/-- LINK_ALIGNMENT_LOST (R429). -/
def execLinkAlignmentLost (p : FPort) (s : State) : Res := .next (s.linkDown p)

/-- LINK_ACK_TIMEOUT: 10 µs with data unacknowledged and no link control (R429). -/
def execLinkAckTimeout (p : FPort) (s : State) : Res :=
  if (s.link p).live && !(s.link p).replay.isEmpty then .next (s.linkDown p) else .next s

/-! ### Link control (R427, R428) -/

/-- Acknowledged packets leave the replay buffer. -/
def Port.acked (q : Port) (seq : BitVec 16) : Port :=
  let first := q.txNext - BitVec.ofNat 16 q.replay.length
  let n := (seq - first).toNat
  if n ≤ q.replay.length then
    let left := q.replay.drop n
    { q with replay := left, resend := min q.resend left.length }
  else q

/-- A NAK: everything unacknowledged goes again; consecutive ones that name the same packet are counted. -/
def Port.nak (q : Port) (seq : BitVec 16) : Port :=
  { q with
    retry := q.retry + 1, resend := q.replay.length, nakSeq := seq
    nakRun := if q.nakRun ≠ 0 ∧ q.nakSeq = seq then q.nakRun + 1 else 1 }

/-- Credits of a link-control packet. -/
def creditsOf (p : Packet) : Vector Byte 8 := Vector.ofFn fun i => BitVec.ofNat 8 (p.pf (4 + i.val) 1)

/-- A good link-control packet takes effect. -/
def State.linkControl (s : State) (p : FPort) (k : Packet) : State :=
  let seq := BitVec.ofNat 16 (k.pf 0 2)
  let isNak := k.pf 2 1 % 2 = 1
  let isFenced := k.pf 2 1 / 2 % 2 = 1
  let q := { (s.link p).acked seq with credits := creditsOf k }
  let q := if isNak then q.nak seq else { q with nakRun := 0 }
  let q := { q with link := if isFenced then .remoteFenced else .up }
  let t := s.onFab (·.onLink p fun _ => q)
  let t := if isNak then t.onHlt fun h => { h with rise := { h.rise with retries := h.rise.retries + 1 } } else t
  if 8 ≤ q.nakRun then t.linkDown p
  else if isFenced then t.onFab (·.dropWaiting p) else t

/-- LINK_CONTROL_RECEIVE: a bad one is discarded. -/
def execLinkControlReceive (p : FPort) (rx : RxPacket) (s : State) : Res :=
  if !(s.link p).live then .next s
  else
    let t := s.onFab (·.onLink p (·.fec rx))
    if rx.good && rx.packet.type == 0xE then .next (t.linkControl p rx.packet) else .next t

/-- The credits of a link-control packet: the buffers freed since link-up, and no more than it has said before where the router is
closed (R427, R430). DEDUCED, log entry 154. -/
def Fabric.grants (f : Fabric) (p : FPort) : Vector Byte 8 :=
  if f.closed then
    match f.ports[p].control with
    | some k => creditsOf k
    | none => Vector.replicate 8 0
  else f.ports[p].freed

/-- What a link-control packet of a port says now. -/
def Fabric.controlPacket (f : Fabric) (p : FPort) : Packet :=
  let q := f.ports[p]
  mkPacket (headerOf 0xE 0 false 0 0) 0
    (payloadOf (bytesOf 2 q.rxNext.toNat ++ [BitVec.ofNat 8 (b2n q.discard + 2 * b2n f.closed), 0] ++ (f.grants p).toList))

/-- A link-control packet goes out in a slot. -/
def Fabric.sendControl (f : Fabric) (p : FPort) : Fabric :=
  let k := f.controlPacket p
  f.onLink p fun q => { q with control := some k, wire := some k, sinceCtl := 0, ctlSlots := 0 }

/-- LINK_CONTROL_SEND: at most one in 64 slots while data flows from the port (R426); a port whose neighbour is fenced sends nothing
else (R429). -/
def execLinkControlSend (p : FPort) (s : State) : Res :=
  let q := s.link p
  let load := decide (q.link = .up) && (s.fab.waiting.any (fun w => w.output == p) || decide (q.resend ≠ 0))
  if !q.live || (load && decide (q.ctlSlots < 63)) then .next s
  else .next (s.onFab (·.sendControl p))

/-! ### Data packets -/

/-- A packet goes on the wire. -/
def Port.send (q : Port) (k : Packet) : Port := { q with wire := some k, tx := q.tx + 1, ctlSlots := min 64 (q.ctlSlots + 1) }

/-- A slot passes without a data packet. -/
def Port.idle (q : Port) : Port := { q with ctlSlots := min 64 (q.ctlSlots + 1) }

/-- PORT_SLOT_SEND: a packet of a replay, else the packet that R441 chooses while the replay buffer has room; without a
committed route configuration the link carries its own traffic alone (R40), as it does while the neighbour is fenced (R429). -/
def execPortSlotSend (p : FPort) (s : State) : Res :=
  let q := s.link p
  let pass : Res := .next (s.onFab (·.onLink p Port.idle))
  if !q.live then .next s
  else if q.link ≠ .up then pass
  else if q.resend ≠ 0 then
    match q.replay[q.replay.length - q.resend]? with
    | some k => .next (s.onFab (·.onLink p fun q => { q.send k with resend := q.resend - 1 }))
    | none => pass
  else if 2048 ≤ q.replay.length then pass
  else match (if s.fab.valid then s.fab.pick p else none) with
    | none => pass
    | some (vc, i, turn) =>
      match s.fab.waiting[i]? with
      | none => pass
      | some w =>
        let dl := s.fab.dlOut w.input p w.packet
        let k := w.packet.withDl dl
        let c := bufClass vc dl
        .next (s.onFab fun f =>
          ({ f with waiting := f.waiting.eraseIdx i }.leave w.input w.slot w.packet).onLink p fun q =>
            { q.send k with
              txNext := q.txNext + 1, replay := q.replay ++ [k], used := q.used.set! c (q.used.getD c 0 + 1), rr := q.rr.set! vc turn
              rrVc := if vc = 1 then q.rrVc else if vc = 0 then 0 else vc - 1 })

/-- A good data packet is numbered and enters the router; one that a closed router no longer accepts is dropped and counted (R430;
DESIGN CHOICE, log entry 169). -/
def Fabric.takeData (f : Fabric) (p : FPort) (k : Packet) : Fabric :=
  let g := f.onLink p fun q => { q with discard := false, rxNext := q.rxNext + 1, sinceCtl := q.sinceCtl + 1 }
  if f.closed then g.noRoute.freeBuffer p.val k
  else (g.onLink p fun q => { q with rx := q.rx + 1 }).enter p.val k

/-- PACKET_RECEIVE: a bad packet starts a discard that the replay ends; a good one is numbered and enters the router
(R428, R435); the 64th since the last link-control packet brings the next one (R427). -/
def execPacketReceive (p : FPort) (rx : RxPacket) (s : State) : Res :=
  let q := s.link p
  if !q.live then .next s
  else
    let s := s.onFab (·.onLink p (·.fec rx))
    if !rx.good then .next (s.onFab (·.onLink p fun q => { q with discard := true }))
    else if rx.packet.type = 0xE then .next (s.linkControl p rx.packet)
    else if q.discard && !rx.replayed then .next s
    else
      let t := s.onFab (·.takeData p rx.packet)
      .next (if 64 ≤ (t.link p).sinceCtl then t.onFab (·.sendControl p) else t)

/-- CAGE_OVERCURRENT: the cable's supply is cut until a module reset, and its link goes DOWN (R623). -/
def State.cutCage (s : State) (p : FPort) : State := (s.onFab (·.onLink p fun q => { q with cageCut := true })).linkDown p

end Sys2Proof.Machine
end

