-- ==== Sys2Proof/Machine/Vector.lean ====
section
/-! DEFINITION. The meanings of the vector instructions (chapters 05 and 06): each runs one operation of the unit on
its cluster, sends a summary to Tahr, and retires when a kernel runs. -/
namespace Sys2Proof.Machine

/-- An instruction of the kernel retires: the pc passes it, and instret and WORK rise (R219, R606). -/
def Cluster.retire (k : Cluster) (len : Nat) : Cluster :=
  match k.tahr.kernel with
  | none => k
  | some x =>
    { k with tahr := { k.tahr with pc := k.tahr.pc + BitVec.ofNat 64 len, kernel := some { x with retired := x.retired + 1 } } }.work
      k.kernelFiring 2 1

/-- The x registers that fields of a vector instruction name are awaited (R195). -/
def Cluster.awaited (k : Cluster) (rs : List (BitVec 5)) : Cluster := { k with tahr := k.tahr.await rs }

/-- Tahr issues a vector instruction unless it waits or is halted: it is single-issue and in order (R218). The engine
works through its queue in order (R184), so that an instruction takes effect where it issues (log entry 45). -/
def Cluster.vecReady (k : Cluster) : Bool := k.tahr.wait.isNone

/-- A vector instruction on registers: `rs` are the x registers it reads, `fn` what the engine does. -/
def State.vecOp (s : State) (f : VArgs) (rs : List (BitVec 5)) (fn : Vec → XRegs → VRes) : State :=
  if !(s.cl f.cl).vecReady then s
  else s.onCl f.cl fun k =>
    let k := k.awaited rs
    let r := fn k.vec k.tahr.get
    let sums := match r.sum with
      | some x => k.tahr.summaries ++ [x]
      | none => k.tahr.summaries
    { k with vec := r.vec, tahr := { k.tahr with summaries := sums } }.retire 4

/-- A vector memory instruction: its writes go to tile memory under R245. -/
def State.vecMem (s : State) (f : VArgs) (fn : Vec → XRegs → Src → VMemRes) : State :=
  if !(s.cl f.cl).vecReady then s
  else
  let k := (s.cl f.cl).awaited [f.vs1, nextReg f.vs1]
  let m : Src := { byte := s.tileAs f.cl (s.cl f.cl).kernelFiring }
  let r := fn k.vec k.tahr.get m
  let t := s.onCl f.cl fun k => { k.awaited [f.vs1, nextReg f.vs1] with vec := r.vec }.retire 4
  t.firingWrite f.cl (t.cl f.cl).kernelFiring r.writes

/-- The scalar register of an instruction in scalar form (R209). -/
def scalarRegs (f : VArgs) : List (BitVec 5) := if f.x then [f.vs2] else []

/-! ### SI arithmetic (R171 to R173) -/

def siSum (a b : Ex) : SRes := okRes (a.add b)
def siDiff (a b : Ex) : SRes := okRes (a.sub b)
def siProd (a b : Ex) : SRes := okRes (a.mul b)

/-- VADD (R171). -/
def execVadd (a : VArgs) (s : State) : Res :=
  .next (s.vecOp a (scalarRegs a) fun v x => v.siBin a x true false (bin siSum))

/-- VSUB (R171). -/
def execVsub (a : VArgs) (s : State) : Res :=
  .next (s.vecOp a (scalarRegs a) fun v x => v.siBin a x true false (bin siDiff))

/-- VMUL (R171). -/
def execVmul (a : VArgs) (s : State) : Res :=
  .next (s.vecOp a (scalarRegs a) fun v x => v.siBin a x true false (bin siProd))

/-- VFMA (R171). -/
def execVfma (a : VArgs) (s : State) : Res :=
  .next (s.vecOp a (scalarRegs a) fun v x => v.siTri a x fun p q d => (p.mul q).add d)

/-- VFMS (R171). -/
def execVfms (a : VArgs) (s : State) : Res :=
  .next (s.vecOp a (scalarRegs a) fun v x => v.siTri a x fun p q d => (p.mul q).sub d)

/-- VNFMA (R171). -/
def execVnfma (a : VArgs) (s : State) : Res :=
  .next (s.vecOp a (scalarRegs a) fun v x => v.siTri a x fun p q d => d.sub (p.mul q))

/-- VDIV (R171, R172). -/
def execVdiv (a : VArgs) (s : State) : Res :=
  .next (s.vecOp a (scalarRegs a) fun v x => v.siBin a x true false (bin (divRes v.strict v.EW)))

/-- VRCP (R171, R172). -/
def execVrcp (a : VArgs) (s : State) : Res :=
  .next (s.vecOp a [] fun v _ => v.siUn a true false (rcpRes v.strict v.EW))

/-- VSQRT (R171, R172). -/
def execVsqrt (a : VArgs) (s : State) : Res :=
  .next (s.vecOp a [] fun v _ => v.siUn a true false (sqrtRes v.strict v.EW))

/-- VRSQRT (R171, R172). -/
def execVrsqrt (a : VArgs) (s : State) : Res :=
  .next (s.vecOp a [] fun v _ => v.siUn a true false (rsqrtRes v.strict v.EW))

/-- VMAX (R171). -/
def execVmax (a : VArgs) (s : State) : Res :=
  .next (s.vecOp a (scalarRegs a) fun v x => v.siBin a x false true (bin fun p q => okRes (exMax p q)))

/-- VMIN (R171). -/
def execVmin (a : VArgs) (s : State) : Res :=
  .next (s.vecOp a (scalarRegs a) fun v x => v.siBin a x false true (bin fun p q => okRes (exMin p q)))

/-- VABS (R171). -/
def execVabs (a : VArgs) (s : State) : Res :=
  .next (s.vecOp a [] fun v _ => v.siUn a false true fun p => okRes p.abs)

/-- VNEG (R171). -/
def execVneg (a : VArgs) (s : State) : Res :=
  .next (s.vecOp a [] fun v _ => v.siUn a false true fun p => okRes p.neg)

/-- VMULP2 (R171). -/
def execVmulp2 (a : VArgs) (s : State) : Res :=
  .next (s.vecOp a [a.vs2] fun v x => v.siMulp2 a x)

/-- VEXP (R171, R173). -/
def execVexp (a : VArgs) (s : State) : Res :=
  .next (s.vecOp a [] fun v _ => v.siUn a true false (expRes v.strict v.EW false))

/-- VEXP2 (R171, R173). -/
def execVexp2 (a : VArgs) (s : State) : Res :=
  .next (s.vecOp a [] fun v _ => v.siUn a true false (expRes v.strict v.EW true))

/-- VLN (R171, R173). -/
def execVln (a : VArgs) (s : State) : Res :=
  .next (s.vecOp a [] fun v _ => v.siUn a true false (lnRes v.strict v.EW false))

/-- VLOG2 (R171, R173). -/
def execVlog2 (a : VArgs) (s : State) : Res :=
  .next (s.vecOp a [] fun v _ => v.siUn a true false (lnRes v.strict v.EW true))

/-- VTANH (R171, R173). -/
def execVtanh (a : VArgs) (s : State) : Res :=
  .next (s.vecOp a [] fun v _ => v.siUn a true false (tanhRes v.strict v.EW))

/-- VSIGM (R171, R173). -/
def execVsigm (a : VArgs) (s : State) : Res :=
  .next (s.vecOp a [] fun v _ => v.siUn a true false (sigmRes v.strict v.EW))

/-- VERF (R171, R173). -/
def execVerf (a : VArgs) (s : State) : Res :=
  .next (s.vecOp a [] fun v _ => v.siUn a true false (erfRes v.strict v.EW))

/-- VBCAST_VS (R171). -/
def execVbcastVs (a : VArgs) (s : State) : Res :=
  .next (s.vecOp a [a.vs2] fun v x => v.siBcast a x)

/-- VMV (R171). -/
def execVmv (a : VArgs) (s : State) : Res :=
  .next (s.vecOp a [] fun v _ => v.siMove a)

/-- VSEL (R171, R175): `sel` is the selector predicate. -/
def execVsel (a : VArgs) (sel : BitVec 3) (s : State) : Res :=
  .next (s.vecOp a (scalarRegs a) fun v x => v.siSel a sel x)

/-- VCMP_EQ (R171, R174). -/
def execVcmpEq (a : VArgs) (s : State) : Res :=
  .next (s.vecOp a (scalarRegs a) fun v x => v.siCmp a x false fun c => c == 0)

/-- VCMP_NE (R171, R174). -/
def execVcmpNe (a : VArgs) (s : State) : Res :=
  .next (s.vecOp a (scalarRegs a) fun v x => v.siCmp a x true fun c => c != 0)

/-- VCMP_LT (R171, R174). -/
def execVcmpLt (a : VArgs) (s : State) : Res :=
  .next (s.vecOp a (scalarRegs a) fun v x => v.siCmp a x false fun c => decide (c < 0))

/-- VCMP_LE (R171, R174). -/
def execVcmpLe (a : VArgs) (s : State) : Res :=
  .next (s.vecOp a (scalarRegs a) fun v x => v.siCmp a x false fun c => decide (c ≤ 0))

/-- VCMP_GT (R171, R174). -/
def execVcmpGt (a : VArgs) (s : State) : Res :=
  .next (s.vecOp a (scalarRegs a) fun v x => v.siCmp a x false fun c => decide (0 < c))

/-- VCMP_GE (R171, R174). -/
def execVcmpGe (a : VArgs) (s : State) : Res :=
  .next (s.vecOp a (scalarRegs a) fun v x => v.siCmp a x false fun c => decide (0 ≤ c))

/-! ### Integers (R176) -/

/-- VIADD (R176). -/
def execViadd (a : VArgs) (s : State) : Res :=
  .next (s.vecOp a (scalarRegs a) fun v x => v.intBin a x iAdd)

/-- VISUB (R176). -/
def execVisub (a : VArgs) (s : State) : Res :=
  .next (s.vecOp a (scalarRegs a) fun v x => v.intBin a x iSub)

/-- VIMUL (R176). -/
def execVimul (a : VArgs) (s : State) : Res :=
  .next (s.vecOp a (scalarRegs a) fun v x => v.intBin a x iMul)

/-- VIMULH (R176). -/
def execVimulh (a : VArgs) (s : State) : Res :=
  .next (s.vecOp a (scalarRegs a) fun v x => v.intBin a x iMulh)

/-- VIMULHU (R176). -/
def execVimulhu (a : VArgs) (s : State) : Res :=
  .next (s.vecOp a (scalarRegs a) fun v x => v.intBin a x iMulhu)

/-- VAND (R176). -/
def execVand (a : VArgs) (s : State) : Res :=
  .next (s.vecOp a (scalarRegs a) fun v x => v.intBin a x fun _ p q => Nat.land p q)

/-- VOR (R176). -/
def execVor (a : VArgs) (s : State) : Res :=
  .next (s.vecOp a (scalarRegs a) fun v x => v.intBin a x fun _ p q => Nat.lor p q)

/-- VXOR (R176). -/
def execVxor (a : VArgs) (s : State) : Res :=
  .next (s.vecOp a (scalarRegs a) fun v x => v.intBin a x fun _ p q => Nat.xor p q)

/-- VSLL (R176). -/
def execVsll (a : VArgs) (s : State) : Res :=
  .next (s.vecOp a (scalarRegs a) fun v x => v.intBin a x iSll)

/-- VSRL (R176). -/
def execVsrl (a : VArgs) (s : State) : Res :=
  .next (s.vecOp a (scalarRegs a) fun v x => v.intBin a x iSrl)

/-- VSRA (R176). -/
def execVsra (a : VArgs) (s : State) : Res :=
  .next (s.vecOp a (scalarRegs a) fun v x => v.intBin a x iSra)

/-- VIMIN (R176). -/
def execVimin (a : VArgs) (s : State) : Res :=
  .next (s.vecOp a (scalarRegs a) fun v x => v.intBin a x iMin)

/-- VIMAX (R176). -/
def execVimax (a : VArgs) (s : State) : Res :=
  .next (s.vecOp a (scalarRegs a) fun v x => v.intBin a x iMax)

/-- VIMINU (R176). -/
def execViminu (a : VArgs) (s : State) : Res :=
  .next (s.vecOp a (scalarRegs a) fun v x => v.intBin a x fun _ p q => min p q)

/-- VIMAXU (R176). -/
def execVimaxu (a : VArgs) (s : State) : Res :=
  .next (s.vecOp a (scalarRegs a) fun v x => v.intBin a x fun _ p q => max p q)

/-- VICMP_EQ (R176). -/
def execVicmpEq (a : VArgs) (s : State) : Res :=
  .next (s.vecOp a (scalarRegs a) fun v x => v.intCmp a x fun _ p q => p == q)

/-- VICMP_NE (R176). -/
def execVicmpNe (a : VArgs) (s : State) : Res :=
  .next (s.vecOp a (scalarRegs a) fun v x => v.intCmp a x fun _ p q => p != q)

/-- VICMP_LT (R176). -/
def execVicmpLt (a : VArgs) (s : State) : Res :=
  .next (s.vecOp a (scalarRegs a) fun v x => v.intCmp a x fun w p q => decide (signedOf w p < signedOf w q))

/-- VICMP_LE (R176). -/
def execVicmpLe (a : VArgs) (s : State) : Res :=
  .next (s.vecOp a (scalarRegs a) fun v x => v.intCmp a x fun w p q => decide (signedOf w p ≤ signedOf w q))

/-- VICMP_LTU (R176). -/
def execVicmpLtu (a : VArgs) (s : State) : Res :=
  .next (s.vecOp a (scalarRegs a) fun v x => v.intCmp a x fun _ p q => decide (p < q))

/-- VICMP_LEU (R176). -/
def execVicmpLeu (a : VArgs) (s : State) : Res :=
  .next (s.vecOp a (scalarRegs a) fun v x => v.intCmp a x fun _ p q => decide (p ≤ q))

/-- VIDX (R176). -/
def execVidx (a : VArgs) (s : State) : Res :=
  .next (s.vecOp a [] fun v _ => v.intIdx a)

/-- VISPLAT_VX (R176). -/
def execVisplatVx (a : VArgs) (s : State) : Res :=
  .next (s.vecOp a [a.vs2] fun v x => v.intSplat a x)

/-! ### Widths and kinds (R177) -/

/-- VWID (R177). -/
def execVwid (a : VArgs) (s : State) : Res :=
  .next (s.vecOp a [] fun v _ => v.widen a)

/-- VNAR (R177). -/
def execVnar (a : VArgs) (s : State) : Res :=
  .next (s.vecOp a [] fun v _ => v.narrow a)

/-- VIWID (R177). -/
def execViwid (a : VArgs) (s : State) : Res :=
  .next (s.vecOp a [] fun v _ => v.intWiden a true)

/-- VIWIDU (R177). -/
def execViwidu (a : VArgs) (s : State) : Res :=
  .next (s.vecOp a [] fun v _ => v.intWiden a false)

/-- VINAR (R177). -/
def execVinar (a : VArgs) (s : State) : Res :=
  .next (s.vecOp a [] fun v _ => v.intNarrow a)

/-- VCVT_SI_I (R177). -/
def execVcvtSiI (a : VArgs) (s : State) : Res :=
  .next (s.vecOp a [] fun v _ => v.cvtSiI a)

/-- VCVT_I_SI (R177). -/
def execVcvtISi (a : VArgs) (s : State) : Res :=
  .next (s.vecOp a [] fun v _ => v.cvtISi a)

/-! ### Predicates (R178) -/

/-- PAND (R178). -/
def execPand (a : VArgs) (s : State) : Res :=
  .next (s.vecOp a [] fun v _ => v.predOp a .pred .pred fun p q => p && q)

/-- POR (R178). -/
def execPor (a : VArgs) (s : State) : Res :=
  .next (s.vecOp a [] fun v _ => v.predOp a .pred .pred fun p q => p || q)

/-- PXOR (R178). -/
def execPxor (a : VArgs) (s : State) : Res :=
  .next (s.vecOp a [] fun v _ => v.predOp a .pred .pred fun p q => p != q)

/-- PANDN (R178). -/
def execPandn (a : VArgs) (s : State) : Res :=
  .next (s.vecOp a [] fun v _ => v.predOp a .pred .pred fun p q => p && !q)

/-- PNOT (R178). -/
def execPnot (a : VArgs) (s : State) : Res :=
  .next (s.vecOp a [] fun v _ => v.predOp a .pred .none fun p _ => !p)

/-- PSET (R178). -/
def execPset (a : VArgs) (s : State) : Res :=
  .next (s.vecOp a [] fun v _ => v.predOp a .none .none fun _ _ => true)

/-- PCLR (R178). -/
def execPclr (a : VArgs) (s : State) : Res :=
  .next (s.vecOp a [] fun v _ => v.predOp a .none .none fun _ _ => false)

/-! ### Reductions, segments, movement, summaries (R186 to R199) -/

/-- VREDSUM (R186 to R189). -/
def execVredsum (a : VArgs) (s : State) : Res :=
  .next (s.vecOp a [] fun v _ => v.red a .sum)

/-- VREDMAX (R186 to R189). -/
def execVredmax (a : VArgs) (s : State) : Res :=
  .next (s.vecOp a [] fun v _ => v.red a .max)

/-- VREDMIN (R186 to R189). -/
def execVredmin (a : VArgs) (s : State) : Res :=
  .next (s.vecOp a [] fun v _ => v.red a .min)

/-- VIREDSUM (R190, R213): the reduction row with I = 1. -/
def execViredsum (a : VArgs) (s : State) : Res :=
  .next (s.vecOp a [] fun v _ => v.red { a with x := true } .sum)

/-- VIREDMAX (R190, R213): the reduction row with I = 1. -/
def execViredmax (a : VArgs) (s : State) : Res :=
  .next (s.vecOp a [] fun v _ => v.red { a with x := true } .max)

/-- VIREDMIN (R190, R213): the reduction row with I = 1. -/
def execViredmin (a : VArgs) (s : State) : Res :=
  .next (s.vecOp a [] fun v _ => v.red { a with x := true } .min)

/-- VSEGSUM (R191, R192). -/
def execVsegsum (a : VArgs) (s : State) : Res :=
  .next (s.vecOp a [] fun v _ => v.seg a .sum)

/-- VSEGMAX (R191, R192). -/
def execVsegmax (a : VArgs) (s : State) : Res :=
  .next (s.vecOp a [] fun v _ => v.seg a .max)

/-- VSEGMIN (R191, R192). -/
def execVsegmin (a : VArgs) (s : State) : Res :=
  .next (s.vecOp a [] fun v _ => v.seg a .min)

/-- VCOMPRESS (R193). -/
def execVcompress (a : VArgs) (s : State) : Res :=
  .next (s.vecOp a [] fun v _ => v.compress a)

/-- VEXPAND (R194). -/
def execVexpand (a : VArgs) (s : State) : Res :=
  .next (s.vecOp a [] fun v _ => v.expand a)

/-- VPERM (R198). -/
def execVperm (a : VArgs) (s : State) : Res :=
  .next (s.vecOp a [] fun v _ => v.perm a)

/-- VSLIDEUP (R199). -/
def execVslideup (a : VArgs) (s : State) : Res :=
  .next (s.vecOp a [a.vs2] fun v x => v.slideUp a x)

/-- VSLIDEDN (R199). -/
def execVslidedn (a : VArgs) (s : State) : Res :=
  .next (s.vecOp a [a.vs2] fun v x => v.slideDown a x)

/-- VPSUM_POPC (R196). -/
def execVpsumPopc (a : VArgs) (s : State) : Res :=
  .next (s.vecOp a [] fun v _ => v.psum a fun _ ones => (ones.length : Int))

/-- VPSUM_ANY (R196). -/
def execVpsumAny (a : VArgs) (s : State) : Res :=
  .next (s.vecOp a [] fun v _ => v.psum a fun _ ones => if ones.isEmpty then 0 else 1)

/-- VPSUM_ALL (R196). -/
def execVpsumAll (a : VArgs) (s : State) : Res :=
  .next (s.vecOp a [] fun v _ => v.psum a fun act ones => if ones.length = act.length then 1 else 0)

/-- VPSUM_FIRST (R196). -/
def execVpsumFirst (a : VArgs) (s : State) : Res :=
  .next (s.vecOp a [] fun v _ => v.psum a fun _ ones => match ones with | [] => -1 | k :: _ => (k : Int))

/-- VSMAX (R197). -/
def execVsmax (a : VArgs) (s : State) : Res :=
  .next (s.vecOp a [] fun v _ => v.smax a)

/-- VMVX (R197). -/
def execVmvx (a : VArgs) (s : State) : Res :=
  .next (s.vecOp a [] fun v _ => v.mvx a)

/-- VSETCFG (R160, R213). -/
def execVsetcfg (a : VArgs) (s : State) : Res :=
  .next (s.vecOp a [a.vs1] fun v x => v.setCfg a x)

/-! ### Memory (R201 to R206) -/

/-- VLD (R201). -/
def execVld (a : VArgs) (s : State) : Res := .next (s.vecMem a fun v x m => v.ld a s.desc x m)

/-- VST (R201). -/
def execVst (a : VArgs) (s : State) : Res := .next (s.vecMem a fun v x _ => v.st a s.desc x)

/-- VLDRES (R205). -/
def execVldres (a : VArgs) (s : State) : Res := .next (s.vecMem a fun v x m => v.ldres a x m)

/-- VSTRES (R206). -/
def execVstres (a : VArgs) (s : State) : Res := .next (s.vecMem a fun v x _ => v.stres a x)

/-! ### Summaries (R195) -/

/-- SUMMARY_DELIVERY: the oldest summary reaches its x register. -/
def execSummaryDelivery (c : Cl) (s : State) : Res := .next (s.onCl c fun k => { k with tahr := k.tahr.deliverOne })

end Sys2Proof.Machine
end

