-- ==== Sys2Proof/Machine/TahrExec.lean ====
section
/-! DEFINITION. The meanings of Tahr's own instructions (07 R215 to R224, R632, R636): the base instruction set, the
control and status registers, and the extension in opcode 0x0B. -/
namespace Sys2Proof.Machine

/-! ### Fetch (R216, R218) -/

/-- Tile memory as Tahr's kernel reads it. -/
def State.kernelTile (s : State) (c : Cl) : Nat → Byte := s.tileAs c (s.cl c).kernelFiring

/-- The 64 bytes of a line of tile memory. -/
def State.tileLine (s : State) (c : Cl) (n : Nat) : BitVec 512 := BitVec.ofNat 512 (leBytes (s.kernelTile c) (64 * n) 64)

/-- Lines of 64 bytes in the 32 KiB of the instruction cache (R218). -/
def icacheLines : Nat := 512

/-- A line enters the cache; a full cache loses one (log entry 12). -/
def Tahr.cacheLine (t : Tahr) (n : Nat) (line : BitVec 512) : Tahr :=
  let kept := if t.icache.length < icacheLines || (smFind t.icache n).isSome then t.icache
    else t.icache.eraseIdx (Config.icacheVictim t.fetches % t.icache.length)
  { t with icache := smSet kept n line, fetches := t.fetches + 1 }

/-- One 16-bit parcel at a tile offset: from the cached line when the cache still holds it, else from a fill (log
entry 12). -/
def fetchParcel (t : Tahr) (fill : Nat → BitVec 512) (a : Nat) : Tahr × Nat :=
  let n := a / 64
  let miss := (t.cacheLine n (fill n), fill n)
  let (u, line) := match smFind t.icache n with
    | some l => if Config.icacheHolds t.fetches then ({ t with fetches := t.fetches + 1 }, l) else miss
    | none => miss
  (u, line.toNat / 2 ^ (8 * (a % 64)) % 65536)

/-- The instruction at the pc and its length; none where a byte of it lies outside tile memory (R220). -/
def Tahr.fetch (t : Tahr) (fill : Nat → BitVec 512) : Tahr × Option (BitVec 32 × Nat) :=
  let a := t.pc.toNat
  if 0x600000 ≤ a + 1 then (t, none)
  else
    let (u, lo) := fetchParcel t fill a
    if rvLen lo = 2 then (u, some (BitVec.ofNat 32 lo, 2))
    else if 0x600000 ≤ a + 3 then (u, none)
    else
      let (v, hi) := fetchParcel u fill (a + 2)
      (v, some (BitVec.ofNat 32 (lo + 65536 * hi), 4))

/-! ### Retirement and faults -/

/-- Tahr carries out an instruction of its own only while a kernel runs and does not wait. -/
def Cluster.tahrReady (k : Cluster) : Bool := k.tahr.kernel.isSome && k.tahr.wait.isNone

/-- An instruction that jumps retires. -/
def Cluster.retireTo (k : Cluster) (pc : Word) : Cluster :=
  let r := k.retire 0
  { r with tahr := { r.tahr with pc := pc } }

/-- A Tahr fault (R220, R238). -/
def State.tahrFault (s : State) (c : Cl) (cause : Nat) : State :=
  match (s.cl c).kernelFiring with
  | some f => s.faultFiring c f cause
  | none => s

/-- A register result, and the next instruction. -/
def State.tahrSet (s : State) (c : Cl) (rd : BitVec 5) (v : Word) (len : Nat) : State :=
  s.onCl c fun k => { k with tahr := k.tahr.set rd v }.retire len

/-! ### Loads and stores (R216, R632) -/

/-- The base of Tahr's view of its register block. -/
def tahrRegs : Nat := 0x1000000

/-- The fault cause of an access, 0 when there is none: the range is checked first, then the size, then the
alignment. -/
def accessFault (a len : Nat) : Nat :=
  if a < 0x600000 then (if a % len ≠ 0 then 3 else 0)
  else if tahrRegs ≤ a ∧ a < tahrRegs + 0x10000 then (if len < 8 then 2 else if a % 8 ≠ 0 then 3 else 0)
  else 2

def State.tahrLoad (s : State) (c : Cl) (f3 : BitVec 3) (rd : BitVec 5) (a len : Nat) : State :=
  let n := loadLen f3
  let cause := accessFault a n
  if cause ≠ 0 then s.tahrFault c cause
  else if a < 0x600000 then s.tahrSet c rd (extend f3 (leBytes (s.kernelTile c) a n)) len
  else s.tahrSet c rd ((s.clusterReg c (a - tahrRegs)).getD 0) len

/-- A store of Tahr. DEDUCED, log entry 161: a store to its own register block takes effect at once, in a speculative kernel
too. -/
def State.tahrStore (s : State) (c : Cl) (f3 : BitVec 3) (v : Word) (a len : Nat) : State :=
  let n := loadLen f3
  let cause := accessFault a n
  if cause ≠ 0 then s.tahrFault c cause
  else if a < 0x600000 then
    let t := s.onCl c (·.retire len)
    t.firingWrite c (t.cl c).kernelFiring (writesAt a (bytesOf n v.toNat))
  else s.onCl c fun k => (k.writeReg (a - tahrRegs) v).retire len

/-! ### The base set (R215) -/

/-- A base instruction; `pc` and `len` are its address and length. A vector word that no row of R211 to R213 names sets
ILL_OP, and the next instruction proceeds (R180, R214). -/
def State.rvExec (s : State) (c : Cl) (i : Rv) (len : Nat) : State :=
  let t := (s.cl c).tahr
  let pc := t.pc
  let next := pc + BitVec.ofNat 64 len
  match i with
  | .lui rd imm => s.tahrSet c rd imm len
  | .auipc rd imm => s.tahrSet c rd (pc + imm) len
  | .jal rd off => s.onCl c fun k => { k with tahr := k.tahr.set rd next }.retireTo (pc + off)
  | .jalr rd rs1 off =>
    let dest := (t.get rs1 + off) &&& ~~~1#64
    s.onCl c fun k => { k with tahr := k.tahr.set rd next }.retireTo dest
  | .branch f3 rs1 rs2 off =>
    s.onCl c (·.retireTo (if taken f3 (t.get rs1) (t.get rs2) then pc + off else next))
  | .load f3 rd rs1 off => s.tahrLoad c f3 rd (t.get rs1 + off).toNat len
  | .store f3 rs1 rs2 off => s.tahrStore c f3 (t.get rs2) (t.get rs1 + off).toNat len
  | .opImm f3 rd rs1 imm => s.tahrSet c rd (aluImm f3 (t.get rs1) imm) len
  | .opImmW f3 rd rs1 imm => s.tahrSet c rd (aluImmW f3 (t.get rs1) imm) len
  | .op f7 f3 rd rs1 rs2 => s.tahrSet c rd (alu f7 f3 (t.get rs1) (t.get rs2)) len
  | .opW f7 f3 rd rs1 rs2 => s.tahrSet c rd (aluW f7 f3 (t.get rs1) (t.get rs2)) len
  | .illegal => s.tahrFault c 1
  | .vector w =>
    match vectorWord c w with
    | some _ => s
    | none => s.onCl c fun k => { k with vec := k.vec.illegal }.retire len
  | .fence | .fenceI | .ebreak | .csr _ _ _ _ | .ext _ _ _ _ => s

/-- TAHR_BASE_INSTRUCTION: fetches the instruction at the pc and carries it out when it belongs to the base set or is
illegal, or a vector word with a reserved function; the other rows carry out the rest. -/
def execTahrBaseInstruction (c : Cl) (s : State) : Res :=
  let k := s.cl c
  if !k.tahrReady then .next s
  else
    let (u, w) := k.tahr.fetch (s.tileLine c)
    let s := s.onCl c fun k => { k with tahr := u }
    match w with
    | none => .next (s.tahrFault c 2)
    | some (w, len) =>
      let i := rvOf w
      .next ((s.onCl c (·.awaited i.regs)).rvExec c i len)

/-! ### Control and status registers (R219, R636) -/

/-- The value of a listed CSR; the counts of cycles are free (R232 gives no relation to the commands of the block). -/
def State.csrRead (s : State) (c : Cl) (num : BitVec 12) (nonce : Nat) : Option Word :=
  let k := s.cl c
  let self := k.kernelFiring
  let e := k.entry ((k.tahr.kernel.map (·.entry)).getD 0)
  match num.toNat with
  | 0x800 => some k.vec.cfgReg
  | 0x801 => some k.vec.modeReg
  | 0x802 => some (k.vec.sscale.zeroExtend 64)
  | 0x803 => some (k.vec.stat.zeroExtend 64)
  | 0xCC0 =>
    some (packBits [((k.tahr.kernel.map (·.entry)).getD 0, 0), (c.val, 16), (b2n (self.any (·.held)), 32)])
  | 0xCC1 => some (BitVec.ofNat 64 e.tag)
  | 0xC00 => some (Config.freeWord nonce 0)
  | 0xC01 => some (s.pwr.islands[(fromCluster c).island].ticks.zeroExtend 64)
  | 0xC02 => some (BitVec.ofNat 64 ((k.tahr.kernel.map (·.retired)).getD 0))
  | _ => none

/-- A CSR number with access RO: its two top bits are set, as in the RISC-V numbering. -/
def csrReadOnly (num : BitVec 12) : Bool := num.toNat = 0xCC0 || num.toNat = 0xCC1 || (0xC00 ≤ num.toNat && num.toNat ≤ 0xC02)

/-- A CSR written: VEC_STAT takes ones as clears (R182). DESIGN CHOICE, log entry 143: CSRRS and CSRRC form their word
from the value read, as for any other CSR, and that word clears. -/
def Cluster.csrWrite (k : Cluster) (num : BitVec 12) (w : Word) : Cluster :=
  match num.toNat with
  | 0x800 => k.writeReg 0x600 w
  | 0x801 => k.writeReg 0x608 w
  | 0x802 => k.writeReg 0x618 w
  | 0x803 => k.writeReg 0x610 w
  | _ => k

/-- CSR_INSTRUCTION: CSRRW, CSRRS, CSRRC and their immediate forms by funct3; CSRRS and CSRRC with x0 or a zero
immediate do not write. -/
def execCsrInstruction (c : Cl) (f3 : BitVec 3) (rd rs1 : BitVec 5) (num : BitVec 12) (s : State) : Res :=
  if !(s.cl c).tahrReady then .next s
  else
    let (n, s) := s.draw
    let s := s.onCl c (·.awaited (if f3.toNat < 4 then [rd, rs1] else [rd]))
    let op := f3.toNat % 4
    let writes := op = 1 || rs1 != 0
    match s.csrRead c num n with
    | none => .next (s.tahrFault c 1)
    | some old =>
      if op = 0 ∨ (writes ∧ csrReadOnly num) then .next (s.tahrFault c 1)
      else
        let a := if 4 ≤ f3.toNat then rs1.zeroExtend 64 else (s.cl c).tahr.get rs1
        let new := match op with
          | 1 => a
          | 2 => old ||| a
          | _ => old &&& ~~~a
        let t := if writes then s.onCl c (·.csrWrite num new) else s
        .next (t.tahrSet c rd old 4)

/-! ### FENCE, FENCE.I, EBREAK (R215, R217) -/

/-- EBREAK: Tahr halts for the debugger while scope 0 is open, else the instruction is illegal (R563). -/
def execEbreak (c : Cl) (s : State) : Res :=
  if !(s.cl c).tahrReady then .next s
  else if s.sec.debugOpen.getLsbD 0 then
    .next (s.onCl c fun k => { k with tahr := { k.tahr with wait := some .debug } })
  else .next (s.tahrFault c 1)

/-- FENCE adds no ordering beyond that of R217, which a model of whole commands keeps. -/
def execFence (c : Cl) (s : State) : Res :=
  if !(s.cl c).tahrReady then .next s else .next (s.onCl c (·.retire 4))

/-- FENCE.I empties the instruction cache. -/
def execFenceI (c : Cl) (s : State) : Res :=
  if !(s.cl c).tahrReady then .next s
  else .next (s.onCl c fun k => { k with tahr := { k.tahr with icache := [] } }.retire 4)

/-! ### The extension (R221 to R223) -/

/-- TARR: the range of the offset is checked before its alignment; a full queue makes Tahr wait (R218). -/
def execTarr (c : Cl) (rs1 : BitVec 5) (s : State) : Res :=
  if !(s.cl c).tahrReady then .next s
  else
    let s := s.onCl c (·.awaited [rs1])
    let k := s.cl c
    let e := k.entry ((k.tahr.kernel.map (·.entry)).getD 0)
    let a := (k.tahr.get rs1).toNat
    if !e.usesArray then .next (s.tahrFault c 1)
    else if 0x600000 < a + 32 then .next (s.tahrFault c 2)
    else if a % 32 ≠ 0 then .next (s.tahrFault c 3)
    else if 16 ≤ k.arr.queue.length then .next s
    else
      let cmd : ArrCmd := { word := BitVec.ofNat 256 (leBytes (s.kernelTile c) a 32), taskStrict := e.strict }
      .next (s.onCl c fun k => { k with arr := { k.arr with queue := k.arr.queue ++ [cmd] } }.retire 4)

/-- No command is queued or running in the array. -/
def Arr.idle (a : Arr) : Bool := a.queue.isEmpty && a.loading.isNone && a.streams.isEmpty && a.drains.isEmpty

/-- TARRSYNC: the wait begins. -/
def execTarrsync (c : Cl) (rd : BitVec 5) (s : State) : Res :=
  if !(s.cl c).tahrReady then .next s
  else .next (s.onCl c fun k => { k with tahr := { k.tahr with wait := some (.sync rd) } })

/-- The array commands that the kernel enqueued have completed: a kernel without USES_ARRAY enqueued none, and beside
one with it the array takes no other work (R221, R235). -/
def Cluster.ownArrayIdle (k : Cluster) : Bool :=
  !(k.entry ((k.tahr.kernel.map (·.entry)).getD 0)).usesArray || k.arr.idle

/-- TARRSYNC_RESUME: x[rd] takes ARR_STAT once the kernel's own array commands have completed. -/
def execTarrsyncResume (c : Cl) (s : State) : Res :=
  let k := s.cl c
  match k.tahr.wait with
  | some (.sync rd) =>
    if k.ownArrayIdle then
      let t := s.onCl c fun k => { k with tahr := { k.tahr with wait := none } }.awaited [rd]
      .next (t.tahrSet c rd (k.arr.stat.zeroExtend 64) 4)
    else .next s
  | _ => .next s

/-- A signal of a kernel: held for a speculative firing (R223), else on its way. -/
def State.kernelSignal (s : State) (c : Cl) (target slot amount : Nat) : State :=
  match (s.cl c).kernelFiring with
  | some f => if f.held then s.holdItem c f (.signal target slot amount) else s.signal c target slot amount
  | none => s

/-- TPROD: 0x1FF names the own cluster, 384 to 510 none. -/
def execTprod (c : Cl) (rs1 rs2 : BitVec 5) (s : State) : Res :=
  if !(s.cl c).tahrReady then .next s
  else
    let s := s.onCl c (·.awaited [rs1, rs2])
    let t := (s.cl c).tahr
    let n := fld (t.get rs1) 0 9
    let slot := fld (t.get rs1) 9 8
    let amount := fld (t.get rs2) 0 8
    if 384 ≤ n ∧ n < 511 then .next (s.tahrFault c 2)
    else
      let s := s.onCl c (·.retire 4)
      .next (if amount = 0 then s else s.kernelSignal c (if n = 511 then c.val else n) slot amount)

/-- TWAITS: the wait begins. -/
def execTwaits (c : Cl) (rs1 rs2 : BitVec 5) (s : State) : Res :=
  if !(s.cl c).tahrReady then .next s
  else
    .next (s.onCl c fun k =>
      let k := k.awaited [rs1, rs2]
      { k with tahr := { k.tahr with wait := some (.slot ((k.tahr.get rs1).truncate 8) ((k.tahr.get rs2).truncate 8)) } })

/-- TWAITS_RESUME: the committed count covers the amount, which is subtracted. -/
def execTwaitsResume (c : Cl) (s : State) : Res :=
  let k := s.cl c
  match k.tahr.wait with
  | some (.slot n amount) =>
    if amount.toNat ≤ k.slot n.toNat then
      .next (s.onCl c fun k => ({ k with tahr := { k.tahr with wait := none } }.subSlot n.toNat amount.toNat).retire 4)
    else .next s
  | _ => .next s

/-- TGUARD: held for a speculative kernel, else the guard resolves at once. -/
def execTguard (c : Cl) (rs1 rs2 : BitVec 5) (s : State) : Res :=
  if !(s.cl c).tahrReady then .next s
  else
    let s := s.onCl c (·.awaited [rs1, rs2])
    let t := (s.cl c).tahr
    let g := fld (t.get rs1) 0 6
    let v := t.get rs2 != 0
    let s := s.onCl c (·.retire 4)
    match (s.cl c).kernelFiring with
    | some f => .next (if f.held then s.holdItem c f (.guard g v) else s.resolve guardDepth (rgOf c) g v)
    | none => .next s

/-- TEND: the kernel has ended with its result; TASK_COMPLETE ends its firing. -/
def execTend (c : Cl) (rs1 : BitVec 5) (s : State) : Res :=
  if !(s.cl c).tahrReady then .next s
  else
    .next (s.onCl c fun k =>
      let k := (k.awaited [rs1]).retire 4
      let r : BitVec 32 := (k.tahr.get rs1).truncate 32
      let i := (k.tahr.kernel.map (·.entry)).getD 0
      { k.onFiring i fun f => { f with ended := true, result := r } with tahr := { k.tahr with kernel := none } })

/-- CYCLE_BUDGET_EXCEEDED: a kernel with a non-zero BUDGET faults with cause 4 (R224). -/
def execCycleBudgetExceeded (c : Cl) (s : State) : Res :=
  let k := s.cl c
  match k.tahr.kernel with
  | some x => if (k.entry x.entry).f 6 0 32 = 0 then .next s else .next (s.tahrFault c 4)
  | none => .next s

end Sys2Proof.Machine
end

