-- ==== Sys2Proof/Machine/Tasks.lean ====
section
/-! DEFINITION. The meanings of the task scheduler's steps (07 R225 to R253): dispatch, signals, completion, commit. -/
namespace Sys2Proof.Machine

/-! ### Readiness (R231, R235, R243, R247) -/

/-- Firings whose work still occupies their unit. -/
def Cluster.busy (k : Cluster) : List Firing := k.firings.filter (!·.final)

def Work.isArray : Work → Bool
  | .array => true
  | _ => false

def Work.isVector : Work → Bool
  | .vector => true
  | _ => false

def Work.isSolver : Work → Bool
  | .solver _ _ => true
  | _ => false

def Work.engine : Work → Option (Fin 4)
  | .dma d => some d.engine
  | _ => none

/-- A DMA engine without a firing. -/
def Cluster.engineFree (k : Cluster) (e : Fin 4) : Bool := k.busy.all fun f => f.unit.engine != some e

/-- The engine that a DMA descriptor gets: the named one, or the lowest-numbered free one (R235). -/
def Cluster.engineFor (k : Cluster) (e : TEntry) : Option (Fin 4) :=
  let n := e.f 15 0 3
  if h : n < 4 then (if k.engineFree ⟨n, h⟩ then some ⟨n, h⟩ else none) else (List.finRange 4).find? k.engineFree

/-- Whether the unit of a task can take it (R235); a KIND without a unit is settled by the checks of R229. -/
def Cluster.unitFree (k : Cluster) (e : TEntry) : Bool :=
  match e.kind with
  | 1 => k.busy.all fun f => !f.unit.isArray && !(f.unit.isVector && (k.entry f.entry).usesArray)
  | 2 => k.busy.all fun f => !f.unit.isVector && !(e.usesArray && f.unit.isArray)
  | 3 => (k.engineFor e).isSome || decide (4 < e.f 15 0 3)
  | 4 => decide ((k.busy.filter fun f => f.unit.isSolver).length < 4)
  | _ => true

/-- None of its buffers is claimed by another entry. -/
def Cluster.bufsFree (k : Cluster) (i : Nat) (e : TEntry) : Bool :=
  e.wbufs.all fun b => !(k.buf b).claimed || (k.buf b).owner.toNat == i

/-- Two guard sets as one, when they carry no guard with both values and at most four guards (R247). -/
def joinGuards (a b : GSet) : Option GSet :=
  if a.any fun p => b.contains (p.1, !p.2) then none
  else
    let u := (a ++ b).eraseDups
    if u.length ≤ 4 then some u else none

/-- Held signals to a slot counted in table order until a deficit is covered, then what `next` makes of the guard set.
A signal whose guards conflict with the set, or whose counting leads to no dispatch, is passed over (R247). -/
def coverSlot (c : Cl) (slot : Nat) (next : GSet → Option GSet) : List Held → Nat → GSet → Option GSet
  | _, 0, gs => next gs
  | [], _ + 1, _ => none
  | h :: hs, need + 1, gs =>
    let without := coverSlot c slot next hs (need + 1) gs
    match h.item with
    | .signal d k n =>
      if d = c.val ∧ k = slot then
        match (joinGuards gs h.guards).bind fun u => coverSlot c slot next hs (need + 1 - n) u with
        | some u => some u
        | none => without
      else without
    | .guard _ _ => without

/-- The guard set of a speculative dispatch: the entry's own guard and those of the held signals it counts; it holds at least
one guard. -/
def State.specGuards (s : State) (c : Cl) (e : TEntry) (own : GSet) : Option GSet :=
  e.waits.foldr (fun w next => coverSlot c w.1 next (s.rg (rgOf c)).held (w.2 - (s.cl c).slot w.1))
    (fun gs => if gs.isEmpty then none else some gs) own

/-- How an entry may dispatch now: not at all, skipped, or with a guard set, empty when not speculatively. -/
inductive Ready where
  | no
  | skip
  | go (guards : GSet)
  deriving DecidableEq, Repr

def Ready.isGo : Ready → Bool
  | .go _ => true
  | _ => false

/-- Readiness (R231, R243). A task without a guard of its own dispatches speculatively only with guards that it inherits,
so that signals of a commit under way do not make it ready before they take effect. -/
def State.ready (s : State) (c : Cl) (i : Nat) : Ready :=
  let k := s.cl c
  let e := k.entry i
  let spec := e.spec && !e.noSpec && !e.trigger
  let free := k.bufsFree i e && k.unitFree e
  let covered := e.waits.all fun w => w.2 ≤ k.slot w.1
  if e.state ≠ .waiting then .no
  else if e.guardEn then
    match ((s.rg (rgOf c)).guard e.guardNo).state with
    | .unresolved =>
      if spec && free then
        match s.specGuards c e [(e.guardNo, e.pol)] with
        | some gs => .go gs
        | none => .no
      else .no
    | g =>
      if e.settled then .no
      else if decide (g = .yes) ≠ e.pol then .skip
      else if free && covered then .go [] else .no
  else if !free then .no
  else if covered then .go []
  else if spec then
    match s.specGuards c e [] with
    | some gs => .go gs
    | none => .no
  else .no

/-- The entry chosen: the highest PRIO, then the lowest index (R232). -/
def State.chosen (s : State) (c : Cl) : Option (Nat × GSet) :=
  (List.range 128).foldl (fun (best : Option (Nat × GSet)) i =>
    match s.ready c i with
    | .go gs =>
      (match best with
       | some b => if ((s.cl c).entry b.1).prio < ((s.cl c).entry i).prio then some (i, gs) else best
       | none => some (i, gs))
    | _ => best) none

/-! ### Dispatch (R232) -/

/-- No dispatch: a fenced cluster, no step that runs (R253), a quiesce, a freeze, a state other than A0. -/
def State.dispatchOff (s : State) (c : Cl) : Bool :=
  (s.cl c).fenced.isSome || s.run.step.isNone || s.run.stopped || s.run.paused || s.pwr.off || decide (s.pwr.state ≠ .a0)

/-- Buffers are claimed (R241). -/
def Cluster.claim (k : Cluster) (i : Nat) (bs : List Nat) : Cluster :=
  bs.foldl (fun k b => k.onBuf b fun x => { x with owner := BitVec.ofNat 7 i, claimed := true }) k

/-- The x registers at the start of a kernel (R224). -/
def kernelRegs (e : TEntry) : Vector Word 32 :=
  ((((((Vector.replicate 32 (0 : Word)).set 2 (BitVec.ofNat 64 (e.f 5 32 23))).set 10 (e.word 7)).set 11 (e.word 8)).set 12
    (e.word 9)).set 13 (e.word 10))

/-- The unit begins (R224, R235). -/
def State.startUnit (s : State) (c : Cl) (f : Firing) : State :=
  let e := (s.cl c).entry f.entry
  let ticks := s.pwr.islands[(fromCluster c).island].ticks.toNat
  match f.unit with
  | .array =>
    s.onCl c fun k =>
      { k with arr :=
        { k.arr with
          task := some { entry := f.entry, addr := e.addr, left := e.f 5 32 16, strict := e.strict }
          conds := 0, touched := [] } }
  | .vector =>
    s.onCl c fun k =>
      { k with
        tahr :=
          { k.tahr with
            x := kernelRegs e, pc := BitVec.ofNat 64 e.addr, kernel := some { entry := f.entry, start := ticks }
            wait := none, summaries := [] }
        vec := { k.vec with strict := e.strict, conds := 0 }
        arr := if e.usesArray then { k.arr with conds := 0, touched := [] } else k.arr }
  | .dma d => s.dmaStart c f d.engine
  | .solver _ _ =>
    s.onRg (rgOf c) fun r => { r with nyala := { r.nyala with queue := r.nyala.queue ++ [{ cl := c, entry := f.entry }] } }

/-- The unit of a descriptor's kind; an engine outside 0 to 3 fails R229 before it is used. -/
def Cluster.unitOf (k : Cluster) (e : TEntry) : Work :=
  match e.kind with
  | 1 => .array
  | 2 => .vector
  | 3 => .dma { engine := (k.engineFor e).getD 0 }
  | _ => .solver 0 0

/-- A chosen entry dispatches: thresholds, buffers, the checks, the unit (R108, R229, R232, R385). A descriptor that fails
its checks never reaches its unit, whose conditions are then none of its own. -/
def State.dispatch (s : State) (c : Cl) (i : Nat) (gs : GSet) : State :=
  let k := s.cl c
  let e := k.entry i
  let r := rgOf c
  let f : Firing :=
    { entry := i, order := (s.rg r).order, unit := k.unitOf e, guards := gs, spec := !gs.isEmpty
      start := s.pwr.islands[(fromCluster c).island].ticks.toNat }
  let t := (s.onRg r fun x => { x with order := x.order + 1 }).onCl c fun k =>
    let k := if gs.isEmpty then e.waits.foldl (fun k w => k.subSlot w.1 w.2) k else k
    let k := (k.claim i e.wbufs).onEntry i fun e => { e with state := if gs.isEmpty then .running else .specRunning }
    { k with firings := k.firings ++ [f] }.count 7 11 1
  if e.kind = 3 && s.fmtInvalid c i e then
    t.onCl c fun k =>
      let k := k.dmaConds i (f.unit.engine.getD 0) cFmtInvalid
      k.onFiring i fun f => { f with ended := true }
  else if !s.descriptorOk c i e then t.faultFiring c { f with final := true } 5
  else if e.kind = 3 && !s.spansOk c i e then t.faultFiring c { f with final := true } 6
  else t.startUnit c f

/-- Entries whose guard has resolved against them are skipped (R243). -/
def State.skipAll (s : State) (c : Cl) : State :=
  (List.range 128).foldl (fun s i =>
    match s.ready c i with
    | .skip => s.endFiring c { entry := i, order := 0, unit := .solver 0 0 } 2 0
    | _ => s) s

/-- TASK_DISPATCH: skips what must be skipped, then dispatches the chosen entry. -/
def execTaskDispatch (c : Cl) (s : State) : Res :=
  if s.dispatchOff c then .next s
  else
    let s := s.skipAll c
    match s.chosen c with
    | some (i, gs) => .next (s.dispatch c i gs)
    | none => .next s

/-! ### Signals (R234) -/

/-- The k-th element of a list taken out. -/
def takeNth {α : Type} : List α → Nat → Option (α × List α)
  | [], _ => none
  | x :: xs, 0 => some (x, xs)
  | x :: xs, n + 1 => (takeNth xs n).map fun p => (p.1, x :: p.2)

/-- SIGNAL_ARRIVAL: the k-th of the signals on their way to the cluster reaches its slot; a fenced cluster accepts none (R28;
log entry 134). Signals to one cluster keep no order of their own, so any of them may arrive. -/
def execSignalArrival (c : Cl) (k : Nat) (s : State) : Res :=
  let (mine, rest) := s.flights.partition fun f => f.cl == c
  match takeNth mine k with
  | some (f, more) =>
    .next ({ s with flights := more ++ rest }.onCl c fun k =>
      if k.fenced.isSome then k else k.addSlot f.slot.toNat f.amount.toNat)
  | none => .next s

/-! ### Completion (R234, R236) -/

/-- Whether the work of a firing has ended (R154, R234). -/
def Cluster.workEnded (k : Cluster) (f : Firing) : Bool :=
  match f.unit with
  | .array => f.ended || (match k.arr.task with | some t => t.entry == f.entry && t.left == 0 | none => false) && k.arr.idle
  | .vector => f.ended && (!(k.entry f.entry).usesArray || k.arr.idle)
  | _ => f.ended

/-- The signals of a speculative firing that has finished are held (R247). -/
def State.holdSignals (s : State) (c : Cl) (f : Firing) : State :=
  let e := (s.cl c).entry f.entry
  let items := e.prods.map (fun p => HItem.signal c.val p.1 p.2) ++ e.remotes.map fun p => HItem.signal p.1 p.2.1 p.2.2
  if 512 < (s.rg (rgOf c)).held.length + items.length then s.squash c f 1
  else items.foldl (fun s h => s.holdItem c f h) s

/-- TASK_COMPLETE: a firing whose work has ended completes; a speculative one becomes HELD. -/
def State.complete (s : State) (c : Cl) (f : Firing) : State :=
  let t := s.onCl c fun k =>
    let g := { f with conds := k.firingConds f, final := true }
    let k := k.onFiring f.entry fun _ => g
    if f.unit.isArray then { k with arr := { k.arr with task := none, touched := [] } }
    else if f.unit.isVector && (k.entry f.entry).usesArray then { k with arr := { k.arr with touched := [] } }
    else k
  match (t.cl c).firing f.entry with
  | none => t
  | some g =>
    if g.held then
      (t.onCl c fun k => (k.onFiring f.entry fun x => { x with signalled := true }).onEntry f.entry fun e =>
        { e with state := .held }).holdSignals c { g with signalled := true }
    else if g.committing then t.onCl c (·.onEntry f.entry fun e => { e with state := .held })
    else t.endFiring c g 0 0

def execTaskComplete (c : Cl) (entry : BitVec 7) (s : State) : Res :=
  match (s.cl c).firing entry.toNat with
  | some f => if !f.final && (s.cl c).workEnded f then .next (s.complete c f) else .next s
  | none => .next s

/-! ### Commit (R249) -/

/-- The committing firings of a region in dispatch order. -/
def State.commits (s : State) (r : Rg) : List Firing :=
  (clustersOf r).flatMap fun c => (s.cl c).firings.filter (·.committing)

/-- Write requests of a commit that no sorter has accepted yet. -/
def MReq.pendingCommit (q : MReq) (c : Cl) (i : Nat) : Bool :=
  (match q.who with | .commit d j => d == c && j == i | _ => false) && (q.state = .waits || q.state = .net)

/-- SPEC_COMMIT_WRITES_DONE: every held sector of the commit has been written and no commit before it is left, so its
thresholds and held signals take effect, and the guards it held resolve. -/
def execSpecCommitWritesDone (c : Cl) (entry : BitVec 7) (s : State) : Res :=
  match (s.cl c).firing entry.toNat with
  | some f =>
    if f.committing && !(s.reqs.any fun q => q.pendingCommit c f.entry)
        && (s.commits (rgOf c)).all fun g => decide (f.order ≤ g.order) then
      let gs := s.heldGuards c f.entry
      .next ((gs.foldl (fun s h => s.resolve guardDepth (rgOf c) h.1 h.2) (s.commitEffects c f.entry)).commitEnd c f.entry)
    else .next s
  | none => .next s

/-- HOLD_PEAK_RESET (R257). -/
def execHoldPeakReset (r : Rg) (s : State) : Res := .next (s.onRg r (·.resetPeak))

end Sys2Proof.Machine
end

