-- ==== Sys2Proof/Machine/Tick.lean ====
section
/-! DEFINITION. What 10 ns bring: the duration counters, the phase timers, and the cycles that each engine with work charges
(R579, R601 to R608). -/
namespace Sys2Proof.Machine

/-- A powered island's duration counter takes a tick (R579). -/
def Island.tick (i : Island) : Island := if i.powered then { i with ticks := i.ticks + 1 } else i

/-- A phase with an active source counts the tick, within the step's interval and in its total (R608, R609). -/
def Phase.tick (interval : Option Nat) (p : Phase) : Phase :=
  if p.sources = 0 then p
  else
    let q := { p with total := p.total + 1 }
    match interval with
    | none => q
    | some n => { q with active := q.active + 1, first := some (q.first.getD n), latest := n }

/-! ### Charged cycles (R601 to R606) -/

/-- How many of n cycles fall to a slot: each is charged to one of the slots named or to none, as a free word says
(R601; log entry 45). -/
def chargedTo (w : Word) (slots : List Nat) (n slot : Nat) : Nat :=
  if slots.contains slot then (List.range n).countP fun i => fld w (4 * i) 4 == slot else 0

/-- What an engine with work charges in a tick of n cycles: slots with their rises. -/
def charges (w : Word) (slots : List Nat) (n : Nat) : List (Nat × Nat) := slots.map fun c => (c, chargedTo w slots n c)

/-- BUSY and the causes that the table lists for an engine of a cluster, WORK and THERMAL apart, and apart from those that the state
of its requests decides (R606). -/
def clusterCauses (e : Nat) : List Nat := ([[10, 1, 8], [10, 0, 1], [10, 0, 1, 7]][e]?).getD (if e = 7 then [10] else [10, 1])

/-- The same for an engine of a region: Nyala, Medlar, the write-hold commit. -/
def regionCauses (e : Nat) : List Nat := if e = 0 then [10, 1] else if e = 1 then [10, 2, 3, 5] else [10]

/-- The same for a global engine. -/
def globalCauses (e : Nat) : List Nat := if e < 8 then [10, 5] else [10, 4, 5]

/-- A request is at the quota of its bank, and its region has no park credit left there (R399). -/
def State.hotspot (s : State) (q : MReq) : Bool :=
  match s.bankOf q with
  | some b => b.1.val < 12 && decide (256 ≤ s.bankTags q.rg b) && decide (32 ≤ s.parked q.rg b.1)
  | none => false

/-- What holds the next request of an engine, in the order of PRIORITY: a hot bank, the lack of tags, or the lack of class credits of
its oldest request in a sorter (R399, R602). None while it has no request that waits. -/
def State.waitCause (s : State) (r : Rg) (mine : MReq → Bool) : Option Nat :=
  let waiting := s.reqs.filter fun q => mine q && decide (q.state = .waits)
  if waiting.isEmpty then none
  else if waiting.any s.hotspot then some 3
  else if 2048 ≤ s.tags r then some 2
  else match firstGranted (s.reqs.zipIdx.filter fun x => mine x.1 && !decide (x.1.state = .waits)) with
    | some i => (s.reqs[i]?).bind fun q => match s.partAt q.line with
      | some (p, _) => if decide (q.state = .sorted) && !q.parked && !s.eligible p q then some 5 else none
      | none => none
    | none => none

/-- The requests of a DMA engine, and of a region's write-hold commit. -/
def MReq.ofEngine (c : Cl) (e : Nat) (q : MReq) : Bool :=
  match q.who with
  | .dma d _ g => d == c && g.val == e
  | .commit _ _ => false

def MReq.ofCommit (r : Rg) (q : MReq) : Bool :=
  match q.who with
  | .dma _ _ _ => false
  | .commit _ _ => q.rg == r

/-- The task scheduler waits: no unit of the cluster holds a firing, and no WAITING entry is ready (R231, R602). -/
def State.sbWait (s : State) (c : Cl) : Bool :=
  (s.cl c).firings.all (·.final)
  && (List.range 128).all fun i => ((s.cl c).entry i).state != .waiting || s.ready c i == .no

/-- Tahr stands at a TWAITS whose slot does not hold the amount yet (R221). -/
def Cluster.twaits (k : Cluster) : Bool :=
  match k.tahr.wait with
  | some (.slot n amount) => decide (k.slot n.toNat < amount.toNat)
  | _ => false

/-- What the state says an engine of a cluster is charged in this tick, if anything. -/
def State.engineCause (s : State) (c : Cl) (e : Nat) : Option Nat :=
  if e = 7 then (if s.sbWait c then some 0 else none)
  else if e = 2 then (if (s.cl c).twaits then some 0 else none)
  else if 3 ≤ e then s.waitCause (rgOf c) (MReq.ofEngine c (e - 3))
  else none

/-- Whether a firing runs on an engine of its cluster: a kernel on the vector engine and on Tahr (R232, R606). -/
def Firing.runsOn (f : Firing) (e : Nat) : Bool :=
  !f.final && match f.unit with
    | .array => e == 0
    | .vector => e == 1 || e == 2
    | .dma d => e == 3 + d.engine.val
    | .solver _ _ => false

/-- The firing of an engine that has work; none within for the task scheduler, whose work is a WAITING entry (R601). -/
def Cluster.engineWork (k : Cluster) (e : Nat) : Option (Option Firing) :=
  if e = 7 then (if k.table.toList.any fun x => decide (x.state = .waiting) then some none else none)
  else (k.firings.find? fun f => f.runsOn e).map some

/-- Cycles of a tick in a region's arithmetic island, and what THERMAL takes for it: 16 − t and t at throttle level t (R579,
R604). -/
def Power.arithCycles (p : Power) (r : Rg) : Nat × Nat :=
  if p.islands[r.val].running then (16 - p.level.toNat, p.level.toNat) else (0, 0)

/-- A tick of an engine of a cluster: all its cycles go to the cause that the state gives, else as a free word divides them. A beat of
the vector engine is a cycle (R183). -/
def Cluster.engineTick (w : Nat → Word) (cause : Nat → Option Nat) (cycles thermal : Nat) (k : Cluster) (e : Nat) : Cluster :=
  match k.engineWork e with
  | none => k
  | some f =>
    let beats := if e = 1 then [(11, fld (w (2 * e + 1)) 0 4)] else []
    ((match cause e with
      | some c => [(c, cycles)]
      | none => charges (w (2 * e)) (clusterCauses e) cycles) ++ (9, thermal) :: beats).foldl (fun k x => k.charge f e x.1 x.2) k

/-- What Nyala charges in a tick; its WORK is lane cycles. -/
def nyalaCharges (w : Nat → Word) (cycles thermal : Nat) : List (Nat × Nat) :=
  charges (w 0) (regionCauses 0) cycles ++ [(9, thermal), (11, fld (w 1) 0 4)]

/-- The firing of the call that runs. -/
def State.nyalaFiring (s : State) (r : Rg) : Option (Cl × Firing) :=
  match (s.rg r).nyala.run with
  | some u => ((s.cl u.cl).firing u.entry).map fun f => (u.cl, f)
  | none => none

/-- A tick of a cluster: its engines, and the tally of a speculative call that runs on its region's Nyala. -/
def State.clusterTick (s : State) (nonce : Nat) (c : Cl) : Cluster :=
  let n := s.pwr.arithCycles (rgOf c)
  let w (i : Nat) : Word := Config.freeWord nonce (16 * c.val + i)
  let k := (List.range 8).foldl (Cluster.engineTick w (s.engineCause c) n.1 n.2) (s.cl c)
  match s.nyalaFiring (rgOf c) with
  | some (d, f) =>
    if d = c ∧ f.held then
      (nyalaCharges (fun i => Config.freeWord nonce (10000 + 16 * (rgOf c).val + i)) n.1 n.2).foldl (fun k x => k.charge (some f) 8 x.1 x.2) k
    else k
  | none => k

/-- Jacobi rounds that Nyala's lanes compute between calls (R371). -/
def Medlar.rounds (m : Medlar) : Bool := m.jacobi.any (·.gemmStep.isNone)

/-- A tick of a region's Nyala, Medlar and write-hold commit (R606). -/
def State.regionTick (s : State) (nonce : Nat) (r : Rg) : Region :=
  let n := s.pwr.arithCycles r
  let w (i : Nat) : Word := Config.freeWord nonce (10000 + 16 * r.val + i)
  let add (x : Region) (e : Nat) (l : List (Nat × Nat)) : Region := l.foldl (fun x y => x.count e y.1 y.2) x
  let x := s.rg r
  let x := match s.nyalaFiring r with
    | some (_, f) => if f.held then x else add x 0 (nyalaCharges w n.1 n.2)
    | none => if x.medlar.rounds then add x 0 [(10, chargedTo (w 0) [10] n.1 10)] else x
  let x := if x.medlar.newton.isSome || x.medlar.rounds then
      add x 1 (charges (w 2) (regionCauses 1) n.1 ++ [(9, n.2), (11, fld (w 3) 0 8)])
    else x
  if (clustersOf r).any fun c => (s.cl c).firings.any (·.committing) then
    let cycles := if s.pwr.islands[24 + r.val].running then 12 else 0
    add x 2 (match s.waitCause r (MReq.ofCommit r) with
      | some c => [(c, cycles)]
      | none => charges (w 4) (regionCauses 2) cycles)
  else x

/-- The global engines that have work: those of a port with copies, Sloe's while a snapshot is taken, the services' while a
run lasts. Which engine of the four works, and what it moves in the tick, is free (log entry 45). -/
def State.globalWork (s : State) (e : Fin 16) : Bool :=
  if e.val < 4 then !(s.port 0).copies.isEmpty
  else if e.val < 8 then !(s.port 1).copies.isEmpty
  else if e.val < 12 then s.hlt.phase != .idle
  else !s.fab.runs.isEmpty

/-- The island of a global engine and its cycles in a tick (R579, R606). -/
def globalIsland (e : Fin 16) : Fin 100 × Nat :=
  if h : e.val < 8 then (⟨92 + e.val / 4, by omega⟩, 10) else (⟨80 + e.val % 4, by omega⟩, 12)

/-- STL_SV after a tick. -/
def State.globalTick (s : State) (nonce : Nat) : Vector (BitVec 48) 256 :=
  Vector.ofFn fun i =>
    let e : Fin 16 := ⟨i.val / 16, by omega⟩
    let (n, cycles) := globalIsland e
    let rise :=
      if i.val % 16 = 11 then fld (Config.freeWord nonce (20100 + e.val)) 0 8
      else chargedTo (Config.freeWord nonce (20000 + e.val)) (globalCauses e.val) cycles (i.val % 16)
    if s.globalWork e ∧ s.pwr.islands[n].running then s.perf.sv[i] + BitVec.ofNat 48 rise else s.perf.sv[i]

/-- Whether a port holds a packet of a VC without a credit (R607). -/
def Fabric.starved (f : Fabric) (p : FPort) (vc : Nat) : Bool :=
  f.waiting.any fun w => w.output == p && w.packet.vc == vc && !f.ports[p].credit (bufClass vc (f.dlOut w.input p w.packet))

/-- A port's counters after a tick of 16 cycles of its island (R577, R607). -/
def State.portTick (s : State) (p : FPort) : Port :=
  let q := s.fab.ports[p]
  if q.live && s.pwr.islands[84 + p.val].running then
    { q with stl := Vector.ofFn fun v => if s.fab.starved p v.val then q.stl[v] + 16 else q.stl[v] }
  else q

/-- Cycles at 1.6 GHz that the engines of a region with work lose to its clock (R604). -/
def State.loseCycles (s : State) (r : Rg) (n : Nat) : State :=
  let t := (clustersOf r).foldl (fun t c => t.onCl c fun k => (List.range 8).foldl (fun k e => match k.engineWork e with
    | some f => k.charge f e 9 n
    | none => k) k) s
  let t := match s.nyalaFiring r with
    | some (d, f) => if f.held then t.onCl d fun k => k.charge (some f) 8 9 n else t.onRg r (·.count 0 9 n)
    | none => t
  if (s.rg r).medlar.newton.isSome || (s.rg r).medlar.rounds then t.onRg r (·.count 1 9 n) else t

/-- One tick of the 100 MHz reference; an unpowered module sees none (R582). -/
def State.tick (s : State) : State :=
  if s.pwr.off then s
  else
    { s with
      nonce := s.nonce + 1
      pwr := { s.pwr with islands := s.pwr.islands.map Island.tick }
      cls := Vector.ofFn (s.clusterTick s.nonce), rgs := Vector.ofFn (s.regionTick s.nonce)
      fab := { s.fab with ports := Vector.ofFn s.portTick }
      perf :=
        { s.perf with
          sv := s.globalTick s.nonce
          phases := s.perf.phases.map (Phase.tick s.perf.interval)
          interval := s.perf.interval.map (· + 1) } }

end Sys2Proof.Machine
end

