-- ==== Sys2Proof/Machine/PowerExec.lean ====
section
/-! DEFINITION. Power states, compute resets, islands and droops (16 R576 to R599; 18 R621, R623): their meanings. -/
namespace Sys2Proof.Machine

/-! ### How a transition ends (R587, R588) -/

/-- What A3 loses, on every way into it (R583, R587, R598). -/
def State.enterA3 (s : State) (own : Option (HPort × BitVec 16)) : State :=
  ((s.resetTxn.cutCommands own).closeScopes.dropPorts).loseVolatile

/-- A transition is complete: the state, its event, the command's completion. Memory sleeps in A2 and A3 only. -/
def State.endTransition (s : State) (x : Transition) : State :=
  let old := s.pwr.state
  let t := if x.target = .a3 then s.enterA3 (some (x.port, x.tag)) else s
  let t := t.onPwr fun p => { p with state := x.target, transition := none }
  let t := if x.target.memOn then t.wake.pumpAll else t
  let t := t.event fromMarkhor 0x70 [packBits [(x.target.code, 0), (old.code, 4), (x.outcome, 8)]]
  let t := if x.target = .a3 then t.event fromMarkhor 0x75 [2] else t
  t.finish x.port x.tag { words := [packBits [(x.target.code, 0), (x.outcome, 4)]] }

/-- The region domains that a state has ON. -/
def PState.regions (st : PState) : BitVec 24 := if st = .a0 ∨ st = .a2 then allRegions else 0

/-- At most four region domains switch toward what is wanted, in ascending order (R576; log entry 41). -/
def switchFour (now want : BitVec 24) : BitVec 24 :=
  let four := ((List.range 24).filter fun r => now.getLsbD r != want.getLsbD r).take 4
  four.foldl (fun x r => x ^^^ (1#24 <<< r)) now

/-- What A1 keeps of a cluster: that it is fenced, and its counters (R593). -/
def Cluster.unpowered (k : Cluster) : Cluster := { k.lost with stl := k.stl }

/-- What A1 keeps of a region: its counters (R593). -/
def Region.unpowered (x : Region) : Region :=
  { stl := x.stl
    nyala := { warmDiscard := x.nyala.warmDiscard, fallback := x.nyala.fallback, deadline := x.nyala.deadline, calls := x.nyala.calls }
    medlar := { rootCnt := x.medlar.rootCnt, jacobiCnt := x.medlar.jacobiCnt, failCnt := x.medlar.failCnt, overrunCnt := x.medlar.overrunCnt } }

/-- Units and tile memory of region domains that go off are lost, their counters kept (R593). -/
def State.loseUnits (s : State) : State :=
  let (n, s) := s.draw
  { s with
    mem := s.mem.fill tileWindows (384 * tileStep) (some n), cls := s.cls.map Cluster.unpowered, rgs := s.rgs.map Region.unpowered }

/-- The domains take the settings of the target: everything but the region domains at once. With no region domain left to
switch, the transition is complete. -/
def State.switchDomains (s : State) (x : Transition) : State :=
  let t := s.supply x.target s.pwr.regions
  let t := if x.target = .a1 then t.loseUnits else t
  if t.pwr.regions = x.target.regions then t.endTransition x
  else t.onPwr fun p => { p with transition := some { x with entered := true } }

/-- POWER_STATE_ENTRY: for A1, A2 and A3 once no step runs, the snapshot phase is 0 and the module is quiesced; for A0 at
once. -/
def execPowerStateEntry (s : State) : Res :=
  match s.pwr.transition with
  | none => .next s
  | some x =>
    if x.entered then .next s
    else if x.target = .a0 then .next (s.switchDomains x)
    else if s.run.step.isSome || s.run.stopping || s.hlt.phase != .idle then .next s
    else
      let t := if s.run.stopped && s.quiet then s else s.quiesceNow
      if t.run.stopping || !t.quiet then .next t
      else
        let t := t.applyLate
        let t := if x.target = .a1 then t else t.sleep
        .next (t.switchDomains { x with outcome := (t.pwr.transition.map (·.outcome)).getD x.outcome })

/-! ### PWR_STATE (R586, R587) -/

/-- The state that TARGET names. -/
def targetOf (n : Nat) : Option PState :=
  if n = 0 then some .a0 else if n = 1 then some .a1 else if n = 2 then some .a2 else if n = 3 then some .a3 else none

def listed (b : Byte) : List FPort := (List.finRange 8).filter fun p => b.getLsbD p.val

/-- PWR_FAB_OFF: a port that it holds off goes DOWN, and the domains follow. -/
def State.setFabOff (s : State) (off : Byte) : State :=
  let t := s.onPwr fun p => { p with fabOff := off }
  let t := (listed off).foldl State.dropPort t
  t.supply t.pwr.state t.pwr.regions

/-- A transition begins. -/
def State.startTransition (s : State) (x : Transition) : State :=
  let t := s.onPwr fun p => { p with transition := some x }
  if x.target = .a0 then t
  else if x.immediate then t.cutSteps.quiesceNow
  else t.cutSteps

/-- PWR_STATE. -/
def State.pwrStateCmd (s : State) (p : HPort) (id : BitVec 16) (ws : List Word) : State :=
  let a := arg ws 1
  let b := arg ws 2
  let n := fld a 0 3
  let cap := fld b 0 12
  let placing := match s.run.placing with
    | some (.load _ _ _) => true
    | _ => false
  if s.pwr.transition.isSome || s.pwr.creset.isSome || placing then s.finish p id rejectedBusy
  else if n = 1 ∧ s.run.graph.isSome then s.finish p id (rejected 1)
  else if (4 ≤ n ∧ n ≤ 6) ∨ (b.getLsbD 12 ∧ cap ≠ 0 ∧ (cap < 1000 ∨ 3200 < cap)) then s.finish p id (rejected 2)
  else if s.pwr.leak ∧ n ≤ 2 then s.finish p id (rejected 3)
  else
    let watts : BitVec 12 := if cap = 0 then 3200 else BitVec.ofNat 12 cap
    let t := if b.getLsbD 12 then (s.onPwr fun w => { w with capW := watts }) else s
    let t := if a.getLsbD 16 then t.setFabOff (a.extractLsb' 8 8) else t
    let t := (listed (a.extractLsb' 24 8)).foldl State.fabricPortReset t
    match targetOf n with
    | none => t.finish p id { words := [packBits [(s.pwr.state.code, 0)]] }
    | some st =>
      if st = s.pwr.state then t.finish p id { words := [packBits [(st.code, 0)]] }
      else t.startTransition { target := st, immediate := a.getLsbD 3, port := p, tag := id }

def execPwrState (c : HostCmd) (s : State) : Res := hostCmd 0x801 c State.pwrStateCmd s

/-! ### COMPUTE_RESET (R591) -/

/-- Steps 5 and 6: memory wakes, scrub starts over, and the command completes. -/
def State.endCReset (s : State) (x : CReset) : State :=
  let t := s.wake
  let t : State := { t with parts := t.parts.map fun y : Part => { y with scrubPos := 0 } }
  let t := t.onPwr fun p => { p with state := .a0, creset := none, rstComputeCnt := p.rstComputeCnt + 1 }
  (t.event fromMarkhor 0x75 [1]).finish x.port x.tag { words := [0, BitVec.ofNat 64 (x.stopped % 2 ^ 32)] }

/-- The islands that a compute reset restarts (R593). -/
def computeIsland (n : Nat) : Bool := decide (n < 48) || n == 94 || n == 95

/-- Steps 2 to 4: the transaction, self-refresh, the restart of the regions and the loss of the volatile class. Domains that
were off are switched on four at a time. -/
def State.enterCReset (s : State) (x : CReset) : State :=
  let t := s.resetTxn.sleep
  let t := (t.cutCommands (some (x.port, x.tag))).anyReset.loseVolatile
  let t := t.onPwr fun p =>
    { p with islands := Vector.ofFn fun n =>
        let i := p.islands[n]
        if computeIsland n.val then { i with ticks := 0, running := i.powered } else i }
  let x := { x with entered := true }
  let t := t.onPwr fun p => { p with creset := some x }
  let t := t.supply .a0 t.pwr.regions
  if t.pwr.regions = allRegions then t.endCReset x else t

/-- The firings still running are stopped as a fence stops them. -/
def State.stopFirings (s : State) : State :=
  (List.finRange 384).foldl State.abortCluster s

/-- COMPUTE_RESET: the budget goes, the module quiesces at once; once it is quiet the reset goes on. -/
def State.computeResetCmd (s : State) (p : HPort) (id : BitVec 16) : State :=
  if s.pwr.transition.isSome || s.pwr.creset.isSome then s.finish p id rejectedBusy
  else if s.pwr.state = .a1 ∨ s.pwr.state = .a3 then s.finish p id (rejected 1)
  else
    let x : CReset := { port := p, tag := id }
    let t := ((s.onPwr fun w => { w with creset := some x }).cutSteps).quiesceNow
    if t.quiet then t.enterCReset x else t

def execComputeReset (c : HostCmd) (s : State) : Res := hostCmd 0x802 c (fun s p id _ => s.computeResetCmd p id) s

/-- COMPUTE_RESET_GRACE_EXPIRY: 10 ms have passed since the quiesce began. -/
def execComputeResetGraceExpiry (s : State) : Res :=
  match s.pwr.creset with
  | some x =>
    if x.entered then .next s
    else
      let n := (s.cls.toList.map fun k => k.firings.length).foldl (· + ·) 0
      .next (s.stopFirings.enterCReset { x with stopped := n })
  | none => .next s

/-- REGION_DOMAIN_SWITCH: up to four region domains switch; a compute reset whose firings have all ended goes on. -/
def execRegionDomainSwitch (s : State) : Res :=
  match s.pwr.transition, s.pwr.creset with
  | some x, _ =>
    if !x.entered then .next s
    else
      let t := s.supply x.target (switchFour s.pwr.regions x.target.regions)
      .next (if t.pwr.regions = x.target.regions then t.endTransition x else t)
  | none, some x =>
    if !x.entered then .next (if s.quiet then s.enterCReset x else s)
    else
      let t := s.supply .a0 (switchFour s.pwr.regions allRegions)
      .next (if t.pwr.regions = allRegions then t.endCReset x else t)
  | none, none => .next s

/-! ### Thermal trip (R589, R598) -/

/-- The module enters A3 without a quiesce: firings end where they stand, and only accepted writes are kept. -/
def State.trip (s : State) : State :=
  let old := s.pwr.state
  if old = .a3 ∧ s.pwr.transition.isNone then s
  else
    let t := match s.pwr.transition with
      | some x => s.finish x.port x.tag { status := 1, words := [packBits [(3, 0), (x.outcome, 4)]] }
      | none => s
    let t := match s.pwr.creset with
      | some x => t.finish x.port x.tag (rejected 0xF1)
      | none => t
    let t := t.onPwr fun p => { p with transition := none, creset := none }
    let t := (t.sleep.enterA3 none).supply .a3 0
    let t := t.onPwr fun p => { p with state := .a3 }
    (t.event fromMarkhor 0x70 [packBits [(3, 0), (old.code, 4)]]).event fromMarkhor 0x75 [3]

/-! ### Islands, droops, cages (R580, R597, R623) -/

/-- The fenced regions of a crossing: every enabled cluster of a region whose island is at either end. -/
def State.fenceRegion (s : State) (n : Nat) : State :=
  match rgAt (n % 24) with
  | some r => if n < 48 then (clustersOf r).foldl (fun s c => s.fence c .islandTimeout) s else s
  | none => s

/-- The fabric port whose island a number is. -/
def portIsland (n : Nat) : Option FPort := if h : 84 ≤ n ∧ n < 92 then some ⟨n - 84, by omega⟩ else none

/-- The source of an island's own event. -/
def fromIsland (i : Fin 100) : Source :=
  if i.val < 48 then { kind := 2, index := i.val % 24, island := i }
  else match portIsland i.val with
    | some p => { kind := 4, index := p.val, island := i }
    | none => if i.val = 92 ∨ i.val = 93 then { kind := 5, index := i.val - 92, island := i }
      else if i.val = 96 then { kind := 6, index := 0, island := i } else { kind := 0, index := 0, island := i }

/-- The ISLAND_TIMEOUT event (R599). -/
def State.timeoutEvent (s : State) (snd rcv : Fin 100) (second fatal : Bool) : State :=
  s.event (fromIsland snd) 0x74 [packBits [(snd.val, 0), (rcv.val, 8), (b2n second, 16), (b2n fatal, 17)]]

/-- A second timeout on the same crossing follows the first when it comes within the 1,000 ticks of the retry. -/
def Power.retrying (p : Power) (snd rcv : Fin 100) : Bool :=
  p.retried.any fun x => x.1 == snd && x.2.1 == rcv && decide ((p.islands[snd].ticks - x.2.2).toNat ≤ 1000)

/-- A crossing whose both ends have supply and clock: traffic waits for a stopped clock, and is answered where a supply is off,
neither of which is a timeout (R581). -/
def Power.crosses (p : Power) (snd rcv : Fin 100) : Bool :=
  snd != rcv && p.islands[snd].running && p.islands[rcv].running

/-- ISLAND_TIMEOUT: an island has no crossing to itself. -/
def execIslandTimeout (snd rcv : Fin 100) (s : State) : Res :=
  .next
    (if s.pwr.off || s.sec.extHeld || !s.pwr.crosses snd rcv then s
     else
       let again := s.pwr.retrying snd rcv
       let t := s.onPwr fun p =>
         { p with
           islands := p.islands.set snd { p.islands[snd] with timeouts := satAdd p.islands[snd].timeouts 1 }
           retried := (p.retried.filter fun x => !(x.1 == snd && x.2.1 == rcv))
             ++ (if again then [] else [(snd, rcv, p.islands[snd].ticks)]) }
       if !again then t.timeoutEvent snd rcv false false
       else if snd.val < 48 ∨ rcv.val < 48 then ((t.timeoutEvent snd rcv true false).fenceRegion snd.val).fenceRegion rcv.val
       else
         let ps := (portIsland snd.val).toList ++ (portIsland rcv.val).toList
         if ps.isEmpty then
           (t.onPwr fun p => { p with dead := if p.dead.contains (snd, rcv) then p.dead else p.dead ++ [(snd, rcv)] }).timeoutEvent
             snd rcv true true
         else ps.foldl State.fabricPortReset (t.timeoutEvent snd rcv true false))

/-- DROOP: the region's clock stretches, which costs its engines with work 256 cycles (R604); its record follows at the next
health sample. -/
def execDroop (rg : Rg) (s : State) : Res :=
  if s.pwr.off || !s.pwr.domains.getLsbD rg.val then .next s
  else .next ((s.loseCycles rg 256).onPwr fun p => { p with droops := p.droops.set rg (p.droops[rg] + 1), droopCnt := p.droopCnt + 1 })

/-- CAGE_OVERCURRENT. -/
def execCageOvercurrent (p : FPort) (s : State) : Res :=
  if s.pwr.off then .next s
  else let t := (s.cutCage p).dropPort p
    .next (t.supply t.pwr.state t.pwr.regions)

end Sys2Proof.Machine
end

