-- ==== Sys2Proof/Machine/HealthExec.lean ====
section
/-! DEFINITION. The health sample of every 1 ms: coolant, risk score, levels, throttling and thermal trip (13 R478,
R479, R486; 16 R595 to R599; 18 R620, R621, R630): its meaning. -/
namespace Sys2Proof.Machine

/-! ### Coolant (R620, R630) -/

/-- A reading that its register field can hold; any other counts as out of the sensor's scale. -/
def inScale (r : Reading) (max : Nat) : Option Nat := match r with
  | some v => if v ≤ max then some v else none
  | none => none

/-- Status of a quantity that is normal up to a, warning up to b and critical above it or with a failed sensor. -/
def upperStatus (a b : Nat) (r : Option Nat) : Nat := match r with
  | some v => if v ≤ a then 0 else if v ≤ b then 1 else 2
  | none => 2

/-- Status of a quantity that is normal from a, warning from b and critical below it or with a failed sensor. -/
def lowerStatus (a b : Nat) (r : Option Nat) : Nat := match r with
  | some v => if a ≤ v then 0 else if b ≤ v then 1 else 2
  | none => 2

/-- The coolant status of a sample while the leak input holds as given. -/
def coolantStatus (x : Sensors) (leak : Bool) : Nat :=
  if leak then 3
  else max (upperStatus 40 45 (inScale x.inlet 255))
    (max (upperStatus 58 65 (inScale x.outlet 255)) (lowerStatus 350 250 (inScale x.flow 4095)))

/-- PWR_COOLANT; what a failed sensor's field reads is free. -/
def coolantWord (x : Sensors) (leak : Bool) (free : Word) : Word :=
  let i := inScale x.inlet 255
  let o := inScale x.outlet 255
  let f := inScale x.flow 4095
  packBits [(i.getD (fld free 0 8), 0), (o.getD (fld free 8 8), 8), (f.getD (fld free 16 12), 16), (coolantStatus x leak, 28), (b2n x.leak, 30),
    (b2n i.isNone, 31), (b2n o.isNone, 32), (b2n f.isNone, 33)]

/-- LEAK after a sample: a wet wire sets it and holds it until a reset; after one a dry wire clears it (R621). -/
def Power.leakAfter (p : Power) (wet : Bool) : Bool := wet || (p.leak && p.leakHeld)

/-- What the always-on supervisor reads at a sample: coolant, input and junction (R600, R620). -/
def State.sense (s : State) (x : Sensors) : State :=
  let (n, s) := s.draw
  s.onPwr fun p =>
    let leak := p.leakAfter x.leak
    { p with
      coolant := coolantWord x leak (Config.freeWord n 0), leak := leak, leakHeld := leak
      inputMv := x.mv, inputW := x.watts, tjMax := x.junction }

/-! ### Throttling (R595, R596) -/

/-- The level after a sample. -/
def Power.nextLevel (p : Power) (x : Sensors) (status : Nat) : Nat :=
  let n := p.level.toNat
  if 105 ≤ x.junction.toNat ∨ 2 ≤ status then 8
  else if p.capW.toNat < x.watts.toNat ∨ 95 ≤ x.junction.toNat then min 8 (n + 1)
  else if x.watts.toNat * 100 < 95 * p.capW.toNat ∧ x.junction.toNat < 90 ∧ 10 ≤ p.sinceRise then n - 1
  else n

/-- A THERMAL event (R599). -/
def State.thermal (s : State) (x : Sensors) (kind : Nat) : State :=
  s.event fromMarkhor 0x72 [packBits [(kind, 0), (x.junction.toNat, 8), (x.die.toNat, 16)]]

/-- The level changes by the first rule that applies, with its events. -/
def State.throttle (s : State) (x : Sensors) (status : Nat) : State :=
  let p := s.pwr
  let n := p.nextLevel x status
  let t := s.onPwr fun p =>
    { p with
      level := BitVec.ofNat 4 n, sinceRise := if p.level.toNat < n then 0 else min 10 (p.sinceRise + 1)
      thrCnt := if n = 0 then p.thrCnt else p.thrCnt + 1 }
  let t := if n = p.level.toNat then t
    else t.event fromMarkhor 0x71
      [packBits [(n, 0), (1600 - 100 * n, 8), (b2n (decide (p.capW.toNat < x.watts.toNat)), 20),
        (b2n (decide (95 ≤ x.junction.toNat)), 21), (b2n (decide (2 ≤ status)), 22)]]
  let t := if 105 ≤ x.junction.toNat ∨ 2 ≤ status then t.thermal x 1 else t
  if 100 ≤ x.junction.toNat then t.thermal x 0 else t

/-- One DROOP record for each region that stretched since the last sample (R597). -/
def State.droopRecords (s : State) : State :=
  let t := (List.finRange 24).foldl (fun t r =>
    let n := s.pwr.droops[r]
    if n = 0 then t
    else t.event { kind := 2, index := r.val, island := ⟨r.val, by omega⟩ } 0x73 [packBits [(r.val, 0), (n % 65536, 16)]]) s
  t.onPwr fun p => { p with droops := Vector.replicate 24 0 }

/-! ### Risk score (R478) -/

/-- The far tier's error counts enter MEM_CE_CNT (R416). -/
def State.farErrors (s : State) (es : List (Fin 4 × Nat)) : State :=
  es.foldl (fun s e =>
    (s.onPart ⟨12 + e.1.val, by omega⟩ fun x => { x with ceCnt := x.ceCnt + BitVec.ofNat 48 e.2 }).onHlt fun h =>
      { h with rise := { h.rise with farCe := h.rise.farCe + e.2 } }) s

/-- FEC_MARGIN takes the most corrections of the sample that ends (R468). -/
def State.fecSample (s : State) : State :=
  s.onFab fun f => { f with ports := f.ports.map fun q => { q with margin := q.most, most := 0 } }

/-- ⌈log₂(1 + c)⌉. -/
def ceilLog (c : Nat) : Nat := if c = 0 then 0 else Nat.log2 c + 1

/-- The largest FEC_MARGIN of an UP port. -/
def Fabric.worstMargin (f : Fabric) : Nat :=
  (f.ports.toList.map fun q => if q.link = .up then q.margin.toNat else 0).foldl max 0

/-- Whether any of n domains from one on is ON. -/
def Power.anyOn (p : Power) (first n : Nat) : Bool := (List.range n).any fun i => p.domains.getLsbD (first + i)

/-- The ten components of the score; an input whose blocks are off contributes no points (R583; log entry
153). -/
def State.riskPoints (s : State) (window : List Sample) (status : Nat) : List Nat :=
  let sum (g : Sample → Nat) : Nat := (window.map g).foldl (· + ·) 0
  let from_ (first n points : Nat) : Nat := if s.pwr.anyOn first n then points else 0
  [from_ 24 12 (min 64 (8 * ceilLog (sum (·.ce)))), min 96 (24 * s.erasures), from_ 24 16 (min 255 (128 * sum (·.ue))),
    from_ 36 4 (min 32 (4 * ceilLog (sum (·.farCe)))), from_ 40 8 (min 64 (8 * ceilLog (sum (·.retries)))), min 112 (16 * (s.fab.worstMargin - 8)), min 96 (16 * sum (·.thermal)),
    min 192 (64 * sum (·.timeouts)), [0, 64, 192, 255].getD status 255, if s.hlt.pairState = 3 then s.hlt.peerRisk.toNat / 2 else 0]

/-- LEVEL of a score (R479). -/
def Health.levelOf (h : Health) (score : Nat) : Nat :=
  if h.t3.toNat ≤ score then 3 else if h.t2.toNat ≤ score then 2 else if h.t1.toNat ≤ score then 1 else 0

/-- A level 3 action: an event to the hosts, and dispatch stops for the freeze where a graph is placed (R479, R486). -/
def State.level3 (s : State) : State :=
  let t := s.snapEvent 5 (s.hlt.seq + 1) s.lastStep 0
  if s.placed.isSome then (t.onHlt fun h => { h with freeze3 := true }).onRun fun r => { r with paused := true } else t

/-- The sample enters the ring, the score is formed, and a change of level is logged and acts (R478, R479). -/
def State.riskSample (s : State) (status : Nat) : State :=
  let h := s.hlt
  let window := (h.rise :: h.window).take 1024
  let ps := s.riskPoints window status
  let score := min 255 (ps.foldl (· + ·) 0)
  let old := h.level.toNat
  let n := h.levelOf score
  let act2 := decide (n = 2 ∧ old < 2) && h.armed2
  let act3 := decide (n = 3 ∧ old < 3) && h.armed3
  let t := s.onHlt fun h =>
    { h with
      window := window, samples := h.samples + 1, rise := {}, score := BitVec.ofNat 8 score, level := BitVec.ofNat 2 n
      points := Vector.ofFn fun k => BitVec.ofNat 8 (ps.getD k.val 0)
      log := if n = old then h.log
        else ({ level := BitVec.ofNat 2 n, score := BitVec.ofNat 8 score, sample := h.samples + 1 } :: h.log).take 256
      pending2 := h.pending2 || act2
      armed2 := (h.armed2 && !act2) || decide (score + 16 ≤ h.t2.toNat)
      armed3 := (h.armed3 && !act3) || decide (score + 16 ≤ h.t3.toNat) }
  let t := if n = old then t
    else t.event fromMarkhor 0x31 [packBits [(score, 0), (n, 8)], BitVec.ofNat 64 (h.samples + 1)]
  if act3 then t.level3 else t

/-! ### The sample -/

/-- A junction at 115 °C, or a coolant leak, is a thermal trip; in A3 only a leak that arises is reported (R598, R621). -/
def State.tripCheck (s : State) (x : Sensors) (rises : Bool) : State :=
  let hot := decide (115 ≤ x.junction.toNat)
  let asleep := s.pwr.state == .a3 && s.pwr.transition.isNone
  if asleep then if rises then s.thermal x 2 else s
  else if hot || s.pwr.leak then (s.thermal x 2).trip else s

/-- HEALTH_SAMPLE: outside READY only the always-on supervisor samples (R551); no sample is taken in Off or while
EXT_RST_N is held. -/
def execHealthSample (x : Sensors) (s : State) : Res :=
  .next
    (if s.pwr.off || s.sec.extHeld then s
     else
       let t := s.sense x
       if s.sec.boot ≠ .ready then t
       else
         let status := coolantStatus x t.pwr.leak
         let t := ((t.throttle x status).droopRecords.farErrors x.farErrors).fecSample
         (t.riskSample status).tripCheck x (x.leak && !s.pwr.leak))

end Sys2Proof.Machine
end

