-- ==== Sys2Proof/Machine/Dispatch.lean ====
section
/-! DEFINITION. One arm per command: the meaning of each constructor of Instr. -/
namespace Sys2Proof.Machine

def exec (i : Instr) (s : State) : Host.Outcome State Fault Refusal :=
  match i with
  | .vadd a => Sys2Proof.Machine.execVadd a s
  | .vsub a => Sys2Proof.Machine.execVsub a s
  | .vmul a => Sys2Proof.Machine.execVmul a s
  | .vfma a => Sys2Proof.Machine.execVfma a s
  | .vfms a => Sys2Proof.Machine.execVfms a s
  | .vnfma a => Sys2Proof.Machine.execVnfma a s
  | .vdiv a => Sys2Proof.Machine.execVdiv a s
  | .vrcp a => Sys2Proof.Machine.execVrcp a s
  | .vsqrt a => Sys2Proof.Machine.execVsqrt a s
  | .vrsqrt a => Sys2Proof.Machine.execVrsqrt a s
  | .vmax a => Sys2Proof.Machine.execVmax a s
  | .vmin a => Sys2Proof.Machine.execVmin a s
  | .vabs a => Sys2Proof.Machine.execVabs a s
  | .vneg a => Sys2Proof.Machine.execVneg a s
  | .vmulp2 a => Sys2Proof.Machine.execVmulp2 a s
  | .vexp a => Sys2Proof.Machine.execVexp a s
  | .vexp2 a => Sys2Proof.Machine.execVexp2 a s
  | .vln a => Sys2Proof.Machine.execVln a s
  | .vlog2 a => Sys2Proof.Machine.execVlog2 a s
  | .vtanh a => Sys2Proof.Machine.execVtanh a s
  | .vsigm a => Sys2Proof.Machine.execVsigm a s
  | .verf a => Sys2Proof.Machine.execVerf a s
  | .vbcastVs a => Sys2Proof.Machine.execVbcastVs a s
  | .vmv a => Sys2Proof.Machine.execVmv a s
  | .vsel a sel => Sys2Proof.Machine.execVsel a sel s
  | .vcmpEq a => Sys2Proof.Machine.execVcmpEq a s
  | .vcmpNe a => Sys2Proof.Machine.execVcmpNe a s
  | .vcmpLt a => Sys2Proof.Machine.execVcmpLt a s
  | .vcmpLe a => Sys2Proof.Machine.execVcmpLe a s
  | .vcmpGt a => Sys2Proof.Machine.execVcmpGt a s
  | .vcmpGe a => Sys2Proof.Machine.execVcmpGe a s
  | .viadd a => Sys2Proof.Machine.execViadd a s
  | .visub a => Sys2Proof.Machine.execVisub a s
  | .vimul a => Sys2Proof.Machine.execVimul a s
  | .vimulh a => Sys2Proof.Machine.execVimulh a s
  | .vimulhu a => Sys2Proof.Machine.execVimulhu a s
  | .vand a => Sys2Proof.Machine.execVand a s
  | .vor a => Sys2Proof.Machine.execVor a s
  | .vxor a => Sys2Proof.Machine.execVxor a s
  | .vsll a => Sys2Proof.Machine.execVsll a s
  | .vsrl a => Sys2Proof.Machine.execVsrl a s
  | .vsra a => Sys2Proof.Machine.execVsra a s
  | .vimin a => Sys2Proof.Machine.execVimin a s
  | .vimax a => Sys2Proof.Machine.execVimax a s
  | .viminu a => Sys2Proof.Machine.execViminu a s
  | .vimaxu a => Sys2Proof.Machine.execVimaxu a s
  | .vicmpEq a => Sys2Proof.Machine.execVicmpEq a s
  | .vicmpNe a => Sys2Proof.Machine.execVicmpNe a s
  | .vicmpLt a => Sys2Proof.Machine.execVicmpLt a s
  | .vicmpLe a => Sys2Proof.Machine.execVicmpLe a s
  | .vicmpLtu a => Sys2Proof.Machine.execVicmpLtu a s
  | .vicmpLeu a => Sys2Proof.Machine.execVicmpLeu a s
  | .vidx a => Sys2Proof.Machine.execVidx a s
  | .visplatVx a => Sys2Proof.Machine.execVisplatVx a s
  | .vwid a => Sys2Proof.Machine.execVwid a s
  | .vnar a => Sys2Proof.Machine.execVnar a s
  | .viwid a => Sys2Proof.Machine.execViwid a s
  | .viwidu a => Sys2Proof.Machine.execViwidu a s
  | .vinar a => Sys2Proof.Machine.execVinar a s
  | .vcvtSiI a => Sys2Proof.Machine.execVcvtSiI a s
  | .vcvtISi a => Sys2Proof.Machine.execVcvtISi a s
  | .pand a => Sys2Proof.Machine.execPand a s
  | .por a => Sys2Proof.Machine.execPor a s
  | .pxor a => Sys2Proof.Machine.execPxor a s
  | .pandn a => Sys2Proof.Machine.execPandn a s
  | .pnot a => Sys2Proof.Machine.execPnot a s
  | .pset a => Sys2Proof.Machine.execPset a s
  | .pclr a => Sys2Proof.Machine.execPclr a s
  | .vredsum a => Sys2Proof.Machine.execVredsum a s
  | .vredmax a => Sys2Proof.Machine.execVredmax a s
  | .vredmin a => Sys2Proof.Machine.execVredmin a s
  | .viredsum a => Sys2Proof.Machine.execViredsum a s
  | .viredmax a => Sys2Proof.Machine.execViredmax a s
  | .viredmin a => Sys2Proof.Machine.execViredmin a s
  | .vsegsum a => Sys2Proof.Machine.execVsegsum a s
  | .vsegmax a => Sys2Proof.Machine.execVsegmax a s
  | .vsegmin a => Sys2Proof.Machine.execVsegmin a s
  | .vcompress a => Sys2Proof.Machine.execVcompress a s
  | .vexpand a => Sys2Proof.Machine.execVexpand a s
  | .vperm a => Sys2Proof.Machine.execVperm a s
  | .vslideup a => Sys2Proof.Machine.execVslideup a s
  | .vslidedn a => Sys2Proof.Machine.execVslidedn a s
  | .vpsumPopc a => Sys2Proof.Machine.execVpsumPopc a s
  | .vpsumAny a => Sys2Proof.Machine.execVpsumAny a s
  | .vpsumAll a => Sys2Proof.Machine.execVpsumAll a s
  | .vpsumFirst a => Sys2Proof.Machine.execVpsumFirst a s
  | .vsmax a => Sys2Proof.Machine.execVsmax a s
  | .vmvx a => Sys2Proof.Machine.execVmvx a s
  | .vsetcfg a => Sys2Proof.Machine.execVsetcfg a s
  | .vld a => Sys2Proof.Machine.execVld a s
  | .vst a => Sys2Proof.Machine.execVst a s
  | .vldres a => Sys2Proof.Machine.execVldres a s
  | .vstres a => Sys2Proof.Machine.execVstres a s
  | .summaryDelivery cl => Sys2Proof.Machine.execSummaryDelivery cl s
  | .tahrBaseInstruction cl => Sys2Proof.Machine.execTahrBaseInstruction cl s
  | .csrInstruction cl f3 rd rs1 csr => Sys2Proof.Machine.execCsrInstruction cl f3 rd rs1 csr s
  | .ebreak cl => Sys2Proof.Machine.execEbreak cl s
  | .fence cl => Sys2Proof.Machine.execFence cl s
  | .fenceI cl => Sys2Proof.Machine.execFenceI cl s
  | .tarr cl rs1 => Sys2Proof.Machine.execTarr cl rs1 s
  | .tarrsync cl rd => Sys2Proof.Machine.execTarrsync cl rd s
  | .tarrsyncResume cl => Sys2Proof.Machine.execTarrsyncResume cl s
  | .tprod cl rs1 rs2 => Sys2Proof.Machine.execTprod cl rs1 rs2 s
  | .twaits cl rs1 rs2 => Sys2Proof.Machine.execTwaits cl rs1 rs2 s
  | .twaitsResume cl => Sys2Proof.Machine.execTwaitsResume cl s
  | .tguard cl rs1 rs2 => Sys2Proof.Machine.execTguard cl rs1 rs2 s
  | .tend cl rs1 => Sys2Proof.Machine.execTend cl rs1 s
  | .cycleBudgetExceeded cl => Sys2Proof.Machine.execCycleBudgetExceeded cl s
  | .arrayCommandFetch cl => Sys2Proof.Machine.execArrayCommandFetch cl s
  | .arrMode cl => Sys2Proof.Machine.execArrMode cl s
  | .arrClear cl => Sys2Proof.Machine.execArrClear cl s
  | .arrLoadShadow cl => Sys2Proof.Machine.execArrLoadShadow cl s
  | .shadowLoadDone cl => Sys2Proof.Machine.execShadowLoadDone cl s
  | .arrSwap cl => Sys2Proof.Machine.execArrSwap cl s
  | .arrStream cl => Sys2Proof.Machine.execArrStream cl s
  | .arrDrain cl => Sys2Proof.Machine.execArrDrain cl s
  | .taskDispatch cl => Sys2Proof.Machine.execTaskDispatch cl s
  | .signalArrival cl k => Sys2Proof.Machine.execSignalArrival cl k s
  | .taskComplete cl entry => Sys2Proof.Machine.execTaskComplete cl entry s
  | .specCommitWritesDone cl entry => Sys2Proof.Machine.execSpecCommitWritesDone cl entry s
  | .holdPeakReset rg => Sys2Proof.Machine.execHoldPeakReset rg s
  | .stepStart => Sys2Proof.Machine.execStepStart s
  | .segmentFinish rg => Sys2Proof.Machine.execSegmentFinish rg s
  | .stepBoundary => Sys2Proof.Machine.execStepBoundary s
  | .clusterFence cl reason => Sys2Proof.Machine.execClusterFence cl reason s
  | .replacement => Sys2Proof.Machine.execReplacement s
  | .solverCallStart rg => Sys2Proof.Machine.execSolverCallStart rg s
  | .nyalaWaveInputDone rg => Sys2Proof.Machine.execNyalaWaveInputDone rg s
  | .nyalaWaveComputeDone rg => Sys2Proof.Machine.execNyalaWaveComputeDone rg s
  | .nyalaCallDone rg => Sys2Proof.Machine.execNyalaCallDone rg s
  | .solverDeadline rg k => Sys2Proof.Machine.execSolverDeadline rg k s
  | .jacobiRound rg => Sys2Proof.Machine.execJacobiRound rg s
  | .reduceScatterStart op => Sys2Proof.Machine.execReduceScatterStart op s
  | .distributionStart op => Sys2Proof.Machine.execDistributionStart op s
  | .factorReductionStart block => Sys2Proof.Machine.execFactorReductionStart block s
  | .newtonNormalisation rg => Sys2Proof.Machine.execNewtonNormalisation rg s
  | .medlarIterationDecision rg => Sys2Proof.Machine.execMedlarIterationDecision rg s
  | .tagGrant rg => Sys2Proof.Machine.execTagGrant rg s
  | .sorterAccept pt => Sys2Proof.Machine.execSorterAccept pt s
  | .bankSchedule pt bank => Sys2Proof.Machine.execBankSchedule pt bank s
  | .memoryReadReturn pt err => Sys2Proof.Machine.execMemoryReadReturn pt err s
  | .watchdogPromotion pt => Sys2Proof.Machine.execWatchdogPromotion pt s
  | .regulatorRefill pt => Sys2Proof.Machine.execRegulatorRefill pt s
  | .scrubRead pt err => Sys2Proof.Machine.execScrubRead pt err s
  | .hbmInitDone => Sys2Proof.Machine.execHbmInitDone s
  | .linkTrainingDone p => Sys2Proof.Machine.execLinkTrainingDone p s
  | .linkAlignmentLost p => Sys2Proof.Machine.execLinkAlignmentLost p s
  | .linkAckTimeout p => Sys2Proof.Machine.execLinkAckTimeout p s
  | .linkControlReceive p rx => Sys2Proof.Machine.execLinkControlReceive p rx s
  | .linkControlSend p => Sys2Proof.Machine.execLinkControlSend p s
  | .portSlotSend p => Sys2Proof.Machine.execPortSlotSend p s
  | .packetReceive p rx => Sys2Proof.Machine.execPacketReceive p rx s
  | .desc => Sys2Proof.Machine.execDesc s
  | .data => Sys2Proof.Machine.execData s
  | .ack => Sys2Proof.Machine.execAck s
  | .nack => Sys2Proof.Machine.execNack s
  | .cut => Sys2Proof.Machine.execCut s
  | .streamStallTimeout stream => Sys2Proof.Machine.execStreamStallTimeout stream s
  | .epochPrepare => Sys2Proof.Machine.execEpochPrepare s
  | .epochReply => Sys2Proof.Machine.execEpochReply s
  | .epochSwitch => Sys2Proof.Machine.execEpochSwitch s
  | .epochPoll => Sys2Proof.Machine.execEpochPoll s
  | .epochPollReply => Sys2Proof.Machine.execEpochPollReply s
  | .epochRelease => Sys2Proof.Machine.execEpochRelease s
  | .epochAbort => Sys2Proof.Machine.execEpochAbort s
  | .epochPrepareTimeout => Sys2Proof.Machine.execEpochPrepareTimeout s
  | .epochPollRound => Sys2Proof.Machine.execEpochPollRound s
  | .drainTimeout => Sys2Proof.Machine.execDrainTimeout s
  | .heartbeat => Sys2Proof.Machine.execHeartbeat s
  | .partnerHeartbeatSend => Sys2Proof.Machine.execPartnerHeartbeatSend s
  | .partnerLost => Sys2Proof.Machine.execPartnerLost s
  | .verifyDigest => Sys2Proof.Machine.execVerifyDigest s
  | .verifyResult => Sys2Proof.Machine.execVerifyResult s
  | .chunkDigestDone => Sys2Proof.Machine.execChunkDigestDone s
  | .healthSample sensors => Sys2Proof.Machine.execHealthSample sensors s
  | .snapshotFreezeDone => Sys2Proof.Machine.execSnapshotFreezeDone s
  | .level3Freeze => Sys2Proof.Machine.execLevel3Freeze s
  | .snapshotMirrorDone => Sys2Proof.Machine.execSnapshotMirrorDone s
  | .privateFillDone data => Sys2Proof.Machine.execPrivateFillDone data s
  | .fillStallTimeout => Sys2Proof.Machine.execFillStallTimeout s
  | .mbxInWrite port word take => Sys2Proof.Machine.execMbxInWrite port word take s
  | .mbxOutRead port => Sys2Proof.Machine.execMbxOutRead port s
  | .resync port => Sys2Proof.Machine.execResync port s
  | .mbxDbHeartbeat port => Sys2Proof.Machine.execMbxDbHeartbeat port s
  | .mbxDbStep port value => Sys2Proof.Machine.execMbxDbStep port value s
  | .mbxDbIrq port bits => Sys2Proof.Machine.execMbxDbIrq port bits s
  | .windowRead port off len => Sys2Proof.Machine.execWindowRead port off len s
  | .windowWrite port off data => Sys2Proof.Machine.execWindowWrite port off data s
  | .registerWrite w addr value => Sys2Proof.Machine.execRegisterWrite w addr value s
  | .hostHeartbeatTimeout port => Sys2Proof.Machine.execHostHeartbeatTimeout port s
  | .pciePortReset port perst => Sys2Proof.Machine.execPciePortReset port perst s
  | .cfgBegin c => Sys2Proof.Machine.execCfgBegin c s
  | .cfgSet c => Sys2Proof.Machine.execCfgSet c s
  | .cfgCommit c => Sys2Proof.Machine.execCfgCommit c s
  | .cfgRollback c => Sys2Proof.Machine.execCfgRollback c s
  | .cfgStatus c => Sys2Proof.Machine.execCfgStatus c s
  | .cfgApply => Sys2Proof.Machine.execCfgApply s
  | .cfgIdleTimeout => Sys2Proof.Machine.execCfgIdleTimeout s
  | .regRead c => Sys2Proof.Machine.execRegRead c s
  | .statClear c => Sys2Proof.Machine.execStatClear c s
  | .graphLoad c => Sys2Proof.Machine.execGraphLoad c s
  | .graphUnload c => Sys2Proof.Machine.execGraphUnload c s
  | .placeReport c => Sys2Proof.Machine.execPlaceReport c s
  | .stepRun c => Sys2Proof.Machine.execStepRun c s
  | .stepHalt c => Sys2Proof.Machine.execStepHalt c s
  | .quiesce c => Sys2Proof.Machine.execQuiesce c s
  | .dmaCopy c => Sys2Proof.Machine.execDmaCopy c s
  | .dmaCopyDone port k data bad => Sys2Proof.Machine.execDmaCopyDone port k data bad s
  | .slvProblemLoad c => Sys2Proof.Machine.execSlvProblemLoad c s
  | .slvProblemInfo c => Sys2Proof.Machine.execSlvProblemInfo c s
  | .slvContextClear c => Sys2Proof.Machine.execSlvContextClear c s
  | .cursorSet c => Sys2Proof.Machine.execCursorSet c s
  | .snapNow c => Sys2Proof.Machine.execSnapNow c s
  | .snapMirrorBuf c => Sys2Proof.Machine.execSnapMirrorBuf c s
  | .restoreBegin c => Sys2Proof.Machine.execRestoreBegin c s
  | .fillSend c => Sys2Proof.Machine.execFillSend c s
  | .restorePrivateHost c => Sys2Proof.Machine.execRestorePrivateHost c s
  | .restoreCommit c => Sys2Proof.Machine.execRestoreCommit c s
  | .verifyStart c => Sys2Proof.Machine.execVerifyStart c s
  | .evtRead c => Sys2Proof.Machine.execEvtRead c s
  | .evtMask c => Sys2Proof.Machine.execEvtMask c s
  | .cntRead c => Sys2Proof.Machine.execCntRead c s
  | .cntClear c => Sys2Proof.Machine.execCntClear c s
  | .phaseNotice ph active => Sys2Proof.Machine.execPhaseNotice ph active s
  | .pwrState c => Sys2Proof.Machine.execPwrState c s
  | .powerStateEntry => Sys2Proof.Machine.execPowerStateEntry s
  | .regionDomainSwitch => Sys2Proof.Machine.execRegionDomainSwitch s
  | .computeReset c => Sys2Proof.Machine.execComputeReset c s
  | .computeResetGraceExpiry => Sys2Proof.Machine.execComputeResetGraceExpiry s
  | .attest c => Sys2Proof.Machine.execAttest c s
  | .unlockChallenge c => Sys2Proof.Machine.execUnlockChallenge c s
  | .unlockToken c => Sys2Proof.Machine.execUnlockToken c s
  | .debugLock c => Sys2Proof.Machine.execDebugLock c s
  | .ident c => Sys2Proof.Machine.execIdent c s
  | .identFusemap c => Sys2Proof.Machine.execIdentFusemap c s
  | .fwBegin c => Sys2Proof.Machine.execFwBegin c s
  | .fwWrite c => Sys2Proof.Machine.execFwWrite c s
  | .fwCommit c => Sys2Proof.Machine.execFwCommit c s
  | .fwAbort c => Sys2Proof.Machine.execFwAbort c s
  | .fwSessionTimeout => Sys2Proof.Machine.execFwSessionTimeout s
  | .logRead c => Sys2Proof.Machine.execLogRead c s
  | .moduleReset c => Sys2Proof.Machine.execModuleReset c s
  | .moduleResetExecute strap => Sys2Proof.Machine.execModuleResetExecute strap s
  | .powerOnReset strap => Sys2Proof.Machine.execPowerOnReset strap s
  | .bootLoadDone => Sys2Proof.Machine.execBootLoadDone s
  | .bootReady => Sys2Proof.Machine.execBootReady s
  | .bootWatchdog strap => Sys2Proof.Machine.execBootWatchdog strap s
  | .powerInputLost mv high => Sys2Proof.Machine.execPowerInputLost mv high s
  | .islandTimeout snd rcv => Sys2Proof.Machine.execIslandTimeout snd rcv s
  | .droop rg => Sys2Proof.Machine.execDroop rg s
  | .cageOvercurrent p => Sys2Proof.Machine.execCageOvercurrent p s
  | .extRstAssert => Sys2Proof.Machine.execExtRstAssert s
  | .extRstRelease strap => Sys2Proof.Machine.execExtRstRelease strap s
  | .debugDataAccess write => Sys2Proof.Machine.execDebugDataAccess write s
  | .arrStreamLastUpdate cl => Sys2Proof.Machine.execArrStreamLastUpdate cl s
  | .arrDrainWritten cl => Sys2Proof.Machine.execArrDrainWritten cl s
  | .placementFinished => Sys2Proof.Machine.execPlacementFinished s
  | .linkTrainingStart p => Sys2Proof.Machine.execLinkTrainingStart p s
  | .initCheckFailed strap => Sys2Proof.Machine.execInitCheckFailed strap s
  | .perstDeassert port => Sys2Proof.Machine.execPerstDeassert port s
  | .bar0MissizedRead port => Sys2Proof.Machine.execBar0MissizedRead port s

end Sys2Proof.Machine
end

