-- ==== Sys2Proof/Machine/Board.lean ====
section
/-! DEFINITION. What the module shows without a command that changes it: the registers of a host port (14 R498, R499, R504),
the telemetry page and the level of the output pins (18 R621, R624, R627, R628). -/
namespace Sys2Proof.Machine

/-! ### Registers of a host port (R498, R499, R504) -/

/-- What a naturally aligned 64-bit read of a port's BAR0 returns, but for MBX_OUT, whose read takes a word and is a command of
its own (MBX_OUT_READ): write-only registers and reserved offsets read as zero (R18, R21). -/
def State.bar0Read (s : State) (p : HPort) (off : Nat) : Word :=
  let q := s.port p
  let hostCode (h : HostState) : Nat := match h with
    | .absent => 0
    | .present => 1
    | .lost => 2
  let other : HPort := if p = 0 then 1 else 0
  if off = 0x1008 then BitVec.ofNat 64 q.out.length
  else if off = 0x1010 then BitVec.ofNat 64 (fifoWords - q.fifo.length)
  else if off = 0x1018 then q.stat.zeroExtend 64
  else if off = 0x1028 then packBits [(q.winBase.toNat, 30)]
  else if off = 0x1030 then
    packBits [(hostCode q.host, 0), (hostCode (s.port other).host, 2), (b2n s.txn.isSome, 4), (b2n (s.txn.any (·.owner == p)), 5),
      (s.sec.boot.code, 8), (s.pwr.stateCode, 12)]
  else if off = 0x1038 then BitVec.ofNat 64 q.outstanding.length
  else if off = 0x1040 then s.evtSeq - 1
  else if 0x2000 ≤ off ∧ off < 0x2040 then
    ((vecAt q.msix ((off - 0x2000) / 16)).map fun m => BitVec.ofNat 64 (fld m (64 * (off / 8 % 2)) 64)).getD 0
  else if off = 0x3000 then q.pba.zeroExtend 64
  else 0

/-- A read of BAR4 returns zero (R504). -/
def bar4Read : Word := 0

/-! ### The management sideband (R620 to R628) -/

/-- The coolant status of the last sample (R630). -/
def Power.coolantState (p : Power) : Nat := fld p.coolant 28 2

/-- ALERT_N is low (R624). -/
def State.alert (s : State) : Bool :=
  decide (2 ≤ s.hlt.level.toNat) || decide (1 ≤ s.pwr.coolantState) || s.sec.boot == .recovery

/-- LEAK_N is low (R621). -/
def State.leakPin (s : State) : Bool := s.pwr.leak

/-- PWR_GOOD is high: from the end of a power-on reset until Off (R624). -/
def State.powerGood (s : State) : Bool := !s.pwr.off

/-- The 64 bytes of the telemetry page (R628); none in Off, when it is not served (R627). -/
def State.telemetryPage (s : State) : Option (List Byte) :=
  let p := s.pwr
  if p.off then none
  else some (
    [BitVec.ofNat 8 s.sec.boot.code, BitVec.ofNat 8 p.stateCode, s.hlt.score, BitVec.ofNat 8 p.coolantState]
    ++ bytesOf 2 p.inputMv.toNat ++ bytesOf 2 p.inputW.toNat
    ++ [p.tjMax, BitVec.ofNat 8 (fld p.coolant 0 8), BitVec.ofNat 8 (fld p.coolant 8 8)]
    ++ bytesOf 2 (fld p.coolant 16 12) ++ [p.level.zeroExtend 8] ++ bytesOf 2 (s.evtSeq.toNat - 1)
    ++ (partNumber ++ [0]) ++ List.replicate 6 0 ++ bytesOf 16 Config.uid.toNat ++ [s.hlt.strap]
    ++ List.replicate 15 0)

/-- The page is 64 bytes long. -/
theorem State.telemetryPage_length {s : State} {page : List Byte} (h : s.telemetryPage = some page) :
    page.length = 64 := by
  simp only [State.telemetryPage] at h
  split at h
  · simp at h
  · simp only [Option.some.injEq] at h
    rw [← h]
    simp [bytesOf, partNumber]

end Sys2Proof.Machine
end

