-- ==== Sys2Proof/Safety.lean ====
section
/-! DEFINITION. The words that claims are made in: what a command answers, what of the state it may change, and the
invariant of every step. -/
namespace Sys2Proof.Machine

/-- A command answers a next state, of which something holds. -/
def Answers (i : Instr) (s : State) (holds : State → Prop) : Prop := ∃ t, exec i s = .next t ∧ holds t

/-- The invariant of every step: memory is in its canonical form, so that equal memories are equal data. -/
def State.Inv (s : State) : Prop := s.mem.wf = true

/-- Of the whole state only one cluster's units may differ. -/
def OnlyCluster (c : Cl) (s t : State) : Prop := t = { s with cls := t.cls } ∧ ∀ d, d ≠ c → t.cl d = s.cl d

/-- Of the whole state only one region's units may differ. -/
def OnlyRegion (r : Rg) (s t : State) : Prop := t = { s with rgs := t.rgs } ∧ ∀ q, q ≠ r → t.rg q = s.rg q

/-- Of the whole state only one partition's registers may differ. -/
def OnlyPart (p : Pt) (s t : State) : Prop := t = { s with parts := t.parts } ∧ ∀ q, q ≠ p → t.part q = s.part q

/-- Of the whole state only one PCIe port may differ. -/
def OnlyPort (p : HPort) (s t : State) : Prop := t = { s with ports := t.ports } ∧ ∀ q, q ≠ p → t.port q = s.port q

/-- What a log of events holds newest first: an event of a code with its detail words, entered by a command. -/
def Logged (s t : State) (code : Nat) (words : List Word) : Prop :=
  t.evtSeq = s.evtSeq + 1 ∧ ∃ e rest, t.events = e :: rest ∧ e.seq = s.evtSeq ∧ e.code = BitVec.ofNat 16 code ∧
    [e.d1, e.d2, e.d3, e.d4, e.d5] = (List.range 5).map fun k => words.getD k 0

/-- A cluster's kernel may write these bytes of its tile memory: a speculative one only inside its claimed buffers (R245). -/
def MayWrite (k : Cluster) (ws : List WByte) : Prop :=
  ∀ f, k.kernelFiring = some f → f.held = true → ∀ w ∈ ws, k.inClaim f.entry w.addr = true

/-! ### Commands of a host (R505 to R510) -/

/-- The command rows of a host's command set, with their class and opcode. -/
def hostKey : Instr → Option (Nat × HostCmd)
  | .cfgBegin c => some (0x101, c) | .cfgSet c => some (0x102, c) | .cfgCommit c => some (0x103, c)
  | .cfgRollback c => some (0x104, c) | .cfgStatus c => some (0x105, c) | .regRead c => some (0x110, c)
  | .statClear c => some (0x111, c) | .graphLoad c => some (0x201, c) | .graphUnload c => some (0x202, c)
  | .placeReport c => some (0x203, c) | .stepRun c => some (0x210, c) | .stepHalt c => some (0x211, c)
  | .quiesce c => some (0x212, c) | .dmaCopy c => some (0x301, c) | .slvProblemLoad c => some (0x401, c)
  | .slvProblemInfo c => some (0x402, c) | .slvContextClear c => some (0x403, c) | .cursorSet c => some (0x501, c)
  | .snapNow c => some (0x502, c) | .snapMirrorBuf c => some (0x503, c) | .restoreBegin c => some (0x510, c)
  | .fillSend c => some (0x511, c) | .restorePrivateHost c => some (0x512, c) | .restoreCommit c => some (0x513, c)
  | .verifyStart c => some (0x514, c) | .evtRead c => some (0x601, c) | .evtMask c => some (0x602, c)
  | .cntRead c => some (0x701, c) | .cntClear c => some (0x702, c) | .pwrState c => some (0x801, c)
  | .computeReset c => some (0x802, c) | .attest c => some (0xE01, c) | .unlockChallenge c => some (0xE02, c)
  | .unlockToken c => some (0xE03, c) | .debugLock c => some (0xE04, c) | .ident c => some (0xF01, c)
  | .identFusemap c => some (0xF02, c) | .fwBegin c => some (0xF10, c) | .fwWrite c => some (0xF11, c)
  | .fwCommit c => some (0xF12, c) | .fwAbort c => some (0xF13, c) | .logRead c => some (0xF20, c)
  | .moduleReset c => some (0xF30, c)
  | _ => none

/-- The command that a host's row puts among the outstanding ones of its port. -/
def startedCmd (s : State) (key : Nat) (c : HostCmd) : OutCmd :=
  let w := cmdHeader key c
  { id := (s.port c.port).freeId c.tag, tag := c.tag, cls := headCls w, op := headOp w, notify := w.getLsbD 0 }

/-- The state in which a host's command takes effect: it is outstanding, and nothing else has changed. -/
def State.started (s : State) (key : Nat) (c : HostCmd) : State :=
  s.onPort c.port fun q => { q with outstanding := q.outstanding ++ [startedCmd s key c] }

/-- A host's command is accepted: its port is up, its header is well-formed and free to start, no command waits before
it, and no state, length or power rule refuses it. -/
def Accepts (s : State) (key : Nat) (c : HostCmd) : Prop :=
  s.portUp c.port = true ∧ (s.port c.port).ready = [] ∧
  (s.port c.port).outstanding.any (·.tag == c.tag) = false ∧ (s.port c.port).outstanding.length < 256 ∧
  (s.started key c).refusal key c.words = none

/-- The number that the module knows the command by. -/
def startedId (s : State) (key : Nat) (c : HostCmd) : BitVec 16 := (startedCmd s key c).id

/-- The state in which the oldest command that waits at a port takes effect: it waits no more. -/
def State.unqueued (s : State) (p : HPort) : State := s.onPort p fun q => { q with ready := q.ready.tail }

/-- A host's command is the oldest one that waits at its port, and nothing refuses it now. -/
def WaitsFirst (s : State) (key : Nat) (c : HostCmd) (a : Arrived) : Prop :=
  s.portUp c.port = true ∧ (s.port c.port).ready.head? = some a ∧ a.names key c = true ∧ (s.unqueued c.port).refusal key a.words = none

/-- A host's command has an effect, as soon as it arrives where it is accepted, or as the oldest one that waits at its port: the next
state, from the state in which the command takes effect, its port and the number that the module knows it by. A command that goes
on then gets its interim completion (R510). -/
def Completes (i : Instr) (key : Nat) (c : HostCmd) (s : State) (effect : State → HPort → BitVec 16 → State) : Prop :=
  c.wf = true →
    (Accepts s key c →
      exec i s = .next ((effect (s.started key c) c.port (startedId s key c)).interim c.port (startedId s key c))) ∧
    ∀ a, WaitsFirst s key c a → exec i s = .next ((effect (s.unqueued c.port) c.port a.id).interim c.port a.id)

end Sys2Proof.Machine
end

