-- ==== Sys2Proof/Certificates/Slice0/Obligations.lean ====
section
/-! DEFINITION. The statements for the provers, from the numbered rules of spec/. A statement with several subjects is the
conjunction of its parts, each named Claim.<what it says>. -/
open Sys2Proof Sys2Proof.Machine

/-! ### The block and its queue -/

/-- A step runs the command at the front of the queue on the state with the rest of the queue. -/
def Obligations.StepRunsFrontCommand : Prop :=
  ∀ (s : State) (c : Instr) (rest : List Instr), s.pending = c :: rest → step s = exec c { s with pending := rest }

/-- On an empty queue 10 ns pass (the model's choice: log entry 19); nothing but counters of time and of cycles changes, and
tallies of firings (R579, R601, R603). A cluster without a firing and without a WAITING entry counts nothing; a port counts 16
cycles of its running island for each VC of which it holds a packet without a credit (R607, log entry 45). Without power
nothing changes. -/
def Obligations.EmptyQueueTicks : Prop :=
  ∀ s : State, s.pending = [] → (s.pwr.off = true → step s = .next s) ∧ (s.pwr.off = false →
    ∃ t, step s = .next t ∧
      t = { s with pwr := t.pwr, perf := t.perf, nonce := s.nonce + 1, cls := t.cls, rgs := t.rgs, fab := { s.fab with ports := t.fab.ports } } ∧
      t.pwr = { s.pwr with islands := t.pwr.islands } ∧
      (∀ i : Fin 100, t.pwr.islands[i] = { s.pwr.islands[i] with
        ticks := if s.pwr.islands[i].powered then s.pwr.islands[i].ticks + 1 else s.pwr.islands[i].ticks }) ∧
      (∀ c : Cl, t.cl c = { s.cl c with stl := (t.cl c).stl, firings := (t.cl c).firings } ∧
        (t.cl c).firings.map (fun f => { f with tally := [] }) = (s.cl c).firings.map (fun f => { f with tally := [] }) ∧
        ((s.cl c).firings = [] → (∀ i : Fin 128, (s.cl c).table[i].state ≠ .waiting) → t.cl c = s.cl c)) ∧
      (∀ r : Rg, t.rg r = { s.rg r with stl := (t.rg r).stl }) ∧
      ∀ p : FPort, t.link p = { s.link p with stl := (t.link p).stl } ∧
        ∀ v : Fin 4, (t.link p).stl[v] = if (s.link p).live = true ∧ s.pwr.islands[84 + p.val].running = true ∧
          (∃ w ∈ s.fab.waiting, w.output = p ∧ w.packet.vc = v.val ∧
            (s.link p).credit (bufClass v.val (s.fab.dlOut w.input p w.packet)) = false) then (s.link p).stl[v] + 16 else (s.link p).stl[v])

/-- Every command answers a next state, and none changes the queue of the commands that wait. -/
def Obligations.CommandsLeaveQueue : Prop :=
  ∀ (c : Instr) (s : State), Answers c s fun t => t.pending = s.pending

/-- Memory is in its canonical form after reset. -/
def Obligations.InvariantAtReset : Prop := State.reset.Inv

/-- Every step keeps memory in its canonical form. -/
def Obligations.InvariantKept : Prop := ∀ s t : State, s.Inv → step s = .next t → t.Inv

/-! ### Vector engine (R157 to R214) -/

/-- What each vector instruction that works on registers does: its fields, the x registers it reads, its operation. -/
def vectorRow : Instr → Option (VArgs × List (BitVec 5) × (Vec → XRegs → VRes))
  | .vadd a => some (a, scalarRegs a, fun v x => v.siBin a x true false (bin fun p q => okRes (p.add q)))
  | .vsub a => some (a, scalarRegs a, fun v x => v.siBin a x true false (bin fun p q => okRes (p.sub q)))
  | .vmul a => some (a, scalarRegs a, fun v x => v.siBin a x true false (bin fun p q => okRes (p.mul q)))
  | .vfma a => some (a, scalarRegs a, fun v x => v.siTri a x fun p q d => (p.mul q).add d)
  | .vfms a => some (a, scalarRegs a, fun v x => v.siTri a x fun p q d => (p.mul q).sub d)
  | .vnfma a => some (a, scalarRegs a, fun v x => v.siTri a x fun p q d => d.sub (p.mul q))
  | .vdiv a => some (a, scalarRegs a, fun v x => v.siBin a x true false (bin (divRes v.strict v.EW)))
  | .vrcp a => some (a, [], fun v _ => v.siUn a true false (rcpRes v.strict v.EW))
  | .vsqrt a => some (a, [], fun v _ => v.siUn a true false (sqrtRes v.strict v.EW))
  | .vrsqrt a => some (a, [], fun v _ => v.siUn a true false (rsqrtRes v.strict v.EW))
  | .vmax a => some (a, scalarRegs a, fun v x => v.siBin a x false true (bin fun p q => okRes (if p.lt q then q else p)))
  | .vmin a => some (a, scalarRegs a, fun v x => v.siBin a x false true (bin fun p q => okRes (if q.lt p then q else p)))
  | .vabs a => some (a, [], fun v _ => v.siUn a false true fun p => okRes p.abs)
  | .vneg a => some (a, [], fun v _ => v.siUn a false true fun p => okRes p.neg)
  | .vmulp2 a => some (a, [a.vs2], fun v x => v.siMulp2 a x)
  | .vexp a => some (a, [], fun v _ => v.siUn a true false (expRes v.strict v.EW false))
  | .vexp2 a => some (a, [], fun v _ => v.siUn a true false (expRes v.strict v.EW true))
  | .vln a => some (a, [], fun v _ => v.siUn a true false (lnRes v.strict v.EW false))
  | .vlog2 a => some (a, [], fun v _ => v.siUn a true false (lnRes v.strict v.EW true))
  | .vtanh a => some (a, [], fun v _ => v.siUn a true false (tanhRes v.strict v.EW))
  | .vsigm a => some (a, [], fun v _ => v.siUn a true false (sigmRes v.strict v.EW))
  | .verf a => some (a, [], fun v _ => v.siUn a true false (erfRes v.strict v.EW))
  | .vbcastVs a => some (a, [a.vs2], fun v x => v.siBcast a x)
  | .vmv a => some (a, [], fun v _ => v.siMove a)
  | .vsel a p => some (a, scalarRegs a, fun v x => v.siSel a p x)
  | .vcmpEq a => some (a, scalarRegs a, fun v x => v.siCmp a x false fun c => c == 0)
  | .vcmpNe a => some (a, scalarRegs a, fun v x => v.siCmp a x true fun c => c != 0)
  | .vcmpLt a => some (a, scalarRegs a, fun v x => v.siCmp a x false fun c => decide (c < 0))
  | .vcmpLe a => some (a, scalarRegs a, fun v x => v.siCmp a x false fun c => decide (c ≤ 0))
  | .vcmpGt a => some (a, scalarRegs a, fun v x => v.siCmp a x false fun c => decide (0 < c))
  | .vcmpGe a => some (a, scalarRegs a, fun v x => v.siCmp a x false fun c => decide (0 ≤ c))
  | .viadd a => some (a, scalarRegs a, fun v x => v.intBin a x iAdd)
  | .visub a => some (a, scalarRegs a, fun v x => v.intBin a x iSub)
  | .vimul a => some (a, scalarRegs a, fun v x => v.intBin a x iMul)
  | .vimulh a => some (a, scalarRegs a, fun v x => v.intBin a x iMulh)
  | .vimulhu a => some (a, scalarRegs a, fun v x => v.intBin a x iMulhu)
  | .vand a => some (a, scalarRegs a, fun v x => v.intBin a x fun _ p q => p &&& q)
  | .vor a => some (a, scalarRegs a, fun v x => v.intBin a x fun _ p q => p ||| q)
  | .vxor a => some (a, scalarRegs a, fun v x => v.intBin a x fun _ p q => p ^^^ q)
  | .vsll a => some (a, scalarRegs a, fun v x => v.intBin a x iSll)
  | .vsrl a => some (a, scalarRegs a, fun v x => v.intBin a x iSrl)
  | .vsra a => some (a, scalarRegs a, fun v x => v.intBin a x iSra)
  | .vimin a => some (a, scalarRegs a, fun v x => v.intBin a x iMin)
  | .vimax a => some (a, scalarRegs a, fun v x => v.intBin a x iMax)
  | .viminu a => some (a, scalarRegs a, fun v x => v.intBin a x fun _ p q => min p q)
  | .vimaxu a => some (a, scalarRegs a, fun v x => v.intBin a x fun _ p q => max p q)
  | .vicmpEq a => some (a, scalarRegs a, fun v x => v.intCmp a x fun _ p q => p == q)
  | .vicmpNe a => some (a, scalarRegs a, fun v x => v.intCmp a x fun _ p q => p != q)
  | .vicmpLt a => some (a, scalarRegs a, fun v x => v.intCmp a x fun w p q => decide (signedOf w p < signedOf w q))
  | .vicmpLe a => some (a, scalarRegs a, fun v x => v.intCmp a x fun w p q => decide (signedOf w p ≤ signedOf w q))
  | .vicmpLtu a => some (a, scalarRegs a, fun v x => v.intCmp a x fun _ p q => decide (p < q))
  | .vicmpLeu a => some (a, scalarRegs a, fun v x => v.intCmp a x fun _ p q => decide (p ≤ q))
  | .vidx a => some (a, [], fun v _ => v.intIdx a)
  | .visplatVx a => some (a, [a.vs2], fun v x => v.intSplat a x)
  | .vwid a => some (a, [], fun v _ => v.widen a)
  | .vnar a => some (a, [], fun v _ => v.narrow a)
  | .viwid a => some (a, [], fun v _ => v.intWiden a true)
  | .viwidu a => some (a, [], fun v _ => v.intWiden a false)
  | .vinar a => some (a, [], fun v _ => v.intNarrow a)
  | .vcvtSiI a => some (a, [], fun v _ => v.cvtSiI a)
  | .vcvtISi a => some (a, [], fun v _ => v.cvtISi a)
  | .pand a => some (a, [], fun v _ => v.predOp a .pred .pred fun p q => p && q)
  | .por a => some (a, [], fun v _ => v.predOp a .pred .pred fun p q => p || q)
  | .pxor a => some (a, [], fun v _ => v.predOp a .pred .pred fun p q => p != q)
  | .pandn a => some (a, [], fun v _ => v.predOp a .pred .pred fun p q => p && !q)
  | .pnot a => some (a, [], fun v _ => v.predOp a .pred .none fun p _ => !p)
  | .pset a => some (a, [], fun v _ => v.predOp a .none .none fun _ _ => true)
  | .pclr a => some (a, [], fun v _ => v.predOp a .none .none fun _ _ => false)
  | .vredsum a => some (a, [], fun v _ => v.red a .sum)
  | .vredmax a => some (a, [], fun v _ => v.red a .max)
  | .vredmin a => some (a, [], fun v _ => v.red a .min)
  | .viredsum a => some (a, [], fun v _ => v.red { a with x := true } .sum)
  | .viredmax a => some (a, [], fun v _ => v.red { a with x := true } .max)
  | .viredmin a => some (a, [], fun v _ => v.red { a with x := true } .min)
  | .vsegsum a => some (a, [], fun v _ => v.seg a .sum)
  | .vsegmax a => some (a, [], fun v _ => v.seg a .max)
  | .vsegmin a => some (a, [], fun v _ => v.seg a .min)
  | .vcompress a => some (a, [], fun v _ => v.compress a)
  | .vexpand a => some (a, [], fun v _ => v.expand a)
  | .vperm a => some (a, [], fun v _ => v.perm a)
  | .vslideup a => some (a, [a.vs2], fun v x => v.slideUp a x)
  | .vslidedn a => some (a, [a.vs2], fun v x => v.slideDown a x)
  | .vpsumPopc a => some (a, [], fun v _ => v.psum a fun _ ones => (ones.length : Int))
  | .vpsumAny a => some (a, [], fun v _ => v.psum a fun _ ones => if ones = [] then 0 else 1)
  | .vpsumAll a => some (a, [], fun v _ => v.psum a fun act ones => if ones.length = act.length then 1 else 0)
  | .vpsumFirst a => some (a, [], fun v _ => v.psum a fun _ ones => (ones.head?.map fun k => (k : Int)).getD (-1))
  | .vsmax a => some (a, [], fun v _ => v.smax a)
  | .vmvx a => some (a, [], fun v _ => v.mvx a)
  | .vsetcfg a => some (a, [a.vs1], fun v x => v.setCfg a x)
  | _ => none

/-- Every vector instruction on registers completes unless Tahr waits, whatever its fields hold: the engine takes the
operation's result, a summary for Tahr joins those on their way, the pc moves by 4 while a kernel runs, and nothing else
changes but the counts of retired instructions and of work. While Tahr waits the instruction does not issue. -/
def Obligations.VectorRegisterOps : Prop :=
  ∀ (i : Instr) (a : VArgs) (rs : List (BitVec 5)) (op : Vec → XRegs → VRes) (s : State), vectorRow i = some (a, rs, op) →
    ((s.cl a.cl).tahr.wait.isSome = true → exec i s = .next s) ∧
    ((s.cl a.cl).tahr.wait = none → Answers i s fun t =>
      let k := (s.cl a.cl).awaited rs
      let r := op k.vec k.tahr.get
      let u := t.cl a.cl
      OnlyCluster a.cl s t ∧ u.vec = r.vec ∧ u.tahr.x = k.tahr.x ∧ u.tahr.summaries = k.tahr.summaries ++ r.sum.toList ∧
        u.tahr.pc = (if k.tahr.kernel.isSome then k.tahr.pc + 4 else k.tahr.pc) ∧ u.tahr.wait = k.tahr.wait ∧
        u.tahr.icache = k.tahr.icache ∧ u.arr = k.arr ∧ u.table = k.table ∧ u.slots = k.slots ∧ u.bufs = k.bufs ∧
        u.dual = k.dual ∧ u.cvt = k.cvt ∧ u.tstat = k.tstat ∧ u.head = k.head ∧ u.tail = k.tail ∧ u.fenced = k.fenced)

/-- The codes that an integer instruction of R176 leaves: its two sources and the element width in bits give the result. -/
def integerRow : Instr → Option (VArgs × (Nat → Nat → Nat → Nat))
  | .viadd a => some (a, fun w p q => (p + q) % 2 ^ w)
  | .visub a => some (a, fun w p q => (p + 2 ^ w - q) % 2 ^ w)
  | .vimul a => some (a, fun w p q => p * q % 2 ^ w)
  | .vimulh a => some (a, fun w p q => ((signedOf w p * signedOf w q).fdiv (2 ^ w) % 2 ^ w).toNat)
  | .vimulhu a => some (a, fun w p q => p * q / 2 ^ w)
  | .vand a => some (a, fun _ p q => p &&& q)
  | .vor a => some (a, fun _ p q => p ||| q)
  | .vxor a => some (a, fun _ p q => p ^^^ q)
  | .vsll a => some (a, fun w p q => p * 2 ^ (q % w) % 2 ^ w)
  | .vsrl a => some (a, fun w p q => p / 2 ^ (q % w))
  | .vsra a => some (a, fun w p q => ((signedOf w p).fdiv (2 ^ (q % w)) % 2 ^ w).toNat)
  | .vimin a => some (a, fun w p q => if signedOf w q < signedOf w p then q else p)
  | .vimax a => some (a, fun w p q => if signedOf w p < signedOf w q then q else p)
  | .viminu a => some (a, fun _ p q => min p q)
  | .vimaxu a => some (a, fun _ p q => max p q)
  | _ => none

/-- A legal two-source integer instruction that issues writes the result code into every active element of its destination
group, sets no condition, and keeps every other element, every scale byte and every register outside the group (R163, R176). -/
def Obligations.IntegerLanes : Prop :=
  ∀ (i : Instr) (a : VArgs) (f : Nat → Nat → Nat → Nat) (s : State), integerRow i = some (a, f) → (s.cl a.cl).tahr.wait = none →
    let k := (s.cl a.cl).awaited (scalarRegs a)
    let v := k.vec
    v.legal a { vd := .int, vs1 := .int, vs2 := secondIntUse a } = true →
    Answers i s fun t =>
      let u := (t.cl a.cl).vec
      (∀ e, e < v.vlmax → u.code v.EW a.vd.toNat e =
        if v.active a e then f v.EW (v.code v.EW a.vs1.toNat e) (v.secondCode a k.tahr.get e) else v.code v.EW a.vd.toNat e) ∧
      (∀ n, n < 32 → (u.reg n).scale = (v.reg n).scale) ∧
      (∀ n, n < 32 → n < a.vd.toNat ∨ a.vd.toNat + v.G ≤ n → u.reg n = v.reg n) ∧ u.p = v.p ∧ u.stat = v.stat

/-- A legal predicate instruction that issues writes each bit of its destination below VL from the same bit of its sources,
keeps the bits at and beyond VL, and writes no other predicate (R178). -/
def Obligations.PredicateBits : Prop :=
  ∀ (a : VArgs) (s : State) (i : Instr) (f : Bool → Bool → Bool) (u1 u2 : Use),
    (i, f, u1, u2) ∈ [(Instr.pand a, (fun p q => p && q), Use.pred, Use.pred), (.por a, (fun p q => p || q), .pred, .pred),
      (.pxor a, (fun p q => xor p q), .pred, .pred), (.pandn a, (fun p q => p && !q), .pred, .pred), (.pnot a, (fun p _ => !p), .pred, .none),
      (.pset a, (fun _ _ => true), .none, .none), (.pclr a, (fun _ _ => false), .none, .none)] →
    let v := (s.cl a.cl).vec
    v.legal a { vd := .pred, vs1 := u1, vs2 := u2, mask := false } = true → a.x = false → (s.cl a.cl).tahr.wait = none →
    Answers i s fun t =>
      let u := (t.cl a.cl).vec
      (∀ e, e < 8192 → (u.pred (a.vd.truncate 3)).getLsbD e =
        if e < v.VL then f ((v.pred (a.vs1.truncate 3)).getLsbD e) ((v.pred (a.vs2.truncate 3)).getLsbD e)
        else (v.pred (a.vd.truncate 3)).getLsbD e) ∧
      (∀ p, p ≠ a.vd.truncate 3 → u.pred p = v.pred p) ∧ u.v = v.v

/-- When the fields of a vector instruction are legal: the use of each field in its row of R209 and R211 to R213, the
group and width rules of R177, PREC for the arithmetic of strict mode (R180, R200, R214). -/
def vectorOk : Instr → Option (Vec → Bool)
  | .vadd a | .vsub a | .vmul a | .vdiv a | .vfma a | .vfms a | .vnfma a =>
    some fun v => v.legal a { vd := .si, vs1 := .si, vs2 := secondUse a, prec := true }
  | .vmax a | .vmin a | .vsel a _ => some fun v => v.legal a { vd := .si, vs1 := .si, vs2 := secondUse a }
  | .vrcp a | .vsqrt a | .vrsqrt a | .vexp a | .vexp2 a | .vln a | .vlog2 a | .vtanh a | .vsigm a | .verf a =>
    some fun v => v.legal a { vd := .si, vs1 := .si, prec := true } && !a.x
  | .vabs a | .vneg a | .vmv a => some fun v => v.legal a { vd := .si, vs1 := .si } && !a.x
  | .vmulp2 a => some fun v => v.legal a { vd := .si, vs1 := .si, vs2 := .xreg, prec := true } && a.x
  | .vbcastVs a => some fun v => v.legal a { vd := .si, vs2 := .xreg, prec := true } && a.x
  | .vcmpEq a | .vcmpNe a | .vcmpLt a | .vcmpLe a | .vcmpGt a | .vcmpGe a =>
    some fun v => v.legal a { vd := .pred, vs1 := .si, vs2 := secondUse a }
  | .viadd a | .visub a | .vimul a | .vimulh a | .vimulhu a | .vand a | .vor a | .vxor a | .vsll a | .vsrl a | .vsra a | .vimin a
  | .vimax a | .viminu a | .vimaxu a => some fun v => v.legal a { vd := .int, vs1 := .int, vs2 := secondIntUse a }
  | .vicmpEq a | .vicmpNe a | .vicmpLt a | .vicmpLe a | .vicmpLtu a | .vicmpLeu a =>
    some fun v => v.legal a { vd := .pred, vs1 := .int, vs2 := secondIntUse a }
  | .vidx a => some fun v => v.legal a { vd := .int } && !a.x
  | .visplatVx a => some fun v => v.legal a { vd := .int, vs2 := .xreg } && a.x
  | .vwid a => some fun v => 16 ≤ v.EW && v.grp.toNat ≤ 2 && v.legal a { vd := .siGroup (2 * v.G), vs1 := .si, apart := true } && !a.x
  | .vnar a => some fun v => v.EW ≤ 32 && v.grp.toNat ≤ 2 &&
      v.legal a { vd := .si, vs1 := .siGroup (2 * v.G), prec := true, apart := true } && !a.x
  | .viwid a | .viwidu a => some fun v => 16 ≤ v.EW && v.grp.toNat ≤ 2 &&
      v.legal a { vd := .group (2 * v.G), vs1 := .int, apart := true } && !a.x
  | .vinar a => some fun v => v.EW ≤ 32 && v.grp.toNat ≤ 2 && v.legal a { vd := .int, vs1 := .group (2 * v.G), apart := true } && !a.x
  | .vcvtSiI a => some fun v => v.legal a { vd := .si, vs1 := .int, prec := true } && !a.x
  | .vcvtISi a => some fun v => v.legal a { vd := .int, vs1 := .si } && !a.x
  | .pand a | .por a | .pxor a | .pandn a => some fun v => v.legal a { vd := .pred, vs1 := .pred, vs2 := .pred, mask := false } && !a.x
  | .pnot a => some fun v => v.legal a { vd := .pred, vs1 := .pred, mask := false } && !a.x
  | .pset a | .pclr a => some fun v => v.legal a { vd := .pred, mask := false } && !a.x
  | .vredsum a => some fun v => if a.x then v.legal a { vd := .int, vs1 := .int, vs2 := .int }
      else v.legal a { vd := .si, vs1 := .si, vs2 := .si, prec := true }
  | .vredmax a | .vredmin a => some fun v => if a.x then v.legal a { vd := .int, vs1 := .int, vs2 := .int }
      else v.legal a { vd := .si, vs1 := .si, vs2 := .si }
  | .viredsum a | .viredmax a | .viredmin a => some fun v => v.legal { a with x := true } { vd := .int, vs1 := .int, vs2 := .int }
  | .vsegsum a | .vsegmax a | .vsegmin a => some fun v => if a.x then v.legal a { vd := .int, vs1 := .int, vs2 := .pred, apart := true }
      else v.legal a { vd := .si, vs1 := .si, vs2 := .pred, apart := true }
  | .vcompress a | .vexpand a => some fun v => v.legal a (moveShape a .none)
  | .vperm a => some fun v => v.legal a (moveShape a .int)
  | .vslideup a | .vslidedn a => some fun v => v.legal a (moveShape a .xreg)
  | .vpsumPopc a | .vpsumAny a | .vpsumAll a | .vpsumFirst a => some fun v => v.legal a { vd := .xreg, vs1 := .pred, vs2 := .sub 4 } && !a.x
  | .vsmax a => some fun v => if a.x then v.legal a { vd := .xreg, vs1 := .int } else v.legal a { vd := .xreg, vs1 := .si }
  | .vmvx a => some fun v => v.legal a { vd := .xreg, vs1 := if a.x then .int else .si, mask := false }
  | .vsetcfg a => some fun _ => a.pm = 0 && !a.m && !a.x && a.vs2.toNat < 16
  | _ => none

/-- What an illegal vector instruction leaves of a cluster: no register and no predicate changes, ILL_OP is set, no summary
goes to Tahr, and the next instruction proceeds (R180). -/
def TurnedAway (k u : Cluster) : Prop :=
  u.vec = { k.vec with stat := k.vec.stat ||| 0x8000#16, conds := u.vec.conds } ∧ u.tahr.summaries = k.tahr.summaries ∧
    u.tahr.x = k.tahr.x ∧ u.tahr.pc = if k.tahr.kernel.isSome then k.tahr.pc + 4 else k.tahr.pc

/-- Every vector instruction whose fields break the rules of its row writes no register and no memory and sets ILL_OP: each
instruction on registers; a load or store of a valid format whose fields or addresses are not legal; a VLDRES or VSTRES of
the wrong form (R180, R205, R206). -/
def Claim.IllegalVectorOps : Prop :=
  (∀ (i : Instr) (a : VArgs) (rs : List (BitVec 5)) (op : Vec → XRegs → VRes) (ok : Vec → Bool) (s : State),
    vectorRow i = some (a, rs, op) → vectorOk i = some ok → (s.cl a.cl).tahr.wait = none →
    let k := (s.cl a.cl).awaited rs
    ok k.vec = false → Answers i s fun t => OnlyCluster a.cl s t ∧ TurnedAway k (t.cl a.cl)) ∧
  (∀ i, (vectorRow i).isSome = true → (vectorOk i).isSome = true) ∧
  ∀ (a : VArgs) (s : State), (s.cl a.cl).tahr.wait = none →
    let k := (s.cl a.cl).awaited [a.vs1, nextReg a.vs1]
    let fmt := fmtOf (vfmt a) (s.desc (vfmt a))
    (∀ (i : Instr) (store : Bool), (i, store) ∈ [(Instr.vld a, false), (.vst a, true)] → fmt.usable = true →
      k.vec.memLegal store a fmt k.tahr.get = false → Answers i s fun t =>
        t = { s with cls := t.cls, mem := t.mem } ∧ t.mem.cells = s.mem.cells ∧ TurnedAway k (t.cl a.cl)) ∧
    (∀ i ∈ [Instr.vldres a, .vstres a], k.vec.resLegal a = false → Answers i s fun t =>
        t = { s with cls := t.cls, mem := t.mem } ∧ t.mem.cells = s.mem.cells ∧ TurnedAway k (t.cl a.cl))

/-- The instructions of a major opcode in the order of FN. -/
def siRows : List (VArgs → Instr) :=
  [.vadd, .vsub, .vmul, .vfma, .vfms, .vnfma, .vdiv, .vrcp, .vsqrt, .vrsqrt, .vmax, .vmin, .vabs, .vneg, .vmulp2, .vexp, .vexp2,
   .vln, .vlog2, .vtanh, .vsigm, .verf, .vbcastVs, .vmv] ++ (List.range 8).map fun k a => .vsel a (BitVec.ofNat 3 k)
def intRows : List (VArgs → Instr) :=
  [.viadd, .visub, .vimul, .vimulh, .vimulhu, .vand, .vor, .vxor, .vsll, .vsrl, .vsra, .vimin, .vimax, .viminu, .vimaxu, .vicmpEq,
   .vicmpNe, .vicmpLt, .vicmpLe, .vicmpLtu, .vicmpLeu, .vidx, .visplatVx, .vwid, .vnar, .viwid, .viwidu, .vinar, .vcvtSiI, .vcvtISi]
def ctlRows : List (VArgs → Instr) :=
  [.vcmpEq, .vcmpNe, .vcmpLt, .vcmpLe, .vcmpGt, .vcmpGe, .pand, .por, .pxor, .pandn, .pnot, .pset, .pclr,
   fun a => if a.x then .viredsum a else .vredsum a, fun a => if a.x then .viredmax a else .vredmax a,
   fun a => if a.x then .viredmin a else .vredmin a, .vsegsum, .vsegmax, .vsegmin, .vcompress, .vexpand, .vperm, .vslideup, .vslidedn]

/-- The word of a vector instruction: its major opcode, its FN and its fields (R209). -/
def vectorBits (major fn : Nat) (a : VArgs) : BitVec 32 :=
  BitVec.ofBool a.x ++ BitVec.ofNat 5 fn ++ a.vs2 ++ a.vs1 ++ BitVec.ofBool a.m ++ a.pm ++ a.vd ++ BitVec.ofNat 7 major

/-- Each word of the three major opcodes spells the instruction of its FN with its fields as they stand, VPSUM with the
sub-operation in VS2; a reserved FN or sub-operation spells none. Two words of the worked examples (R209 to R214). -/
def Claim.VectorWords : Prop :=
  ∀ a : VArgs,
    (∀ (n : Nat) (f : VArgs → Instr), siRows[n]? = some f → vectorWord a.cl (vectorBits 0x5B n a) = some (f a)) ∧
    (∀ (n : Nat) (f : VArgs → Instr), intRows[n]? = some f → vectorWord a.cl (vectorBits 0x2B n a) = some (f a)) ∧
    (∀ (n : Nat) (f : VArgs → Instr), ctlRows[n]? = some f → vectorWord a.cl (vectorBits 0x7B n a) = some (f a)) ∧
    vectorWord a.cl (vectorBits 0x7B 0x18 a) = ([Instr.vpsumPopc a, .vpsumAny a, .vpsumAll a, .vpsumFirst a])[a.vs2.toNat]? ∧
    (∀ n f, (n, f) ∈ [(0x19, Instr.vsmax a), (0x1A, .vmvx a), (0x1B, .vsetcfg a), (0x1C, .vld a), (0x1D, .vst a), (0x1E, .vldres a),
      (0x1F, .vstres a)] → vectorWord a.cl (vectorBits 0x7B n a) = some f) ∧
    (∀ n ∈ [0x1E, 0x1F], vectorWord a.cl (vectorBits 0x2B n a) = none) ∧
    vectorWord a.cl 0x4062A47B = some (.vsegsum { cl := a.cl, vd := 8, pm := 2, m := true, vs1 := 2, vs2 := 3 }) ∧
    vectorWord a.cl 0x6003057B = some (.vpsumPopc { cl := a.cl, vd := 10, vs1 := 3 })

/-- R60: the exponent of a block is the least one from −127 to 127 at which every value of the block, rounded, has a
magnitude of at most the carrier's largest mantissa; 127 where none suffices, and there a value above the range becomes the largest
magnitude with its sign and sets SAT (R63). A block with no element that is non-zero and not NaR has exponent −127 and scale code 0. -/
def Obligations.LeastBlockExponent : Prop :=
  ∀ (c : Carrier) (els : List Elem) (e : Int), -127 ≤ e → e ≤ 127 →
    (c = .half ∨ c ∈ [.elem 8, .elem 16, .elem 32, .elem 64] ∨ ∃ l, 1 ≤ l ∧ l ≤ 8 ∧ c = .limb l) →
    let fits (d : Int) : Prop := ∀ el ∈ els, ∀ x, el.val = some x → (x.roundAt (d - c.frac)).natAbs ≤ c.mmax
    ((∀ el ∈ els, ∀ x, el.val = some x → x.n = 0) → (formBlock c els).1.e = -127 ∧ scaleCode (formBlock c els).1.e = 0) ∧
    (fits e → (formBlock c els).1.e ≤ e ∧ fits (formBlock c els).1.e) ∧
    ((∀ d, -127 ≤ d → d ≤ 127 → ¬ fits d) → (formBlock c els).1.e = 127) ∧
    ((formBlock c els).1.m = els.map fun el => el.val.map fun x =>
      let m := x.roundAt ((formBlock c els).1.e - c.frac)
      if c.mmax < m.natAbs then (if x.n < 0 then -(c.mmax : Int) else c.mmax) else m) ∧
    ∀ el ∈ els, ∀ x, el.val = some x → (c.maxVal false).lt x.abs = true → (formBlock c els).1.e = 127 ∧ (formBlock c els).2 &&& cSat = cSat

/-- VLD and VLDRES, when they issue, write no memory; VST and VSTRES of a kernel that may write there write the bytes that
the operation names, and no other; while Tahr waits none of them issues (R201 to R206, R245). -/
def Obligations.VectorMemoryOps : Prop :=
  ∀ (a : VArgs) (s : State), ((s.cl a.cl).tahr.wait.isSome = true → ∀ i ∈ [Instr.vld a, .vst a, .vldres a, .vstres a], exec i s = .next s) ∧
    ((s.cl a.cl).tahr.wait = none →
    let k := (s.cl a.cl).awaited [a.vs1, nextReg a.vs1]
    let m : Src := { byte := s.kernelTile a.cl }
    (∀ (i : Instr) (r : VMemRes), (i, r) ∈ [(Instr.vld a, k.vec.ld a s.desc k.tahr.get m), (.vldres a, k.vec.ldres a k.tahr.get m)] →
      Answers i s fun t => OnlyCluster a.cl s t ∧ (t.cl a.cl).vec = r.vec) ∧
    (∀ (i : Instr) (r : VMemRes), (i, r) ∈ [(Instr.vst a, k.vec.st a s.desc k.tahr.get), (.vstres a, k.vec.stres a k.tahr.get)] →
      MayWrite (s.cl a.cl) r.writes → s.mem.wf = true →
      Answers i s fun t => t = { s with cls := t.cls, mem := t.mem } ∧ (∀ d, d ≠ a.cl → t.cl d = s.cl d) ∧
        (t.cl a.cl).vec = r.vec ∧ t.mem = s.mem.write (r.writes.map fun w => { w with addr := tileBase a.cl.val + w.addr }) ∧
        ∀ b, (∀ w ∈ r.writes, tileBase a.cl.val + w.addr ≠ b) → t.mem.get b = s.mem.get b))

/-- The oldest summary on its way reaches its x register; one for x0 is dropped; without one nothing changes (R195). -/
def Claim.SummaryDelivery : Prop :=
  (∀ (c : Cl) (s : State), (s.cl c).tahr.summaries = [] → exec (.summaryDelivery c) s = .next s) ∧
  ∀ (c : Cl) (s : State) (x : Summary) (rest : List Summary), (s.cl c).tahr.summaries = x :: rest →
    Answers (.summaryDelivery c) s fun t => OnlyCluster c s t ∧ t.cl c = { s.cl c with tahr := (t.cl c).tahr } ∧
      (t.cl c).tahr = { (s.cl c).tahr with summaries := rest, x := (t.cl c).tahr.x } ∧
      ∀ r : BitVec 5, (t.cl c).tahr.get r = if r = x.rd ∧ r ≠ 0 then x.value else (s.cl c).tahr.get r

/-- What the words of vector instructions spell, what an illegal one leaves, and the delivery of a summary to Tahr (R180,
R195, R209 to R214). -/
def Obligations.IllegalOpsAndDelivery : Prop := Claim.VectorWords ∧ Claim.IllegalVectorOps ∧ Claim.SummaryDelivery

/-! ### Tahr (R215 to R224, R632, R636) -/

/-- What an instruction of the base set that touches no memory leaves: its register, the value for it, the next pc. -/
def rvResult (i : Rv) (pc next : Word) (x : BitVec 5 → Word) : Option (BitVec 5 × Word × Word) :=
  match i with
  | .lui rd imm => some (rd, imm, next)
  | .auipc rd imm => some (rd, pc + imm, next)
  | .jal rd off => some (rd, next, pc + off)
  | .jalr rd rs1 off => some (rd, next, (x rs1 + off) &&& ~~~1#64)
  | .branch f3 rs1 rs2 off => some (0, 0, if taken f3 (x rs1) (x rs2) then pc + off else next)
  | .opImm f3 rd rs1 imm => some (rd, aluImm f3 (x rs1) imm, next)
  | .opImmW f3 rd rs1 imm => some (rd, aluImmW f3 (x rs1) imm, next)
  | .op f7 f3 rd rs1 rs2 => some (rd, alu f7 f3 (x rs1) (x rs2), next)
  | .opW f7 f3 rd rs1 rs2 => some (rd, aluW f7 f3 (x rs1) (x rs2), next)
  | _ => none

/-- The units of a cluster that no instruction of Tahr's base set touches. -/
def SameUnits (k u : Cluster) : Prop :=
  u.vec = k.vec ∧ u.arr = k.arr ∧ u.table = k.table ∧ u.slots = k.slots ∧ u.bufs = k.bufs ∧ u.dual = k.dual ∧
    u.cringBase = k.cringBase ∧ u.head = k.head ∧ u.tail = k.tail ∧ u.tstat = k.tstat ∧ u.cvt = k.cvt ∧ u.fenced = k.fenced

/-- A running Tahr fetches at the pc and carries out an instruction of the base set: its register takes the result, x0
stays 0, the pc takes its next value, and no other register, unit, cluster or byte of memory changes (R215, R216). -/
def Obligations.TahrComputes : Prop :=
  ∀ (c : Cl) (s : State) (u : Tahr) (w : BitVec 32) (len : Nat), (s.cl c).tahrReady = true →
    (s.cl c).tahr.fetch (s.tileLine c) = (u, some (w, len)) →
    let k := ({ s.cl c with tahr := u }).awaited (rvOf w).regs
    ∀ (rd : BitVec 5) (v pc : Word), rvResult (rvOf w) k.tahr.pc (k.tahr.pc + BitVec.ofNat 64 len) k.tahr.get = some (rd, v, pc) →
      Answers (.tahrBaseInstruction c) s fun t =>
        OnlyCluster c s t ∧ SameUnits (s.cl c) (t.cl c) ∧ (t.cl c).tahr.pc = pc ∧ (t.cl c).tahr.wait = none ∧
          (∀ r : BitVec 5, (t.cl c).tahr.get r = if r = rd ∧ r ≠ 0 then v else k.tahr.get r) ∧
          (t.cl c).tahr.kernel = (s.cl c).tahr.kernel.map fun x => { x with retired := x.retired + 1 }

/-- A load from tile memory at an address that is a multiple of its length puts the bytes, extended, into its register;
a store there by a kernel that may write there writes its bytes and no other. A load of eight bytes from the register block
reads the register at its offset, 0 where there is none, and a store there writes it (R216, R245, R632). -/
def Obligations.TahrLoadsStores : Prop :=
  ∀ (c : Cl) (s : State) (u : Tahr) (w : BitVec 32) (len : Nat), (s.cl c).tahrReady = true →
    (s.cl c).tahr.fetch (s.tileLine c) = (u, some (w, len)) →
    let k := ({ s.cl c with tahr := u }).awaited (rvOf w).regs
    (∀ (f3 : BitVec 3) (rd rs1 : BitVec 5) (off : Word), rvOf w = .load f3 rd rs1 off →
      let a := (k.tahr.get rs1 + off).toNat
      a < 0x600000 → a % loadLen f3 = 0 →
      Answers (.tahrBaseInstruction c) s fun t =>
        OnlyCluster c s t ∧ SameUnits (s.cl c) (t.cl c) ∧ (t.cl c).tahr.pc = k.tahr.pc + BitVec.ofNat 64 len ∧
          ∀ r : BitVec 5, (t.cl c).tahr.get r =
            if r = rd ∧ r ≠ 0 then extend f3 (leBytes (s.kernelTile c) a (loadLen f3)) else k.tahr.get r) ∧
    (∀ (f3 : BitVec 3) (rd rs1 : BitVec 5) (off : Word) (n : Nat), rvOf w = .load f3 rd rs1 off → loadLen f3 = 8 → n < 8192 →
      (k.tahr.get rs1 + off).toNat = 0x1000000 + 8 * n →
      Answers (.tahrBaseInstruction c) s fun t =>
        OnlyCluster c s t ∧ SameUnits (s.cl c) (t.cl c) ∧ (t.cl c).tahr.pc = k.tahr.pc + BitVec.ofNat 64 len ∧
          ∀ r : BitVec 5, (t.cl c).tahr.get r = if r = rd ∧ r ≠ 0 then (s.clusterReg c (8 * n)).getD 0 else k.tahr.get r) ∧
    (∀ (f3 : BitVec 3) (rs1 rs2 : BitVec 5) (off : Word) (n : Nat), rvOf w = .store f3 rs1 rs2 off → loadLen f3 = 8 → n < 8192 →
      (k.tahr.get rs1 + off).toNat = 0x1000000 + 8 * n →
      Answers (.tahrBaseInstruction c) s fun t => OnlyCluster c s t ∧
        t.cl c = (k.writeReg (8 * n) (k.tahr.get rs2)).retire len) ∧
    (∀ (f3 : BitVec 3) (rs1 rs2 : BitVec 5) (off : Word), rvOf w = .store f3 rs1 rs2 off →
      let a := (k.tahr.get rs1 + off).toNat
      a < 0x600000 → a % loadLen f3 = 0 →
      MayWrite k (writesAt a (bytesOf (loadLen f3) (k.tahr.get rs2).toNat)) → s.mem.wf = true →
      Answers (.tahrBaseInstruction c) s fun t =>
        t = { s with cls := t.cls, mem := t.mem } ∧ (∀ d, d ≠ c → t.cl d = s.cl d) ∧ SameUnits (s.cl c) (t.cl c) ∧
          (t.cl c).tahr.pc = k.tahr.pc + BitVec.ofNat 64 len ∧ (∀ r : BitVec 5, (t.cl c).tahr.get r = k.tahr.get r) ∧
          (∀ j, j < loadLen f3 → t.tile c (a + j) = BitVec.ofNat 8 ((k.tahr.get rs2).toNat / 256 ^ j)) ∧
          ∀ b, b < tileBase c.val + a ∨ tileBase c.val + a + loadLen f3 ≤ b → t.mem.get b = s.mem.get b)

/-- A fault of Tahr ends the running task: a speculative one is squashed, another ends FAULTED, with its record, and Tahr runs
no kernel. A misaligned access faults with cause 3, an address that Tahr cannot reach, in a fetch too, or a short access to
its register block with cause 2, an illegal instruction with cause 1; a vector word with a reserved function sets ILL_OP, and
the next instruction proceeds (R180, R214, R220, R238). -/
def Claim.TahrFaults : Prop :=
  (∀ (c : Cl) (s : State) (f : Firing) (cause : Nat), (s.cl c).kernelFiring = some f →
    (f.held = true → s.tahrFault c cause = s.squash c f 3) ∧
    (f.held = false → f.final = false → f.unit.isVector = true →
      let t := s.tahrFault c cause
      ((t.cl c).entry f.entry).state = .faulted ∧ (t.cl c).firing f.entry = none ∧ (t.cl c).tahr.kernel = none ∧
        (t.cl c).head = (s.cl c).head + 1)) ∧
  ∀ (c : Cl) (s : State) (u : Tahr), (s.cl c).tahrReady = true →
    ((s.cl c).tahr.fetch (s.tileLine c) = (u, none) →
      exec (.tahrBaseInstruction c) s = .next ((s.onCl c fun k => { k with tahr := u }).tahrFault c 2)) ∧
    ∀ (w : BitVec 32) (len : Nat), (s.cl c).tahr.fetch (s.tileLine c) = (u, some (w, len)) →
    let k := ({ s.cl c with tahr := u }).awaited (rvOf w).regs
    let faulted (cause : Nat) : Prop := exec (.tahrBaseInstruction c) s = .next ((s.onCl c fun _ => k).tahrFault c cause)
    (rvOf w = .illegal → faulted 1) ∧
    (∀ v, rvOf w = .vector v → vectorWord c v = none → Answers (.tahrBaseInstruction c) s fun t => OnlyCluster c s t ∧
      (t.cl c).vec = { k.vec with stat := k.vec.stat ||| 0x8000#16, conds := (t.cl c).vec.conds } ∧
        (t.cl c).tahr.pc = k.tahr.pc + BitVec.ofNat 64 len ∧ (t.cl c).tahr.x = k.tahr.x) ∧
    ∀ (f3 : BitVec 3) (rd rs1 rs2 : BitVec 5) (off : Word), rvOf w = .load f3 rd rs1 off ∨ rvOf w = .store f3 rs1 rs2 off →
      let a := (k.tahr.get rs1 + off).toNat
      (a < 0x600000 → a % loadLen f3 ≠ 0 → faulted 3) ∧
      (0x600000 ≤ a → a < 0x1000000 ∨ 0x1010000 ≤ a → faulted 2) ∧
      (0x1000000 ≤ a → a < 0x1010000 → loadLen f3 < 8 → faulted 2) ∧
      (0x1000000 ≤ a → a < 0x1010000 → loadLen f3 = 8 → a % 8 ≠ 0 → faulted 3)

/-- The values of R219's registers as a kernel reads them; the count of cycles is free (log entries 1
and 45). -/
def csrValue (s : State) (c : Cl) (k : Cluster) : BitVec 12 → Option Word
  | 0x800 => some (packBits [(k.vec.ew.toNat, 0), (k.vec.grp.toNat, 2), (k.vec.vl.toNat, 16)])
  | 0x801 => some (packBits [(b2n k.vec.strict, 0), (k.vec.prec.toNat, 1), (k.vec.rdepth.toNat, 3)])
  | 0x802 => some (k.vec.sscale.zeroExtend 64)
  | 0x803 => some (k.vec.stat.zeroExtend 64)
  | 0xCC0 => some (packBits [((k.tahr.kernel.map (·.entry)).getD 0, 0), (c.val, 16), (b2n (k.kernelFiring.any (·.held)), 32)])
  | 0xCC1 => some (BitVec.ofNat 64 (k.entry ((k.tahr.kernel.map (·.entry)).getD 0)).tag)
  | 0xC00 => some (Config.freeWord s.nonce 0)
  | 0xC01 => some (s.pwr.islands[(fromCluster c).island].ticks.zeroExtend 64)
  | 0xC02 => some (BitVec.ofNat 64 ((k.tahr.kernel.map (·.retired)).getD 0))
  | _ => none

/-- What a write of a word leaves of the vector engine: VEC_CFG takes EW, GRP and VL, VL held at VLMAX; VEC_MODE takes PREC
and RDEPTH and keeps STRICT; VEC_SSCALE its scale code; ones written to VEC_STAT clear (R160, R166, R167, R182). -/
def csrWritten (v : Vec) (num : BitVec 12) (w : Word) : Vec :=
  if num = 0x800 then
    let u := { v with ew := w.extractLsb' 0 2, grp := w.extractLsb' 2 2 }
    { u with vl := BitVec.ofNat 14 (min (w.extractLsb' 16 14).toNat u.vlmax) }
  else if num = 0x801 then { v with prec := w.extractLsb' 1 2, rdepth := w.extractLsb' 3 2 }
  else if num = 0x802 then { v with sscale := w.truncate 8 }
  else if num = 0x803 then { v with stat := v.stat &&& ~~~(w.truncate 16) }
  else v

/-- The control and status registers of Tahr. In each form, CSRRW, CSRRS and CSRRC with a register or an immediate: rd takes
the old value; CSRRW always writes, CSRRS and CSRRC unless rs1 or the immediate is 0; nothing but the vector engine's
registers, rd, the pc and counts of work change. An access to another number, a write to one that is read only and a reserved
function are illegal instructions (R160, R166, R167, R182, R219, R636; on VEC_STAT under CSRRS and CSRRC the model's choice,
log entry 143). -/
def Obligations.CsrAccess : Prop :=
  ∀ (c : Cl) (s : State) (f3 : BitVec 3) (rd rs1 : BitVec 5) (num : BitVec 12), (s.cl c).tahrReady = true →
    let k := (s.cl c).awaited (if f3.toNat < 4 then [rd, rs1] else [rd])
    let op := f3.toNat % 4
    let x := if 4 ≤ f3.toNat then rs1.zeroExtend 64 else k.tahr.get rs1
    let writes := op = 1 ∨ rs1 ≠ 0
    let ro := num ∈ [0xCC0#12, 0xCC1#12, 0xC00#12, 0xC01#12, 0xC02#12]
    (∀ old, csrValue s c k num = some old → op ≠ 0 → ¬ (writes ∧ ro) →
      let w := if op = 1 then x else if op = 2 then old ||| x else old &&& ~~~x
      Answers (.csrInstruction c f3 rd rs1 num) s fun t =>
        t = { s with cls := t.cls, nonce := s.nonce + 1 } ∧ (∀ d, d ≠ c → t.cl d = s.cl d) ∧
          SameUnits { s.cl c with vec := (t.cl c).vec } (t.cl c) ∧ (writes → (t.cl c).vec = csrWritten k.vec num w) ∧
          (¬ writes → (t.cl c).vec = k.vec) ∧ (t.cl c).tahr.pc = k.tahr.pc + 4 ∧ (t.cl c).tahr.wait = none ∧
          ∀ r : BitVec 5, (t.cl c).tahr.get r = if r = rd ∧ r ≠ 0 then old else k.tahr.get r) ∧
    (csrValue s c k num = none ∨ op = 0 ∨ (writes ∧ ro) → exec (.csrInstruction c f3 rd rs1 num) s =
      .next ((({ s with nonce := s.nonce + 1 } : State).onCl c fun _ => k).tahrFault c 1))

/-- FENCE retires alone; FENCE.I empties the instruction cache and retires; EBREAK halts Tahr while debug scope 0 is open
and is an illegal instruction otherwise (R215, R217, R563). -/
def Claim.FencesAndBreak : Prop :=
  ∀ (c : Cl) (s : State), (s.cl c).tahrReady = true →
    exec (.fence c) s = .next (s.onCl c (·.retire 4)) ∧
    exec (.fenceI c) s = .next (s.onCl c fun k => ({ k with tahr := { k.tahr with icache := [] } } : Cluster).retire 4) ∧
    (s.sec.debugOpen.getLsbD 0 = true →
      exec (.ebreak c) s = .next (s.onCl c fun k => { k with tahr := { k.tahr with wait := some .debug } })) ∧
    (s.sec.debugOpen.getLsbD 0 = false → exec (.ebreak c) s = .next (s.tahrFault c 1)) ∧
    ∀ k : Cluster, k.tahr.kernel.isSome = true → (k.retire 4).tahr.pc = k.tahr.pc + 4 ∧ (k.retire 4).vec = k.vec ∧
      (k.retire 4).tahr.x = k.tahr.x ∧ (k.retire 4).arr = k.arr

/-- Where an instruction of Tahr faults its task, and what its fences and its break do (R215 to R220, R563). -/
def Obligations.TahrFaultsAndFences : Prop := Claim.TahrFaults ∧ Claim.FencesAndBreak

/-- TARR appends the 32 bytes at x[rs1] to the array's queue, and waits while 16 commands are queued; in a kernel without
USES_ARRAY it is illegal, an offset outside tile memory faults with cause 2, one that is no multiple of 32 with cause 3.
TARRSYNC waits until the commands that its kernel enqueued are done, and goes on with ARR_STAT in its register (R221). -/
def Claim.TahrDrivesArray : Prop :=
  ∀ (c : Cl) (s : State),
    (∀ rs1 : BitVec 5, (s.cl c).tahrReady = true →
      let k := (s.cl c).awaited [rs1]
      let e := k.entry ((k.tahr.kernel.map (·.entry)).getD 0)
      let a := (k.tahr.get rs1).toNat
      (e.usesArray = false → exec (.tarr c rs1) s = .next ((s.onCl c fun _ => k).tahrFault c 1)) ∧
      (e.usesArray = true → 0x600000 < a + 32 → exec (.tarr c rs1) s = .next ((s.onCl c fun _ => k).tahrFault c 2)) ∧
      (e.usesArray = true → a + 32 ≤ 0x600000 → a % 32 ≠ 0 → exec (.tarr c rs1) s = .next ((s.onCl c fun _ => k).tahrFault c 3)) ∧
      (e.usesArray = true → a + 32 ≤ 0x600000 → a % 32 = 0 → 16 ≤ k.arr.queue.length → exec (.tarr c rs1) s = .next (s.onCl c fun _ => k)) ∧
      (e.usesArray = true → a + 32 ≤ 0x600000 → a % 32 = 0 → k.arr.queue.length < 16 →
        Answers (.tarr c rs1) s fun t => OnlyCluster c s t ∧ (t.cl c).tahr.pc = k.tahr.pc + 4 ∧ (t.cl c).tahr.x = k.tahr.x ∧
          SameUnits { k with arr := (t.cl c).arr } (t.cl c) ∧ (t.cl c).arr = { k.arr with
            queue := k.arr.queue ++ [{ word := BitVec.ofNat 256 (leBytes (s.kernelTile c) a 32), taskStrict := e.strict }] })) ∧
    (∀ rd : BitVec 5, (s.cl c).tahrReady = true →
      exec (.tarrsync c rd) s = .next (s.onCl c fun k => { k with tahr := { k.tahr with wait := some (.sync rd) } })) ∧
    (∀ rd : BitVec 5, (s.cl c).tahr.wait = some (.sync rd) → (s.cl c).ownArrayIdle = true →
      let k := (s.cl c).awaited [rd]
      Answers (.tarrsyncResume c) s fun t => OnlyCluster c s t ∧ (t.cl c).tahr.wait = none ∧ SameUnits (s.cl c) (t.cl c) ∧
        (t.cl c).tahr.pc = (if k.tahr.kernel.isSome then k.tahr.pc + 4 else k.tahr.pc) ∧
        ∀ r : BitVec 5, (t.cl c).tahr.get r = if r = rd ∧ r ≠ 0 then (s.cl c).arr.stat.zeroExtend 64 else k.tahr.get r) ∧
    ((∀ rd, (s.cl c).tahr.wait ≠ some (.sync rd)) ∨ (s.cl c).ownArrayIdle = false → exec (.tarrsyncResume c) s = .next s)

/-- TPROD of a kernel that holds nothing adds its amount to a slot of the own cluster, or puts a signal on its way to
another; that of a speculative one is held, and squashes it where the held table has no room; an amount of 0 signals nothing;
a cluster number from 384 to 510 faults with cause 2. TWAITS waits, and goes on once the slot's count covers the amount,
which it subtracts (R220, R222, R230, R234, R247, R248). -/
def Claim.TahrSignals : Prop :=
  ∀ (c : Cl) (s : State),
    (∀ rs1 rs2 : BitVec 5, (s.cl c).tahrReady = true →
      let k := (s.cl c).awaited [rs1, rs2]
      let n := fld (k.tahr.get rs1) 0 9
      let slot := fld (k.tahr.get rs1) 9 8
      let amount := fld (k.tahr.get rs2) 0 8
      (384 ≤ n → n < 511 → exec (.tprod c rs1 rs2) s = .next ((s.onCl c fun _ => k).tahrFault c 2)) ∧
      (n < 384 ∨ n = 511 → amount = 0 → exec (.tprod c rs1 rs2) s = .next ((s.onCl c fun _ => k).onCl c (·.retire 4))) ∧
      ∀ f : Firing, (s.cl c).kernelFiring = some f → amount ≠ 0 →
        (f.held = false → n = 511 ∨ n = c.val →
          exec (.tprod c rs1 rs2) s = .next (((s.onCl c fun _ => k).onCl c (·.retire 4)).onCl c (·.addSlot slot amount))) ∧
        (∀ d : Cl, f.held = false → n = d.val → d ≠ c → Answers (.tprod c rs1 rs2) s fun t =>
          t = { s with cls := t.cls, flights := s.flights ++ [{ cl := d, slot := BitVec.ofNat 8 slot, amount := BitVec.ofNat 8 amount }] } ∧
            (∀ x, x ≠ c → t.cl x = s.cl x) ∧ t.cl c = k.retire 4) ∧
        (f.held = true → n < 384 ∨ n = 511 → (s.rg (rgOf c)).held.length < 512 → Answers (.tprod c rs1 rs2) s fun t =>
          t = { s with cls := t.cls, rgs := t.rgs } ∧ (∀ q, q ≠ rgOf c → t.rg q = s.rg q) ∧ (∀ x, x ≠ c → t.cl x = s.cl x) ∧
            (t.cl c).tahr.pc = k.tahr.pc + 4 ∧ (t.cl c).slots = (s.cl c).slots ∧
            t.rg (rgOf c) = { s.rg (rgOf c) with held := (s.rg (rgOf c)).held ++ [{
              item := .signal (if n = 511 then c.val else n) slot amount, cl := c, entry := f.entry, order := f.order, guards := f.guards }] }) ∧
        (∀ g, f.held = true → n < 384 ∨ n = 511 → 512 ≤ (s.rg (rgOf c)).held.length → (k.retire 4).kernelFiring = some g →
          exec (.tprod c rs1 rs2) s = .next (((s.onCl c fun _ => k).onCl c (·.retire 4)).squash c g 1))) ∧
    (∀ rs1 rs2 : BitVec 5, (s.cl c).tahrReady = true →
      let k := (s.cl c).awaited [rs1, rs2]
      exec (.twaits c rs1 rs2) s = .next (s.onCl c fun _ =>
        { k with tahr := { k.tahr with wait := some (.slot ((k.tahr.get rs1).truncate 8) ((k.tahr.get rs2).truncate 8)) } })) ∧
    (∀ (n amount : Byte), (s.cl c).tahr.wait = some (.slot n amount) →
      ((s.cl c).slot n.toNat < amount.toNat → exec (.twaitsResume c) s = .next s) ∧
      (amount.toNat ≤ (s.cl c).slot n.toNat → Answers (.twaitsResume c) s fun t => OnlyCluster c s t ∧ (t.cl c).tahr.wait = none ∧
        SameUnits { s.cl c with slots := (t.cl c).slots } (t.cl c) ∧ (t.cl c).tahr.x = (s.cl c).tahr.x ∧
        (t.cl c).slot n.toNat = (s.cl c).slot n.toNat - amount.toNat ∧
        ∀ m, m ≠ n.toNat → (t.cl c).slot m = (s.cl c).slot m))

/-- How a kernel drives the array and the synchronisation slots (R220 to R222, R230, R234, R247, R248). -/
def Obligations.TahrDrivesUnits : Prop := Claim.TahrDrivesArray ∧ Claim.TahrSignals

/-- TGUARD of a kernel that holds nothing resolves the guard at once; that of a speculative one is held, and squashes it where
the held table has no room. TEND ends the kernel with the low 32 bits of its register as the firing's result; a kernel that
passes its non-zero BUDGET ends FAULTED with cause 4, one without a BUDGET goes on (R223, R224, R247, R248). -/
def Obligations.TahrGuardsAndEnds : Prop :=
  ∀ (c : Cl) (s : State) (f : Firing), (s.cl c).kernelFiring = some f →
    (∀ rs1 rs2 : BitVec 5, (s.cl c).tahrReady = true →
      let k := (s.cl c).awaited [rs1, rs2]
      let g := fld (k.tahr.get rs1) 0 6
      let v := k.tahr.get rs2 != 0
      let u := (s.onCl c fun _ => k).onCl c (·.retire 4)
      (f.held = false → exec (.tguard c rs1 rs2) s = .next (u.resolve guardDepth (rgOf c) g v)) ∧
      (f.held = true → (s.rg (rgOf c)).held.length < 512 → Answers (.tguard c rs1 rs2) s fun t =>
        t = { u with rgs := t.rgs } ∧ (∀ q, q ≠ rgOf c → t.rg q = s.rg q) ∧ t.rg (rgOf c) = { s.rg (rgOf c) with
          held := (s.rg (rgOf c)).held ++ [{ item := .guard g v, cl := c, entry := f.entry, order := f.order, guards := f.guards }] }) ∧
      (∀ x, f.held = true → 512 ≤ (s.rg (rgOf c)).held.length → (k.retire 4).kernelFiring = some x →
        exec (.tguard c rs1 rs2) s = .next (u.squash c x 1))) ∧
    (∀ rs1 : BitVec 5, (s.cl c).tahrReady = true →
      let k := (s.cl c).awaited [rs1]
      Answers (.tend c rs1) s fun t => OnlyCluster c s t ∧ (t.cl c).tahr.kernel = none ∧ SameUnits (s.cl c) (t.cl c) ∧
        (t.cl c).tahr.x = k.tahr.x ∧
        ∃ g, (t.cl c).firing f.entry = some g ∧ g.ended = true ∧ g.result = (k.tahr.get rs1).truncate 32) ∧
    (∀ x, (s.cl c).tahr.kernel = some x →
      (((s.cl c).entry x.entry).f 6 0 32 ≠ 0 → exec (.cycleBudgetExceeded c) s = .next (s.faultFiring c f 4)) ∧
      (((s.cl c).entry x.entry).f 6 0 32 = 0 → exec (.cycleBudgetExceeded c) s = .next s))

/-! ### Matrix array (R117 to R156) -/

/-- The row of each array command: its cluster, its opcode, what issuing it gives. -/
def arrayRow : Instr → Option (Cl × Nat × (Arr → ArrCmd → (Nat → Byte) → Issue))
  | .arrMode c => some (c, 1, fun a x _ => a.mode x)
  | .arrClear c => some (c, 2, fun a x _ => a.clear x)
  | .arrLoadShadow c => some (c, 3, fun a x rd => a.load x rd)
  | .arrSwap c => some (c, 4, fun a x _ => a.swap x)
  | .arrStream c => some (c, 5, fun a x rd => a.stream x rd)
  | .arrDrain c => some (c, 6, fun a x _ => a.drain x)
  | _ => none

/-- A command at the head of the array's queue leaves it when its conditions hold, writes the bytes that it names, and no
other byte of memory and no register of another unit; it stays in the queue while they do not, and while the head has another
opcode; a reserved opcode at the head is refused with reason 1. ARR_MODE waits for every earlier command, ARR_SWAP and
ARR_LOAD_SHADOW for the loader (R137, R140, R245). -/
def Obligations.ArrayCommandsIssue : Prop :=
  (∀ (i : Instr) (c : Cl) (op : Nat) (f : Arr → ArrCmd → (Nat → Byte) → Issue) (s : State) (x : ArrCmd) (rest : List ArrCmd),
    arrayRow i = some (c, op, f) → (s.cl c).arr.queue = x :: rest →
    let k := s.cl c
    let went := f { k.arr with queue := rest } x (s.tileAs c k.arrayFiring)
    let head := cw x.word 0 0 4
    (head ≠ op → 1 ≤ head → head ≤ 6 →
      Answers i s fun t => OnlyCluster c s t ∧ t.cl c = { k with arr := { k.arr with touched := (t.cl c).arr.touched } }) ∧
    (head = 0 ∨ 6 < head → Answers i s fun t => OnlyCluster c s t ∧ (t.cl c).arr.queue = rest ∧
      (t.cl c).arr.stat = k.arr.stat ||| 64#7 ∧ (t.cl c).arr.acc = k.arr.acc ∧ (t.cl c).arr.active = k.arr.active ∧
      (k.arr.stat.getLsbD 6 = false → (t.cl c).arr.errOp = BitVec.ofNat 4 head ∧ (t.cl c).arr.errReason = 1)) ∧
    (head = op → went = .waits → Answers i s fun t => OnlyCluster c s t ∧ t.cl c = { k with arr := { k.arr with touched := (t.cl c).arr.touched } }) ∧
    (∀ (b : Arr) (ws : List WByte), head = op → went = .done b ws → s.mem.wf = true →
      (∀ g, k.arrayFiring = some g → g.held = true → ∀ w ∈ ws, k.inClaim g.entry w.addr = true) →
      Answers i s fun t => t = { s with cls := t.cls, mem := t.mem } ∧ (∀ d, d ≠ c → t.cl d = s.cl d) ∧
        (t.cl c).arr = { b with touched := (t.cl c).arr.touched } ∧ (t.cl c).vec = k.vec ∧ (t.cl c).tahr = k.tahr ∧
        (t.cl c).table = k.table ∧ (t.cl c).slots = k.slots ∧ (t.cl c).bufs = k.bufs ∧ (t.cl c).cvt = k.cvt ∧
        t.mem = s.mem.write (ws.map fun w => { w with addr := tileBase c.val + w.addr }) ∧
        ∀ a, (∀ w ∈ ws, tileBase c.val + w.addr ≠ a) → t.mem.get a = s.mem.get a)) ∧
  (∀ (i : Instr) (c : Cl) (op : Nat) (f : Arr → ArrCmd → (Nat → Byte) → Issue) (s : State), arrayRow i = some (c, op, f) →
    (s.cl c).arr.queue = [] → Answers i s fun t => OnlyCluster c s t ∧ (t.cl c).arr = { (s.cl c).arr with touched := (t.cl c).arr.touched }) ∧
  ∀ (a : Arr) (x : ArrCmd) (rd : Nat → Byte),
    (a.mode x = .waits ↔ a.loading.isSome = true ∨ a.streams ≠ [] ∨ a.drains ≠ []) ∧
    (a.swap x = .waits ↔ a.loading.isSome = true ∨ ∃ r ∈ a.streams, r.loads = true) ∧
    (a.loading.isSome = true ∨ (∃ r ∈ a.streams, r.loads = true) → a.load x rd = .waits ∨ ∃ n, a.load x rd = .done (a.refuse 3 n) [])

/-- ARR_SWAP exchanges the two tiles of a full shadow and is refused with reason 5 on one that is not full; ARR_MODE sets
the mode and changes no entry, a change of HALF empties both tiles, a change of STRICT alone leaves them, and one whose
STRICT is not its task's is refused; ARR_CLEAR sets the
128 entries of each of its rows to zero in the array's mode and no other; after reset, and after every loss of the volatile state,
every entry is clear and fast (R139, R141). -/
def Obligations.SwapModeClear : Prop :=
  (∀ (c : Cl) (m : Nat), (State.reset.cl c).arr.row m = List.replicate 128 {}) ∧
  (∀ (k : Cluster) (m : Nat), k.lost.arr.row m = List.replicate 128 {}) ∧
  ∀ (c : Cl) (s : State) (x : ArrCmd) (rest : List ArrCmd), (s.cl c).arr.queue = x :: rest →
    let a := (s.cl c).arr
    (cw x.word 0 0 4 = 4 → a.loaderIdle = true → a.shadowFull = true → Answers (.arrSwap c) s fun t =>
      (t.cl c).arr.active = a.shadow ∧ (t.cl c).arr.shadow = a.active ∧ (t.cl c).arr.shadowFull = false ∧
        (t.cl c).arr.stat = a.stat ∧ (t.cl c).arr.acc = a.acc) ∧
    (cw x.word 0 0 4 = 4 → a.loaderIdle = true → a.shadowFull = false → Answers (.arrSwap c) s fun t =>
      (t.cl c).arr.active = a.active ∧ (t.cl c).arr.shadow = a.shadow ∧ (t.cl c).arr.stat = a.stat ||| 64#7 ∧ (t.cl c).arr.acc = a.acc ∧
        (a.stat.getLsbD 6 = false → (t.cl c).arr.errOp = 4 ∧ (t.cl c).arr.errReason = 5)) ∧
    (cw x.word 0 0 4 = 1 → a.loading = none → a.streams = [] → a.drains = [] → decide (cw x.word 0 8 1 = 1) = x.taskStrict →
      Answers (.arrMode c) s fun t =>
        (t.cl c).arr.strict = x.taskStrict ∧ (t.cl c).arr.half = decide (cw x.word 0 9 1 = 1) ∧
          (decide (cw x.word 0 9 1 = 1) ≠ a.half → (t.cl c).arr.active = none ∧ (t.cl c).arr.shadow = none) ∧
          (decide (cw x.word 0 9 1 = 1) = a.half → (t.cl c).arr.active = a.active ∧ (t.cl c).arr.shadow = a.shadow) ∧
          (t.cl c).arr.acc = a.acc ∧ (t.cl c).arr.stat = a.stat) ∧
    (cw x.word 0 0 4 = 1 → a.loading = none → a.streams = [] → a.drains = [] → decide (cw x.word 0 8 1 = 1) ≠ x.taskStrict →
      Answers (.arrMode c) s fun t => (t.cl c).arr.strict = a.strict ∧ (t.cl c).arr.half = a.half ∧ (t.cl c).arr.acc = a.acc ∧
        (t.cl c).arr.stat = a.stat ||| 64#7) ∧
    (let base := cw x.word 0 16 8
     let count := cw x.word 0 24 9
     cw x.word 0 0 4 = 2 → 0 < count → base + count ≤ 256 → a.strict = x.taskStrict →
      (∀ r ∈ a.streams ++ a.drains, r.base + r.rows ≤ base ∨ base + count ≤ r.base) →
      Answers (.arrClear c) s fun t => ∀ m,
        (base ≤ m ∧ m < base + count → (t.cl c).arr.row m = List.replicate 128 { strict := a.strict, value := 0 }) ∧
        (m < base ∨ base + count ≤ m → (t.cl c).arr.row m = a.row m))

/-- The fetch of a task's next command, the end of a shadow load or of the loads that a stream makes itself, the last update
of a stream and the last write of a drain: each changes its own part of the array and nothing else; a fetch waits while 16
commands are queued (R135, R137, R144). A byte that a fetch reads beyond tile memory is free (log entry 1). -/
def Obligations.ArrayProgress : Prop :=
  ∀ (c : Cl) (s : State),
    let a := (s.cl c).arr
    (∀ k, a.task = some k → 0 < k.left → a.queue.length < 16 →
      Answers (.arrayCommandFetch c) s fun t => t = { s with cls := t.cls, nonce := t.nonce } ∧ (∀ d, d ≠ c → t.cl d = s.cl d) ∧
        ∃ w : BitVec 256, t.cl c = { s.cl c with arr := { a with
          task := some { k with addr := k.addr + 32, left := k.left - 1 }
          queue := a.queue ++ [{ word := w, taskStrict := k.strict }] } } ∧
          ∀ i, i < 32 → k.addr + i < 0x600000 → w.extractLsb' (8 * i) 8 = s.tileAs c (s.cl c).arrayFiring (k.addr + i)) ∧
    ((∀ k, a.task = some k → k.left = 0 ∨ 16 ≤ a.queue.length) → exec (.arrayCommandFetch c) s = .next s) ∧
    (a.loading = none → ∀ before r after, a.streams = before ++ r :: after → (∀ x ∈ before, x.loads = false) → r.loads = true →
      exec (.shadowLoadDone c) s = .next (s.onCl c fun k =>
        { k with arr := { k.arr with streams := before ++ { r with loads := false } :: after } })) ∧
    (∀ l, a.loading = some l → exec (.shadowLoadDone c) s = .next (s.onCl c fun k =>
      { k with arr := { k.arr with shadow := some l.1, shadowFull := true, loading := none } })) ∧
    (exec (.arrStreamLastUpdate c) s = .next (s.onCl c fun k => { k with arr := { k.arr with streams := a.streams.drop 1 } })) ∧
    (exec (.arrDrainWritten c) s = .next (s.onCl c fun k => { k with arr := { k.arr with drains := a.drains.drop 1 } }))

/-- A block-pair sum whose lowest bit the entry can hold, and with which the entry stays in its range, enters exactly and
sets no condition: 128 bits from 2^(P − 112) on in fast mode, 320 bits from 2^(P − 288) on in strict mode (R72, R73). -/
def Obligations.AccumulateExactly : Prop :=
  ∀ (e : Acc) (v lsb p : Int), (e.anchor = none → e.value = 0) →
    let q := match e.anchor with | none => p | some a => max a p
    (∀ a, e.anchor = some a → p ≤ a) →
    (q - 112 ≤ lsb → (e.value + v * 2 ^ (lsb - (q - 112)).toNat).natAbs ≤ 2 ^ 127 - 1 →
      e.addFast v lsb p = ({ e with value := e.value + v * 2 ^ (lsb - (q - 112)).toNat, anchor := some q }, 0)) ∧
    (q - 288 ≤ lsb → e.count < 2 ^ 31 → (e.value + v * 2 ^ (lsb - (q - 288)).toNat).natAbs ≤ 2 ^ 319 - 1 →
      e.addStrict v lsb p = ({ e with
        value := e.value + v * 2 ^ (lsb - (q - 288)).toNat, anchor := some q, count := e.count + 1 }, 0))

/-! ### Tasks, guards and speculation (R225 to R257) -/

/-- The firing that a dispatch starts. -/
def firingOf (s : State) (c : Cl) (i : Nat) (gs : GSet) : Firing :=
  { entry := i, order := (s.rg (rgOf c)).order, unit := (s.cl c).unitOf ((s.cl c).entry i), guards := gs, spec := !gs.isEmpty
    start := s.pwr.islands[(fromCluster c).island].ticks.toNat }

/-- The cluster once an entry is claimed for a dispatch: thresholds subtracted, buffers claimed, the entry RUNNING or
SPEC_RUNNING, its firing in flight (R232, R241). -/
def dispatched (s : State) (c : Cl) (i : Nat) (gs : GSet) : State :=
  let e := (s.cl c).entry i
  (s.onRg (rgOf c) fun x => { x with order := x.order + 1 }).onCl c fun k =>
    let k := if gs = [] then e.waits.foldl (fun k w => k.subSlot w.1 w.2) k else k
    let k := (k.claim i e.wbufs).onEntry i fun e => { e with state := if gs = [] then .running else .specRunning }
    ({ k with firings := k.firings ++ [firingOf s c i gs] } : Cluster).count 7 11 1

/-- TASK_DISPATCH: entries whose guard has resolved against them end SKIPPED first; then the chosen entry takes the unit of its
KIND when its descriptor passes the checks of R229, and ends FAULTED with cause 5 where it does not. A kernel starts at
CODE_ADDR with its registers, an array task with its commands, a solver call waits in its region's queue; a DMA task with an
invalid descriptor of a format ends at once with its condition, one with an address without a target faults with cause 6.
Nothing dispatches in a fenced cluster, outside a step, or while the module is stopped (R108, R224, R229, R232, R235, R243,
R253, R385). -/
def Claim.DispatchStartsUnit : Prop :=
  ∀ (c : Cl) (s : State),
    ((s.cl c).fenced.isSome = true ∨ s.run.step = none ∨ s.run.stopped = true ∨ s.run.paused = true ∨ s.pwr.state ≠ .a0 →
      exec (.taskDispatch c) s = .next s) ∧
    ((∀ j, j < 128 → s.ready c j ≠ .skip) → s.skipAll c = s) ∧
    (∀ j, j < 128 → let t := s.endFiring c { entry := j, order := 0, unit := .solver 0 0 } 2 0
      ((t.cl c).entry j).state = (if ((s.cl c).entry j).rearm then .waiting else .idle) ∧ (t.cl c).head = (s.cl c).head + 1 ∧
        (t.cl c).slots = (s.cl c).slots) ∧
    (s.dispatchOff c = false →
    let u := s.skipAll c
    (u.chosen c = none → exec (.taskDispatch c) s = .next u) ∧
    ∀ (i : Nat) (gs : GSet), u.chosen c = some (i, gs) →
    let e := (u.cl c).entry i
    let d := dispatched u c i gs
    let f := firingOf u c i gs
    (e.kind = 3 → u.fmtInvalid c i e = true → ∃ k, exec (.taskDispatch c) s = .next (d.onCl c fun _ => k) ∧
      ∃ g, k.firing i = some g ∧ g.ended = true ∧ g.conds &&& cFmtInvalid = cFmtInvalid) ∧
    (e.kind ≠ 3 ∨ u.fmtInvalid c i e = false →
      (u.descriptorOk c i e = false → exec (.taskDispatch c) s = .next (d.faultFiring c { f with final := true } 5)) ∧
      (u.descriptorOk c i e = true → e.kind = 3 → u.spansOk c i e = false →
        exec (.taskDispatch c) s = .next (d.faultFiring c { f with final := true } 6)) ∧
      (u.descriptorOk c i e = true → e.kind ≠ 3 ∨ u.spansOk c i e = true →
        exec (.taskDispatch c) s = .next (d.startUnit c f) ∧
        (e.kind = 1 → d.startUnit c f = d.onCl c fun k =>
          { k with arr := { k.arr with
            task := some { entry := i, addr := e.f 5 0 23, left := e.f 5 32 16, strict := e.strict }, conds := 0, touched := [] } }) ∧
        (e.kind = 4 → d.startUnit c f = d.onRg (rgOf c) fun x =>
          { x with nyala := { x.nyala with queue := x.nyala.queue ++ [{ cl := c, entry := i }] } }) ∧
        (e.kind = 2 → Answers (.taskDispatch c) s fun t =>
          let x := (t.cl c).tahr
          x.pc = BitVec.ofNat 64 (e.f 5 0 23) ∧ x.get 2 = BitVec.ofNat 64 (e.f 5 32 23) ∧ x.get 10 = e.word 7 ∧ x.get 11 = e.word 8 ∧
            x.get 12 = e.word 9 ∧ x.get 13 = e.word 10 ∧
            (∀ r : BitVec 5, r ≠ 2 → r ≠ 10 → r ≠ 11 → r ≠ 12 → r ≠ 13 → x.get r = 0) ∧ (t.cl c).vec.strict = e.strict ∧
            (t.cl c).vec.v = (s.cl c).vec.v ∧ x.wait = none ∧ x.icache = (s.cl c).tahr.icache))))

/-- The entry chosen is ready and no ready entry comes before it: higher PRIO first, then the lower index (R232). -/
def Claim.ChosenIsFirst : Prop :=
  ∀ (c : Cl) (s : State) (i : Nat) (gs : GSet), s.chosen c = some (i, gs) →
    i < 128 ∧ s.ready c i = .go gs ∧
    ∀ j, j < 128 → (s.ready c j).isGo = true → ((s.cl c).entry j).prio ≤ ((s.cl c).entry i).prio ∧
      (((s.cl c).entry j).prio = ((s.cl c).entry i).prio → i ≤ j)

/-- Which entry a dispatch takes and how its unit starts (R224 to R235). -/
def Obligations.DispatchChoosesAndStarts : Prop := Claim.DispatchStartsUnit ∧ Claim.ChosenIsFirst

/-- A signal that arrives is added to its slot, which stays at 65,535 and sets SLOT_OVF where it would pass it; no other
slot changes; a fenced cluster drops it (log entry 134); where no such signal is on its way nothing happens (R28, R230, R234).
HOLD_PEAK takes the number of sectors held when it is reset (R257). -/
def Claim.SignalsAndPeak : Prop :=
  (∀ (c : Cl) (s : State) (k : Nat), takeNth (s.flights.filter fun f => f.cl == c) k = none → exec (.signalArrival c k) s = .next s) ∧
  (∀ (c : Cl) (s : State) (k : Nat) (f : Flight) (more : List Flight),
    takeNth (s.flights.filter fun f => f.cl == c) k = some (f, more) →
    ((s.cl c).fenced.isSome = true →
      exec (.signalArrival c k) s = .next { s with flights := more ++ s.flights.filter fun f => f.cl != c }) ∧
    ((s.cl c).fenced = none → Answers (.signalArrival c k) s fun t =>
      t = { s with cls := t.cls, flights := more ++ s.flights.filter fun f => f.cl != c } ∧ (∀ d, d ≠ c → t.cl d = s.cl d) ∧
        t.cl c = { s.cl c with slots := (t.cl c).slots, tstat := (t.cl c).tstat } ∧
        (t.cl c).slot f.slot.toNat = min 65535 ((s.cl c).slot f.slot.toNat + f.amount.toNat) ∧
        (t.cl c).tstat = (s.cl c).tstat ||| (if 65535 < (s.cl c).slot f.slot.toNat + f.amount.toNat then 1#5 else 0) ∧
        ∀ n, n ≠ f.slot.toNat → (t.cl c).slot n = (s.cl c).slot n)) ∧
  ∀ (r : Rg) (s : State), exec (.holdPeakReset r) s =
    .next (s.onRg r fun x => { x with peak := BitVec.ofNat 14 x.hold.length })

/-- The signals that a firing sends when it has finished: its PRODs to slots of its own cluster, its REMOTEs. -/
def signalsOf (c : Cl) (e : TEntry) : List HItem :=
  e.prods.map (fun p => HItem.signal c.val p.1 p.2) ++ e.remotes.map fun p => HItem.signal p.1 p.2.1 p.2.2

/-- A speculative firing whose work has ended becomes HELD, its signals enter the held table with its guards and its unit is
free; where the table has no room for them it is squashed with cause 1 (R234, R236, R247, R248). -/
def Claim.SpeculativeFiringHeld : Prop :=
  ∀ (c : Cl) (s : State) (n : BitVec 7) (f : Firing), (s.cl c).firing n.toNat = some f → f.final = false → f.held = true →
    (s.cl c).workEnded f = true →
    let e := (s.cl c).entry n.toNat
    let rg := s.rg (rgOf c)
    (rg.held.length + (signalsOf c e).length ≤ 512 →
    Answers (.taskComplete c n) s fun t => t = { s with cls := t.cls, rgs := t.rgs } ∧ (∀ d, d ≠ c → t.cl d = s.cl d) ∧
      (∀ q, q ≠ rgOf c → t.rg q = s.rg q) ∧
      ((t.cl c).entry n.toNat).state = .held ∧ (t.cl c).slots = (s.cl c).slots ∧ (t.cl c).head = (s.cl c).head ∧
      (t.cl c).bufs = (s.cl c).bufs ∧
      (t.cl c).firing n.toNat = some { f with conds := (s.cl c).firingConds f, final := true, signalled := true } ∧
      t.rg (rgOf c) = { rg with held := rg.held ++ (signalsOf c e).map fun h =>
        { item := h, cl := c, entry := f.entry, order := f.order, guards := f.guards } }) ∧
    (512 < rg.held.length + (signalsOf c e).length → ∃ (u : State) (g : Firing), exec (.taskComplete c n) s = .next (u.squash c g 1) ∧
      u = { s with cls := u.cls } ∧ (∀ d, d ≠ c → u.cl d = s.cl d) ∧ g.entry = n.toNat ∧ g.final = true ∧ g.held = true)

/-- A firing that holds nothing completes when its work has ended: its record enters the completion ring, which loses its
oldest record where it is full, its buffers are free, its entry is IDLE or, with REARM, WAITING, and each local signal is added
to its slot; one that commits waits in HELD for its commit; one whose work goes on does not complete. The kernel of a root
operation's cluster records its DCODE in the low byte of its result (R225, R234, R236, R241, R367, R637; log entry 16). -/
def Claim.FiringCompletes : Prop :=
  ∀ (c : Cl) (s : State) (n : BitVec 7) (f : Firing), (s.cl c).firing n.toNat = some f →
    (f.final = true ∨ (s.cl c).workEnded f = false → exec (.taskComplete c n) s = .next s) ∧
    (f.final = false → f.held = false → f.committing = true → (s.cl c).workEnded f = true →
      Answers (.taskComplete c n) s fun t => OnlyCluster c s t ∧ ((t.cl c).entry n.toNat).state = .held ∧
        (t.cl c).slots = (s.cl c).slots ∧ (t.cl c).head = (s.cl c).head ∧
        (t.cl c).firing n.toNat = some { f with conds := (s.cl c).firingConds f, final := true }) ∧
    (f.final = false → f.held = false → f.committing = false → (s.cl c).workEnded f = true →
      let e := (s.cl c).entry n.toNat
      let k := s.cl c
      Answers (.taskComplete c n) s fun t =>
        (t.cl c).firing n.toNat = none ∧ ((t.cl c).entry n.toNat).state = (if e.rearm then .waiting else .idle) ∧
          (t.cl c).head = k.head + 1 ∧ (t.cl c).tail = (if k.head - k.tail = 255 then k.tail + 1 else k.tail) ∧
          (t.cl c).slots = (e.prods.foldl (fun k p => k.addSlot p.1 p.2) k).slots ∧
          (∀ b, ((t.cl c).buf b).claimed = ((k.buf b).claimed && (k.buf b).owner.toNat != n.toNat)) ∧
          t.flights.length = s.flights.length + (e.remotes.filter fun p => p.1 < 384).length ∧
          (∀ d, d ≠ c → t.cl d = { s.cl d with table := (t.cl d).table }) ∧
          (e.guardEn = false → ∃ cycles, t.mem = (s.tileWrite c (writesAt (k.cringBase.toNat * 32 + k.head.toNat * 32) (wordBytes
            (recordWords e n.toNat e.kind 0 f.status.toNat 0 cycles (s.rootResult c f).result.toNat (k.firingConds f))))).mem) ∧
          (e.guardEn = false → s.run.stopping = false → (∀ d, d ≠ c → t.cl d = s.cl d) ∧ t.events = s.events ∧ t.ports = s.ports)) ∧
    ((∀ x, s.opOf c f.entry = some x → x.2.cls ≠ 6) ∨ f.unit ≠ .vector ∨ s.partCode c = none → s.rootResult c f = f)

/-- How a firing ends: a speculative one is held, another completes (R225, R234, R236, R241, R247, R248, R637). -/
def Obligations.FiringsEnd : Prop := Claim.SpeculativeFiringHeld ∧ Claim.FiringCompletes

/-- The slots of a cluster after a commit: thresholds subtracted, then the held signals to its own slots added. -/
def slotsCommitted (s : State) (c : Cl) (i : Nat) : Cluster :=
  (((s.rg (rgOf c)).held.filter fun h => h.cl == c && h.entry == i).map (·.item)).foldl (fun k h => match h with
    | .signal d slot amount => if d = c.val then k.addSlot slot amount else k
    | .guard _ _ => k) (((s.cl c).entry i).waits.foldl (fun k w => k.subSlot w.1 w.2) (s.cl c))

/-- The oldest commit of a region, its held sectors written: the firing's held items leave the tables, its thresholds are
subtracted, its held signals and counts take effect, the guards it held resolve, and a firing that has ended completes; a
commit before its turn, or whose sectors are not all written, waits (R249). -/
def Claim.CommitTakesEffect : Prop :=
  ∀ (c : Cl) (s : State) (n : BitVec 7) (f : Firing), (s.cl c).firing n.toNat = some f →
    (f.committing = false ∨ (∃ q ∈ s.reqs, q.pendingCommit c f.entry = true) ∨ (∃ g ∈ s.commits (rgOf c), g.order < f.order) →
      exec (.specCommitWritesDone c n) s = .next s) ∧
    (f.committing = true → (∀ q ∈ s.reqs, q.pendingCommit c f.entry = false) → (∀ g ∈ s.commits (rgOf c), f.order ≤ g.order) →
      let u := s.commitEffects c n.toNat
      exec (.specCommitWritesDone c n) s = .next (((s.heldGuards c n.toNat).foldl (fun s h => s.resolve guardDepth (rgOf c) h.1 h.2)
        u).commitEnd c n.toNat) ∧
      (u.rg (rgOf c)).held = (s.rg (rgOf c)).held.filter (fun h => !(h.cl == c && h.entry == n.toNat)) ∧
      (u.rg (rgOf c)).hold = (s.rg (rgOf c)).hold.filter (fun h => !(h.cl == c && h.entry == n.toNat)) ∧
      (u.cl c).slots = (slotsCommitted s c n.toNat).slots ∧ ((u.cl c).entry n.toNat).state = .running ∧ u.mem = s.mem ∧
      (f.final = false → s.heldGuards c n.toNat = [] → exec (.specCommitWritesDone c n) s = .next u) ∧
      (f.final = true → s.heldGuards c n.toNat = [] → Answers (.specCommitWritesDone c n) s fun t =>
        (t.cl c).firing n.toNat = none ∧ (t.cl c).head = (s.cl c).head + 1 ∧
          ((t.cl c).entry n.toNat).state = (if ((s.cl c).entry n.toNat).rearm then .waiting else .idle)))

/-- Signals that arrive and commits that take effect (R28, R230, R234, R249, R257). -/
def Obligations.SignalsAndCommits : Prop := Claim.SignalsAndPeak ∧ Claim.CommitTakesEffect

/-! ### Steps, fences and placement (R266 to R292, R47, R517) -/

/-- A step starts exactly when a graph is placed, the module is in A0 and NORMAL and steady, nothing else holds it back and its
budget is not empty (R253, R517); it is taken from the budget and runs from then on; the first segment's slot is signalled to
each cluster that takes part in it and to no other (R271, R272). -/
def Claim.StepStarts : Prop :=
  ∀ (s : State), (s.placed = none → exec .stepStart s = .next s) ∧ ∀ (p : Package) (pl : Placement), s.placed = some (p, pl) →
    (s.mayStart = true ↔ s.hlt.rcv = 5 ∧ s.pwr.state = .a0 ∧ s.pwr.transition = none ∧ s.pwr.creset = none ∧ s.pwr.off = false ∧
      s.sec.boot = .ready ∧ s.run.step = none ∧ s.run.stopping = false ∧ s.run.placing = none ∧ s.run.fences = [] ∧
      (∀ x, s.txn = some x → x.commit = none) ∧ s.hlt.phase ≠ .freeze ∧ s.hlt.freeze3 = false ∧ s.run.paused = false ∧
      s.run.budget ≠ 0 ∧ s.quiet = true) ∧
    (s.mayStart = true → exec .stepStart s = .next (s.startStep p pl) ∧ Answers .stepStart s fun t => t.run.step.isSome = true ∧
      t.run.budget = s.run.budget - 1 ∧ t.run.stopped = false ∧ t.run.crvStep = s.run.crvStep) ∧
    (s.mayStart = false → exec .stepStart s = .next s) ∧
    ∀ (u : State) (seg : Nat) (c : Cl), u.openSegment pl seg = { u with cls := (u.openSegment pl seg).cls } ∧
      (u.openSegment pl seg).cl c = if pl.takesPart c.val seg then (u.cl c).addSlot (239 + seg) 1 else u.cl c

/-- A region that has finished the open segment reports it once, and one that has not reports nothing; the twenty-fourth report
opens the next segment and signals its slot (R272). -/
def Claim.SegmentFinishes : Prop :=
  ∀ (rg : Rg) (s : State) (p : Package) (pl : Placement) (k : StepRun), s.placed = some (p, pl) → s.run.step = some k →
    (k.reported.contains rg = true ∨ s.segmentDone pl rg k = false → exec (.segmentFinish rg) s = .next s) ∧
    (k.reported.contains rg = false → s.segmentDone pl rg k = true →
      (k.reported.length < 23 ∨ pl.segments ≤ k.segment + 1 → exec (.segmentFinish rg) s =
        .next (s.onRun fun r => { r with step := some { k with reported := k.reported ++ [rg] } })) ∧
      (23 ≤ k.reported.length → k.segment + 1 < pl.segments → exec (.segmentFinish rg) s =
        .next ((s.onRun fun r => { r with step := some { k with segment := k.segment + 1, reported := [] } }).openSegment pl (k.segment + 1))))

/-- How a step starts and goes from segment to segment (R253, R271, R272, R517). -/
def Obligations.SegmentsRun : Prop := Claim.StepStarts ∧ Claim.SegmentFinishes

/-- At the boundary of a step: no step runs, the step number has risen by one, the step's interval is latched, and slot 255
of every cluster that takes part reads 0 (R47, R355, R609). -/
def Obligations.StepEnds : Prop :=
  ∀ (s : State) (p : Package) (pl : Placement) (k : StepRun), s.placed = some (p, pl) → s.run.step = some k →
    s.atBoundary p pl k = true → Answers .stepBoundary s fun t =>
      t.run.step = none ∧ t.run.crvStep = s.run.crvStep + 1 ∧ t.perf.stepNum = s.run.crvStep ∧
        t.perf.stepCnt = s.perf.stepCnt + 1 ∧ t.perf.stepLast = BitVec.ofNat 48 (s.perf.interval.getD 0) ∧
        (∀ c : Cl, pl.participates c.val = true → (t.cl c).slot 255 = 0) ∧
        ∀ (c : Cl) n, n ≠ 255 → (t.cl c).slot n = (s.cl c).slot n

/-- A fault fences its cluster. Without a graph, or with one that is not placed, the FENCE event comes at once, but while a
GRAPH_LOAD is placing its graph the report waits for the placement; with a placed graph the module stops, no firing of the
cluster goes on, and the report waits for the re-placement. A fault of tile memory loses that cluster's tile memory and no
other byte; no other cluster is fenced; a cluster that is fenced stays as it is (R28, R287, R288, R529). -/
def Obligations.ClusterFenced : Prop :=
  ∀ (c : Cl) (why : FenceReason) (s : State),
    ((s.cl c).fenced.isSome = true → exec (.clusterFence c why) s = .next s) ∧
    ((s.cl c).fenced = none → Answers (.clusterFence c why) s fun t => (t.cl c).fenced = some (fenceCode why) ∧
      (∀ d, d ≠ c → (t.cl d).fenced = (s.cl d).fenced) ∧
      (∀ g pl, s.run.graph = some { pkg := g, place := some pl } → t.run.fences = s.run.fences ++ [(c, fenceCode why)] ∧ (t.cl c).firings = [] ∧
        (s.run.fences = [] → t.run.stopped = true))) ∧
    ((s.cl c).fenced = none →
      s.run.graph = none ∨ ((∃ g, s.run.graph = some { pkg := g, place := none }) ∧ ∀ p id a, s.run.placing ≠ some (.load p id a)) →
      Answers (.clusterFence c why) s fun t =>
        (t.cl c) = { s.cl c with fenced := some (fenceCode why) } ∧ (∀ d, d ≠ c → t.cl d = s.cl d) ∧ t.run = s.run ∧
        Logged s t 2 [packBits [(c.val, 0), (fenceCode why, 9), (0, 12), (0, 16)], s.run.placementId.zeroExtend 64] ∧
        (why ≠ .tileMemory → t.mem = s.mem) ∧ (why = .tileMemory → t.mem = s.mem.fill (tileBase c.val) 0x600000 (some s.nonce)) ∧
        (s.mem.wf = true → ∀ a, a < tileBase c.val ∨ tileBase c.val + 0x600000 ≤ a → t.mem.get a = s.mem.get a)) ∧
    (∀ g p id addr, (s.cl c).fenced = none → s.run.graph = some { pkg := g, place := none } → s.run.placing = some (.load p id addr) →
      Answers (.clusterFence c why) s fun t =>
        (t.cl c) = { s.cl c with fenced := some (fenceCode why) } ∧ (∀ d, d ≠ c → t.cl d = s.cl d) ∧
        t.run = { s.run with fences := s.run.fences ++ [(c, fenceCode why)] } ∧ t.events = s.events ∧
        (why ≠ .tileMemory → t.mem = s.mem) ∧ (why = .tileMemory → t.mem = s.mem.fill (tileBase c.val) 0x600000 (some s.nonce)) ∧
        (s.mem.wf = true → ∀ a, a < tileBase c.val ∨ tileBase c.val + 0x600000 ≤ a → t.mem.get a = s.mem.get a))

/-- Each fence that waited is reported with the outcome and detail given, and none waits any more (R287, R529). -/
def Claim.FencesReported : Prop :=
  ∀ (s : State) (outcome detail : Nat), (s.reportFences outcome detail).run = { s.run with fences := [] } ∧
    (s.reportFences outcome detail).evtSeq = s.evtSeq + BitVec.ofNat _ s.run.fences.length ∧
    ∀ c why, s.run.fences = [(c, why)] → Logged s (s.reportFences outcome detail) 2
      [packBits [(c.val, 0), (why, 9), (outcome, 12), (detail, 16)], s.run.placementId.zeroExtend 64]

/-- A quiesced module with fences to report places its graph again, and no other does (R288). A placement of a GRAPH_LOAD that
succeeds takes the next placement number and answers its command with it; one that fails leaves no graph and answers with its
DETAIL. A re-placement that succeeds takes the next number, and a step that it lets run again goes back to the budget (log
entry 145); one that fails leaves the graph unplaced and no step to run. Each reports its fences (R267, R287, R289). -/
def Claim.PlacementEnds : Prop :=
  ∀ s : State,
    (s.quiesced = true → s.run.fences ≠ [] → s.run.placing = none →
      exec .replacement s = .next (s.onRun fun r => { r with placing := some .fence })) ∧
    (s.quiesced = false ∨ s.run.fences = [] ∨ s.run.placing.isSome = true → exec .replacement s = .next s) ∧
    (s.run.placing = none ∨ s.run.graph = none → exec .placementFinished s = .next s) ∧
    ∀ g : Graph, s.run.graph = some g →
      let u := s.onRun fun r => { r with placing := none }
      (∀ (port : HPort) (tag : BitVec 16) (addr : Nat), s.run.placing = some (.load port tag addr) →
        (∀ d, u.placementOf g.pkg none = .inr d → exec .placementFinished s =
          .next (((u.onRun fun r => { r with graph := none, outcome := 0 }).reportFences s.run.outcome 0).finish port tag { status := 0x12, detail := d })) ∧
        (∀ pl, u.placementOf g.pkg none = .inl pl → Answers .placementFinished s fun t =>
          t.run.graph = some { pkg := g.pkg, place := some pl } ∧ t.run.placementId = s.run.placementId + 1 ∧ t.run.placing = none ∧
            t.run.fences = [] ∧ t.run.budget = s.run.budget ∧
            ∃ x : State, t = x.finish port tag { words := [(s.run.placementId + 1).zeroExtend 64] })) ∧
      (s.run.placing = some .fence →
        (∀ d, u.placementOf g.pkg g.place = .inr d → Answers .placementFinished s fun t =>
          t.run.graph = some { g with place := none } ∧ t.run.budget = 0 ∧ t.run.waits = [] ∧ t.run.fences = [] ∧ t.run.placing = none ∧
            t.run.placementId = s.run.placementId ∧ t.cls = s.cls ∧
            ∃ x : State, x.run.fences = s.run.fences ∧ t = x.reportFences s.run.outcome d) ∧
        (∀ pl, u.placementOf g.pkg g.place = .inl pl → Answers .placementFinished s fun t =>
          t.run.graph = some { g with place := some pl } ∧ t.run.placementId = s.run.placementId + 1 ∧ t.run.placing = none ∧ t.run.fences = [] ∧
            t.run.budget = (if s.run.outcome = 1 then satAdd s.run.budget 1 else s.run.budget) ∧
            ∃ x : State, x.run.fences = s.run.fences ∧ t = x.reportFences s.run.outcome 0))

/-- How a placement starts and ends, and what it reports (R267, R287 to R289, R529). -/
def Obligations.PlacementRuns : Prop := Claim.FencesReported ∧ Claim.PlacementEnds

/-! ### Nyala (R294 to R337) -/

/-- The oldest queued call starts on a free engine when its command passes every check; one that fails a check is refused with
that check's reason and faults its firing with cause 6, and SLV_ERRINFO holds the first refusal since REFUSED was last 0; an
engine that works, an empty queue and the pause of a level 3 snapshot start none (R294, R315, R332, R486). -/
def Obligations.SolverCallStarts : Prop :=
  (∀ (r : Rg) (s : State), (s.rg r).nyala.run.isSome = true ∨ (s.rg r).nyala.queue = [] ∨ s.run.paused = true →
    exec (.solverCallStart r) s = .next s) ∧
  ∀ (r : Rg) (s : State) (q : SolverCall) (rest : List SolverCall) (f : Firing) (g : Graph),
    (s.rg r).nyala.run = none → (s.rg r).nyala.queue = q :: rest → s.run.graph = some g → (s.cl q.cl).firing q.entry = some f →
    rgOf q.cl = r → s.run.paused = false →
    let u := s.onNyala r fun n => { n with queue := rest }
    let cmd : SlvCmd := BitVec.ofNat 512 (leBytes (s.slvRead q.cl q.entry) ((s.cl q.cl).entry q.entry).addr 64)
    let reason := u.slvReason g.pkg q.cl f cmd
    (reason = 0 → Answers (.solverCallStart r) s fun t => OnlyRegion r s t ∧ (t.rg r).nyala = { u.rg r |>.nyala with run := (t.rg r).nyala.run } ∧
      ∃ v, (t.rg r).nyala.run = some v ∧ v.cl = q.cl ∧ v.entry = q.entry ∧ v.cmd = cmd ∧ v.wave = 0 ∧ v.outs = [] ∧ v.inputs = [] ∧
        v.expired = q.expired ∧ v.phase = if q.expired then .finished else .input) ∧
    (reason ≠ 0 →
      exec (.solverCallStart r) s = .next ((s.onNyala r fun n =>
        let first := n.stat.getLsbD 0 = false
        { n with
          queue := rest, stat := n.stat ||| 1
          errReason := if first then BitVec.ofNat 4 reason else n.errReason
          errCluster := if first then BitVec.ofNat 9 q.cl.val else n.errCluster
          errEntry := if first then BitVec.ofNat 7 f.entry else n.errEntry }).faultFiring q.cl f 6))

/-- Writes of a call's firing reach tile memory: it holds nothing, or it holds and they lie in its claimed buffers (R245, R333). -/
def CallMayWrite (s : State) (u : NyalaRun) (ws : List WByte) : Prop :=
  ∀ f, (s.cl u.cl).firing u.entry = some f → f.held = true → ∀ w ∈ ws, (s.cl u.cl).inClaim f.entry w.addr = true

/-- A running call reads the inputs of the wave that waits for them, or, once, of the next wave while one computes; the end of a
wave's computation fixes its outcomes and leads to the next wave, which computes at once where its input has arrived, or to the end of
the call. Its outputs and no other byte are written then, or, where the next wave's input is still being read, once that has been read,
which was asked for before (R294, R295, R337). -/
def Claim.SolverWaves : Prop :=
  ∀ (r : Rg) (s : State) (u : NyalaRun) (pr : Problem), (s.rg r).nyala.run = some u → s.slvRunProblem r u = some pr →
    let lanes := lanesFor u.cmd pr
    let wave (n : Nat) : List InstIn := (waveInst u.cmd pr n).map (slvFetch (s.slvRead u.cl u.entry) u.cmd pr)
    let becomes (i : Instr) (v : NyalaRun) : Prop := exec i s = .next (s.onNyala r fun n => { n with run := some v })
    (∀ n i, i ∈ waveInst u.cmd pr n ↔ n * lanes ≤ i ∧ i < (n + 1) * lanes ∧ i < slvCount u.cmd) ∧
    (u.phase = .input →
      let ws := slvData u.cmd (slvBlks u.cmd pr u.outs) u.written u.outs.length
      CallMayWrite s u ws → Answers (.nyalaWaveInputDone r) s fun t =>
        t = { s with rgs := t.rgs, mem := t.mem } ∧ (∀ q, q ≠ r → t.rg q = s.rg q) ∧
          t.mem = s.mem.write (ws.map fun w => { w with addr := tileBase u.cl.val + w.addr }) ∧
          (t.rg r).nyala = { (s.rg r).nyala with run := some { u with phase := .compute, inputs := wave u.wave, written := u.outs.length } }) ∧
    (u.phase = .compute → u.ahead = none → (u.wave + 1) * lanes < slvCount u.cmd → 0 < lanes →
      becomes (.nyalaWaveInputDone r) { u with ahead := some (wave (u.wave + 1)) }) ∧
    (u.phase = .finished ∨ (u.phase = .compute ∧ (u.ahead.isSome = true ∨ slvCount u.cmd ≤ (u.wave + 1) * lanes)) →
      exec (.nyalaWaveInputDone r) s = .next s) ∧
    (u.phase ≠ .compute → exec (.nyalaWaveComputeDone r) s = .next s) ∧
    (u.phase = .compute →
      let outs := u.outs ++ ((waveInst u.cmd pr u.wave).zip u.inputs).map fun x =>
        slvRun u.cmd pr ((s.cl u.cl).entry u.entry).strict u.discarded x.2 (u.start pr x.1)
      let last := slvCount u.cmd ≤ (u.wave + 1) * lanes
      let ws := slvData u.cmd (slvBlks u.cmd pr outs) u.written outs.length
      (¬ last → u.ahead = none → becomes (.nyalaWaveComputeDone r)
        { u with outs := outs, inputs := [], wave := u.wave + 1, phase := .input }) ∧
      (last ∨ u.ahead.isSome = true → CallMayWrite s u ws → Answers (.nyalaWaveComputeDone r) s fun t =>
        t = { s with rgs := t.rgs, mem := t.mem } ∧ (∀ q, q ≠ r → t.rg q = s.rg q) ∧
          t.mem = s.mem.write (ws.map fun w => { w with addr := tileBase u.cl.val + w.addr }) ∧
          ∃ v, (t.rg r).nyala = { (s.rg r).nyala with run := some v } ∧ v.outs = outs ∧ v.written = outs.length ∧ v.ahead = none ∧
            v.cmd = u.cmd ∧ v.entry = u.entry ∧ v.cl = u.cl ∧ (last → v.phase = .finished) ∧
            (¬ last → v.wave = u.wave + 1 ∧ v.inputs = u.ahead.getD [] ∧ v.phase = .compute)))

/-- A deadline that passes in the queue marks its call; one that passes while the call runs ends it, and a call without a
deadline or at its end goes on. A finished call writes what is left of its outputs, then its records, and no other byte; its firing
has ended with the first status that counts and the largest number of iterations, and the engine is free; its counters and
context change at once, or wait for the commit of a firing that is held or commits (R317, R319, R321, R323, R325, R326, R333). -/
def Claim.SolverCallEnds : Prop :=
  ∀ (r : Rg) (s : State),
    (∀ k, k ≠ 0 → exec (.solverDeadline r k) s = .next (s.onNyala r fun n =>
      { n with queue := n.queue.zipIdx.map fun x =>
        if x.2 + 1 = k ∧ ((s.cl x.1.cl).entry x.1.entry).f 6 0 32 ≠ 0 then { x.1 with expired := true } else x.1 })) ∧
    ((s.rg r).nyala.run = none → exec (.solverDeadline r 0) s = .next s ∧ exec (.nyalaCallDone r) s = .next s) ∧
    ∀ (u : NyalaRun) (pr : Problem), (s.rg r).nyala.run = some u → s.slvRunProblem r u = some pr →
      (u.phase = .finished ∨ ((s.cl u.cl).entry u.entry).f 6 0 32 = 0 → exec (.solverDeadline r 0) s = .next s) ∧
      (u.phase ≠ .finished → ((s.cl u.cl).entry u.entry).f 6 0 32 ≠ 0 → Answers (.solverDeadline r 0) s fun t =>
        t = { s with rgs := t.rgs, nonce := t.nonce } ∧ (∀ q, q ≠ r → t.rg q = s.rg q) ∧
          ∃ v, (t.rg r).nyala = { (s.rg r).nyala with run := some v } ∧ v.phase = .finished ∧ v.expired = true ∧ v.cmd = u.cmd ∧
            (∃ now, v.outs = u.outs ++ now ∧ (u.phase = .input → now = [])) ∧ v.written = u.written) ∧
      (u.phase ≠ .finished → exec (.nyalaCallDone r) s = .next s) ∧
      (∀ f, u.phase = .finished → (s.cl u.cl).firing u.entry = some f →
        let outs := u.outs ++ u.unstarted (s.slvRead u.cl u.entry) pr ((s.cl u.cl).entry u.entry).strict
        let bs := slvBlks u.cmd pr outs
        let ws := slvData u.cmd bs u.written outs.length ++ slvRecords u.cmd pr bs outs
        let h := u.effects pr outs
        CallMayWrite s u ws → Answers (.nyalaCallDone r) s fun t =>
          t = { s with cls := t.cls, rgs := t.rgs, mem := t.mem } ∧ (∀ q, q ≠ r → t.rg q = s.rg q) ∧ (t.rg r).nyala.run = none ∧
            t.mem = s.mem.write (ws.map fun w => { w with addr := tileBase u.cl.val + w.addr }) ∧
            (f.held = false → f.committing = false → (t.rg r).nyala.calls = (s.rg r).nyala.calls + 1 ∧
              (t.rg r).nyala.fallback = (s.rg r).nyala.fallback + BitVec.ofNat 48 (outs.countP (·.moved)) ∧
              (t.rg r).nyala.deadline = (if u.expired then (s.rg r).nyala.deadline + 1 else (s.rg r).nyala.deadline) ∧
              (t.rg r).nyala.held = (s.rg r).nyala.held) ∧
            (f.held = true ∨ f.committing = true → (t.rg r).nyala =
              { (s.rg r).nyala with run := none, held := (s.rg r).nyala.held ++ [h] }) ∧
            ∃ g, (t.cl u.cl).firing u.entry = some g ∧ g.ended = true ∧
              g.status = BitVec.ofNat 16 (firstStatus (outs.map (·.status))) ∧
              g.result = BitVec.ofNat 32 ((outs.map (·.iter)).foldl max 0))

/-- λ is at least zero on a row at its lower limit and at most zero on one at its upper limit, zero on a row whose Delassus diagonal is
zero, and zero on a row that no sweep touches and no context starts. Sweeps end at the first residual within 2^TOL_EXP, or at MAX_ITER
with the residual above it (R313). -/
def Claim.ConstraintForces : Prop :=
  ∀ (r : RowSolve) (pr : Problem) (c : SlvCmd),
    (∀ (key k i : Nat) (x : Ex), (r.forces pr key k)[i]? = some x →
      let side := r.sides.getD i .inactive
      (side = .lower → 0 ≤ x.n) ∧ (side = .upper → x.n ≤ 0) ∧ (side ≠ .inactive → r.skips i = true → x = Ex.zero) ∧
        (side = .inactive → r.warm = false → x = Ex.zero)) ∧
    let above (k : Nat) : Prop := (unitsOf 1 (signedOf 8 (cmdFld c 4 48 8))).lt (r.residual pr k) = true
    ((r.last c pr).2 = false → 0 < (r.last c pr).1 ∧ (r.last c pr).1 ≤ slvMaxIter c ∧ ¬ above (r.last c pr).1 ∧
      ∀ k, 0 < k → k < (r.last c pr).1 → above k) ∧
    ((r.last c pr).2 = true → (r.last c pr).1 = slvMaxIter c ∧ ∀ k, 0 < k → k ≤ slvMaxIter c → above k)

/-- The waves, deadlines and end of a solver call, and its constraint forces (R295, R313, R317 to R337). -/
def Obligations.SolverWavesAndEnds : Prop := Claim.SolverWaves ∧ Claim.SolverCallEnds ∧ Claim.ConstraintForces

/-! ### Curvature (R362 to R379) -/

/-- Newton starts on the next block that waits: X is 2^−h on the diagonal and M is Z × 2^(−hp), where h is ⌈log₂ of the trace ÷
p⌉; a trace that is NaR or not positive leaves the block to the fallback (R365, R369). An uncorrectable sector of Z sets
STAT_NAR, and the reads and writes are charged to the class of the root group (R404, R413). While a computation runs none starts. -/
def Claim.NewtonStarts : Prop :=
  ∀ (r : Rg) (s : State),
    ((s.rg r).medlar.newton.isSome = true ∨ (s.rg r).medlar.jacobi.isSome = true ∨ (s.rg r).medlar.todo = [] →
      exec (.newtonNormalisation r) s = .next s) ∧
    ∀ (p : Package) (pl : Placement) (b : Nat) (rest : List Nat) (k : Block) (e : CurvE),
    s.placed = some (p, pl) → (s.rg r).medlar.newton = none → (s.rg r).medlar.jacobi = none → (s.rg r).medlar.todo = b :: rest →
    p.block b = some k → p.curv k.entry = some e →
    let z := s.mem.siRead 4 (pl.area 1 b) (k.n * k.n)
    let len := siLen 4 (k.n * k.n)
    let cls := s.medlarClass p pl b
    let u := ((((s.onMedlar r fun m => { m with todo := rest, codes := [] }).medlarMarks r (pl.area 1 b) len).busRead cls (pl.area 1 b) len).onMedlar r
      fun m => { m with block := BitVec.ofNat 16 b, iter := 0, dcode := 0, newton := some { block := b, started := true } })
    u.mem = s.mem ∧ (s.mem.marked (pl.area 1 b) len = true → (u.rg r).medlar.stat.getLsbD 3 = true) ∧
    (∀ t, traceOf k.n z = some t → 0 < t.n →
      let h := normExp t e.p
      exec (.newtonNormalisation r) s = .next (u.busWrite cls (
        siWrite 4 (pl.area 2 r.val) ((List.range (k.n * k.n)).map fun i =>
          some (if i / k.n = i % k.n then unitsOf 1 (-h) else Ex.zero)) ++
        siWrite 4 (pl.area 3 r.val) (z.map fun v => v.map fun x => { x with e := x.e - h * e.p })))) ∧
    ((∀ t, traceOf k.n z = some t → t.n ≤ 0) → exec (.newtonNormalisation r) s = .next (u.fallBack p pl r b))

/-- The fallback: Jacobi of a block of at most 1,024 rows where it is enabled, with Z at 3 limbs and I in the root store; else the block
keeps its root and the failure is counted (R369, R370, R375). -/
def Claim.FallbackGoes : Prop :=
  ∀ (s : State) (p : Package) (pl : Placement) (r : Rg) (b : Nat) (k : Block), p.block b = some k →
    let t := s.fallBack p pl r b
    t.mem = s.mem ∧ (t.rg r).medlar.newton = none ∧ (∀ q, q ≠ r → t.rg q = s.rg q) ∧
    (k.n ≤ 1024 → s.run.jacobiEn = true → ∃ j, (t.rg r).medlar.jacobi = some j ∧ j.block = b ∧ j.n = k.n ∧ j.sweep = 0 ∧ j.round = 0 ∧
      j.gemmStep = none ∧ j.z = rootMat k.n (s.mem.siRead 4 (pl.area 1 b) (k.n * k.n)) ∧ j.q = rootMat k.n (unitMat k.n) ∧ (t.rg r).medlar.failCnt = (s.rg r).medlar.failCnt) ∧
    (1024 < k.n ∨ s.run.jacobiEn = false → (t.rg r).medlar.jacobi = none ∧ (t.rg r).medlar.failCnt = (s.rg r).medlar.failCnt + 1)

/-- The code that a cluster of a root group puts into RESULT[7:0] when its kernel completes (R367): 0xFF where the iteration met a NaR or
saturated, 0 for no distance from I, else 127 and the binary exponent of the distance of its own rows, to at least 0 and at most 0xFE. -/
def Claim.IterationCode : Prop :=
  (∀ (s : State) (p : Package) (pl : Placement) (c : Cl) (w : Newton) (k : Block) (e : CurvE), s.placed = some (p, pl) →
    (s.rg (rgOf c)).medlar.newton = some w → w.started = true → w.paused = false → (rootGroup p pl w.block (rgOf c)).contains c.val = true →
    p.block w.block = some k → p.curv k.entry = some e →
    let g := rootGroup p pl w.block (rgOf c)
    let i := (g.filter (· < c.val)).length
    s.partCode c = some (dcodeOf k.n (k.n * i / g.length) (k.n * (i + 1) / g.length) (s.newtonOf pl (rgOf c) k e))) ∧
  (∀ (s : State) (c : Cl) (f : Firing) (op : Nat) (o : OperE) (n : Nat), s.opOf c f.entry = some (op, o) →
    o.cls = 6 → f.unit = .vector → s.partCode c = some n → n < 256 →
    (s.rootResult c f).result.toNat % 256 = n ∧ (s.rootResult c f).result.toNat / 256 = f.result.toNat / 256) ∧
  ∀ (n lo hi : Nat) (x : NewtonStep),
    (x.cond &&& (cNarIn ||| cNarGen ||| cSat) ≠ 0 → dcodeOf n lo hi x = 255) ∧
    (x.cond &&& (cNarIn ||| cNarGen ||| cSat) = 0 →
      (newtonDelta n lo hi x.m = none → dcodeOf n lo hi x = 255) ∧
      ∀ d, newtonDelta n lo hi x.m = some d → (d.n = 0 → dcodeOf n lo hi x = 0) ∧
        (d.n ≠ 0 → (dcodeOf n lo hi x : Int) = max 0 (min 254 (127 + ceilLog2 d))))

/-- What ends an iteration (R366 to R368): X, M, T and U are written as R366 forms them, the iteration's code is the largest of its root
group's. A code of 0xFF falls back; one within TOL of 127 converges; one that has risen since the second iteration
diverges; MAXIT falls back; the step's share of iterations pauses; otherwise the next iteration runs. The iteration's guard
resolves TRUE to go on, FALSE to stop. -/
def Claim.IterationVerdict : Prop :=
  (∀ (r : Rg) (s : State) (p : Package) (pl : Placement) (w : Newton) (k : Block) (e : CurvE), s.placed = some (p, pl) →
    (s.rg r).medlar.newton = some w → w.started = true → w.paused = false → rootGroup p pl w.block r ≠ [] →
    p.block w.block = some k → p.curv k.entry = some e →
    ((∃ c ∈ rootGroup p pl w.block r, ∀ x ∈ (s.rg r).medlar.codes, x.1 ≠ c) → exec (.medlarIterationDecision r) s = .next s) ∧
    ((∀ c ∈ rootGroup p pl w.block r, ∃ x ∈ (s.rg r).medlar.codes, x.1 = c) →
      let x := newtonStep e.p k.n (s.mem.siRead 4 (pl.area 2 r.val) (k.n * k.n)) (s.mem.siRead 4 (pl.area 3 r.val) (k.n * k.n))
      let code := ((s.rg r).medlar.codes.map (·.2)).foldl max 0
      let cls := s.medlarClass p pl w.block
      let len := siLen 4 (k.n * k.n)
      let n := w.iter + 1
      let perStep := if s.run.itersOverride.toNat = 0 then e.perStep else s.run.itersOverride.toNat
      let key := pl.key p
      let v := { w with iter := n, stepIters := w.stepIters + 1, code := code }
      let read := [pl.area 2 r.val, pl.area 3 r.val].foldl (fun u a => (u.medlarMarks r a len).busRead cls a len) s
      let t := (read.busWrite cls (siWrite 4 (pl.area 2 r.val) x.x ++ siWrite 4 (pl.area 3 r.val) x.m ++
        siWrite 4 (pl.area 4 r.val) x.t ++ siWrite 4 (pl.area 8 r.val) x.u)).onMedlar r fun m =>
          { m with codes := [], newton := some v, iter := BitVec.ofNat 8 n, dcode := BitVec.ofNat 8 code }
      let said := verdict e perStep n code (s.rg r).medlar.dcode.toNat (w.stepIters + 1)
      let goes (u : State) : Prop := exec (.medlarIterationDecision r) s = .next u
      (said = .go → goes (t.iterGuard key r true)) ∧
      (said = .pause → goes ((t.onMedlar r fun m => { m with newton := some { v with paused := true } }).iterGuard key r false)) ∧
      (∀ d, said = .fallback d → goes (((if d then t.onMedlar r (·.flag 4) else t).fallBack p pl r w.block).iterGuard key r false)) ∧
      (said = .converged → goes (((((t.busRead cls (pl.area 2 r.val) len).busWrite cls
        (writesAt (pl.area 5 w.block) (t.mem.siBytes 4 (pl.area 2 r.val) (k.n * k.n)))).onMedlar r fun m =>
        { m with newton := none, rootCnt := m.rootCnt + 1 }).rootFormed w.block n false).iterGuard key r false)))) ∧
  ∀ (e : CurvE) (perStep k code before stepIters : Nat), code ≤ 255 →
      (code = 255 → verdict e perStep k code before stepIters = .fallback false) ∧
      (code < 255 → code ≤ 127 + e.tol → verdict e perStep k code before stepIters = .converged) ∧
      (code < 255 → 127 + e.tol < code →
        (2 ≤ k → before < code → verdict e perStep k code before stepIters = .fallback true) ∧
        (k < 2 ∨ code ≤ before →
          (k = e.maxNewton → verdict e perStep k code before stepIters = .fallback false) ∧
          (k ≠ e.maxNewton → stepIters = perStep → verdict e perStep k code before stepIters = .pause) ∧
          (k ≠ e.maxNewton → stepIters ≠ perStep → verdict e perStep k code before stepIters = .go)))

/-- A round of Jacobi runs while its region's engine is idle and nothing holds it; what the rotations leave in the root store is free (log
entry 16). After the last round of a sweep, a store without NaR whose off-diagonal norm is at most 2^−20 of Z's has converged, one whose norm
is far above has not; a converged block leaves V in HBM and its root GEMM to the next step, and after 24 sweeps a block fails. The root
V × Vᵀ is formed in that step and staged (R369 to R371). -/
def Claim.JacobiProgress : Prop :=
  (∀ (j : Jacobi) (free : Bool), (j.nar = true → j.converges free = false) ∧
    (j.nar = false →
      let off := j.squares fun i => i / j.n != i % j.n
      let all := j.squares fun _ => true
      let bound : Ex := { all with e := all.e - 40 }
      (Ex.le (off.mul (unitsOf 25 0)) (bound.mul (unitsOf 16 0)) = true → j.converges free = true) ∧
      (Ex.le (off.mul (unitsOf 16 0)) (bound.mul (unitsOf 25 0)) = false → Ex.le (off.mul (unitsOf 25 0)) (bound.mul (unitsOf 16 0)) = false →
        j.converges free = false))) ∧
  ∀ (r : Rg) (s : State),
    ((s.rg r).medlar.jacobi = none → exec (.jacobiRound r) s = .next s) ∧
    ∀ j : Jacobi, (s.rg r).medlar.jacobi = some j →
    let held : Prop := j.gemmStep.isSome = true ∨ (s.rg r).nyala.run.isSome = true ∨ (s.rg r).nyala.queue ≠ [] ∨ s.run.stopped = true ∨
      s.run.paused = true
    let u : State := { s with nonce := s.nonce + 1 }
    (held → exec (.jacobiRound r) s = .next s) ∧
    (¬ held →
      ∃ z q : RootMat, (j.nar = true → z = j.z ∧ q = j.q) ∧
      let k : Jacobi := { j with z := z, q := q }
      (j.round + 2 < j.n → exec (.jacobiRound r) s = .next (u.onMedlar r fun m => { m with jacobi := some { k with round := j.round + 1 } })) ∧
      (j.n ≤ j.round + 2 → ∀ p pl, s.placed = some (p, pl) → ∃ free : Bool,
        let w : Jacobi := { k with round := 0, sweep := j.sweep + 1 }
        (w.converges free = false → j.sweep + 1 < 24 →
          exec (.jacobiRound r) s = .next (u.onMedlar r fun m => { m with jacobi := some w })) ∧
        (w.converges free = false → 24 ≤ j.sweep + 1 → exec (.jacobiRound r) s = .next (u.rootFailed r j.block)) ∧
        (w.converges free = true → ∀ (b : Block) (e : CurvE), p.block j.block = some b → p.curv b.entry = some e →
          exec (.jacobiRound r) s = .next ((u.busWrite (s.medlarClass p pl j.block) (siWrite 3 (pl.area 6 j.block) (w.v e))).onMedlar r fun m =>
            { m with jacobi := some { w with gemmStep := some (s.run.crvStep.toNat + (if s.run.step.isSome then 1 else 0)) } })))) ∧
    (∀ p pl, s.placed = some (p, pl) → (s.rg r).medlar.newton = none →
      (∀ n, j.gemmStep = some n → s.run.step.isSome = true → n ≤ s.run.crvStep.toNat →
        Answers (.medlarIterationDecision r) s fun t =>
          (t.rg r).medlar.jacobi = none ∧ (t.rg r).medlar.jacobiCnt = (s.rg r).medlar.jacobiCnt + 1 ∧
            (s.mem.ue = [] →
              t.mem = s.mem.write (siWrite 4 (pl.area 5 j.block) (gramOf j.n (s.mem.siRead 3 (pl.area 6 j.block) (j.n * j.n))))) ∧
            t.run.staged = s.run.staged ++ [{ block := j.block, finished := s.run.crvStep.toNat, iters := 0, jacobi := true, own := true }]) ∧
      (j.gemmStep = none ∨ s.run.step = none ∨ (∃ n, j.gemmStep = some n ∧ s.run.crvStep.toNat < n) →
        exec (.medlarIterationDecision r) s = .next s))

/-- Newton, its fallback and Jacobi in the curvature engine (R365 to R371, R375). -/
def Obligations.CurvatureProgress : Prop :=
  Claim.NewtonStarts ∧ Claim.FallbackGoes ∧ Claim.IterationCode ∧ Claim.IterationVerdict ∧ Claim.JacobiProgress

/-! ### Collective services (R349 to R356, R458 to R461) -/

/-- A service starts when every cluster of its operation's stage has triggered it in a step that runs, once, and while the fabric
is open to a group of more than one module; reductions in the order in which their triggers complete. A factor reduction starts
when its block's roots are due and the factors of the step stand; the owner of an overrun block takes part and uses no sum. A module alone
in its group distributes nothing; a distribution sends MASTER, STATE and WORK of the own shard, lists the roots that are due to go out and,
the first of a step, sends them (R40, R349, R351, R354, R356, R364, R372, R373). What a service reads is charged to class 15 (R404). -/
def Obligations.ServicesStart : Prop :=
  ∀ (s : State) (p : Package) (pl : Placement), s.placed = some (p, pl) →
    (∀ (op : BitVec 16) (o : OperE), p.oper op.toNat = some o →
      let may := s.run.step.isSome = true ∧ s.run.started.contains op.toNat = false ∧ s.allTriggered p pl op.toNat = true ∧
        (s.fab.valid = true ∨ s.group p ≤ 1)
      let t := s.onRun fun r => { r with started := r.started ++ [op.toNat] }
      (o.cls = 4 → may → s.firstTriggered p pl op.toNat = true → exec (.reduceScatterStart op) s =
        .next (((tensorSpans p pl (fld (o.word 4) 0 32)).foldl (fun t x => t.svcRead x.1 x.2.2) t).beginReduce p pl
          (.reduce op.toNat 4 (s.gradShards p pl (fld (o.word 4) 0 32))))) ∧
      (o.cls ≠ 4 ∨ ¬ may ∨ s.firstTriggered p pl op.toNat = false → exec (.reduceScatterStart op) s = .next s) ∧
      (o.cls = 5 → may → s.group p ≤ 1 → exec (.distributionStart op) s = .next t) ∧
      (o.cls = 5 → may → 1 < s.group p →
        let first := s.run.started.all fun k => (p.oper k).all fun q => q.cls != 5
        let ds := s.distribution p pl o s.run.rootsToSend (if first then s.run.rootsToSend else [])
        exec (.distributionStart op) s = .next (t.startRun (.distribute op.toNat) s.run.crvStep.toNat fun id =>
          ds.flatMap fun x => s.fab.toGroup id p.dpMask 1 2 x.1 x.2)) ∧
      (o.cls ≠ 5 ∨ ¬ may → exec (.distributionStart op) s = .next s)) ∧
    (∀ op : BitVec 16, p.oper op.toNat = none → exec (.reduceScatterStart op) s = .next s ∧ exec (.distributionStart op) s = .next s) ∧
    ∀ (b : BitVec 16) (x : Block), p.block b.toNat = some x →
      let len := siLen 8 (x.n * x.n)
      (∀ (k : StepRun), s.run.step = some k → k.due.contains x.entry = true → s.run.started.contains (65536 + b.toNat) = false →
        s.factorsReady k b.toNat x.entry = true → s.fab.valid = true ∨ s.group p ≤ 1 →
        let t := s.onRun fun r => { r with started := r.started ++ [65536 + b.toNat] }
        let u := if s.mem.marked (pl.area 0 b.toNat) len then (p.curv x.entry).elim t (fun e => t.statNar pl e.op) else t
        exec (.factorReductionStart b) s = .next ((u.svcRead (pl.area 0 b.toNat) len).beginReduce p pl
          (.factor b.toNat 4 [{ owner := b.toNat % s.group p, first := 0, partials := s.factorBytesOf pl b.toNat x.n }]) (k.busy.contains b.toNat)) ∧
        (s.mem.ue = [] → s.factorBytesOf pl b.toNat x.n = s.mem.bytes (pl.area 0 b.toNat) len)) ∧
      (s.run.step = none ∨ (∃ k, s.run.step = some k ∧ (k.due.contains x.entry = false ∨ s.factorsReady k b.toNat x.entry = false)) ∨
        s.run.started.contains (65536 + b.toNat) = true ∨ (s.fab.valid = false ∧ 1 < s.group p) →
        exec (.factorReductionStart b) s = .next s)

/-! ### Memory system (R380 to R423) -/

/-- A region's grant takes one request. Of the parked requests whose bank has left its quota of 256, the one granted first gets a tag
first; a DMA write that its sorter has accepted completes with it. Else a waiting request, a commit before any DMA engine, gets a tag or,
at the quota of its bank, one of the 32 park credits of its partition; a request to a tile-memory window is served at once. Without
such a request nothing changes (R387, R396, R399, R401). -/
def Claim.TagsGranted : Prop :=
  ∀ (r : Rg) (s : State),
    (∀ (i : Nat) (q : MReq), s.nextPromotion r = some i → s.reqs[i]? = some q →
      let t : State := { s with reqs := s.reqs.modify i fun q => { q with parked := false } }
      q.rg = r ∧ q.parked = true ∧ s.tags r < 2048 ∧ (∀ b, s.bankOf q = some b → s.bankTags r b < 256) ∧
      (∀ x ∈ s.reqs, x.rg = r → x.parked = true → (∀ b, s.bankOf x = some b → s.bankTags r b < 256) → q.order ≤ x.order) ∧
      (q.writes = [] ∨ q.state ≠ .sorted ∨ q.turn = none → exec (.tagGrant r) s = .next t) ∧
      (∀ c k e, q.who = .dma c k e → q.writes ≠ [] → q.state = .sorted → exec (.tagGrant r) s = .next (t.dmaWritten c k))) ∧
    (∀ (i : Nat) (q : MReq), s.nextPromotion r = none → s.nextGrant r = some i → s.reqs[i]? = some q →
      let v := s.onRg r (·.served q.turn)
      q.rg = r ∧ q.state = .waits ∧ s.waitsForCommit q = false ∧
      (q.turn ≠ none → ∀ x ∈ s.reqs, x.rg = r → x.state = .waits → s.grantOf x ≠ none → s.waitsForCommit x = false → x.turn ≠ none) ∧
      (∀ (b : Pt × Nat) (park : Bool), s.bankOf q = some b → s.grantOf q = some park →
        (park = true → b.1.val < 12 ∧ 256 ≤ s.bankTags q.rg b ∧ s.parked q.rg b.1 < 32) ∧
        (park = false → s.tags q.rg < 2048 ∧ (b.1.val < 12 → s.bankTags q.rg b < 256)) ∧
        exec (.tagGrant r) s = .next (({ (if park then v.onPart b.1 Part.park else v) with
          reqs := s.reqs.modify i fun q => { q with state := .net, parked := park, order := (s.rg r).granted } } : State).onRg r
            fun x => { x with granted := (s.rg r).granted + 1 })) ∧
      (s.bankOf q = none → exec (.tagGrant r) s = .next (v.serveWindow i q))) ∧
    (s.nextPromotion r = none → s.nextGrant r = none → exec (.tagGrant r) s = .next s)

/-- A sorter that is awake accepts, in port order, one request of each region, the one that it granted first, while it has a free entry;
one that is not accepts none. A read is fixed as it is accepted and closes the pending writes to its sectors. A write is visible at
once: where no sector is uncorrectable, each byte that it names reads as written and every other as before; it counts as written for its
firing, a parked DMA write only when it gets its tag; and with no other request for its line it stands in the sorter by itself (R397, R398,
R400, R401). -/
def Claim.SorterAccepts : Prop :=
  ∀ (p : Pt) (s : State),
    ((s.part p).awake = false → exec (.sorterAccept p) s = .next s) ∧
    ((s.part p).awake = true → exec (.sorterAccept p) s = .next ((List.finRange 24).foldl (fun s r =>
      if 1024 ≤ (s.inSorter p).length then s else match s.onTheWay p r with | some i => s.accept p i | none => s) s)) ∧
    (∀ (r : Rg) (i : Nat), s.onTheWay p r = some i → ∃ q, s.reqs[i]? = some q ∧ q.rg = r ∧ q.state = .net ∧
      ∀ x ∈ s.reqs, x.rg = r → x.state = .net → (∃ o, s.partAt x.line = some (p, o)) → q.order ≤ x.order) ∧
    ∀ (i : Nat) (q : MReq), s.reqs[i]? = some q →
      (q.writes = [] → ∃ m : BitVec 8, (∀ k : Fin 8, m.getLsbD k.val = s.mem.ue.contains (q.line / 32 + k.val)) ∧
        s.accept p i = { s with reqs := ((s.reqs.eraseIdx i).map fun x => if x.line = q.line then { x with
            writes := x.writes.map fun w => { w with closed := w.closed || q.sectors.getLsbD w.sector.val } } else x) ++
          [{ q with state := .sorted, since := s.partTicks p, data := s.lineFor q, marks := m }] }) ∧
      (q.writes ≠ [] → ∃ v : State, v = { s with reqs := v.reqs, mem := v.mem } ∧
        s.accept p i = (if q.parked = true ∧ q.turn ≠ none then v else v.written q) ∧
        (s.mem.ue = [] → v.mem = s.mem.write (q.writes.flatMap fun w => w.bytes q.line) ∧
          (s.mem.wf = true → ∀ a, (∀ w ∈ q.writes.flatMap (fun w => w.bytes q.line), w.addr ≠ a) → v.mem.get a = s.mem.get a) ∧
          (q.line % 256 = 0 → (∀ x ∈ s.reqs.eraseIdx i, x.line / 256 ≠ q.line / 256) → ∃ ws : List SecWrite,
            ws.map (fun w => (w.sector, w.mask, w.data, w.closed)) = q.writes.map (fun w => (w.sector, w.mask, w.data, w.closed)) ∧
            v.reqs = s.reqs.eraseIdx i ++ [{ q with state := .sorted, since := s.partTicks p, writes := ws, drops := [] }])))

/-- What agents without region tags do to the state (R386, R394, R404, R405, R413, R414). A line's access takes 128 credits for each of
its sectors from its class, where the class has them. Where no sector is uncorrectable, a read changes nothing but credits, and a write
also memory, exactly by its bytes. A sector that is uncorrectable ends to be so when all its 32 bytes are written; fewer are dropped, with UE
and UE_WRITE_DROP set. A service's write goes to the addresses that have a target, and the first that has none is recorded. -/
def Claim.AgentsAccess : Prop :=
  (∀ (s : State) (cls : Nat → Nat) (l n : Nat) (p : Pt) (o : Nat), s.partAt l = some (p, o) →
    (128 * (n : Int) ≤ (s.classAt p (cls l)).credits.toInt → s.chargeLine cls (l, n) = s.onPart p (·.charge (cls l) (128 * n))) ∧
    ((s.classAt p (cls l)).credits.toInt < 128 * (n : Int) → s.chargeLine cls (l, n) = s)) ∧
  (∀ (s : State) (cls : Nat → Nat) (a len : Nat) (ws : List WByte), s.mem.ue = [] →
    (∃ v : State, s.busRead cls a len = v ∧ v = { s with parts := v.parts }) ∧
    ∃ v : State, s.busWrite cls ws = v ∧ v = { s with parts := v.parts, reqs := v.reqs, mem := s.mem.write ws } ∧
      v.reqs.map (fun q => { q with rewritten := 0 }) = s.reqs.map (fun q => { q with rewritten := 0 })) ∧
  (∀ (s : State) (n : Nat) (ws : List WByte), s.mem.ue.contains n = true →
    (wholeSector ws n = true → s.writeSector n ws = { s with mem := { s.mem.write ws with ue := s.mem.ue.filter (· != n) } }) ∧
    (wholeSector ws n = false → ∀ (p : Pt) (o : Nat), s.partAt (32 * n) = some (p, o) →
      let t := s.writeSector n ws
      t.mem = s.mem ∧ (t.part p).ecc.getLsbD 1 = true ∧ (t.part p).ecc.getLsbD 2 = true)) ∧
  ∀ (s : State) (ws : List WByte),
    ((∀ w ∈ ws, s.reach w.addr = .reached) → s.svcWrite ws = s.busWrite (fun _ => 15) ws) ∧
    (∀ w rest, ws = w :: rest → (∀ x ∈ ws, s.reach x.addr ≠ .reached) → s.svcWrite ws = (s.noTarget w.addr).busWrite (fun _ => 15) [])

/-- Tags, the acceptance of requests by a sorter, and the accesses of agents that hold no tags (R386 to R405, R413, R414). -/
def Obligations.RequestsEnterMemory : Prop := Claim.TagsGranted ∧ Claim.SorterAccepts ∧ Claim.AgentsAccess

/-- A bank's scheduler takes a promoted request first, then one of the open row, then the oldest; a scrub read that the watchdog has
promoted comes before requests that are younger or not promoted. A read takes every pending read of its line with it; each request that
goes pays 128 for each of its sectors, except a chosen one that goes without credits because its lane had nothing else to do; a write
that others have merged into charges them too. A bank with nothing to do, and memory that is not awake, schedule nothing (R398, R402,
R405, R406). -/
def Claim.BankSchedules : Prop :=
  (∀ x : MReq, x.charge = 128 * ((if x.writes = [] then (List.range 8).countP x.sectors.getLsbD else x.writes.length : Nat) : Int)) ∧
  (∀ (c : Fin 16) (n : Int) (x : Part), (x.charge c.val n).classes[c].credits = BitVec.ofInt 32 (x.classes[c].credits.toInt - n)) ∧
  ∀ (p : Pt) (turn : BankTurn) (s : State),
    let bank := turn.bank.toNat
    ((s.part p).awake = false ∨ s.bankChoice p bank = none → exec (.bankSchedule p turn) s = .next s) ∧
    (s.bankChoice p bank = none → s.scrubFirst p bank = false → ∀ x ∈ s.reqs, s.bankOf x = some (p, bank) → s.eligible p x = false) ∧
    (s.scrubFirst p bank = true → s.bankChoice p bank = none) ∧
    ∀ (i : Nat) (q : MReq), (s.part p).awake = true → s.bankChoice p bank = some i → s.reqs[i]? = some q →
      let hit (x : MReq) : Prop := smFind (s.part p).openRow bank = some (s.rowOf x)
      let v := s.onPart p fun x => { x with openRow := smSet x.openRow bank (s.rowOf q) }
      let pay (v : State) (x : MReq) : State := v.onPart p (·.charge x.cls x.charge)
      let first := if v.credited p q then pay v q else v
      (s.bankOf q = some (p, bank) ∧ s.eligible p q = true ∧
        ∀ (j : Nat) (x : MReq), s.reqs[j]? = some x → s.bankOf x = some (p, bank) → s.eligible p x = true →
          (x.promoted = true → q.promoted = true ∧ i ≤ j) ∧
          (q.promoted = false → hit x → hit q ∧ i ≤ j) ∧ (q.promoted = false → ¬ hit q → i ≤ j)) ∧
      (q.writes ≠ [] →
        let t := q.also.foldl (fun v c => v.onPart p (·.charge c 128)) first
        exec (.bankSchedule p turn) s = .next (({ t with reqs := s.reqs.eraseIdx i } : State).settleWrites p q turn.found)) ∧
      (q.writes = [] →
        let goes (x : MReq) : Bool := x.isRead && x.line == q.line && decide (x.state = .sorted) && !x.parked
        exec (.bankSchedule p turn) s = .next { ((s.reqs.eraseIdx i).filter goes).foldl pay first with
          reqs := s.reqs.map fun x => if goes x then { x with state := .issued } else x })

/-- A write that goes to memory (R394, R414): one of all 32 bytes, or to the far tier, changes nothing more. A partial HBM write reads its
sector: without errors nothing changes; where the sector is uncorrectable already, the write is dropped, no byte of memory
changes, and UE and UE_WRITE_DROP are set. -/
def Claim.WritesSettle : Prop :=
  ∀ (p : Pt) (q : MReq) (e : MemError) (w : SecWrite) (s : State),
    let n := q.line / 32 + w.sector.val
    (12 ≤ p.val ∨ w.mask = BitVec.allOnes 32 → s.settleWrite p q e w = s) ∧
    (p.val < 12 → w.mask ≠ BitVec.allOnes 32 →
      (e.symbols = [] → q.drops.contains w.sector = false → s.mem.ue.contains n = false → s.settleWrite p q e w = s) ∧
      (∀ o k, q.drops.contains w.sector = true → s.partAt q.line = some (p, o) → s.partAt (32 * n) = some (p, k) →
        let t := s.settleWrite p q e w
        (∀ a, t.mem.get a = s.mem.get a) ∧ (t.part p).ecc.getLsbD 1 = true ∧ (t.part p).ecc.getLsbD 2 = true))

/-- The oldest line that memory has read for a partition is checked once, over the sectors that any reader asked for, and given
to each reader with the data fixed for it, the errors that stay in it, and those of its own sectors that are uncorrectable. A line
without error comes back as it was fixed, with nothing marked. Nothing returns where nothing has been read (R397, R398,
R411, R413). -/
def Claim.ReadsReturn : Prop :=
  ∀ (p : Pt) (e : MemError) (s : State),
    let first := s.reqs.find? fun q => decide (q.state = .issued) && (s.partAt q.line).any fun x => x.1 == p
    (first = none → exec (.memoryReadReturn p e) s = .next s) ∧
    ∀ q, first = some q →
      let mine (x : MReq) : Bool := decide (x.state = .issued) && x.line == q.line
      let readers := s.reqs.filter mine
      let out := s.readLine p q.line e (readers.foldl (fun m x => m ||| x.sectors) 0) (readers.foldl (fun m x => m ||| x.marks) 0)
        (readers.foldl (fun m x => m ||| x.rewritten) 0) q.data
      exec (.memoryReadReturn p e) s = .next (readers.foldl (fun t x => match x.who with
        | .dma c i _ => t.dmaRead c i x.line (x.data ^^^ (out.2.1 ^^^ q.data)) (out.2.2.filter fun n => x.sectors.getLsbD (n - x.line / 32))
        | .commit _ _ => t) { out.1 with reqs := out.1.reqs.filter fun x => !mine x }) ∧
      (e.symbols = [] → e.link < 2 → (∀ x ∈ readers, x.marks = 0) → out = (s, q.data, []))

/-- The choice of a bank scheduler, the writes that it sends, and the return of a line (R394 to R405, R414). -/
def Obligations.BanksAndReturns : Prop := Claim.BankSchedules ∧ Claim.WritesSettle ∧ Claim.ReadsReturn

/-- R411: a sector is corrected while twice its wrong symbols outside the erasures, with the erasures, make at most 4. -/
def Obligations.SectorCorrection : Prop :=
  ∀ (e : Erased) (errors : List Nat),
    let n := (errors.filter fun k => !e.symbols.contains k).toFinset.card
    (4 < 2 * n + e.symbols.length → checkSector e errors = .uncorrectable) ∧
    (2 * n + e.symbols.length ≤ 4 → n = 0 → checkSector e errors = .fine) ∧
    (2 * n + e.symbols.length ≤ 4 → 0 < n → ∃ ks, checkSector e errors = .corrected ks ∧ ks.length = n ∧
      ∀ k, k ∈ ks ↔ k ∈ errors ∧ k ∉ e.symbols)

/-- The watchdog promotes the oldest request that has waited more than 6,400 ticks, without one a scrub read that has; a refill
adds RATE × 64 or 24 credits to each class up to 1,024 × BURST, and REG_STALL of a class that holds a request for lack of credits
rises by 1; a scrub read checks the next line of an HBM partition and goes on by one line, or ends its pass, but waits while its
bank has an eligible request, once promoted only a promoted one that is no younger; the end of the zero fill
frees every partition, and the window accesses that waited for it take place in order (R402, R403, R405, R416, R418, R423). -/
def Obligations.MemoryUpkeep : Prop :=
  ∀ (p : Pt) (s : State),
    let old := s.reqs.findIdx? fun q => decide (q.state = .sorted) && !q.parked && !q.promoted &&
      ((s.partAt q.line).any fun x => x.1 == p) && decide (6400 < s.partTicks p - q.since)
    let late : Prop := (s.part p).scrubPromoted = false ∧ ∃ n, (s.part p).scrubSince = some n ∧ 6400 < s.partTicks p - n
    (∀ i, old = some i →
      exec (.watchdogPromotion p) s = .next (({ s with reqs := s.reqs.modify i fun q => { q with promoted := true } } : State).onPart p
        fun x => { x with wdogCnt := x.wdogCnt + 1, ecc := x.ecc ||| 16 })) ∧
    (old = none → late → exec (.watchdogPromotion p) s = .next (s.onPart p fun x =>
      { x with scrubPromoted := true, wdogCnt := x.wdogCnt + 1, ecc := x.ecc ||| 16 })) ∧
    (old = none → ¬ late → exec (.watchdogPromotion p) s = .next s) ∧
    (exec (.regulatorRefill p) s = .next (s.onPart p fun x => { x with classes := Vector.ofFn fun i =>
      let c := s.classAt p i.val
      { x.classes[i] with
        credits := BitVec.ofInt 32 (min (c.credits.toInt + c.rate.toNat * (if p.val < 12 then 64 else 24)) (c.burst.toNat * 1024))
        stall := x.classes[i].stall + (if s.classHeld p i.val then 1 else 0) } })) ∧
    (∀ e : MemError,
      let line := addressOf s.glob p.val ((s.part p).scrubPos.toNat * 256)
      let here (q : MReq) : Prop := s.bankOf q = some (p, (placeOf p.val ((s.part p).scrubPos.toNat * 256)).bankNo p.val) ∧ s.eligible p q = true
      let barred : Prop := ∃ q ∈ s.reqs, here q ∧ ((s.part p).scrubPromoted = true →
        q.promoted = true ∧ ∀ n, (s.part p).scrubSince = some n → q.since ≤ n)
      (12 ≤ p.val ∨ (s.part p).scrubEn = false ∨ (s.part p).awake = false → exec (.scrubRead p e) s = .next s) ∧
      (p.val < 12 → (s.part p).scrubEn = true → (s.part p).awake = true →
        (barred → exec (.scrubRead p e) s = .next (s.onPart p fun x =>
          { x with scrubSince := some (x.scrubSince.getD (s.partTicks p)) })) ∧
        (¬ barred →
          ∃ m : BitVec 8, (∀ k : Fin 8, m.getLsbD k.val = s.mem.ue.contains (line / 32 + k.val)) ∧
            exec (.scrubRead p e) s = .next ((s.readLine p line e 0xFF m 0 0).1.onPart p fun x =>
              let x := { x with scrubSince := none, scrubPromoted := false }
              if x.scrubPos.toNat + 1 = 201326592 then { x with scrubPos := 0, passCnt := x.passCnt + 1, corrected := [] }
              else { x with scrubPos := x.scrubPos + 1 })))) ∧
    (let v : State := { s with parts := s.parts.map fun x => { x with initBusy := false } }
     exec .hbmInitDone s = .next ((v.windowResume 0).windowResume 1) ∧
      ((∀ q, (s.port q).winWaits = []) → exec .hbmInitDone s = .next v) ∧
      (∀ q w rest, (s.port q).winWaits = w :: rest → s.windowResume q =
        rest.foldl (fun u x => u.windowServe q x) ((s.onPort q fun y => { y with winWaits := [] }).windowServe q w)))

/-! ### Links and packets (R424 to R441) -/

/-- The states of a link: a DOWN link whose cable is fed and whose port may run trains; a trained one comes UP with what it counts
from link-up on new; one that has lost alignment, or has waited too long for an acknowledgement, goes DOWN with its count, its flag
and its event, its replay buffer lost and no packet left waiting for it. In every other state of the link these four events change
nothing (R429, R529, R589, R623). -/
def Obligations.LinkStates : Prop :=
  ∀ (p : FPort) (s : State),
    (let may := (s.link p).link = .down ∧ (s.link p).cageCut = false ∧ s.pwr.fabOff.getLsbD p.val = false ∧ s.pwr.off = false
     (may → exec (.linkTrainingStart p) s = .next (s.onFab (·.onLink p fun q => { q with link := .training }))) ∧
     (¬ may → exec (.linkTrainingStart p) s = .next s)) ∧
    ((s.link p).link = .training → exec (.linkTrainingDone p) s = .next (s.onFab (·.onLink p fun q => { q with
      link := .up, txNext := 0, replay := [], resend := 0, credits := Vector.replicate 8 0, used := Vector.replicate 8 0, nakSeq := 0
      nakRun := 0, rxNext := 0, discard := false, freed := Vector.replicate 8 0, sinceCtl := 0, ctlSlots := 64, wire := none
      control := none }))) ∧
    ((s.link p).link ≠ .training → exec (.linkTrainingDone p) s = .next s) ∧
    (let goesDown (t : State) : Prop :=
      (t.link p).link = .down ∧ (t.link p).replay = [] ∧ (t.link p).down = (s.link p).down + 1 ∧ t.fab.stat.getLsbD 11 = true ∧
        Logged s t 0x20 [BitVec.ofNat 64 p.val] ∧ (∀ w ∈ t.fab.waiting, w.output ≠ p) ∧
        (∀ q, q ≠ p → (t.link q).link = (s.link q).link) ∧ t.mem = s.mem
     ((s.link p).link = .down → exec (.linkAlignmentLost p) s = .next s) ∧
      ((s.link p).link ≠ .down → ∃ t, exec (.linkAlignmentLost p) s = .next t ∧ goesDown t) ∧
      ((s.link p).live = false ∨ (s.link p).replay = [] → exec (.linkAckTimeout p) s = .next s) ∧
      ((s.link p).live = true → (s.link p).replay ≠ [] → ∃ t, exec (.linkAckTimeout p) s = .next t ∧ goesDown t))

/-- An UP port sends the oldest packet of a replay, else the packet that it picks, with the next number and kept for replay: its
buffer is freed once no copy stands in it, its credit used, and it leaves with the DL of its way. A packet of the response VC that has
a credit goes before every other. With nothing to send, with the replay buffer full, and while the neighbour is fenced the slot passes;
where the link carries nothing, nothing goes; without a committed route configuration no packet is picked. A link-control packet goes at
most once in 64 slots while data waits (R40, R426, R427, R428, R429, R441). -/
def Claim.PortSends : Prop :=
  ∀ (p : FPort) (s : State),
    let l := s.link p
    (l.live = false → exec (.portSlotSend p) s = .next s) ∧
    (l.link = .remoteFenced ∨ (l.link = .up ∧ l.resend = 0 ∧ 2048 ≤ l.replay.length) → exec (.portSlotSend p) s =
      .next (s.onFab (·.onLink p fun q => { q with ctlSlots := min 64 (q.ctlSlots + 1) }))) ∧
    (l.link = .up → l.resend ≠ 0 → (∀ k, l.replay[l.replay.length - l.resend]? = some k → exec (.portSlotSend p) s =
      .next (s.onFab (·.onLink p fun q => { q.send k with resend := q.resend - 1 })))) ∧
    (l.link = .up → l.resend = 0 → l.replay.length < 2048 →
      (s.fab.valid = false ∨ s.fab.pick p = none → exec (.portSlotSend p) s =
        .next (s.onFab (·.onLink p fun q => { q with ctlSlots := min 64 (q.ctlSlots + 1) }))) ∧
      ∀ vc i turn w, s.fab.valid = true → s.fab.pick p = some (vc, i, turn) → s.fab.waiting[i]? = some w →
        let k := w.packet.withDl (s.fab.dlOut w.input p w.packet)
        let c := bufClass vc (s.fab.dlOut w.input p w.packet)
        exec (.portSlotSend p) s = .next (s.onFab fun f =>
          (({ f with waiting := f.waiting.eraseIdx i } : Fabric).leave w.input w.slot w.packet).onLink p fun q => { q with
            wire := some k, tx := q.tx + 1, ctlSlots := min 64 (q.ctlSlots + 1), txNext := q.txNext + 1, replay := q.replay ++ [k]
            used := q.used.set! c (q.used.getD c 0 + 1), rr := q.rr.set! vc turn
            rrVc := if vc = 1 then q.rrVc else if vc = 0 then 0 else vc - 1 }) ∧
        w.output = p ∧ w.packet.vc = vc ∧ l.credit c = true ∧
        ∀ x ∈ s.fab.waiting, x.output = p → x.packet.vc = 1 → x.input ≤ 8 →
          l.credit (bufClass 1 (s.fab.dlOut x.input p x.packet)) = true → vc = 1) ∧
    (let busy := l.link = .up ∧ ((∃ w ∈ s.fab.waiting, w.output = p) ∨ l.resend ≠ 0)
     (l.live = true → 63 ≤ l.ctlSlots ∨ ¬ busy → exec (.linkControlSend p) s = .next (s.onFab (·.onLink p fun q => { q with
        control := some (s.fab.controlPacket p), wire := some (s.fab.controlPacket p), sinceCtl := 0, ctlSlots := 0 }))) ∧
     (l.live = false ∨ (l.ctlSlots < 63 ∧ busy) → exec (.linkControlSend p) s = .next s))

/-- A link that carries no packets takes none. A bad data packet starts a discard; a good one that is in order takes the next
number and enters the router, at a closed router it is counted and dropped; with the 64th since the last link-control packet the next one
goes; one that comes during a discard is not numbered. A good link-control packet frees
what it acknowledges and sets the credits; a NAK has everything unacknowledged sent again and counts, and the eighth in a row that
names one packet takes the link DOWN; FENCED makes the port unreachable. A bad one is discarded, however it comes
(R427, R428, R429, R430). -/
def Claim.PortReceives : Prop :=
  ∀ (p : FPort) (rx : RxPacket) (s : State),
    let l := s.link p
    let k := rx.packet
    let first := l.txNext - BitVec.ofNat 16 l.replay.length
    let seq := BitVec.ofNat 16 (k.pf 0 2)
    let left := if (seq - first).toNat ≤ l.replay.length then l.replay.drop (seq - first).toNat else l.replay
    let flags := k.pf 2 1
    let naks := if l.nakRun ≠ 0 ∧ l.nakSeq = seq then l.nakRun + 1 else 1
    (l.live = false → exec (.packetReceive p rx) s = .next s ∧ exec (.linkControlReceive p rx) s = .next s) ∧
    (l.live = true →
      (rx.good = false → exec (.packetReceive p rx) s =
        .next (s.onFab (·.onLink p fun q => { q.fec rx with discard := true }))) ∧
      (rx.good = true → k.type ≠ 0xE → (l.discard = false ∨ rx.replayed = true) →
        let f := s.fab.onLink p fun q => { q.fec rx with discard := false, rxNext := q.rxNext + 1, sinceCtl := q.sinceCtl + 1 }
        let g := if s.fab.closed then f.noRoute.freeBuffer p.val k else (f.onLink p fun q => { q with rx := q.rx + 1 }).enter p.val k
        (g.noroute = s.fab.noroute + 1 ∨ s.fab.closed = false) ∧
        exec (.packetReceive p rx) s = .next { s with fab := if 64 ≤ (g.ports[p]).sinceCtl then g.sendControl p else g }) ∧
      (rx.good = true → k.type ≠ 0xE → l.discard = true → rx.replayed = false →
        exec (.packetReceive p rx) s = .next (s.onFab (·.onLink p (·.fec rx)))) ∧
      (rx.good = false ∨ k.type ≠ 0xE → exec (.linkControlReceive p rx) s = .next (s.onFab (·.onLink p (·.fec rx)))) ∧
      ∀ i, i = .packetReceive p rx ∨ i = .linkControlReceive p rx → rx.good = true → k.type = 0xE →
        (flags % 4 = 0 → Answers i s fun t => t = { s with fab := s.fab.onLink p fun _ => t.link p } ∧ (t.link p).link = .up ∧
          (t.link p).nakRun = 0 ∧ (t.link p).replay = left ∧ ∀ c : Fin 8, (t.link p).credits[c] = BitVec.ofNat 8 (k.pf (4 + c.val) 1)) ∧
        (flags % 4 = 1 → naks < 8 → Answers i s fun t => (t.link p).link = .up ∧ (t.link p).nakRun = naks ∧ (t.link p).nakSeq = seq ∧
          (t.link p).replay = left ∧ (t.link p).resend = left.length ∧ (t.link p).retry = l.retry + 1) ∧
        (flags % 2 = 1 → 8 ≤ naks → Answers i s fun t => (t.link p).link = .down ∧ (t.link p).replay = [] ∧
          (t.link p).down = l.down + 1 ∧ Logged s t 0x20 [BitVec.ofNat 64 p.val]) ∧
        (2 ≤ flags % 4 → flags % 2 = 0 ∨ naks < 8 → Answers i s fun t => (t.link p).link = .remoteFenced ∧
          ∀ w ∈ t.fab.waiting, w.output ≠ p))

/-- What a fabric port sends and what it does with what it receives (R426 to R441). -/
def Obligations.PortsSendAndReceive : Prop := Claim.PortSends ∧ Claim.PortReceives

/-- A packet for this module stays here; one for the other replica goes to the port of its partner entry, or to the other partner
port where that one is not UP; any other goes to the port that the route bank of its epoch and its input names in the lowest
dimension in which its destination differs. An entry that is not VALID, or a port that is not UP, makes it unreachable: a response
is dropped and counted, any other packet is answered with a NACK of reason 1 too. DL is kept within a dimension, cleared where
the packet changes it, and set on a dateline (R435, R436, R438). -/
def Obligations.DimensionOrder : Prop :=
  ∀ (f : Fabric) (input : Nat) (k : Packet),
    let to_ := coordsAt k.dest
    let way (b : Byte) (q : FPort) : Way := if b.getLsbD 3 then (if (f.ports[q]).link = .up then .out q else .lost) else .lost
    (to_ = f.coords → f.way input k = .here) ∧
    (to_.getD 3 0 ≠ f.coords.getD 3 0 →
      let b := f.route k.epoch (0x600 + k.stream % 16)
      let q : FPort := if b.getLsbD 0 then 7 else 6
      let other : FPort := if b.getLsbD 0 then 6 else 7
      f.way input k = way b (if (f.ports[q]).link = .up then q else other)) ∧
    (∀ d, d < 3 → to_.getD 3 0 = f.coords.getD 3 0 → to_.getD d 0 ≠ f.coords.getD d 0 →
      (∀ e, e < d → to_.getD e 0 = f.coords.getD e 0) →
      let b := f.route k.epoch (input * 0x80 + d * 0x20 + to_.getD d 0)
      f.way input k = way b (portAt (b.toNat % 8))) ∧
    (∀ n, f.way input k = .lost →
      let g := (({ f.pass k.epoch with stat := f.stat ||| 1, noroute := f.noroute + 1 } : Fabric).freeBuffer input k)
      f.accept (n + 1) input k = if k.vc = 1 then g else g.accept n 8 (nackPacket g k 1)) ∧
    ∀ q : FPort, f.dlOut input q k = (f.dateline.getLsbD q.val || (k.dl && decide (input < 6 ∧ q.val < 6 ∧ input / 2 = q.val / 2)))

/-! ### Streams (R451 to R457) -/

/-- DESC takes the oldest DESC that an endpoint can take. It is answered with a NACK of reason 3 in A2 and A3, else with one of reason 4
where the module has no place for its data: no graph or another package, no such tensor, a range beyond the quarter of a snapshot area;
nothing of an earlier stream of that number is then written any more. Else its stream opens at packet 1, one of no bytes ends at once, a
stream of a reduction waits for room in the service area, the first of a snapshot takes a slot, and a fill notes its source (R391, R455,
R459, R483, R490, R589). -/
def Claim.StreamOpens : Prop :=
  ∀ s : State,
    let isDesc (x : Packet) : Bool := x.type == 1
    (s.takePacket isDesc = none → exec .desc s = .next s) ∧
    ∀ (u : State) (k : Packet), s.takePacket isDesc = some (k, u) →
      let d := descOf k
      let asleep := s.pwr.state = .a2 ∨ s.pwr.state = .a3
      let bad := u.descBad d = true
      let v := u.onFab fun f => { f with rx := f.rx.filter fun r => !(r.src == k.src && r.id == k.stream) }
      (asleep → exec .desc s = .next (v.nackWith k 3)) ∧
      (¬ asleep → bad → exec .desc s = .next ((v.onFab (·.flag 8)).nackWith k 4)) ∧
      (d.service = 1 ∨ d.service = 3 → ¬ asleep → ¬ bad → v.fab.landAt v.glob d.bytes = none → exec .desc s = .next s) ∧
      (∀ base, ¬ asleep → ¬ bad →
        (if d.service = 1 ∨ d.service = 3 then v.fab.landAt v.glob d.bytes = some base else base = 0) →
        let w := if d.service = 4 then v.onHlt Health.beginSlot else v
        let w := if (d.service = 5 ∨ d.service = 6) ∧ w.hlt.rcv = 1 then w.onHlt (·.fillSource d.service k.src) else w
        let before := u.fab.rx.find? fun r => r.src == k.src && r.id == k.stream
        let r : RxStream := { src := k.src, id := k.stream, desc := d, base := base, whole := before.any fun x => x.desc == d && x.whole }
        let t := w.onFab fun f => { f with rx := f.rx ++ [r] }
        (d.bytes ≠ 0 → exec .desc s = .next t) ∧ (d.bytes = 0 → exec .desc s = .next (t.rxEnd r k))) ∧
      (s.run.graph = none → bad) ∧
      ∀ g, s.run.graph = some g →
        (d.packageId ≠ g.pkg.packageId → bad) ∧
        (d.packageId = g.pkg.packageId → d.service = 4 ∨ d.service = 6 → (bad ↔ s.glob.quarterBytes < d.offset + d.bytes)) ∧
        (d.service ≠ 4 → d.service ≠ 6 → d.root = false → d.service ≠ 3 → g.pkg.tensors.length ≤ d.target → bad)

/-- DATA takes the oldest data packet that an endpoint can take. The next one of an open stream is written once its memory serves: each of
its bytes below the stream's length to the device addresses of its place, or kept for the service, and no other byte of memory
changes. Each 1,024th one is acknowledged with the number after it, the last one ends the stream. One that is out of order, or of no
open stream, is dropped (R418, R421, R454, R455). -/
def Claim.StreamData : Prop :=
  ∀ s : State,
    let isData (x : Packet) : Bool := x.type == 2
    (s.takePacket isData = none → exec .data s = .next s) ∧
    ∀ (u : State) (k : Packet), s.takePacket isData = some (k, u) →
      let open_ := u.fab.rx.find? fun r => r.src == k.src && r.id == k.stream
      (open_ = none → exec .data s = .next u) ∧
      ∀ r, open_ = some r →
        let w := u.writeData r k
        let r' := { w.2 with next := k.seq + 1 }
        let v := w.1.onFab (·.onRx r'.src r'.id fun _ => r')
        (k.seq ≠ r.next ∨ r.desc.total < k.seq → exec .data s = .next u) ∧
        (k.seq = r.next → k.seq ≤ r.desc.total →
          (s.dataWaits r k = true → exec .data s = .next s) ∧
          (s.dataWaits r k = false →
            (k.seq = r.desc.total → exec .data s = .next (v.rxEnd r' k)) ∧
            (k.seq ≠ r.desc.total → k.seq % 1024 = 0 → exec .data s = .next (v.answer 3 k (k.seq + 1) [])) ∧
            (k.seq ≠ r.desc.total → k.seq % 1024 ≠ 0 → exec .data s = .next v))) ∧
        (u.mem.ue = [] → u.mem.wf = true → ∀ a,
          (∀ i, i < r.desc.bytes → (k.seq - 1) * 48 ≤ i → i < (k.seq - 1) * 48 + 48 → a ∉ (u.target r.desc r.base i).getD []) →
          w.1.mem.get a = u.mem.get a)

/-- What an ACK, a NACK, a CUT and a stall do to the stream that they name; of no open stream, they do nothing. An ACK is recorded
for a destination that is waited for, a final one ends its wait, a poisoned one is remembered; a SEQ of 0 stands for 2^20 (log entry
171). A NACK skips its destination where it refuses a DESC with reason 2, 4 or 5, where it refuses a unicast repair, and a snapshot also
with reason 3; a RELAY target that answers one is replaced by unicasts to the modules of its line. A first CUT shortens the span and sends
to what lies beyond. A first stall sends the stream again from its start, a second one skips those without progress since the last one, or
all where each had some. A NACK to endpoint 0 tells of a poll or a verification that does not reach its module (R444, R451, R452, R453, R455, R456, R457, R492). -/
def Claim.StreamAnswers : Prop :=
  ∀ s u : State,
    let named (k : Packet) := u.fab.tx.find? fun t => t.id == k.stream
    (s.takePacket (fun x => x.type == 3) = none → exec .ack s = .next s) ∧
    (s.takePacket (fun x => x.type == 4) = none → exec .nack s = .next s) ∧
    (s.takePacket (fun x => x.type == 5) = none → exec .cut s = .next s) ∧
    (∀ k, s.takePacket (fun x => x.type == 3) = some (k, u) →
      let seq := if k.seq = 0 then 2 ^ 20 else k.seq
      (named k = none → exec .ack s = .next u) ∧
      ∀ t, named k = some t →
        (t.waits.contains k.src = false → exec .ack s = .next u) ∧
        (t.waits.contains k.src = true → exec .ack s = .next (((u.onFab fun f =>
          (if k.poison then f.flag 7 else f).onTx t.id fun x => { x with
            acked := (x.acked.filter fun a => a.1 != k.src) ++ [(k.src, seq)]
            heard := if ((x.acked.find? fun a => a.1 == k.src).map (·.2)).all (· < seq) && !x.heard.contains k.src then x.heard ++ [k.src]
              else x.heard
            waits := if x.total < seq then x.waits.filter (· != k.src) else x.waits
            poisoned := x.poisoned || k.poison }).pump t.id).settleStreams t.run))) ∧
    (∀ k, s.takePacket (fun x => x.type == 4) = some (k, u) → endpointOf k.dest = 0 →
      exec .nack s = .next (if k.msg = 4 then u.pollLost k.msgId.toNat else if k.msg = 0x20 then u.verifyLost else u)) ∧
    (∀ k, s.takePacket (fun x => x.type == 4) = some (k, u) → endpointOf k.dest ≠ 0 →
      (named k = none → exec .nack s = .next u) ∧
      ∀ t a, named k = some t → (match t.mc with
          | some _ => t.waits.find? fun w => coordsAt w == coordsAt k.src
          | none => t.waits.head?) = some a →
        let reason := k.pf 0 1
        let skips := (k.seq = 0 ∧ reason ∈ [2, 4, 5]) ∨ (t.repair = true ∧ reason ∈ [1, 2, 4, 5]) ∨ (t.desc.service = 4 ∧ reason = 3)
        (t.desc.relay = true → exec .nack s = .next (u.unicastLine t u.firstDim a (decide (k.seq = 0 ∧ reason ∈ [2, 4, 5])))) ∧
        (t.desc.relay = false → skips → exec .nack s = .next (u.skipDest t.run a t.desc.target)) ∧
        (t.desc.relay = false → ¬ skips → exec .nack s = .next u)) ∧
    (∀ k, s.takePacket (fun x => x.type == 5) = some (k, u) →
      (named k = none ∨ (∃ t, named k = some t ∧ (t.mc = none ∨ t.cut.isSome = true)) → exec .cut s = .next u) ∧
      ∀ t d m, named k = some t → t.mc = some (d, m) → t.cut = none →
        let span := u.fab.line u.fab.coords d (endpointOf t.dest)
        let hop := BitVec.ofNat 24 (k.pf 0 3)
        let beyond := span.drop ((span.findIdx? fun w => coordsAt w == coordsAt hop).getD span.length)
        let v := u.onFab fun f => (f.onTx t.id fun t => { t with
          cut := some (BitVec.ofNat 24 (k.pf 3 3)), waits := t.waits.filter fun w => !beyond.contains w }).onRunId t.run fun r =>
            { r with cuts := r.cuts + 1 }
        exec .cut s = .next (((v.enqueue t.run (v.fab.unicasts t (beyond.filter t.waits.contains))).pump t.id).settleStreams t.run)) ∧
    ∀ n : BitVec 12,
      let its := s.fab.tx.find? fun t => t.id == n.toNat
      (its = none → exec (.streamStallTimeout n) s = .next s) ∧
      ∀ t, its = some t →
        (t.resent = false → exec (.streamStallTimeout n) s = .next ((s.onFab fun f =>
          { (f.flag 4).onTx t.id (fun t => { t with resent := true, next := 0, acked := [], heard := [] }) with resendCnt := f.resendCnt + 1 }).pump t.id)) ∧
        (t.resent = true → t.desc.relay = false →
          let silent := t.waits.filter fun a => !t.heard.contains a
          exec (.streamStallTimeout n) s = .next ((if silent = [] then t.waits else silent).foldl (fun s a => s.skipDest t.run a t.desc.target)
            (s.onFab (·.onTx t.id fun t => { t with heard := [] })))) ∧
        (t.resent = true → t.desc.relay = true → exec (.streamStallTimeout n) s = .next (match t.waits with
          | a :: _ => s.unicastLine t s.firstDim a true
          | [] => s))

/-- Streams: opening, data, and the answers to them (R451 to R457). -/
def Obligations.StreamsRun : Prop := Claim.StreamOpens ∧ Claim.StreamData ∧ Claim.StreamAnswers

/-! ### Route epochs (R442 to R447) -/

/-- What each epoch message does at a module. PREPARE is answered BUSY while another generation is promised, READY where the standby
bank is loaded with its generation, else NOT_READY. SWITCH, of the generation promised, exchanges the banks at once when no step
runs and waits for the next boundary otherwise. POLL tells what is left of the old epoch. RELEASE, of the generation that is
active, drops what the router still holds of the old epoch and frees its bank; ABORT takes the promise back. Other SWITCH, RELEASE
and ABORT messages, and none at all, change nothing (R444, R445, R447). -/
def Claim.EpochAtModule : Prop :=
  ∀ s u : State,
    (s.takeMsg 1 = none → exec .epochPrepare s = .next s) ∧ (s.takeMsg 3 = none → exec .epochSwitch s = .next s) ∧
    (s.takeMsg 4 = none → exec .epochPoll s = .next s) ∧ (s.takeMsg 6 = none → exec .epochRelease s = .next s) ∧
    (s.takeMsg 7 = none → exec .epochAbort s = .next s) ∧
    ∀ k : Packet,
      let g := genOf k
      let promised := u.fab.readyFor = some g
      (s.takeMsg 1 = some (k, u) →
        let busy := ∃ x, u.fab.readyFor = some x ∧ x ≠ g
        let loaded := u.fab.standbyLoaded = true ∧ u.fab.standbyGen = g
        (busy → exec .epochPrepare s = .next (u.epochReply k.src k.msgId g 2)) ∧
        (¬ busy → loaded → exec .epochPrepare s =
          .next ((u.onFab fun f => { f with readyFor := some g, epochState := 1 }).epochReply k.src k.msgId g 0)) ∧
        (¬ busy → ¬ loaded → exec .epochPrepare s = .next (u.epochReply k.src k.msgId g 1))) ∧
      (s.takeMsg 3 = some (k, u) →
        (promised → u.fab.epochState = 1 → u.run.step = none → exec .epochSwitch s = .next ((u.onFab fun f => { f with
          cur := !f.cur, activeGen := f.standbyGen, standbyGen := f.activeGen, epochState := 2, switchDue := none }).epochReply
            k.src k.msgId u.fab.standbyGen 3)) ∧
        (promised → u.fab.epochState = 1 → u.run.step.isSome = true →
          exec .epochSwitch s = .next (u.onFab fun f => { f with switchDue := some (k.src, k.msgId) })) ∧
        (¬ promised ∨ u.fab.epochState ≠ 1 → exec .epochSwitch s = .next u)) ∧
      (s.takeMsg 4 = some (k, u) → exec .epochPoll s = .next (u.onFab (·.reply k.src 5 k.msgId
        (bytesOf 2 (k.pf 0 2) ++ bytesOf 4 (k.pf 2 4) ++ bytesOf 4 (u.fab.drain (!u.fab.cur)) ++
          bytesOf 4 (if u.fab.cur then u.fab.passed[0] else u.fab.passed[1]).toNat)))) ∧
      (s.takeMsg 6 = some (k, u) →
        (promised → u.fab.activeGen = g → exec .epochRelease s = .next ((u.onFab fun f => { f.dropOld with
          standbyLoaded := false, readyFor := none, epochState := 0, switchDue := none }).epochReply k.src k.msgId g 4)) ∧
        (¬ promised ∨ u.fab.activeGen ≠ g → exec .epochRelease s = .next u)) ∧
      (s.takeMsg 7 = some (k, u) →
        (promised → u.fab.epochState = 1 →
          exec .epochAbort s = .next (u.onFab fun f => { f with readyFor := none, epochState := 0, switchDue := none })) ∧
        (¬ promised ∨ u.fab.epochState ≠ 1 → exec .epochAbort s = .next u))

/-- The initiator of a switch. A READY from every module leads to SWITCH, a NOT_READY or 10 ms without an answer ends the switch with
REJECTED_STATE, a BUSY with REJECTED_BUSY, each with ABORT to every module; a SWITCHED from every module leads to the polls, which
go in rounds from round 0; two rounds that found nothing left and nothing passed release the old bank, and RELEASED from every module ends the
switch with DONE. 100 ms after the switch a drain that is not over is reported once. Answers of another generation, phase or round,
and every answer where no switch runs, change nothing (R444, R447). -/
def Claim.EpochAtInitiator : Prop :=
  ∀ s u : State,
    (s.takeMsg 2 = none → exec .epochReply s = .next s) ∧ (s.takeMsg 5 = none → exec .epochPollReply s = .next s) ∧
    (s.fab.epoch = none → exec .epochPrepareTimeout s = .next s ∧ exec .epochPollRound s = .next s ∧ exec .drainTimeout s = .next s) ∧
    (∀ k, u.fab.epoch = none → (s.takeMsg 2 = some (k, u) → exec .epochReply s = .next u) ∧
      (s.takeMsg 5 = some (k, u) → exec .epochPollReply s = .next u)) ∧
    (∀ (k : Packet) (e : EpochRun), u.fab.epoch = some e →
      let heard := if e.answered.contains k.src then e.answered else e.answered ++ [k.src]
      let set (x : EpochRun) : State := u.onFab fun f => { f with epoch := some x }
      let ends (status : Nat) (v : State) : State := (v.onFab fun f => { f with epoch := none }).event fromSloe 0x21 [e.gen.zeroExtend 64] status
      let code := k.pf 2 1
      let due := (e.phase = .prepare ∧ code ≤ 2) ∨ (e.phase = .switching ∧ code = 3) ∨ (e.phase = .releasing ∧ code = 4)
      (s.takeMsg 2 = some (k, u) →
        (genOf k ≠ e.gen ∨ ¬ due → exec .epochReply s = .next u) ∧
        (genOf k = e.gen →
          (e.phase = .prepare → code = 1 → exec .epochReply s = .next (ends 0x12 (u.onFab (·.broadcast 7 (bytesOf 2 e.gen.toNat))))) ∧
          (e.phase = .prepare → code = 2 → exec .epochReply s = .next (ends 0x10 (u.onFab (·.broadcast 7 (bytesOf 2 e.gen.toNat))))) ∧
          (due → code = 0 ∨ code = 3 ∨ code = 4 → u.fab.allIn heard = false → exec .epochReply s = .next (set { e with answered := heard })) ∧
          (e.phase = .prepare → code = 0 → u.fab.allIn heard = true → exec .epochReply s =
            .next ((set { e with phase := .switching, answered := [] }).onFab (·.broadcast 3 (bytesOf 2 e.gen.toNat)))) ∧
          (e.phase = .switching → code = 3 → u.fab.allIn heard = true → exec .epochReply s =
            .next ((set { e with phase := .polling, answered := [] }).onFab fun f => { f with epochState := 3 })) ∧
          (e.phase = .releasing → code = 4 → u.fab.allIn heard = true → exec .epochReply s = .next (ends 0 u)))) ∧
      (s.takeMsg 5 = some (k, u) →
        (e.phase ≠ .polling ∨ genOf k ≠ e.gen ∨ k.pf 2 4 + 1 ≠ e.round → exec .epochPollReply s = .next u) ∧
        (e.phase = .polling → genOf k = e.gen → k.pf 2 4 + 1 = e.round →
          let x := { e with now := (e.now.filter fun (y : BitVec 24 × Nat × Nat) => y.1 != k.src) ++ [(k.src, k.pf 6 4, k.pf 10 4)] }
          (x.drained u.fab.everyone = false → exec .epochPollReply s = .next (set x)) ∧
          (x.drained u.fab.everyone = true → exec .epochPollReply s = .next
            ((set { x with phase := .releasing, answered := [] }).onFab (·.broadcast 6 (bytesOf 2 e.gen.toNat))))))) ∧
    ∀ e : EpochRun, s.fab.epoch = some e →
      (e.phase = .prepare → Answers .epochPrepareTimeout s fun t => t.fab.epoch = none ∧ Logged s t 0x21 [e.gen.zeroExtend 64]) ∧
      (e.phase ≠ .prepare → exec .epochPrepareTimeout s = .next s) ∧
      (e.phase = .polling → exec .epochPollRound s = .next (s.onFab fun f => { f with epoch := some { e with
        round := e.round + 1, before := if s.fab.allIn (e.now.map fun (y : BitVec 24 × Nat × Nat) => y.1) then e.now else [], now := [] } }.broadcast 4
          (bytesOf 2 e.gen.toNat ++ bytesOf 4 e.round))) ∧
      (e.phase ≠ .polling → exec .epochPollRound s = .next s) ∧
      (e.phase = .polling ∨ e.phase = .switching → e.timedOut = false → Answers .drainTimeout s fun t =>
        t.fab = { s.fab with epoch := some { e with timedOut := true }, stat := s.fab.stat ||| 512#12 } ∧
          Logged s t 0x22 [e.gen.zeroExtend 64]) ∧
      ((e.phase ≠ .polling ∧ e.phase ≠ .switching) ∨ e.timedOut = true → exec .drainTimeout s = .next s)

/-- A switch of route epochs, at each module and at its initiator (R442 to R447). -/
def Obligations.RouteEpochs : Prop := Claim.EpochAtModule ∧ Claim.EpochAtInitiator

/-! ### Pairing, verification, fills, snapshots (R462 to R493) -/

/-- A heartbeat of another sender is dropped and reported; the partner's is recorded, and while the module pairs and the partner's
state is 1 to 4 it makes it PAIRED where both identifiers are known and differ, else PAIRED_SHARED, with an event for every change.
A mirrored module with its route configuration committed puts one heartbeat a turn on each partner port that is UP; any other sends
none. A partner not heard of for 1 ms is reported lost, unless it is already; a paired module then enters LOST, its send is
abandoned, and a fill or a verification with that partner ends (R40, R466, R475, R485, R490, R492). -/
def Claim.PartnerHeartbeats : Prop :=
  ∀ s : State,
    (s.takeMsg 0x10 = none → exec .heartbeat s = .next s) ∧
    (∀ k u, s.takeMsg 0x10 = some (k, u) →
      let sender := BitVec.ofNat 24 (k.pf 32 3)
      let its := coordsAt sender = coordsAt (u.fab.partnerAddr 0)
      let feed := BitVec.ofNat 48 (k.pf 0 8)
      let t := (u.onHlt fun h => { h with peerFeed := feed, peerRisk := BitVec.ofNat 8 (k.pf 8 1), peerState := BitVec.ofNat 3 (k.pf 9 1) }).onFab
        fun f => { f with partnerLost := false }
      let live := u.pairs = true ∧ 1 ≤ k.pf 9 1 ∧ k.pf 9 1 ≤ 4
      let n : BitVec 3 := if u.hlt.feedId ≠ 0 ∧ feed ≠ 0 ∧ u.hlt.feedId ≠ feed then 2 else 3
      (¬ its → exec .heartbeat s = .next (u.event fromSloe 0x25 [sender.zeroExtend 64])) ∧
      (its → ¬ live → exec .heartbeat s = .next t) ∧
      (its → live → u.hlt.pairState = n → exec .heartbeat s = .next t) ∧
      (its → live → u.hlt.pairState ≠ n → exec .heartbeat s = .next ((t.onHlt fun h => { h with pairState := n, fresh := true }).event
        fromMarkhor 0x30 [n.zeroExtend 64, u.hlt.feedId.zeroExtend 64, feed.zeroExtend 64] (if n = 2 then 0 else 0x41)))) ∧
    (s.fab.mirror = true → s.fab.valid = true → Answers .partnerHeartbeatSend s fun t =>
      let up := ([6, 7] : List FPort).filter fun p => (s.link p).link = .up
      t = { s with fab := { s.fab with passed := t.fab.passed, accepted := s.fab.accepted + up.length, waiting := s.fab.waiting ++
        (up.zipIdx.map fun p => { input := 8, output := p.1, packet := s.fab.message 0 (s.fab.partnerAddr 0) 0x10 0 s.heartbeatBytes
                                  slot := s.fab.accepted + p.2 }) } }) ∧
    (s.fab.mirror = false ∨ s.fab.valid = false → exec .partnerHeartbeatSend s = .next s) ∧
    (s.fab.mirror = false ∨ s.fab.partnerLost = true → exec .partnerLost s = .next s) ∧
    (s.fab.mirror = true → s.fab.partnerLost = false →
      let t := (s.onFab fun f => { f.flag 10 with partnerLost := true }).event fromSloe 0x24
      let mine (a : BitVec 24) : Bool := coordsAt a == coordsAt (s.fab.partnerAddr 0)
      let v := ((t.onHlt fun h => { h with pairState := 4 }).event fromMarkhor 0x30 [4, s.hlt.feedId.zeroExtend 64, s.hlt.peerFeed.zeroExtend 64]
        0x40).abandonSnapshot
      let w := if v.hlt.rcv = 1 ∧ v.fillsFrom mine = true then v.stopFill else v
      (s.hlt.paired = false → exec .partnerLost s = .next t) ∧
      (s.hlt.paired = true → exec .partnerLost s = .next (if w.fab.verify.any fun v => mine v.peer then w.verifyLost else w)))

/-- The peer of a verification answers a chunk's digest with what its own gives, at another step with the mismatch at chunk 0. The
target sends the next chunk's digest, one that has left the step's state ends with a mismatch at chunk 0 (log entry 172); both wait while
memory fills or sleeps. The target counts each answer of its peer. With the last one the command completes: VERIFIED where
every chunk was equal, INVALID with RESTORE_MISMATCH and the first chunk that was not. An answer from elsewhere, and one where
nothing is verified, change nothing (R463, R487, R491). -/
def Claim.Verification : Prop :=
  ∀ s u : State,
    (s.memBusy = true ∨ s.takeMsg 0x20 = none → exec .verifyDigest s = .next s) ∧ (s.takeMsg 0x21 = none → exec .verifyResult s = .next s) ∧
    (∀ k, s.memBusy = false → s.takeMsg 0x20 = some (k, u) →
      let same := u.placed.isSome && decide (u.lastStep = k.pf 40 8) && u.run.step.isNone
      let ok := same && u.chunkDigest (k.pf 32 8) == some (BitVec.ofNat 256 (k.pf 0 32))
      exec .verifyDigest s = .next (u.onFab (·.reply k.src 0x21 k.msgId
        (bytesOf 8 1 ++ bytesOf 8 (if ok then 2 ^ 64 - 1 else if same then k.pf 32 8 else 0))))) ∧
    (∀ v, s.fab.verify = some v → s.after v.step = false → exec .chunkDigestDone s = .next (s.endVerify { v with mismatch := some 0 })) ∧
    (∀ v, s.after v = true ↔ s.placed.isSome = true ∧ s.lastStep = v ∧ s.run.step = none) ∧
    (∀ v d, s.fab.verify = some v → s.after v.step = true → s.chunkDigest v.sent = some d → v.sent < v.chunks → s.memBusy = false →
      exec .chunkDigestDone s = .next (s.onFab fun f => { f with verify := some { v with sent := v.sent + 1 } }.inject
        (f.message 0 (withEp v.peer 0) 0x20 (BitVec.ofNat 24 v.sent) (bytesOf 32 d.toNat ++ bytesOf 8 v.sent ++ bytesOf 8 v.step)))) ∧
    (s.fab.verify = none ∨ (∃ v, s.fab.verify = some v ∧ s.after v.step = true ∧
        (s.chunkDigest v.sent = none ∨ v.chunks ≤ v.sent ∨ s.memBusy = true)) →
      exec .chunkDigestDone s = .next s) ∧
    ∀ k, s.takeMsg 0x21 = some (k, u) →
      (u.fab.verify = none → exec .verifyResult s = .next u) ∧
      ∀ v, u.fab.verify = some v →
        let first := k.pf 8 8
        let miss := if first = 2 ^ 64 - 1 then v.mismatch else some (min first (v.mismatch.getD first))
        (coordsAt k.src ≠ coordsAt v.peer → exec .verifyResult s = .next u) ∧
        (coordsAt k.src = coordsAt v.peer →
          (v.compared + 1 < v.chunks → exec .verifyResult s =
            .next (u.onFab fun f => { f with verify := some { v with compared := v.compared + 1, mismatch := miss } })) ∧
          (v.chunks ≤ v.compared + 1 → exec .verifyResult s = .next (((u.onFab fun f => { f with verify := none }).onHlt fun h =>
            if h.rcv = 2 ∨ h.rcv = 3 then { h with rcv := if miss = none then 3 else 4, lastStatus := if miss = none then 0 else 0x42 }
            else h).finish v.port v.tag { status := if miss = none then 0 else 0x42, words := [BitVec.ofNat 64 (v.compared + 1),
              BitVec.ofNat 64 (miss.getD (2 ^ 64 - 1))] })))

/-- The partner: heartbeats and verification (R462 to R487). -/
def Obligations.PairingMessages : Prop := Claim.PartnerHeartbeats ∧ Claim.Verification

/-- The private half of a fill ends with the image's check: a whole image of the partner counts if it is good; one that a host's DMA
read is written to quarter 3 and checked, and its command completes with the image's SEQ and STEP or with RESTORE_MISMATCH; outside a
fill, and while the image is not whole, nothing happens. A fill without progress for 10 ms drops what it received, leaves INVALID
with FILL_ABORTED_SOURCE_LOST and is counted; without a fill that timeout changes nothing (R489, R490, R491). -/
def Claim.FillsEnd : Prop :=
  ∀ (s : State) (data : List Byte),
    let a := s.glob.quarter 3
    let whole := s.hlt.privateGot ≠ 0 ∧ fld (s.mem.word (a + 24)) 0 48 ≤ s.hlt.privateGot
    (s.hlt.rcv ≠ 1 ∨ s.memBusy = true ∨ (s.hlt.privateHost = none ∧ ¬ whole) → exec (.privateFillDone data) s = .next s) ∧
    (s.hlt.rcv = 1 → s.memBusy = false → s.hlt.privateHost = none → whole → exec (.privateFillDone data) s = .next (s.onHlt fun h => { h with
      privateDone := h.privateDone || s.imageGood, lastStatus := if s.imageGood then 0 else 0x42, privateGot := 0 })) ∧
    (∀ port tag len, s.hlt.rcv = 1 → s.memBusy = false → s.hlt.privateHost = some (port, tag, len) →
      let v := s.svcWrite (writesAt a (data.take len))
      exec (.privateFillDone data) s = .next ((v.onHlt fun h => { h with
        privateDone := h.privateDone || v.imageGood, lastStatus := if v.imageGood then 0 else 0x42, privateGot := 0
        privateHost := none }).finish port tag (if v.imageGood then
          { words := [BitVec.ofNat 64 (fld (v.mem.word a) 32 32), BitVec.ofNat 64 (fld (v.mem.word (a + 8)) 0 48)] }
        else { status := 0x42 }))) ∧
    (s.filling = false → exec .fillStallTimeout s = .next s) ∧
    (s.filling = true → Answers .fillStallTimeout s fun t => t.hlt.rcv = 4 ∧ t.hlt.lastStatus = 0x40 ∧ t.hlt.sharedDone = false ∧
      t.hlt.privateDone = false ∧ t.hlt.filled = [] ∧ t.hlt.fillFrom = [] ∧ t.hlt.privateGot = 0 ∧ t.hlt.privateHost = none ∧
      t.hlt.fillAbortCnt = s.hlt.fillAbortCnt + 1 ∧ (∀ r ∈ t.fab.rx, r.isFill = false) ∧ t.cls = s.cls ∧
      ∀ port tag len, s.hlt.privateHost = some (port, tag, len) → ∃ v : State, t.ports = (v.finish port tag { status := 0x40 }).ports ∧
        v.ports = s.ports)

/-- A freeze that is done seals staging, at a level 3 snapshot lets dispatch go on, and leads to the send on a paired module and to the
mirrors on another, which an uncorrectable sector ends with POISONED. A mirror that is done is counted, and commits the snapshot
that no partner took; where no registered buffer is left it sets MIRROR_MISSED. A level 3 freeze begins once no firing runs, aborts what is in progress and takes the next SEQ; an image
that does not fit lets dispatch go on. In any other phase these three change nothing (R481, R482, R484, R485, R486). -/
def Claim.SnapshotPhases : Prop :=
  ∀ s : State,
    ((s.hlt.snap = none ∨ s.hlt.phase ≠ .freeze) → exec .snapshotFreezeDone s = .next s) ∧
    (∀ k : Snap, s.hlt.snap = some k → s.hlt.phase = .freeze →
      let t := if k.midstep then (s.sealStaging k).endPause else s.sealStaging k
      (t.hlt.paired = true → exec .snapshotFreezeDone s = .next ((t.onHlt fun h => { h with phase := .send, snap := some { k with sent := true } }).startRun
        (.snapshot false) k.step fun id => memStreams id 3 (t.fab.partnerAddr 2) (t.snapDesc k) (t.glob.quarter 0) imageHead
          (t.hlt.privBytes.toNat - imageHead))) ∧
      (t.hlt.paired = false → k.poisoned = true → exec .snapshotFreezeDone s = .next ((t.onHlt (·.snapFlag 4)).endSnapshot)) ∧
      (t.hlt.paired = false → k.poisoned = false → exec .snapshotFreezeDone s = .next (t.startMirror k))) ∧
    ((s.hlt.snap = none ∨ s.hlt.phase ≠ .mirror) → exec .snapshotMirrorDone s = .next s) ∧
    (∀ k : Snap, s.hlt.snap = some k → s.hlt.phase = .mirror → Answers .snapshotMirrorDone s fun t => t.hlt.phase = .idle ∧ t.hlt.snap = none ∧
      (s.mirrorTargets = [] → t.hlt.snapStat.getLsbD 2 = true ∧ t.hlt.mirrorCnt = s.hlt.mirrorCnt ∧ t.hlt.committed = s.hlt.committed) ∧
      (s.mirrorTargets ≠ [] → t.hlt.mirrored = BitVec.ofNat 32 k.seq ∧ t.hlt.mirrorCnt = s.hlt.mirrorCnt + 1 ∧
        (s.mirrorCommits k = false → t.hlt.committed = s.hlt.committed ∧ t.hlt.snapCnt = s.hlt.snapCnt) ∧
        (s.mirrorCommits k = true → t.hlt.committed = BitVec.ofNat 32 k.seq ∧ t.hlt.snapCnt = s.hlt.snapCnt + 1))) ∧
    (let due := s.hlt.freeze3 = true ∧ s.taskBoundary = true ∧ s.hlt.phase ≠ .freeze
     (¬ due → exec .level3Freeze s = .next s) ∧
     (due → s.placed.isSome = true → s.hlt.privBytes.toNat ≤ s.glob.quarterBytes → Answers .level3Freeze s fun t =>
        t.hlt.freeze3 = false ∧ t.hlt.phase = .freeze ∧ ∃ x, t.hlt.snap = some x ∧ x.midstep = true ∧ x.mirror = true ∧
          x.seq = s.hlt.seq + 1 ∧ x.step = s.lastStep) ∧
     (due → s.placed = none ∨ s.glob.quarterBytes < s.hlt.privBytes.toNat → exec .level3Freeze s =
        .next (((s.abortSnapshot.onHlt fun h => { h with freeze3 := false }).startFreeze true).endPause)))

/-- Fills and the phases of a snapshot (R481 to R491). -/
def Obligations.FillsAndSnapshots : Prop := Claim.FillsEnd ∧ Claim.SnapshotPhases

/-- No sample is taken in Off or while the external reset is held; outside READY only the supervisor's readings change. A sample of a
module in service counts, and its ten components are formed from the window of 1,024 samples, the marked symbols, the worst FEC
margin, the coolant and the partner's score, each up to its cap, an input whose blocks are off giving none. The throttling level
follows the first rule that applies; the score is the sum of the components up to 255, and its level the highest whose threshold it
reaches, a change of which is an event. Then a junction at 115 °C or a leak trips the module; in A3 only a leak that arises is reported (R478, R479, R551, R596, R598, R620,
R621). -/
def Obligations.HealthSampled : Prop :=
  ∀ (s : State) (x : Sensors),
    (s.pwr.off = true ∨ s.sec.extHeld = true → exec (.healthSample x) s = .next s) ∧
    (s.pwr.off = false → s.sec.extHeld = false → s.sec.boot ≠ .ready → exec (.healthSample x) s = .next (s.sense x)) ∧
    (s.pwr.off = false → s.sec.extHeld = false → s.sec.boot = .ready →
      let leak := x.leak || (s.pwr.leak && s.pwr.leakHeld)
      let status := coolantStatus x leak
      ∃ v : State,
        (exec (.healthSample x) s = .next (
          if v.pwr.state = .a3 ∧ v.pwr.transition = none then (if x.leak = true ∧ s.pwr.leak = false then v.thermal x 2 else v)
          else if 115 ≤ x.junction.toNat ∨ leak = true then (v.thermal x 2).trip else v)) ∧
        v.pwr.inputMv = x.mv ∧ v.pwr.inputW = x.watts ∧ v.pwr.tjMax = x.junction ∧ v.pwr.leak = leak ∧
        v.hlt.samples = s.hlt.samples + 1 ∧
        v.pwr.level = BitVec.ofNat 4 (
          if 105 ≤ x.junction.toNat ∨ 2 ≤ status then 8
          else if s.pwr.capW.toNat < x.watts.toNat ∨ 95 ≤ x.junction.toNat then min 8 (s.pwr.level.toNat + 1)
          else if x.watts.toNat * 100 < 95 * s.pwr.capW.toNat ∧ x.junction.toNat < 90 ∧ 10 ≤ s.pwr.sinceRise then s.pwr.level.toNat - 1
          else s.pwr.level.toNat) ∧
        (let sum (g : Sample → Nat) : Nat := (v.hlt.window.map g).foldl (· + ·) 0
         v.hlt.window.tail = s.hlt.window.take 1023 ∧
         let on (first n points : Nat) : Nat := if ∃ i < n, s.pwr.domains.getLsbD (first + i) = true then points else 0
         v.hlt.points = (#v[on 24 12 (min 64 (8 * ceilLog (sum (·.ce)))), min 96 (24 * s.erasures), on 24 16 (min 255 (128 * sum (·.ue))),
          on 36 4 (min 32 (4 * ceilLog (sum (·.farCe)))), on 40 8 (min 64 (8 * ceilLog (sum (·.retries)))), min 112 (16 * (v.fab.worstMargin - 8)),
          min 96 (16 * sum (·.thermal)), min 192 (64 * sum (·.timeouts)), [0, 64, 192, 255].getD status 255,
          if s.hlt.pairState = 3 then s.hlt.peerRisk.toNat / 2 else 0] : Vector Nat 10).map (BitVec.ofNat 8)) ∧
        v.hlt.score.toNat = min 255 ((v.hlt.points.toList.map (·.toNat)).foldl (· + ·) 0) ∧
        (let n := if s.hlt.t3.toNat ≤ v.hlt.score.toNat then 3 else if s.hlt.t2.toNat ≤ v.hlt.score.toNat then 2
          else if s.hlt.t1.toNat ≤ v.hlt.score.toNat then 1 else 0
         v.hlt.level = BitVec.ofNat 2 n ∧ (n ≠ s.hlt.level.toNat → ∃ e ∈ v.events, e.code = 0x31 ∧
           e.d1 = packBits [(v.hlt.score.toNat, 0), (n, 8)] ∧ e.d2 = BitVec.ofNat 64 (s.hlt.samples + 1))))

/-! ### Host ports (R496 to R514, R533 to R537) -/

/-- A word that finds room enters the inbound FIFO; one that finds none sets IN_OVF and cuts the command being received short, which
completes with REJECTED_BUSY and TRUNCATED; every word after it is dropped until RESYNC, which takes the next one as a header. With
`take` the words of the FIFO are framed as well. A read of MBX_OUT takes the next outbound word, 0 where there is none, and lets
completions in that were held back. A port that is down answers none of these (R499, R505, R506, R509). -/
def Claim.MailboxWords : Prop :=
  ∀ (p : HPort) (s : State) (w : Word),
    (s.portUp p = false → (∀ take, exec (.mbxInWrite p w take) s = .next s) ∧ exec (.mbxOutRead p) s = .next s ∧ exec (.resync p) s = .next s) ∧
    (s.portUp p = true →
      let q := s.port p
      (∃ v, exec (.mbxInWrite p w false) s = .next v ∧ exec (.mbxInWrite p w true) s = .next (v.frameAll p) ∧
        (q.frame = .dropping → v = s) ∧
        (q.frame ≠ .dropping → q.fifo.length < 8192 → v = s.onPort p fun q => { q with fifo := q.fifo ++ [w] }) ∧
        (q.frame ≠ .dropping → 8192 ≤ q.fifo.length →
          v = (((s.frameAll p).cutShort p).onPort p fun q => { q with frame := .dropping }).mbxStat p 0 ∧
          (v.port p).frame = .dropping ∧ (v.port p).stat.getLsbD 0 = true ∧ (v.port p).fifo = [])) ∧
      (exec (.mbxOutRead p) s = .next (s.onPort p fun q => (({ q with
        out := q.out.tail, reply := { data := bytesOf 8 (q.out.headD 0).toNat } } : HostPort).release q.held).poll)) ∧
      (Answers (.resync p) s fun t => t = ((s.frameAll p).cutShort p).onPort p (fun q => { q with frame := .header }) ∧
        (t.port p).frame = .header ∧ (t.port p).fifo = [])) ∧
    (∀ h id got, (s.port p).frame = .words h (some id) got → s.cutShort p = s.finish p id { status := 0x10 } 2) ∧
    ((∀ h id got, (s.port p).frame ≠ .words h (some id) got) → s.cutShort p = s)

/-- A heartbeat makes a host PRESENT and says so once; a step doorbell adds to the budget up to its largest value, and only sets
STEP_IGNORED where no step may be credited; 0 has no effect; an interrupt doorbell arms its vectors, which fire at once where their
condition holds. A port that is down hears none of them (R500, R504, R518, R534). -/
def Claim.Doorbells : Prop :=
  ∀ (p : HPort) (s : State) (n : BitVec 16) (bits : BitVec 4),
    (s.portUp p = false → exec (.mbxDbHeartbeat p) s = .next s ∧ exec (.mbxDbStep p n) s = .next s ∧ exec (.mbxDbIrq p bits) s = .next s) ∧
    (exec (.mbxDbStep p 0) s = .next s) ∧
    (s.portUp p = true →
      ((s.port p).host = .present → exec (.mbxDbHeartbeat p) s = .next s) ∧
      ((s.port p).host ≠ .present → exec (.mbxDbHeartbeat p) s = .next ((s.onPort p fun q => { q with host := .present }).event
        (fromPort p) 0x50 [packBits [(p.val, 0), (1, 1)]])) ∧
      (n ≠ 0 → s.placed.isSome = true → s.hlt.rcv = 5 → s.pwr.steady = true → Answers (.mbxDbStep p n) s fun t =>
        t = { s with run := { s.run with budget := t.run.budget } } ∧ t.run.budget.toNat = min (2 ^ 32 - 1) (s.run.budget.toNat + n.toNat)) ∧
      (n ≠ 0 → s.placed = none ∨ s.hlt.rcv ≠ 5 ∨ s.pwr.steady = false → exec (.mbxDbStep p n) s =
        .next (s.onPort p fun q => ({ q with stat := q.stat ||| 32#6 } : HostPort).poll)) ∧
      exec (.mbxDbIrq p bits) s = .next (s.onPort p fun q => ({ q with armed := q.armed ||| bits } : HostPort).poll))

/-- The mailbox words and the doorbells of a port (R499 to R506, R518, R534). -/
def Obligations.MailboxAndDoorbells : Prop := Claim.MailboxWords ∧ Claim.Doorbells

/-- An access to the window goes page by page, as far as it lies in BAR2; it waits while a page of it waits for the fill, and behind
others that wait. In a page, a read returns the bytes that stand there, poisoned where a sector is uncorrectable, ones where nothing
answers, Unsupported Request where the memory sleeps; a write changes the bytes that are enabled and no other, and none where nothing
answers or the memory sleeps. Accesses without a target set WIN_NOTGT and NO_TARGET, those that meet self-refresh WIN_SR. What reaches
memory is charged to class 14. A port that is down answers none (R404, R418, R501, R502, R503). -/
def Obligations.Windows : Prop :=
  ∀ (p : HPort) (off : BitVec 36) (s : State),
    let a := (s.port p).winBase.toNat * 2 ^ 30 + off.toNat
    let waits (n : Nat) := (∃ g ∈ pagesOf a n, s.reach g.1 = .waits) ∨ (s.port p).winWaits ≠ []
    let host : Nat → Nat := fun _ => 14
    (s.portUp p = false → ∀ len data, exec (.windowRead p off len) s = .next s ∧ exec (.windowWrite p off data) s = .next s) ∧
    (s.portUp p = true → ∀ len,
      let n := min len (2 ^ 36 - off.toNat)
      (waits n → exec (.windowRead p off len) s = .next (s.onPort p fun q => { q with winWaits := q.winWaits ++ [.read a n] })) ∧
      (¬ waits n →
        let x := (pagesOf a n).foldl (fun (x : State × HostRead) g => x.1.windowReadPage p x.2 g.1 g.2.2) (s, {})
        exec (.windowRead p off len) s = .next (x.1.onPort p fun q => { q with
          reply := if x.2.unsupported then { unsupported := true } else x.2 })) ∧
      (¬ waits n → 1 ≤ n → a % 4096 + n ≤ 4096 →
        (s.reach a = .reached → exec (.windowRead p off len) s = .next ((s.busRead host a n).onPort p fun q => { q with
          reply := { data := (List.range n).map fun i => s.mem.get (a + i), poisoned := s.mem.marked a n } })) ∧
        (s.mem.ue = [] → ∃ v : State, s.busRead host a n = v ∧ v = { s with parts := v.parts } ∧
          ∀ k, v.part k = { s.part k with classes := (v.part k).classes }) ∧
        (s.reach a = .noTarget → exec (.windowRead p off len) s = .next (((s.mbxStat p 3).noTarget a).onPort p fun q => { q with
          reply := { data := List.replicate n 0xFF } })) ∧
        (s.reach a = .asleep → exec (.windowRead p off len) s = .next ((s.mbxStat p 4).onPort p fun q => { q with
          reply := { unsupported := true } })))) ∧
    (s.portUp p = true → ∀ given : List (Option Byte),
      let data := given.take (2 ^ 36 - off.toNat)
      let n := data.length
      (waits n → exec (.windowWrite p off given) s = .next (s.onPort p fun q => { q with winWaits := q.winWaits ++ [.write a data] })) ∧
      (¬ waits n → exec (.windowWrite p off given) s =
        .next ((pagesOf a n).foldl (fun s g => s.windowWritePage p g.1 ((data.drop g.2.1).take g.2.2)) s)) ∧
      (¬ waits n → 1 ≤ n → a % 4096 + n ≤ 4096 →
        (s.reach a = .noTarget → exec (.windowWrite p off given) s = .next ((s.mbxStat p 3).noTarget a)) ∧
        (s.reach a = .asleep → exec (.windowWrite p off given) s = .next (s.mbxStat p 4)) ∧
        (s.reach a = .reached → exec (.windowWrite p off given) s =
          .next (s.busWrite host (data.zipIdx.filterMap fun b => b.1.map fun v => { addr := a + b.2, data := v }))) ∧
        (s.reach a = .reached → s.mem.ue = [] → s.mem.wf = true → Answers (.windowWrite p off given) s fun t =>
          t = { s with mem := t.mem, parts := t.parts, reqs := t.reqs } ∧
          (∀ k, t.part k = { s.part k with classes := (t.part k).classes }) ∧
          (∀ i v, data[i]? = some (some v) → t.mem.get (a + i) = v) ∧
          ∀ b, (∀ i v, data[i]? = some (some v) → a + i ≠ b) → t.mem.get b = s.mem.get b)))

/-- A write to BAR0 that is not aligned, not of whole words, or of several words and not within MBX_IN, only sets SIZE_ERR, and so does
a mis-sized read, which returns zero. Several words to MBX_IN are taken in address order. An aligned word to MBX_IN is a word of the
mailbox, to MBX_STAT clears, to MBX_CTRL restarts the framing, to MBX_WIN_BASE sets the window, in the MSI-X table sets an entry, whose
reserved bits read zero, and has no effect elsewhere; aligned reads give the register's fields, and zero for a write-only register. A
write to the register space follows the register's access code; the sideband writes the debug address. A port that is down, and a
module without power, take none (R18, R21, R499, R505, R629). -/
def Claim.RegisterWrites : Prop :=
  ∀ (p : HPort) (s : State) (w : Word) (a : BitVec 45) (more : List Word),
    let o := a.toNat % 0x10000
    let sizeErr := s.onPort p fun q => ({ q with stat := q.stat ||| 4#6 } : HostPort).poll
    (s.portUp p = false → exec (.registerWrite (.bar0 p more) a w) s = .next s ∧ exec (.registerWrite (.bar0Part p) a w) s = .next s ∧
      exec (.bar0MissizedRead p) s = .next s) ∧
    (s.portUp p = true → exec (.registerWrite (.bar0Part p) a w) s = .next sizeErr) ∧
    (s.portUp p = true → o % 8 ≠ 0 ∨ (more ≠ [] ∧ 0x1000 < o + 8 * (more.length + 1)) →
      exec (.registerWrite (.bar0 p more) a w) s = .next sizeErr) ∧
    (s.portUp p = true → o % 8 = 0 → more ≠ [] → o + 8 * (more.length + 1) ≤ 0x1000 →
      exec (.registerWrite (.bar0 p more) a w) s = .next ((w :: more).foldl (fun s x => (s.wordIn p x).frameAll p) s)) ∧
    (s.portUp p = true → o % 8 = 0 → exec (.registerWrite (.bar0 p []) a w) s = .next (
      if o < 0x1000 then (s.wordIn p w).frameAll p
      else if o = 0x1018 then s.onPort p fun q => { q with stat := q.stat &&& ~~~(w.truncate 6) }
      else if o = 0x1020 then (if w.getLsbD 0 then s.resync p else s)
      else if o = 0x1028 then s.onPort p fun q => { q with winBase := w.extractLsb' 30 18 }
      else if 0x2000 ≤ o ∧ o < 0x2040 then s.onPort p (·.writeMsix (o - 0x2000) w)
      else s)) ∧
    (∀ (q : HostPort) (k : Nat) (v : Fin 4), k / 16 % 4 = v.val →
      (∀ i, i < 2 ∨ 97 ≤ i → (q.writeMsix k w).msix[v].getLsbD i = false) ∧
      ∀ u : Fin 4, u ≠ v → (q.writeMsix k w).msix[u] = q.msix[u]) ∧
    (s.bar0Read p 0x1008 = BitVec.ofNat 64 (s.port p).out.length ∧ s.bar0Read p 0x1010 = BitVec.ofNat 64 (8192 - (s.port p).fifo.length) ∧
      s.bar0Read p 0x1018 = (s.port p).stat.zeroExtend 64 ∧ fld (s.bar0Read p 0x1028) 30 18 = (s.port p).winBase.toNat ∧
      s.bar0Read p 0x1038 = BitVec.ofNat 64 (s.port p).outstanding.length ∧ s.bar0Read p 0x1040 = s.evtSeq - 1 ∧
      s.bar0Read p 0x1020 = 0 ∧ ∀ k, k < 0x1000 → s.bar0Read p k = 0) ∧
    (exec (.registerWrite .device a w) s = .next (s.writeReg (8 * a.toNat) w)) ∧
    (exec (.registerWrite .sideband a w) s = .next (if s.pwr.off then s else { s with debugAddr := w })) ∧
    (s.portUp p = true → Answers (.bar0MissizedRead p) s fun t => OnlyPort p s t ∧ (t.port p).stat = (s.port p).stat ||| 4#6 ∧
      (t.port p).reply = { data := List.replicate 8 0 })

/-- A PRESENT host that is silent for its time becomes LOST, with its event: its transaction rolls back, its running copies stop, its
session ends, and steps and memory go on; another host is not affected. A port reset drops what the port held, keeps the host's
interrupts, stops its copies and leaves the host ABSENT; in Off it changes nothing. A copy that stops completes with DONE_PARTIAL and
some number of its bytes. A released PERST# lets the link come up (R534, R536, R537, R622). -/
def Claim.HostsLost : Prop :=
  ∀ (p : HPort) (s : State),
    ((s.port p).host ≠ .present → exec (.hostHeartbeatTimeout p) s = .next s) ∧
    ((s.port p).host = .present →
      let t := ((s.onPort p fun q => { q with host := .lost }).event (fromPort p) 0x50 [packBits [(p.val, 0), (2, 1)]]).rollbackOf p 2
      exec (.hostHeartbeatTimeout p) s = .next ((((t.port p).copies.take 4).foldl (fun t c => t.stopCopy p c) t).endSessionOf p)) ∧
    ((s.port p).host = .present → (s.port p).copies = [] → s.txn = none → Answers (.hostHeartbeatTimeout p) s fun t =>
      (t.port p).host = .lost ∧ Logged s t 0x50 [packBits [(p.val, 0), (2, 1)]] ∧ t.mem = s.mem ∧ t.run = s.run) ∧
    (∀ c : Copy, ∃ (m : Nat) (v : State), m ≤ c.len ∧ s.stopCopy p c = v.finish p c.tag { status := 1, words := [BitVec.ofNat 64 m] } ∧
      v = { s with ports := v.ports, nonce := v.nonce, mem := v.mem } ∧ (c.read = true → v.mem = s.mem) ∧
      v.ports = (s.onPort p fun q => { q with copies := q.copies.filter fun x => x.tag != c.tag }).ports) ∧
    (∀ perst, s.pwr.off = true → exec (.pciePortReset p perst) s = .next s) ∧
    (∀ perst, s.pwr.off = false →
      let t := (s.onPort p (·.resetTo (perst || (s.port p).perst))).stopCopies p
      exec (.pciePortReset p perst) s = .next (((t.setHost p .absent).rollbackOf p 3).endSessionOf p).anyReset) ∧
    (∀ perst, s.pwr.off = false → (s.port p).copies = [] → s.txn = none → s.sec.debugOpen = 0 → Answers (.pciePortReset p perst) s fun t =>
      (t.port p).host = .absent ∧ (t.port p).fifo = [] ∧ (t.port p).out = [] ∧ (t.port p).held = [] ∧ (t.port p).ready = [] ∧
        (t.port p).outstanding = [] ∧ (t.port p).frame = .header ∧ (t.port p).stat = 0 ∧ (t.port p).winBase = 0 ∧
        (t.port p).perst = (perst || (s.port p).perst) ∧ t.mem = s.mem ∧ t.run = s.run) ∧
    (exec (.perstDeassert p) s = .next (s.onPort p fun q => { q with perst := false }))

/-- Writes to registers from outside, and the life of a host (R499, R534 to R537, R622, R629). -/
def Obligations.RegistersAndHosts : Prop := Claim.RegisterWrites ∧ Claim.HostsLost

/-- A DMA copy of no bytes, or of a range that does not lie within one that has a target, is refused with DETAIL 1; any other waits
for one of four engines. A copy to the host that has ended says how many bytes it moved, with DONE_PARTIAL and the first address of
an uncorrectable sector where it met one; one from the host has written its bytes, without those of the request that failed, which
makes it DONE_PARTIAL with the address of that request. A copy that is not running, or waits for its memory, does not end
(R413, R421, R519). -/
def Obligations.DmaCopies : Prop :=
  let host : Nat → Nat := fun _ => 14
  ∀ s : State,
    (∀ c : HostCmd, let dev := fld (arg c.words 2) 0 48
      let len := fld (arg c.words 3) 0 40
      let targets := len ≠ 0 ∧ oneRange dev (dev + len - 1) = true ∧ ((rangeOf dev = .hbm ∨ rangeOf dev = .far) ∨ s.reach dev = .reached)
      (targets → Completes (.dmaCopy c) 0x301 c s fun u p id => (u.onPort p fun q => { q with
        copies := q.copies ++ [{ tag := id, host := arg c.words 1, device := dev, len := len, read := (arg c.words 3).getLsbD 63 }] })) ∧
      (¬ targets → Completes (.dmaCopy c) 0x301 c s fun u p id => u.finish p id (rejected 1))) ∧
    ∀ (p : HPort) (k : Fin 4) (data : List Byte) (bad : Option Nat),
      let its := ((s.port p).copies.take 4)[k.val]?
      (its = none → exec (.dmaCopyDone p k data bad) s = .next s) ∧
      ∀ x, its = some x →
        let t := s.onPort p fun q => { q with copies := q.copies.filter fun y => y.tag != x.tag }
        let marked := (s.mem.ue.filter fun n => decide (32 * n < x.device + x.len) && decide (x.device < 32 * n + 32)).map fun n =>
          max x.device (32 * n)
        let whole := bad = none ∧ x.len ≤ data.length
        let failed := ∃ b, bad = some b ∧ data.length < x.len ∧ b ≤ data.length
        (s.copyWaits x = true ∨ (x.read = false ∧ ¬ whole ∧ ¬ failed) → exec (.dmaCopyDone p k data bad) s = .next s) ∧
        (s.copyWaits x = false → x.read = true →
          let v := (pagesOf x.device x.len).foldl (fun s g =>
            if s.reach g.1 = .reached then s.busRead host g.1 g.2.2 else s.noTarget g.1) t
          (marked = [] → exec (.dmaCopyDone p k data bad) s = .next (v.finish p x.tag { words := [BitVec.ofNat 64 x.len] })) ∧
          (∀ b rest, marked = b :: rest → exec (.dmaCopyDone p k data bad) s = .next (v.finish p x.tag
            { status := 1, words := [BitVec.ofNat 64 x.len, BitVec.ofNat 64 (rest.foldl min b)] })) ∧
          (marked = [] → ∀ b, v.mem.get b = s.mem.get b)) ∧
        (s.copyWaits x = false → x.read = false → whole → 1 ≤ x.len → x.device % 4096 + x.len ≤ 4096 → s.reach x.device = .reached →
          exec (.dmaCopyDone p k data bad) s =
            .next ((t.busWrite host (writesAt x.device (data.take x.len))).finish p x.tag { words := [BitVec.ofNat 64 x.len] })) ∧
        (s.copyWaits x = false → x.read = false → whole ∨ failed → ∃ v : State,
          (whole → exec (.dmaCopyDone p k data bad) s = .next (v.finish p x.tag { words := [BitVec.ofNat 64 x.len] })) ∧
          (∀ b, failed → bad = some b → exec (.dmaCopyDone p k data bad) s = .next (v.finish p x.tag
            { status := 1, words := [BitVec.ofNat 64 data.length, BitVec.ofNat 64 (x.device + b)] })) ∧
          (s.mem.ue = [] → s.mem.wf = true → v.ports = t.ports ∧
            ∀ a, a < x.device ∨ x.device + x.len ≤ a → v.mem.get a = s.mem.get a))

/-! ### How commands start and end (R505 to R514) -/

/-- A final completion is posted where the outbound stream has room and none is held back, and held back otherwise: header with the
class, opcode and tag of its command, status and detail, then its words. A posted one frees its tag. Nothing else at the port changes
but its interrupts, and nothing elsewhere but the event of a command that asked for one. The completion of a command that a port
reset cut off is discarded, and no interim completion follows a final one (R507, R508, R509, R537). -/
def Claim.CompletionPosted : Prop :=
  ∀ (s : State) (p : HPort) (id : BitVec 16) (r : Reply),
    ((s.port p).openCmd id = none → s.finish p id r = s.onPort p fun q => { q with orphans := q.orphans.filter fun o => o.id != id }) ∧
    ((s.finish p id r).interim p id = s.finish p id r) ∧
    ∀ o, (s.port p).openCmd id = some o →
      let header := packBits [(o.cls.toNat, 56), (o.op.toNat, 48), (r.words.length + 1, 32), (o.tag.toNat, 16), (0, 0)]
      let ws := [header, packBits [(r.status, 0), (r.detail, 16)]] ++ r.words
      let room := (s.port p).held = [] ∧ (s.port p).out.length + ws.length ≤ 16384
      let t := s.onPort p fun q => if room then
          ({ q with out := q.out ++ ws, outstanding := q.outstanding.filter fun x => x.id != id } : HostPort).poll
        else { q with held := q.held ++ [(some id, ws)] }
      s.finish p id r = if o.notify then t.event (fromPort p) 0x60 [header, packBits [(r.status, 0), (r.detail, 16)], BitVec.ofNat 64 p.val]
        else t

/-- What turns a host's command away: a port that is down, a tag in use (with DUP_TAG), 256 commands outstanding, or the first check of
boot state, class and opcode, power state and LENGTH that fails, when it arrives and when it starts. One that finds others waiting at
its port waits after them. Each command keeps its own class and opcode (R507, R508, R513, R514, R584; log entry 34 on their order). -/
def Claim.CommandsRefused : Prop :=
  ∀ (i : Instr) (key : Nat) (c : HostCmd) (s : State), hostKey i = some (key, c) →
    let w := cmdHeader key c
    let q := s.port c.port
    let again := q.outstanding.any (·.tag == c.tag) = true
    (∀ j, hostKey j = some (key, { c with words := c.words.take 65535 }) → exec i s = exec j s) ∧
    (c.wf = true → s.portUp c.port = false → exec i s = .next s) ∧
    (c.wf = true → s.portUp c.port = true → (∀ a, q.ready.head? = some a → a.names key c = false) →
      (again → exec i s = .next ((s.refuse c.port w 4).mbxStat c.port 1)) ∧
      (¬ again → 256 ≤ q.outstanding.length → exec i s = .next (s.refuse c.port w 0)) ∧
      (¬ again → q.outstanding.length < 256 →
        (∀ r, (s.started key c).refusal key c.words = some r → exec i s = .next ((s.started key c).finish c.port (startedId s key c) r)) ∧
        ((s.started key c).refusal key c.words = none → q.ready ≠ [] → exec i s = .next ((s.started key c).onPort c.port fun x =>
          { x with ready := x.ready ++ [{ id := startedId s key c, cls := headCls w, op := headOp w, tag := headTag w
                                          flags := w.truncate 16, words := c.words }] })))) ∧
    (∀ a r, c.wf = true → s.portUp c.port = true → q.ready.head? = some a → a.names key c = true →
      (s.unqueued c.port).refusal key a.words = some r → exec i s = .next ((s.unqueued c.port).finish c.port a.id r)) ∧
    (s.sec.boot ≠ .ready → key / 256 ≠ 0xF → s.refusal key c.words = some { status := 0x12, detail := 0xF0 }) ∧
    (s.sec.boot = .ready ∨ key / 256 = 0xF →
      (s.pwr.judged.serves key = false → s.pwr.servesQuiesce key c.words = false →
        s.refusal key c.words = some { status := 0x12, detail := 0xF1 }) ∧
      (s.pwr.judged.serves key = true ∨ s.pwr.servesQuiesce key c.words = true →
        (lengthOk key c.words = some false → s.refusal key c.words = some { status := 0x12, detail := 0xF3 }) ∧
        (lengthOk key c.words = some true → s.refusal key c.words = none)))

/-- What posts the completion of a host command and what turns one away (R507 to R514, R584; log entry 34). -/
def Obligations.CommandsStartAndEnd : Prop := Claim.CompletionPosted ∧ Claim.CommandsRefused

/-! ### Host commands (R515 to R532) -/

/-- Configuration transactions: a begin opens one for its port where none is open; a set stages its words, or is refused by the first
case that it falls under; a commit whose words still pass is applied at once or waits for the next safe point, and one whose word
fails discards everything and names that word; a rollback drops it. Set, commit and rollback need an open transaction of their own
port that is not committing. The status tells it (R521, R522, R523, R524). -/
def Claim.ConfigCommands : Prop :=
  ∀ (c : HostCmd) (s : State),
    let w := c.words.headD 0
    let a := fld w 0 48
    let n := fld w 48 8
    (Completes (.cfgBegin c) 0x101 c s fun u p id =>
      if u.txn = none then ({ u with txn := some { owner := p } } : State).finish p id {} else u.finish p id { status := 0x11 }) ∧
    (∀ i key, i = .cfgSet c ∧ key = 0x102 ∨ i = .cfgCommit c ∧ key = 0x103 ∨ i = .cfgRollback c ∧ key = 0x104 →
      (s.txn = none → Completes i key c s fun u p id => u.finish p id { status := 0x12, detail := 5 }) ∧
      (∀ x, s.txn = some x → x.owner ≠ c.port → Completes i key c s fun u p id => u.finish p id { status := 0x11 }) ∧
      (∀ x b, s.txn = some x → x.owner = c.port → x.commit = some b →
        Completes i key c s fun u p id => u.finish p id { status := 0x12, detail := 6 })) ∧
    (∀ x, s.txn = some x → x.owner = c.port → x.commit = none →
      (Completes (.cfgSet c) 0x102 c s fun u p id =>
        let d := u.setDetail x w c.words.tail
        if d = 0 then ({ u with txn := some { x with staged := x.staged ++ stagedOf a c.words.tail } } : State).finish p id {}
        else u.finish p id { status := 0x12, detail := d }) ∧
      (n = 0 ∨ 32 < n → s.setDetail x w c.words.tail = 4) ∧
      (1 ≤ n → n ≤ 32 → settable a = false → s.setDetail x w c.words.tail = 1) ∧
      (1 ≤ n → n ≤ 32 → settable a = true → (∃ k, k < c.words.tail.length ∧ settable (a + 8 * k) = false) →
        s.setDetail x w c.words.tail = 4) ∧
      (1 ≤ n → n ≤ 32 → settable a = true → (∀ k, k < c.words.tail.length → settable (a + 8 * k) = true) →
        let ws := stagedOf a c.words.tail
        let t := s.withStaged (x.staged ++ ws)
        s.setDetail x w c.words.tail = if ∃ y ∈ ws, s.fieldBad t y.addr y.value = true then 2
          else if ∃ y ∈ ws, s.stateBad y.addr y.value = true then 3 else 0) ∧
      (Completes (.cfgCommit c) 0x103 c s fun u p id => match u.firstBad x with
        | some (d, b) => (({ u with txn := none } : State).event fromMarkhor 0x41 [packBits [(5, 0), (p.val, 16)]]).finish p id
            { status := 0x12, detail := d, words := [BitVec.ofNat 64 b] }
        | none => if u.canApply then (u.applyTxn x).finish p id { words := [1] } else { u with txn := some { x with commit := some id } }) ∧
      (Completes (.cfgRollback c) 0x104 c s fun u p id => ({ u with txn := none } : State).finish p id {})) ∧
    (Completes (.cfgStatus c) 0x105 c s fun u p id => u.finish p id { words := [match u.txn with
      | some x => packBits [(1, 0), (b2n x.commit.isSome, 1), (x.owner.val, 2), (x.staged.length / 8 % 256, 8)]
      | none => 0] })

/-- A committed transaction that waited is applied once no step runs and no load is placing: its words in their order, then the actions of
its write-only fields; it answers its commit with an event, and is closed. One that is open and not committing rolls back after its
time, with an event. Otherwise neither of the two happens (R524, R525, R529). -/
def Claim.TransactionsEnd : Prop :=
  ∀ s : State,
    (∀ x, s.applyTxn x = { x.staged.foldl State.writeOnly (s.afterSet (s.withStaged x.staged) x.staged) with txn := none } ∧
      s.withStaged x.staged = x.staged.foldl (fun t y => t.setWord y.addr y.value) s) ∧
    (s.canApply = false ∨ s.txn = none ∨ (∃ x, s.txn = some x ∧ x.commit = none) → exec .cfgApply s = .next s) ∧
    (s.txn = none ∨ (∃ x b, s.txn = some x ∧ x.commit = some b) → exec .cfgIdleTimeout s = .next s) ∧
    ∀ x, s.txn = some x →
      (∀ id, x.commit = some id → s.canApply = true →
        let q := s.port x.owner
        let tag := (((q.outstanding ++ q.orphans).find? (·.id == id)).map (·.tag)).getD 0
        exec .cfgApply s = .next (((s.applyTxn x).finish x.owner id { words := [1] }).event fromMarkhor 0x40
          [packBits [(tag.toNat, 0), (x.owner.val, 16)]])) ∧
      (x.commit = none → Answers .cfgIdleTimeout s fun t =>
        t = ({ s with txn := none } : State).event fromMarkhor 0x41 [packBits [(1, 0), (x.owner.val, 16)]] ∧
          Logged s t 0x41 [packBits [(1, 0), (x.owner.val, 16)]] ∧ t.run = s.run ∧ t.fab = s.fab ∧ t.mem = s.mem)

/-- Configuration transactions, from their begin to their end (R521 to R525, R529). -/
def Obligations.Transactions : Prop := Claim.ConfigCommands ∧ Claim.TransactionsEnd

/-- REG_READ answers the live values of its registers, or DETAIL 1 where one is no register, and refuses a count that is not 1 to 32;
STAT_CLEAR clears in one register the W1C bits of its mask, or answers DETAIL 1 where there is no register and 2 where it has no
such field (R520; log entry 37 on the count). -/
def Claim.RegisterCommands : Prop :=
  ∀ (c : HostCmd) (s : State),
    (let a := fld (arg c.words 1) 0 48
     let n := fld (arg c.words 1) 48 8
     Completes (.regRead c) 0x110 c s fun u p id =>
      let vs := (List.range n).map fun i => u.liveReg (a + 8 * i)
      if n = 0 ∨ 32 < n then u.finish p id { status := 0x12 }
      else if none ∈ vs then u.finish p id { status := 0x12, detail := 1 }
      else u.finish p id { words := vs.map fun v => v.getD 0 }) ∧
    (let a := (arg c.words 1).toNat
     Completes (.statClear c) 0x111 c s fun u p id =>
      if u.readReg a = none then u.finish p id { status := 0x12, detail := 1 }
      else match u.clearReg a (arg c.words 2) with
        | some t => t.finish p id {}
        | none => u.finish p id { status := 0x12, detail := 2 })

/-- GRAPH_LOAD and GRAPH_UNLOAD are turned away while a transaction is open, another load is placing, or a graph is at work; else the old
graph goes. A load that passes every check goes on to the placement, one that fails one answers its DETAIL and leaves no graph; fences
not yet reported are reported. PLACE_REPORT answers the part asked for of a placed graph's report, partly where that is too long, and
DETAIL 1 without one (R266, R267, R516, R526). -/
def Claim.GraphCommands : Prop :=
  ∀ (c : HostCmd) (s : State),
    (let busy := (∃ p id a, s.run.placing = some (.load p id a)) ∨ (s.run.graph ≠ none ∧ s.quiesced = false)
     (s.txn ≠ none → s.graphBarred = some { status := 0x11 }) ∧ (s.txn = none → busy → s.graphBarred = some { status := 0x10 }) ∧
     (s.txn = none → ¬ busy → s.graphBarred = none)) ∧
    (let addr := fld (arg c.words 1) 0 48
     Completes (.graphLoad c) 0x201 c s fun u p id => match u.graphBarred with
      | some r => u.finish p id r
      | none =>
        let v := u.unloadGraph
        let d := v.loadDetail (v.image addr) addr (fld (arg c.words 2) 0 48)
        if d = 0 then v.onRun fun r => { r with
          graph := some { pkg := packageOf (v.image addr), place := none }, placing := some (.load p id addr), outcome := u.run.outcome }
        else (v.reportFences u.run.outcome 0).finish p id { status := 0x12, detail := d }) ∧
    (Completes (.graphUnload c) 0x202 c s fun u p id => match u.graphBarred with
      | some r => u.finish p id r
      | none => (u.unloadGraph.reportFences u.run.outcome 0).finish p id {}) ∧
    (∀ u : State, u.unloadGraph.run.graph = none ∧ u.unloadGraph.run.step = none ∧ u.unloadGraph.run.budget = 0 ∧
      u.unloadGraph.run.waits = [] ∧ u.unloadGraph.mem = u.mem ∧ u.unloadGraph.hlt = u.hlt) ∧
    (let first := fld (arg c.words 1) 0 32
     let n := fld (arg c.words 2) 0 16
     Completes (.placeReport c) 0x203 c s fun u p id => match u.run.graph with
      | some ⟨g, some pl⟩ =>
        if n = 0 ∨ 65532 < n then u.finish p id { status := 0x12 }
        else
          let ws := reportWords g pl u.run.placementId
          u.finish p id { status := if ws.length < first + n then 1 else 0
                          words := [u.run.placementId.zeroExtend 64, BitVec.ofNat 64 ws.length] ++ (ws.drop first).take n }
      | _ => u.finish p id { status := 0x12, detail := 1 })

/-- STEP_RUN adds its steps to the budget and waits for them, and is refused without a placed graph and outside NORMAL. STEP_HALT
empties the budget; so does QUIESCE, which waits for the boundary of the step that runs, and without one, or with IMMEDIATE, quiesces
the module at once. A STEP_RUN that they cut short completes with DONE_PARTIAL; the one whose last step is the one that runs is not,
unless by IMMEDIATE (R252, R517, R518; log entry 37 on N = 0). -/
def Claim.StepCommands : Prop :=
  ∀ (c : HostCmd) (s : State),
    let n := fld (arg c.words 1) 0 32
    let now := (arg c.words 1).getLsbD 0
    (Completes (.stepRun c) 0x210 c s fun u p id =>
      if u.placed.isSome = false then u.finish p id { status := 0x12, detail := 1 }
      else if u.hlt.rcv ≠ 5 then u.finish p id { status := 0x12, detail := 2 }
      else if n = 0 then u.finish p id { status := 0x12 }
      else u.onRun fun r => { r with
        budget := BitVec.ofNat 32 (min (2 ^ 32 - 1) (r.budget.toNat + n))
        waits := r.waits ++ [{ port := p, tag := id, left := n + if r.step.isSome then 1 else 0 }] }) ∧
    (Completes (.stepHalt c) 0x211 c s fun u p id => u.haltSteps.finish p id {}) ∧
    (s.run.step.isSome = true → now = false → Completes (.quiesce c) 0x212 c s fun u p id =>
      u.haltSteps.onRun fun r => { r with quiescing := r.quiescing ++ [{ port := p, tag := id }] }) ∧
    (s.run.step = none ∨ now = true → Completes (.quiesce c) 0x212 c s fun u p id =>
      ((if now then u.cutSteps else u.haltSteps).onRun fun r =>
        { r with quiescing := r.quiescing ++ [{ port := p, tag := id, immediate := true }] }).quiesceNow) ∧
    (let stays (w : StepWait) : Bool := s.run.step.isSome && w.left == 1
     let ends (v : State) (ws : List StepWait) (last : Word) : State :=
      ws.foldl (fun v w => v.finish w.port w.tag { status := 1, words := [last] }) { v with nonce := v.nonce + 1 }
     ∃ last : Word, (s.run.crvStep ≠ 0 → last = (s.run.crvStep - 1).zeroExtend 64) ∧
      s.haltSteps = ends (s.onRun fun r => { r with budget := 0, waits := r.waits.filter stays }) (s.run.waits.filter fun w => !stays w) last ∧
      s.cutSteps = ends (s.onRun fun r => { r with budget := 0, waits := [] }) s.run.waits last)

/-- The host commands on registers, graphs and steps (R252, R266, R267, R516 to R520). -/
def Obligations.RegisterGraphStepCommands : Prop := Claim.RegisterCommands ∧ Claim.GraphCommands ∧ Claim.StepCommands

/-- Solver problems and contexts from the host. A load into a slot that another load waits for is turned away; one into a slot that the
package has not, and one that fails a check, answers the check's DETAIL; any other is installed at once between steps and at the
boundary during one. The information tells a slot's signature, sizes and bounds, the engines that hold it and whether a load waits,
and zeros for an empty slot. A context is cleared at once or at the boundary (R300, R301, R302, R327). -/
def Claim.SolverCommands : Prop :=
  ∀ (c : HostCmd) (s : State),
    let slot := fld (arg c.words 1) 0 6
    let image := c.words.tail
    (Completes (.slvProblemLoad c) 0x401 c s fun u p id =>
      if ∃ l ∈ u.run.loads, l.slot = slot then u.finish p id { status := 0x10 }
      else match u.run.graph.bind (fun g => solverEntry g.pkg 0 slot) with
        | none => u.finish p id { status := 0x12, detail := 1 }
        | some e =>
          if probDetail image e ≠ 0 then u.finish p id { status := 0x12, detail := probDetail image e }
          else if u.run.step.isSome then u.onRun fun r =>
            { r with loads := r.loads ++ [{ slot := slot, problem := problemOf image, port := p, tag := id }] }
          else (u.installProblem slot (problemOf image)).finish p id { words := [(problemOf image).signature] }) ∧
    (Completes (.slvProblemInfo c) 0x402 c s fun u p id =>
      let waiting := BitVec.ofNat 64 (b2n (u.run.loads.any fun l => l.slot == slot))
      u.finish p id { words := match smFind u.run.problems slot with
        | some pr => [pr.signature, packBits [(pr.nv, 0), (pr.nq, 10), (pr.rows, 21), (pr.joints, 30)],
            packBits (pr.bounds.zipIdx.map fun x => (codeOf 8 x.1, 8 * x.2)),
            BitVec.ofNat 64 ((List.finRange 24).foldl (fun n r => if (u.rg r).nyala.slots.contains slot then n + 2 ^ r.val else n) 0), waiting]
        | none => [0, 0, 0, 0, waiting] }) ∧
    (Completes (.slvContextClear c) 0x403 c s fun u p id =>
      if u.run.step.isSome then u.onRun fun r => { r with clears := r.clears ++ [(p, id, slot)] } else (u.clearContext slot).finish p id {}) ∧
    ∀ (u : State) (k : Nat) (r : Rg), smFind ((u.clearContext k).rg r).nyala.ctxs k = none ∧
      ∀ j, j ≠ k → smFind ((u.clearContext k).rg r).nyala.ctxs j = smFind (u.rg r).nyala.ctxs j

/-- Snapshots and restores from the host: the cursor is set between steps, SNAP_NOW waits for the next snapshot, a mirror buffer is
registered or taken away; RESTORE_BEGIN needs a placed graph and no step and enters FILLING; FILL_SEND sends the shared state of a
quiesced module in service, or the newest image that the module holds of its partner; a host's image is read during FILLING; a fill
that is whole is installed by RESTORE_COMMIT with the step after the one it was sent at; VERIFY_START begins on a placed graph between
steps. Neither of the two that send runs without a committed route configuration. What does not fit these is refused (R40, R471, R480,
R482, R489, R493). -/
def Claim.SurvivalCommands : Prop :=
  ∀ (c : HostCmd) (s : State),
    let refuse (u : State) (p : HPort) (id : BitVec 16) : State := u.finish p id { status := 0x12 }
    let w := arg c.words 1
    let dest := withEp (w.extractLsb' 0 24) 2
    (Completes (.cursorSet c) 0x501 c s fun u p id =>
      if u.run.step.isSome then refuse u p id
      else (u.onHlt fun h => { h with cursor := Vector.ofFn fun i => c.words.getD i.val 0 }).finish p id {}) ∧
    (Completes (.snapNow c) 0x502 c s fun u p id => u.onHlt fun h => { h with snapNow := h.snapNow ++ [(p, id, none)] }) ∧
    (Completes (.snapMirrorBuf c) 0x503 c s fun u p id => (u.onHlt fun h =>
      let rest := h.mirrors.filter fun b => !(b.port == p && b.addr == w)
      { h with mirrors := if arg c.words 2 = 0 then rest else rest ++ [{ port := p, addr := w, len := (arg c.words 2).toNat }] }).finish p id {}) ∧
    (Completes (.restoreBegin c) 0x510 c s fun u p id =>
      if u.placed.isSome = false ∨ u.run.step.isSome then refuse u p id
      else (u.cutSteps.onHlt fun h => { h with
        rcv := 1, sharedDone := false, privateDone := false, lastStatus := 0, filled := [], fillFrom := [], privateGot := 0 }).finish p id {}) ∧
    (s.fab.valid = false → Completes (.fillSend c) 0x511 c s refuse) ∧
    (fld w 24 2 = 1 → s.fab.valid = true →
      (∀ g pl, s.placed = some (g, pl) → s.hlt.rcv = 5 → s.quiesced = true → Completes (.fillSend c) 0x511 c s fun u p id =>
        u.beginRun (.fill 1 p id (sumBytes (u.sharedStreams g pl dest 0))) u.lastStep (u.sharedStreams g pl dest)) ∧
      (s.placed = none ∨ s.hlt.rcv ≠ 5 ∨ s.quiesced = false → Completes (.fillSend c) 0x511 c s refuse)) ∧
    (fld w 24 2 = 2 → s.fab.valid = true →
      (∀ b, s.hlt.bestSlot = some b →
        let base := s.glob.quarter (if b then 2 else 1)
        let len := min s.glob.quarterBytes (fld (s.mem.word (base + 24)) 0 48)
        let d : DescF := { service := 6, step := (s.hlt.slot b).step.toNat
                           packageId := BitVec.ofNat 32 (fld (s.mem.word (base + 16)) 0 32) }
        Completes (.fillSend c) 0x511 c s fun u p id =>
          u.beginRun (.fill 2 p id len) (s.hlt.slot b).step.toNat fun r => memStreams r 3 dest d base 0 len) ∧
      (s.hlt.slotA.valid = false ∧ s.hlt.slotB.valid = false → Completes (.fillSend c) 0x511 c s refuse)) ∧
    (fld w 24 2 = 0 ∨ fld w 24 2 = 3 → Completes (.fillSend c) 0x511 c s refuse) ∧
    (Completes (.restorePrivateHost c) 0x512 c s fun u p id =>
      if u.hlt.rcv ≠ 1 ∨ u.glob.quarterBytes < (arg c.words 2).toNat then refuse u p id
      else if u.hlt.privateHost.isSome then u.finish p id { status := 0x10 }
      else u.onHlt fun h => { h with privateHost := some (p, id, (arg c.words 2).toNat) }) ∧
    (∀ g pl, s.placed = some (g, pl) → s.hlt.rcv = 1 → s.hlt.sharedDone = true → s.hlt.privateDone = true →
      Completes (.restoreCommit c) 0x513 c s fun u p id => (((u.installPrivate g pl).onHlt fun h => { h with rcv := 2, lastStatus := 0 }).onRun
        fun r => { r with crvStep := s.hlt.rcvStep + 1 }).finish p id { words := [(s.hlt.rcvStep + 1).zeroExtend 64] }) ∧
    (s.placed = none ∨ s.hlt.rcv ≠ 1 ∨ s.hlt.sharedDone = false ∨ s.hlt.privateDone = false → Completes (.restoreCommit c) 0x513 c s refuse) ∧
    (s.placed = none → Completes (.verifyStart c) 0x514 c s refuse) ∧
    ∀ g pl, s.placed = some (g, pl) →
      let named := w.extractLsb' 0 24
      let n := (chunksIn (s.sharedImage g pl).length).length
      (s.fab.verify.isSome = true → Completes (.verifyStart c) 0x514 c s fun u p id => u.finish p id { status := 0x10 }) ∧
      (s.fab.verify = none → s.run.step.isSome = true ∨ s.fab.valid = false → Completes (.verifyStart c) 0x514 c s refuse) ∧
      (s.fab.verify = none → s.run.step = none → s.fab.valid = true → Completes (.verifyStart c) 0x514 c s fun u p id =>
        let v : Verify :=
          { port := p, tag := id, peer := if named = 0 then u.fab.partnerAddr 0 else withEp named 0, step := u.lastStep, chunks := n }
        if n = 0 then u.endVerify v else u.onFab fun f => { f with verify := some v })

/-- The host commands on solver problems, snapshots and restores (R300 to R302, R327, R471 to R493). -/
def Obligations.SolverAndSurvivalCommands : Prop := Claim.SolverCommands ∧ Claim.SurvivalCommands

/-- Events and counters: EVT_READ answers records in the order of their numbers and is partial where older ones have left the log, and
refuses a count that is not 1 to 64; EVT_MASK takes its four words; CNT_READ answers live counters with no step number, or those of
the last boundary, DETAIL 1 where an address is no counter and 2 without a completed step; CNT_CLEAR clears the sets it names, or
answers DETAIL 3 for the reserved bit; a phase notice counts one source (R530, R532, R608, R611, R612; log entry 37 on the count). -/
def Obligations.EventsAndCounters : Prop :=
  ∀ (c : HostCmd) (s : State),
    (let first := max 1 (arg c.words 1).toNat
     let n := fld (arg c.words 2) 0 7
     Completes (.evtRead c) 0x601 c s fun u p id =>
      let log := u.events.reverse
      let rs := (log.filter fun e => decide (first ≤ e.seq.toNat)).take n
      let oldest := ((log.head?).map fun e => e.seq.toNat).getD u.evtSeq.toNat
      if n = 0 ∨ 64 < n then u.finish p id { status := 0x12 }
      else u.finish p id { status := if log ≠ [] ∧ first < oldest then 1 else 0
                           words := [BitVec.ofNat 64 oldest, BitVec.ofNat 64 rs.length] ++ rs.flatMap EventRec.words }) ∧
    (Completes (.evtMask c) 0x602 c s fun u p id =>
      (u.onPort p fun q => { q with evtMask := BitVec.ofNat 256 (bytesWord (wordBytes (c.words.take 4))) }).finish p id {}) ∧
    (let a := fld (arg c.words 1) 0 48
     let n := fld (arg c.words 1) 48 8
     let legal := a % 8 = 0 ∧ 1 ≤ n ∧ n ≤ 32 ∧ ∀ i, i < n → (regAt (a + 8 * i)).isCounter = true
     (¬ legal → Completes (.cntRead c) 0x701 c s fun u p id => u.finish p id { status := 0x12, detail := 1 }) ∧
     (legal → (arg c.words 1).getLsbD 56 = false → Completes (.cntRead c) 0x701 c s fun u p id =>
        u.finish p id { words := BitVec.ofNat 64 (2 ^ 48 - 1) :: (List.range n).map fun i => (u.readReg (a + 8 * i)).getD 0 }) ∧
     (legal → (arg c.words 1).getLsbD 56 = true → Completes (.cntRead c) 0x701 c s fun u p id =>
        match u.run.stepped, u.perf.copy with
        | true, some (step, m) => u.finish p id { words := BitVec.ofNat 64 step :: (List.range n).map fun i => smGet 0 m (a + 8 * i) }
        | _, _ => u.finish p id { status := 0x12, detail := 2 })) ∧
    (Completes (.cntClear c) 0x702 c s fun u p id =>
      if (arg c.words 1).getLsbD 7 then u.finish p id { status := 0x12, detail := 3 }
      else (u.clearSets ((List.range 7).filter fun k => (arg c.words 1).getLsbD k)).finish p id { words := [u.run.crvStep.zeroExtend 64] }) ∧
    ∀ (ph : Fin 7) (on : Bool), Answers (.phaseNotice ph on) s fun t => t = { s with perf := { s.perf with phases := t.perf.phases } } ∧
      t.perf.phases[ph] = { s.perf.phases[ph] with
        sources := if on then s.perf.phases[ph].sources + 1 else s.perf.phases[ph].sources - 1 } ∧
      ∀ q : Fin 7, q ≠ ph → t.perf.phases[q] = s.perf.phases[q]

/-! ### Boot, firmware, security (R540 to R571) -/

/-- Identity, attestation and debug unlock. A report or a certificate is answered, but none once scope 3 or 5 has been open since
boot; a challenge draws a fresh nonce; a token is checked in order (a challenge exists; its slot and signature; UID and nonce; resets;
scope), a failure counts and the fourth erases the challenge, and one that passes opens its scopes beside those open; DEBUG_LOCK
closes every scope, which ends the task of a Tahr that EBREAK had halted (R559 to R569). -/
def Claim.SecurityCommands : Prop :=
  ∀ (c : HostCmd) (s : State),
    (Completes (.ident c) 0xF01 c s fun u p id => u.finish p id { words := u.identWords }) ∧
    (Completes (.identFusemap c) 0xF02 c s fun u p id => u.finish p id { words := u.fuseWords }) ∧
    (Completes (.attest c) 0xE01 c s fun u p id =>
      let sel := fld (arg c.words 5) 0 2
      let v := u.onSec fun x => { x with reports := x.reports + 1 }
      let body := v.reportBody (c.words.take 4)
      if u.sec.sinceBoot.getLsbD 3 ∨ u.sec.sinceBoot.getLsbD 5 then u.finish p id { status := 0x12, detail := 1 }
      else if sel = 0 then v.finish p id { words := bytesWords 718 (body ++ signature body (2 + 4 * bytesWord v.measure)) }
      else if sel = 3 then u.finish p id { status := 0x12 }
      else u.finish p id { words := bytesWords 926 (u.certificate (3 - sel)) }) ∧
    (Completes (.unlockChallenge c) 0xE02 c s fun u p id =>
      let nonce := Config.randomNonce u.nonce
      (({ u with nonce := u.nonce + 1 } : State).onSec fun x => { x with challenge := some { nonce := nonce } }).finish p id
        { words := (List.range 4).map (fun i => BitVec.ofNat 64 (fld nonce (64 * i) 64)) ++ uidWords ++
                   [BitVec.ofNat 64 (3 - fld u.sec.revoked 4 2)] }) ∧
    (Completes (.unlockToken c) 0xE03 c s fun u p id =>
      let f (off n : Nat) : Nat := bytesWord (((wordBytes c.words).drop off).take n)
      let scope := BitVec.ofNat 16 (f 56 2)
      let refuse (status detail : Nat) : State :=
        let x := u.sec.challenge.map fun x => { x with fails := x.fails + 1 }
        let fails := (x.map fun x => x.fails.toNat).getD 0
        ((u.onSec fun y => { y with challenge := if 4 ≤ fails then none else x }).event fromMarkhor 0xC6
          [packBits [(detail, 0), (fails, 16)]] status).finish p id { status := status, detail := detail }
      match u.sec.challenge with
      | none => refuse 0x12 1
      | some x =>
        if 2 ≤ f 6 1 ∨ u.sec.revoked.getLsbD (4 + f 6 1) = true ∨ Config.sigVerifies (wordBytes c.words) (16 + f 6 1) = false then refuse 0x61 0
        else if f 8 16 ≠ Config.uid.toNat ∨ f 24 32 ≠ x.nonce.toNat then refuse 0x12 2
        else if f 58 1 < x.resets.toNat then refuse 0x12 3
        else if scope.extractLsb' 6 10 ≠ 0 ∨ (scope.getLsbD 5 = true ∧ u.run.graph.isSome = true) then refuse 0x12 4
        else ((u.onSec fun y => { y with debugOpen := y.debugOpen ||| scope, sinceBoot := y.sinceBoot ||| scope }).event fromMarkhor 0xC4
          [packBits [((u.sec.debugOpen ||| scope).toNat, 0), (p.val, 16)]]).finish p id {}) ∧
    (Completes (.debugLock c) 0xE04 c s fun u p id =>
      ((u.closeScopes.onSec fun x => { x with challenge := none }).event fromMarkhor 0xC5 [packBits [(p.val, 16)]]).finish p id {}) ∧
    ∀ u : State,
      let shut := u.onSec fun x => { x with debugOpen := 0 }
      (u.sec.debugOpen.getLsbD 0 = false → u.closeScopes = shut) ∧ (u.closeScopes.sec.debugOpen = 0) ∧
      ∀ cl f, u.sec.debugOpen.getLsbD 0 = true → (u.cl cl).tahr.wait = some .debug → (u.cl cl).kernelFiring = some f →
        (∀ d, d ≠ cl → (u.cl d).tahr.wait ≠ some .debug) → u.closeScopes = shut.faultFiring cl f 1

/-- Firmware sessions: no command of a session is served before READY but in RECOVERY, with none open, or from the other port. A begin
erases the bank it names, which is not the one that runs; a write stores its bytes at a place of an image; a commit makes a consistent
bank bootable and names the first failure of another; an abort and the session's time end it. The logs answer their records or their
bytes; MODULE_RESET asks for a reset, of a bootable bank where it names one (R553 to R557, R570, R571; log entry 40 on RECOVERY). -/
def Claim.FirmwareCommands : Prop :=
  ∀ (c : HostCmd) (s : State),
    let served (u : State) (p : HPort) (id : BitVec 16) (go : FwSession → State) : State :=
      if ¬ (u.sec.boot = .ready ∨ u.sec.boot = .recovery) then u.finish p id { status := 0x12, detail := 1 }
      else match u.sec.session with
        | none => u.finish p id { status := 0x12, detail := 5 }
        | some f => if f.owner = p then go f else u.finish p id { status := 0x10 }
    (Completes (.fwBegin c) 0xF10 c s fun u p id =>
      if ¬ (u.sec.boot = .ready ∨ u.sec.boot = .recovery) then u.finish p id { status := 0x12, detail := 1 }
      else if u.sec.session.isSome then u.finish p id { status := 0x10 }
      else match u.sec.target (fld (arg c.words 1) 0 2) with
        | none => u.finish p id { status := 0x12 }
        | some b =>
          if u.sec.bank = some b then u.finish p id { status := 0x12, detail := 2 }
          else (u.onSec fun x => { x with
            banks := x.banks.set (bankIx b) {}, bootable := x.bootable.set (bankIx b) false
            session := some { owner := p, bank := b } }).finish p id { words := [BitVec.ofNat 64 (bankCode (some b))] }) ∧
    (∀ (x : Security) (r : Bool), (x.bank = some r → x.target 0 = some (!r)) ∧ (x.bank = none → x.target 0 = some (!x.preferred)) ∧
      x.target 1 = some false ∧ x.target 2 = some true ∧ x.target 3 = none) ∧
    (let kind := fld (arg c.words 1) 0 8
     let off := fld (arg c.words 1) 8 32
     let bs := wordBytes c.words.tail
     Completes (.fwWrite c) 0xF11 c s fun u p id => served u p id fun f =>
      if kind ∉ [1, 2, 3, 4, 5, 6, 7, 8, 15] ∨ 2 ^ 25 < off + bs.length then u.finish p id { status := 0x12, detail := 3 }
      else if off % 8 ≠ 0 then u.finish p id { status := 0x12 }
      else (u.onSec fun x => x.onBank f.bank fun b => { b with
        images := bs.zipIdx.foldl (fun m v => smSet m (kind * 2 ^ 25 + off + v.2) v.1) b.images }).finish p id {}) ∧
    (Completes (.fwCommit c) 0xF12 c s fun u p id => served u p id fun f =>
      let active := (arg c.words 1).getLsbD 0
      let advance := (arg c.words 1).getLsbD 1
      match u.sec.inconsistent (u.sec.bankAt f.bank) with
      | some (reason, kind) => (u.interim p id).finish p id
          { status := if reason = 2 ∨ reason = 3 then 0x61 else 0x60, detail := kind, words := [BitVec.ofNat 64 reason] }
      | none => (((u.interim p id).onSec fun x => { x with
          bootable := x.bootable.set (bankIx f.bank) true, cnt := x.cnt.set (bankIx f.bank) 0
          pendingSvn := x.pendingSvn.set (bankIx f.bank) advance
          preferred := if active then f.bank else x.preferred, session := none }).event fromMarkhor 0xC2
            [packBits [(bankCode (some f.bank), 0), (b2n active, 8), (b2n advance, 9)]]).finish p id
          { words := [BitVec.ofNat 64 (u.sec.bankAt f.bank).feature, BitVec.ofNat 64 ((u.sec.bankAt f.bank).manifest 0 1)] }) ∧
    (Completes (.fwAbort c) 0xF13 c s fun u p id => served u p id fun _ => (u.onSec fun x => { x with session := none }).finish p id {}) ∧
    (exec .fwSessionTimeout s = .next (s.onSec fun x => { x with session := none })) ∧
    (let n := (arg c.words 3).toNat
     Completes (.logRead c) 0xF20 c s fun u p id =>
      if (arg c.words 1).getLsbD 0 then
        if u.sec.boot ≠ .ready then u.finish p id { status := 0x12, detail := 1 }
        else if n = 0 ∨ 32768 < n then u.finish p id { status := 0x12 }
        else
          let bs := (List.range n).map fun i => Config.logByte (u.sec.bootCount * 2 ^ 64 + (arg c.words 2).toNat + i)
          u.finish p id { words := bytesWords ((n + 7) / 8) bs }
      else if n = 0 ∨ 256 < n then u.finish p id { status := 0x12 }
      else
        let first := max 1 (arg c.words 2).toNat
        let log := u.sec.bootLog.reverse
        let rs := (log.filter fun r => decide (first ≤ r.number)).take n
        let oldest := ((log.head?).map (·.number)).getD (u.sec.bootCount + 1)
        u.finish p id { status := if log ≠ [] ∧ first < oldest then 1 else 0
                        words := [BitVec.ofNat 64 oldest, BitVec.ofNat 64 rs.length] ++ rs.flatMap BootRec.words }) ∧
    let n := fld (arg c.words 1) 0 2
    Completes (.moduleReset c) 0xF30 c s fun u p id =>
      if n = 3 then u.finish p id { status := 0x12 }
      else if n ≠ 0 ∧ u.sec.bootable[bankIx (n == 2)] = false then u.finish p id { status := 0x12, detail := 1 }
      else (u.onSec fun x => { x with resetDue := true, oneShot := if n = 0 then x.oneShot else some (n == 2) }).finish p id {}

/-- The host commands on identity, security and firmware (R553 to R571). -/
def Obligations.SecurityAndFirmware : Prop := Claim.SecurityCommands ∧ Claim.FirmwareCommands

/-! ### Power (R573 to R599, R621 to R623) -/

/-- PWR_STATE and COMPUTE_RESET. PWR_STATE is busy while a change, a reset or the placement of a load runs; it refuses A1 with a graph
loaded, a reserved value, and a state that powers a region after a leak; it takes its cap, its ports off and its ports cycled; the
same state or none is answered at once, and another begins a change, for which the budget goes. COMPUTE_RESET is busy in the same way,
has no place in A1 and A3, and else begins with a quiesce (R586, R587, R591, R621). -/
def Claim.PowerCommands : Prop :=
  ∀ (c : HostCmd) (s : State),
    let a := arg c.words 1
    let b := arg c.words 2
    let n := fld a 0 3
    let cap := fld b 0 12
    (Completes (.pwrState c) 0x801 c s fun u p id =>
      let loading := u.run.placing.any fun x => match x with
        | .load _ _ _ => true
        | _ => false
      if u.pwr.transition.isSome ∨ u.pwr.creset.isSome ∨ loading then u.finish p id { status := 0x10 }
      else if n = 1 ∧ u.run.graph.isSome then u.finish p id { status := 0x12, detail := 1 }
      else if n = 4 ∨ n = 5 ∨ n = 6 ∨ (b.getLsbD 12 ∧ cap ≠ 0 ∧ (cap < 1000 ∨ 3200 < cap)) then u.finish p id { status := 0x12, detail := 2 }
      else if u.pwr.leak ∧ n ≤ 2 then u.finish p id { status := 0x12, detail := 3 }
      else
        let watts : BitVec 12 := if b.getLsbD 12 = false then u.pwr.capW else if cap = 0 then 3200 else BitVec.ofNat 12 cap
        let v := u.onPwr fun w => { w with capW := watts }
        let v := if a.getLsbD 16 then v.setFabOff (a.extractLsb' 8 8) else v
        let v := (listed (a.extractLsb' 24 8)).foldl State.fabricPortReset v
        let go (st : PState) : State :=
          let x : Transition := { target := st, immediate := a.getLsbD 3, port := p, tag := id }
          let w := v.onPwr fun w => { w with transition := some x }
          if st = u.pwr.state then v.finish p id { words := [packBits [(st.code, 0)]] }
          else if st = .a0 then w
          else if a.getLsbD 3 then w.cutSteps.quiesceNow else w.cutSteps
        if n = 0 then go .a0 else if n = 1 then go .a1 else if n = 2 then go .a2 else if n = 3 then go .a3
        else v.finish p id { words := [packBits [(u.pwr.state.code, 0)]] }) ∧
    (Completes (.computeReset c) 0x802 c s fun u p id =>
      if u.pwr.transition.isSome ∨ u.pwr.creset.isSome then u.finish p id { status := 0x10 }
      else if u.pwr.state = .a1 ∨ u.pwr.state = .a3 then u.finish p id { status := 0x12, detail := 1 }
      else
        let v := ((u.onPwr fun w => { w with creset := some { port := p, tag := id } }).cutSteps).quiesceNow
        if v.quiet then v.enterCReset { port := p, tag := id } else v) ∧
    ∀ u : State, u.cutSteps.run.budget = 0 ∧ u.cutSteps.run.waits = [] ∧ u.quiesceNow.run.stopped = true

/-- How a change of state goes on. It is entered once no step, no firing and no snapshot is under way and the module is quiesced, A0 at
once; memory sleeps before A2 and A3. Its region domains switch, at most four at a time, toward the target's; with none left it is
complete, and A3 has lost the volatile class. A compute reset goes on once its firings have ended, or stops those that outlive its
grace; it loses the volatile class, and ends with every region on and memory awake, its scrub at 0. With neither under way nothing
changes (R576, R587, R588, R591, R593; log entry 41 on the order of the regions). -/
def Claim.PowerTransitions : Prop :=
  ∀ s : State,
    (s.pwr.transition = none → exec .powerStateEntry s = .next s) ∧
    (∀ x, s.pwr.transition = some x →
      let v := if s.run.stopped ∧ s.quiet then s else s.quiesceNow
      let idle := s.run.step = none ∧ s.run.stopping = false ∧ s.hlt.phase = .idle
      (x.entered = true → exec .powerStateEntry s = .next s) ∧
      (x.entered = false → x.target = .a0 → exec .powerStateEntry s = .next (s.switchDomains x)) ∧
      (x.entered = false → x.target ≠ .a0 → ¬ idle → exec .powerStateEntry s = .next s) ∧
      (x.entered = false → x.target ≠ .a0 → idle → v.run.stopping = true ∨ v.quiet = false → exec .powerStateEntry s = .next v) ∧
      (x.entered = false → x.target ≠ .a0 → idle → v.run.stopping = false → v.quiet = true → exec .powerStateEntry s = .next
        ((if x.target = .a1 then v.applyLate else v.applyLate.sleep).switchDomains
          { x with outcome := (v.applyLate.pwr.transition.map (·.outcome)).getD x.outcome })) ∧
      (x.entered = false → x.target = .a2 → idle → s.run.stopped = true →
        s.quiet = true → s.txn = none → s.pwr.state = .a0 → s.pwr.regions = BitVec.allOnes 24 →
        Answers .powerStateEntry s fun t => t.pwr.state = .a2 ∧ t.pwr.transition = none ∧
          t.glob.selfRefresh = true ∧ (∀ p, (t.part p).selfRefresh = true) ∧ t.mem = s.mem) ∧
      (x.entered = false → exec .regionDomainSwitch s = .next s) ∧
      (x.entered = true → Answers .regionDomainSwitch s fun t =>
        let want := x.target.regions
        let n := (List.range 24).countP fun r => s.pwr.regions.getLsbD r != want.getLsbD r
        (4 < n → t = s.supply x.target (switchFour s.pwr.regions want) ∧
          (List.range 24).countP (fun r => t.pwr.regions.getLsbD r != want.getLsbD r) = n - 4 ∧ t.pwr.transition = some x) ∧
        (n ≤ 4 → t.pwr.regions = want ∧ t.pwr.transition = none ∧ t.pwr.state = x.target) ∧
        (n ≤ 4 → x.target = .a3 → t.hlt.rcv = 0 ∧ t.fab.ep = true ∧ t.run.graph = none ∧ t.sec.debugOpen = 0))) ∧
    (s.pwr.transition = none → s.pwr.creset = none → exec .regionDomainSwitch s = .next s) ∧
    (s.pwr.creset = none → exec .computeResetGraceExpiry s = .next s) ∧
    ∀ y, s.pwr.creset = some y →
      (y.entered = true → exec .computeResetGraceExpiry s = .next s) ∧
      (y.entered = false → exec .computeResetGraceExpiry s =
        .next (s.stopFirings.enterCReset { y with stopped := (s.cls.toList.map fun k => k.firings.length).foldl (· + ·) 0 })) ∧
      (s.pwr.transition = none → y.entered = false → exec .regionDomainSwitch s = .next (if s.quiet then s.enterCReset y else s)) ∧
      (s.pwr.transition = none → y.entered = true → Answers .regionDomainSwitch s fun t =>
        let n := (List.range 24).countP fun r => s.pwr.regions.getLsbD r = false
        (4 < n → t = s.supply .a0 (switchFour s.pwr.regions (BitVec.allOnes 24)) ∧ t.pwr.creset = some y) ∧
        (n ≤ 4 → t.pwr.regions = BitVec.allOnes 24 ∧ t.pwr.creset = none ∧ t.pwr.state = .a0 ∧ t.glob.selfRefresh = false ∧
          t.pwr.rstComputeCnt = s.pwr.rstComputeCnt + 1 ∧ ∀ p, (t.part p).selfRefresh = false ∧ (t.part p).scrubPos = 0)) ∧
      let t := s.enterCReset y
      t.hlt.rcv = 0 ∧ t.fab.ep = true ∧ t.run.graph = none ∧ t.txn = none ∧ t.sec.debugOpen = 0 ∧ ∀ c, t.cl c = (t.cl c).lost

/-- An island that fails to answer once is reported and tried again; a second time within 1,000 ticks it fences the regions at the
crossing, or else resets the fabric ports at it, or else is fatal. A droop is counted for its region until the next sample and costs
the region's engines with work 256 cycles; a cage that takes too much current is cut and its link goes DOWN. A module without power
sees none of them, and a domain that is off no droop; one held in reset has no crossing, and where either end's clock stands there is
no timeout (R580, R581, R597, R604, R623; a crossing has two ends). -/
def Claim.SupplyFaults : Prop :=
  ∀ s : State,
    (∀ snd rcv : Fin 100,
      let again := s.pwr.retrying snd rcv
      let v := s.onPwr fun p => { p with
        islands := p.islands.set snd { p.islands[snd] with timeouts := satAdd p.islands[snd].timeouts 1 }
        retried := (p.retried.filter fun x => !(x.1 == snd && x.2.1 == rcv)) ++ (if again then [] else [(snd, rcv, p.islands[snd].ticks)]) }
      let ports := (portIsland snd.val).toList ++ (portIsland rcv.val).toList
      (snd = rcv ∨ s.pwr.islands[snd].running = false ∨ s.pwr.islands[rcv].running = false ∨ s.pwr.off = true ∨ s.sec.extHeld = true →
        exec (.islandTimeout snd rcv) s = .next s) ∧
      (snd ≠ rcv → s.pwr.islands[snd].running = true → s.pwr.islands[rcv].running = true → s.pwr.off = false → s.sec.extHeld = false →
        (again = false → Answers (.islandTimeout snd rcv) s fun t => t = v.timeoutEvent snd rcv false false ∧
          Logged s t 0x74 [packBits [(snd.val, 0), (rcv.val, 8), (0, 16), (0, 17)]] ∧ t.pwr.retrying snd rcv = true ∧
          t.pwr.islands[snd].timeouts = satAdd s.pwr.islands[snd].timeouts 1 ∧ t.cls = s.cls ∧ t.mem = s.mem) ∧
        (again = true → snd.val < 48 ∨ rcv.val < 48 → exec (.islandTimeout snd rcv) s =
          .next (((v.timeoutEvent snd rcv true false).fenceRegion snd.val).fenceRegion rcv.val)) ∧
        (again = true → 48 ≤ snd.val → 48 ≤ rcv.val → ports ≠ [] → exec (.islandTimeout snd rcv) s =
          .next (ports.foldl State.fabricPortReset (v.timeoutEvent snd rcv true false))) ∧
        (again = true → 48 ≤ snd.val → 48 ≤ rcv.val → ports = [] → Answers (.islandTimeout snd rcv) s fun t =>
          Logged s t 0x74 [packBits [(snd.val, 0), (rcv.val, 8), (1, 16), (1, 17)]] ∧ (snd, rcv) ∈ t.pwr.dead ∧
          t.pwr.retrying snd rcv = false ∧ t.cls = s.cls ∧ t.mem = s.mem))) ∧
    (∀ (u : State) (r : Rg) (n : Nat), n < 48 → n % 24 = r.val →
      u.fenceRegion n = (clustersOf r).foldl (fun v c => v.fence c .islandTimeout) u) ∧
    (∀ rg : Rg,
      (s.pwr.off = true ∨ s.pwr.domains.getLsbD rg.val = false → exec (.droop rg) s = .next s) ∧
      (s.pwr.off = false → s.pwr.domains.getLsbD rg.val = true → exec (.droop rg) s = .next ((s.loseCycles rg 256).onPwr fun p => { p with
        droops := p.droops.set rg (p.droops[rg] + 1), droopCnt := p.droopCnt + 1 }))) ∧
    ∀ p : FPort, (s.pwr.off = true → exec (.cageOvercurrent p) s = .next s) ∧
      (s.pwr.off = false → Answers (.cageOvercurrent p) s fun t => (t.link p).cageCut = true ∧ (t.link p).link = .down ∧
        t.pwr.domains.getLsbD (40 + p.val) = false ∧ t.mem = s.mem)

/-- Power: the commands that change its state, the changes, and faults of supply (R576 to R597, R623). -/
def Obligations.PowerChanges : Prop := Claim.PowerCommands ∧ Claim.PowerTransitions ∧ Claim.SupplyFaults

/-! ### Boot and resets (R548 to R552, R571, R590 to R594, R614, R625, R626) -/

/-- What every reset that runs the boot leaves: no graph, no command outstanding, no event, no byte of memory defined, the
always-on supervisor alone powered, its cause recorded; the flash banks, the fuses and the fault record stay. Each of them acts only
where its cause can arise: a power-on reset from Off, the others with power and not held, in INIT or with a reset asked for; elsewhere
nothing changes (R550, R551, R571, R590, R592, R594, R626; log entry 42 on the commands that do nothing). -/
def Obligations.ResetsReboot : Prop :=
  ∀ (s : State) (i : Instr) (cause : Nat) (strap : Byte) (due : Bool),
    (i = .powerOnReset strap ∧ cause = 1 ∧ due = s.pwr.off) ∨
    (i = .moduleResetExecute strap ∧ cause = 2 ∧ due = (s.sec.resetDue && !s.pwr.off && !s.sec.extHeld)) ∨
    ((i = .bootWatchdog strap ∨ i = .initCheckFailed strap) ∧ cause = 4 ∧ due = (s.sec.boot == .init && !s.pwr.off && !s.sec.extHeld)) →
    (due = false → exec i s = .next s) ∧
    (due = true → Answers i s fun t =>
      t.pwr.off = false ∧ t.pwr.rstCause = BitVec.ofNat 3 cause ∧ t.hlt.strap = strap ∧ t.run = {} ∧ t.txn = none ∧ t.reqs = [] ∧
        t.flights = [] ∧ t.glob = {} ∧ t.perf = {} ∧ t.debugAddr = 0 ∧ t.events = [] ∧ t.evtSeq = 1 ∧ t.mem.cells = [] ∧
        (∀ p, (t.port p).outstanding = [] ∧ (t.port p).fifo = [] ∧ (t.port p).out = []) ∧
        (∀ n : Fin 100, t.pwr.islands[n].powered = decide (96 ≤ n.val)) ∧ t.pwr.domains = 0 ∧ t.sec.bank = none ∧
        t.sec.banks = s.sec.banks ∧ t.sec.svn = s.sec.svn ∧ t.sec.revoked = s.sec.revoked ∧ t.sec.debugOpen = 0 ∧ t.fenced = s.fenced ∧
        (t.sec.boot = .load ∨ t.sec.boot = .recovery) ∧ t.pending = s.pending)

/-- R550: the ROM takes the bank asked for once, else the preferred one, else the other, of those that are bootable and have
failed fewer than three attempts, and counts the attempt; with none it enters RECOVERY. -/
def Obligations.BankSelection : Prop :=
  ∀ x : Security,
    (∀ b, x.oneShot = some b → x.romSelect = { x with
      cnt := x.cnt.set (bankIx b) (satAdd x.cnt[bankIx b] 1), oneShot := none, trying := some b, boot := .load }) ∧
    (∀ b, x.oneShot = none → x.usable b = true → (b = x.preferred ∨ x.usable x.preferred = false) → x.romSelect = { x with
      cnt := x.cnt.set (bankIx b) (satAdd x.cnt[bankIx b] 1), trying := some b, boot := .load }) ∧
    (x.oneShot = none → x.usable false = false → x.usable true = false → x.romSelect = { x with boot := .recovery })

/-- The rest of a boot: a consistent bank enters INIT with memory zeroed, one that is not ends the attempt in RECOVERY with a record. The
end of INIT makes the bank run: its failures are forgotten, it is preferred from now on, a pending advance raises the security version
and retires the other bank where that is below it, and BOOT_RESULT, BANK_FALLBACK and SVN_ADVANCED are entered in this order. In any
other state nothing changes (R546, R550, R551, R558, R570). -/
def Claim.BootProceeds : Prop :=
  ∀ s : State,
    (s.sec.trying = none ∨ s.pwr.off = true ∨ s.sec.extHeld = true → exec .bootLoadDone s = .next s ∧ exec .bootReady s = .next s) ∧
    (s.sec.boot ≠ .load → exec .bootLoadDone s = .next s) ∧ (s.sec.boot ≠ .init → exec .bootReady s = .next s) ∧
    ∀ b, s.sec.trying = some b → s.pwr.off = false → s.sec.extHeld = false →
      (s.sec.boot = .load → s.sec.inconsistent (s.sec.bankAt b) = none → Answers .bootLoadDone s fun t =>
        t.sec.boot = .init ∧ t.sec.trying = some b ∧ t.sec.keySvn = s.sec.svn ∧ (∀ p : Pt, (t.part p).initBusy = decide (p.val < 12)) ∧
          ∀ a, a < 576 * 2 ^ 30 → t.mem.get a = 0) ∧
      (∀ reason kind, s.sec.boot = .load → s.sec.inconsistent (s.sec.bankAt b) = some (reason, kind) → Answers .bootLoadDone s fun t =>
        t.sec.boot = .recovery ∧ t.sec.trying = none ∧ t.sec.bank = s.sec.bank ∧
          ∃ r rest, t.sec.bootLog = r :: rest ∧ r.reason = reason ∧ r.kind = kind ∧ r.bank = bankCode (some b) ∧
            r.status = (if reason = 2 ∨ reason = 3 then 0x61 else 0x60)) ∧
      (s.sec.boot = .init → Answers .bootReady s fun t =>
        let advance := s.sec.pendingSvn[bankIx b]
        let svn := if advance then max s.sec.svn (min 64 ((s.sec.bankAt b).manifest 0 1)) else s.sec.svn
        let codes := [0xC0] ++ (if b = s.sec.preferred then [] else [0xC1]) ++ (if advance then [0xC3] else [])
        t.sec.boot = .ready ∧ t.sec.bank = some b ∧ t.sec.cnt[bankIx b] = 0 ∧ t.sec.trying = none ∧ t.sec.preferred = b ∧ t.sec.svn = svn ∧
        t.sec.keySvn = s.sec.keySvn ∧
        t.sec.revoked = (if advance then s.sec.revoked ||| BitVec.ofNat 6 ((s.sec.bankAt b).manifest 4 2 % 64) else s.sec.revoked) ∧
        t.sec.pendingSvn[bankIx b] = false ∧
        t.sec.bootable[bankIx (!b)] = (s.sec.bootable[bankIx (!b)] && !(advance && decide ((s.sec.bankAt (!b)).manifest 0 1 < svn))) ∧
        t.evtSeq = s.evtSeq + BitVec.ofNat 64 codes.length ∧ (t.events.take codes.length).map (·.code) = codes.reverse.map (BitVec.ofNat 16) ∧
        (codes.length = 1 → Logged s t 0xC0 [packBits [(bankCode (some b), 0), ((s.sec.bootCount + 1) % 256, 8)]]))

/-- The loss of the input and the external reset stop the module: power goes, after the event of a module in READY, or the always-on
supervisor alone is left with the rest held until the release runs the boot. A module without power, and one held already or not
held, does not change (R592, R614, R625, R626). -/
def Claim.PowerLostAndHeld : Prop :=
  ∀ s : State,
    (∀ (mv : BitVec 16) (high : Bool),
      (s.pwr.off = true → exec (.powerInputLost mv high) s = .next s) ∧
      (s.pwr.off = false → Answers (.powerInputLost mv high) s fun t => t.pwr.off = true ∧ t.sec.banks = s.sec.banks ∧ t.fenced = s.fenced ∧
        (∀ n : Fin 100, t.pwr.islands[n].powered = false) ∧ t.sec.trying = s.sec.trying ∧
        (s.sec.boot = .ready → Logged s t 0x76 [packBits [(mv.toNat, 0), (if high then 2 else 1, 16)]]) ∧
        (s.sec.boot ≠ .ready → t.events = s.events))) ∧
    (s.pwr.off = true ∨ s.sec.extHeld = true → exec .extRstAssert s = .next s) ∧
    (s.pwr.off = false → s.sec.extHeld = false → Answers .extRstAssert s fun t => t.sec.extHeld = true ∧ t.sec.banks = s.sec.banks ∧
      t.sec.trying = none ∧ t.sec.oneShot = s.sec.oneShot ∧ ∀ n : Fin 100, t.pwr.islands[n].powered = decide (96 ≤ n.val)) ∧
    ∀ strap : Byte,
      (s.pwr.off = true ∨ s.sec.extHeld = false → exec (.extRstRelease strap) s = .next s) ∧
      (s.pwr.off = false → s.sec.extHeld = true → Answers (.extRstRelease strap) s fun t => t.sec.extHeld = false ∧ t.pwr.rstCause = 3 ∧
        t.hlt.strap = strap ∧ t.sec.bank = none ∧ (t.sec.boot = .load ∨ t.sec.boot = .recovery))

/-- The rest of a boot, and what stops and holds the module (R546 to R551, R570, R614, R625, R626). -/
def Obligations.BootAndHolds : Prop := Claim.BootProceeds ∧ Claim.PowerLostAndHeld

/-- The sideband's debug window: outside READY, and at an address that no open scope opens, an access is not acknowledged; the directory
is read; a halted cluster's registers are read, and written but for settings, which a transaction alone sets; its tile memory is read
and written eight bytes at a time; the content of a range that the directory names is free (log entry 17). An acknowledged access
moves the address on (R563, R627, R629). -/
def Obligations.DebugWindow : Prop :=
  ∀ s : State,
    let a := s.debugAddr.toNat
    let moved (t : State) (w : Word) : State := { t with debugReply := some w, debugAddr := s.debugAddr + 8 }
    (s.pwr.off = true ∨ s.sec.extHeld = true ∨ s.sec.boot ≠ .ready ∨ s.debugAt a = .closed →
      ∀ w, exec (.debugDataAccess w) s = .next { s with debugReply := none }) ∧
    (s.sec.debugOpen = 0 ∨ a % 8 ≠ 0 → s.debugAt a = .closed) ∧
    (s.pwr.off = false → s.sec.extHeld = false → s.sec.boot = .ready →
      (∀ i, s.debugAt a = .directory i → exec (.debugDataAccess none) s = .next (moved s (directoryWord i)) ∧
        ∀ w, exec (.debugDataAccess (some w)) s = .next (moved s w)) ∧
      (∀ c, s.debugAt a = .register c → exec (.debugDataAccess none) s = .next (moved s ((s.liveReg a).getD 0)) ∧
        ∀ w, exec (.debugDataAccess (some w)) s = .next (if settable a then { s with debugReply := none } else moved (s.writeReg a w) w)) ∧
      (s.debugAt a = .range → (∃ w, exec (.debugDataAccess none) s = .next (moved { s with nonce := s.nonce + 1 } w)) ∧
        ∀ w, exec (.debugDataAccess (some w)) s = .next (moved s w)) ∧
      (s.debugAt a = .tile → exec (.debugDataAccess none) s = .next (moved s (s.mem.word a)) ∧
        ∀ w, s.mem.wf = true → Answers (.debugDataAccess (some w)) s fun t =>
          t = moved { s with mem := t.mem } w ∧ t.mem.word a = w ∧ ∀ d, d < a ∨ a + 8 ≤ d → t.mem.get d = s.mem.get d)) ∧
    ∀ (c : Cl) (off : Nat), s.sec.debugOpen.getLsbD 0 = true → s.debugAt a = .register c ∨ (s.debugAt a = .tile ∧ rangeOf a = .tile off ∧ clOf off = some c) →
      (s.cl c).tahr.wait = some .debug

/-- The values that the spec gives the reset state, of each kind: mailboxes, health, memory, fabric, power. That this is a module in
READY and A0 is the model's choice (log entry 4). -/
def Obligations.ResetValues : Prop :=
  (∀ p, (State.reset.port p).out = [] ∧ (State.reset.port p).outstanding = [] ∧ (State.reset.port p).evtMask = 8) ∧
  State.reset.hlt.t1 = 64 ∧ State.reset.hlt.t2 = 128 ∧ State.reset.hlt.t3 = 192 ∧ State.reset.hlt.maxSteps = 16 ∧
  State.reset.hlt.mirrorEvery = 8 ∧ State.reset.hlt.rcv = 0 ∧ State.reset.run.graph = none ∧ State.reset.run.budget = 0 ∧
  State.reset.fab.valid = false ∧ State.reset.fab.ep = true ∧ State.reset.fab.rtr = false ∧ State.reset.pwr.state = .a0 ∧
  State.reset.sec.boot = .ready ∧ State.reset.pending = [] ∧ (∀ c, (State.reset.cl c).vec.sscale = 0x7F) ∧
  ∀ a, a < 576 * 2 ^ 30 → State.reset.mem.get a = 0
end

