-- ==== Sys2Proof/Laws/Memory.lean ====
section
/-! SUPPORT. Memory: every operation keeps the canonical form; a byte written reads back, and no other byte changes. -/
namespace Sys2Proof.Machine

/-! ### Cells -/

theorem cellsWf_mono {unl : Nat → Byte} {lo lo' : Nat} {m : List Host.Cell} (h : cellsWf unl lo m = true) (hl : lo' ≤ lo) :
    cellsWf unl lo' m = true := by
  cases m with
  | nil => rfl
  | cons c m =>
    obtain ⟨b, v⟩ := c
    simp only [cellsWf, Bool.and_eq_true, decide_eq_true_eq] at h ⊢
    exact ⟨⟨by omega, h.1.2⟩, h.2⟩

theorem cellPut_wf {unl : Nat → Byte} {lo : Nat} {m : List Host.Cell} {a : Nat} (x : Byte) (h : cellsWf unl lo m = true)
    (ha : lo ≤ a) : cellsWf unl lo (cellPut unl m a x) = true := by
  induction m generalizing lo with
  | nil => simp only [cellPut]; split <;> simp_all [cellsWf]
  | cons c m ih =>
    obtain ⟨b, v⟩ := c
    simp only [cellsWf, Bool.and_eq_true, decide_eq_true_eq] at h
    simp only [cellPut]
    split
    · split
      · simp_all [cellsWf]
      · simp only [cellsWf, Bool.and_eq_true, decide_eq_true_eq]
        exact ⟨⟨ha, by assumption⟩, ⟨by omega, h.1.2⟩, h.2⟩
    · split
      · subst_vars
        split
        · exact cellsWf_mono h.2 (by omega)
        · simp_all [cellsWf]
      · simp only [cellsWf, Bool.and_eq_true, decide_eq_true_eq]
        exact ⟨h.1, ih h.2 (by omega)⟩

theorem cellGet_below {unl : Nat → Byte} {lo : Nat} {m : List Host.Cell} {a : Nat} (h : cellsWf unl lo m = true) (ha : a < lo) :
    cellGet unl m a = unl a := by
  cases m with
  | nil => rfl
  | cons c m =>
    obtain ⟨b, v⟩ := c
    simp only [cellsWf, Bool.and_eq_true, decide_eq_true_eq] at h
    rw [cellGet, if_neg (by omega), if_pos (by omega)]

theorem cellGet_put {unl : Nat → Byte} {lo : Nat} {m : List Host.Cell} (a : Nat) (x : Byte) (b : Nat) (h : cellsWf unl lo m = true) :
    cellGet unl (cellPut unl m a x) b = if b = a then x else cellGet unl m b := by
  induction m generalizing lo with
  | nil =>
    by_cases hb : b = a <;> by_cases hx : x = unl a <;> simp_all [cellPut, cellGet]
  | cons c m ih =>
    obtain ⟨k, v⟩ := c
    simp only [cellsWf, Bool.and_eq_true, decide_eq_true_eq] at h
    simp only [cellPut]
    split
    · by_cases hx : x = unl a
      · rw [if_pos hx]
        by_cases hb : b = a
        · subst hb; rw [if_pos rfl, cellGet, if_neg (by omega), if_pos (by omega), hx]
        · rw [if_neg hb]
      · rw [if_neg hx, cellGet]
        by_cases hb : b = a
        · simp [hb]
        · rw [if_neg hb, if_neg hb]
          split
          · rw [cellGet, if_neg (by omega), if_pos (by omega)]
          · rfl
    · split
      · subst_vars
        by_cases hx : x = unl k
        · rw [if_pos hx]
          by_cases hb : b = k
          · subst hb; rw [if_pos rfl, cellGet_below h.2 (by omega), hx]
          · rw [if_neg hb, cellGet, if_neg hb]
            split
            · exact cellGet_below h.2 (by omega)
            · rfl
        · rw [if_neg hx, cellGet, cellGet]
          by_cases hb : b = k <;> simp [hb]
      · rw [cellGet, cellGet, ih h.2]
        by_cases hb : b = k
        · subst hb; rw [if_pos rfl, if_neg (by omega), if_pos rfl]
        · rw [if_neg hb, if_neg hb]
          by_cases hl : b < k
          · rw [if_pos hl, if_pos hl, if_neg (by omega)]
          · rw [if_neg hl, if_neg hl]

/-! ### Memory -/

@[simp] theorem Memory.set_fills (m : Memory) (a : Nat) (v : Byte) : (m.set a v).fills = m.fills := rfl
@[simp] theorem Memory.set_ue (m : Memory) (a : Nat) (v : Byte) : (m.set a v).ue = m.ue := rfl

@[simp] theorem Memory.set_wf {m : Memory} (a : Nat) (v : Byte) (h : m.wf = true) : (m.set a v).wf = true :=
  cellPut_wf v h (Nat.zero_le a)

theorem Memory.get_set {m : Memory} (h : m.wf = true) (a : Nat) (v : Byte) (b : Nat) :
    (m.set a v).get b = if b = a then v else m.get b := cellGet_put a v b h

@[simp] theorem Memory.write_wf {m : Memory} (ws : List WByte) (h : m.wf = true) : (m.write ws).wf = true := by
  induction ws generalizing m with
  | nil => exact h
  | cons w ws ih => exact ih (Memory.set_wf w.addr _ h)

/-- A byte that no write names reads as before. -/
theorem Memory.get_write_other {m : Memory} (h : m.wf = true) (ws : List WByte) (a : Nat) (ha : ∀ w ∈ ws, w.addr ≠ a) :
    (m.write ws).get a = m.get a := by
  induction ws generalizing m with
  | nil => rfl
  | cons w ws ih =>
    have hs : (m.set w.addr (w.apply (m.get w.addr))).wf = true := Memory.set_wf _ _ h
    have h2 : ((m.set w.addr (w.apply (m.get w.addr))).write ws).get a = (m.set w.addr (w.apply (m.get w.addr))).get a :=
      ih hs fun x hx => ha x (by simp [hx])
    have h1 : w.addr ≠ a := ha w (by simp)
    have h3 := Memory.get_set h w.addr (w.apply (m.get w.addr)) a
    rw [if_neg (Ne.symm h1)] at h3
    exact h2.trans h3

/-- The last write of a byte decides what it reads as. -/
theorem Memory.get_write_last {m : Memory} (h : m.wf = true) (ws : List WByte) (w : WByte) :
    (m.write (ws ++ [w])).get w.addr = w.apply ((m.write ws).get w.addr) := by
  have e : m.write (ws ++ [w]) = (m.write ws).set w.addr (w.apply ((m.write ws).get w.addr)) := by
    simp [Memory.write, List.foldl_append]
  rw [e, Memory.get_set (Memory.write_wf ws h)]
  simp

/-! ### Fills -/

theorem cellsWf_filter {unl unl' : Nat → Byte} {p : Nat → Bool} {lo : Nat} {m : List Host.Cell} (h : cellsWf unl lo m = true)
    (hp : ∀ a, p a = true → unl' a = unl a) : cellsWf unl' lo (m.filter fun c => p c.1) = true := by
  induction m generalizing lo with
  | nil => rfl
  | cons c m ih =>
    obtain ⟨b, v⟩ := c
    simp only [cellsWf, Bool.and_eq_true, decide_eq_true_eq] at h
    rw [List.filter_cons]
    split
    · rename_i hc
      simp only [cellsWf, Bool.and_eq_true, decide_eq_true_eq]
      exact ⟨⟨h.1.1, by rw [hp b hc]; exact h.1.2⟩, ih h.2⟩
    · exact cellsWf_mono (ih h.2) (by omega)

/-- Fills that lie within a stretch do not decide what addresses outside it read as. -/
theorem fillAt_filter (fs : List Fill) (base len a : Nat) (ha : a < base ∨ base + len ≤ a) :
    fillAt (fs.filter fun f => !(decide (base ≤ f.base) && decide (f.base + f.len ≤ base + len))) a = fillAt fs a := by
  induction fs with
  | nil => rfl
  | cons f fs ih =>
    rw [List.filter_cons]
    split
    · rw [fillAt, fillAt, ih]
    · rename_i hf
      rw [fillAt, ih, if_neg]
      simp only [Bool.not_eq_true, Bool.not_eq_false', Bool.and_eq_true, decide_eq_true_eq] at hf
      omega

@[simp] theorem Memory.fill_wf {m : Memory} (base len : Nat) (nonce : Option Nat) (h : m.wf = true) :
    (m.fill base len nonce).wf = true := by
  refine cellsWf_filter (p := fun a => decide (a < base) || decide (base + len ≤ a)) h ?_
  intro a ha
  simp only [Bool.or_eq_true, decide_eq_true_eq] at ha
  have hf := fillAt_filter m.fills base len a ha
  have key : fillAt (m.fill base len nonce).fills a = fillAt m.fills a := by
    simp only [Memory.fill]
    split
    · rename_i hc
      rw [← hf, hc.1]
    · rw [fillAt, if_neg (by simp only; omega), hf]
  change unlisted (m.fill base len nonce).fills a = unlisted m.fills a
  unfold unlisted
  rw [key]

@[simp] theorem Memory.ue_wf {m : Memory} (u : List Nat) (h : m.wf = true) : ({ m with ue := u } : Memory).wf = true := h

@[simp] theorem Memory.empty_wf : ({} : Memory).wf = true := rfl
@[simp] theorem Memory.fresh_wf (fs : List Fill) (u : List Nat) : ({ cells := [], fills := fs, ue := u } : Memory).wf = true := rfl

end Sys2Proof.Machine
end

