-- ==== Sys2Proof/Laws/State.lean ====
section
/-! SUPPORT. What each update of the state leaves in each field. -/
namespace Sys2Proof.Machine

variable (s : State)

/-! ### onCl -/

@[simp] theorem State.onCl_pending (c : Cl) (f : Cluster → Cluster) : (s.onCl c f).pending = s.pending := rfl
@[simp] theorem State.onCl_nonce (c : Cl) (f : Cluster → Cluster) : (s.onCl c f).nonce = s.nonce := rfl
@[simp] theorem State.onCl_mem (c : Cl) (f : Cluster → Cluster) : (s.onCl c f).mem = s.mem := rfl
@[simp] theorem State.onCl_glob (c : Cl) (f : Cluster → Cluster) : (s.onCl c f).glob = s.glob := rfl
@[simp] theorem State.onCl_parts (c : Cl) (f : Cluster → Cluster) : (s.onCl c f).parts = s.parts := rfl
@[simp] theorem State.onCl_reqs (c : Cl) (f : Cluster → Cluster) : (s.onCl c f).reqs = s.reqs := rfl
@[simp] theorem State.onCl_cls (c : Cl) (f : Cluster → Cluster) : (s.onCl c f).cls = s.cls.set c (f s.cls[c]) := rfl
@[simp] theorem State.onCl_rgs (c : Cl) (f : Cluster → Cluster) : (s.onCl c f).rgs = s.rgs := rfl
@[simp] theorem State.onCl_flights (c : Cl) (f : Cluster → Cluster) : (s.onCl c f).flights = s.flights := rfl
@[simp] theorem State.onCl_run (c : Cl) (f : Cluster → Cluster) : (s.onCl c f).run = s.run := rfl
@[simp] theorem State.onCl_fab (c : Cl) (f : Cluster → Cluster) : (s.onCl c f).fab = s.fab := rfl
@[simp] theorem State.onCl_hlt (c : Cl) (f : Cluster → Cluster) : (s.onCl c f).hlt = s.hlt := rfl
@[simp] theorem State.onCl_ports (c : Cl) (f : Cluster → Cluster) : (s.onCl c f).ports = s.ports := rfl
@[simp] theorem State.onCl_txn (c : Cl) (f : Cluster → Cluster) : (s.onCl c f).txn = s.txn := rfl
@[simp] theorem State.onCl_events (c : Cl) (f : Cluster → Cluster) : (s.onCl c f).events = s.events := rfl
@[simp] theorem State.onCl_evtSeq (c : Cl) (f : Cluster → Cluster) : (s.onCl c f).evtSeq = s.evtSeq := rfl
@[simp] theorem State.onCl_sec (c : Cl) (f : Cluster → Cluster) : (s.onCl c f).sec = s.sec := rfl
@[simp] theorem State.onCl_pwr (c : Cl) (f : Cluster → Cluster) : (s.onCl c f).pwr = s.pwr := rfl
@[simp] theorem State.onCl_perf (c : Cl) (f : Cluster → Cluster) : (s.onCl c f).perf = s.perf := rfl
@[simp] theorem State.onCl_fenced (c : Cl) (f : Cluster → Cluster) : (s.onCl c f).fenced = s.fenced := rfl
@[simp] theorem State.onCl_erasures (c : Cl) (f : Cluster → Cluster) : (s.onCl c f).erasures = s.erasures := rfl
@[simp] theorem State.onCl_debugAddr (c : Cl) (f : Cluster → Cluster) : (s.onCl c f).debugAddr = s.debugAddr := rfl
@[simp] theorem State.onCl_debugReply (c : Cl) (f : Cluster → Cluster) : (s.onCl c f).debugReply = s.debugReply := rfl

/-! ### onRg -/

@[simp] theorem State.onRg_pending (r : Rg) (f : Region → Region) : (s.onRg r f).pending = s.pending := rfl
@[simp] theorem State.onRg_nonce (r : Rg) (f : Region → Region) : (s.onRg r f).nonce = s.nonce := rfl
@[simp] theorem State.onRg_mem (r : Rg) (f : Region → Region) : (s.onRg r f).mem = s.mem := rfl
@[simp] theorem State.onRg_glob (r : Rg) (f : Region → Region) : (s.onRg r f).glob = s.glob := rfl
@[simp] theorem State.onRg_parts (r : Rg) (f : Region → Region) : (s.onRg r f).parts = s.parts := rfl
@[simp] theorem State.onRg_reqs (r : Rg) (f : Region → Region) : (s.onRg r f).reqs = s.reqs := rfl
@[simp] theorem State.onRg_cls (r : Rg) (f : Region → Region) : (s.onRg r f).cls = s.cls := rfl
@[simp] theorem State.onRg_rgs (r : Rg) (f : Region → Region) : (s.onRg r f).rgs = s.rgs.set r (f s.rgs[r]) := rfl
@[simp] theorem State.onRg_flights (r : Rg) (f : Region → Region) : (s.onRg r f).flights = s.flights := rfl
@[simp] theorem State.onRg_run (r : Rg) (f : Region → Region) : (s.onRg r f).run = s.run := rfl
@[simp] theorem State.onRg_fab (r : Rg) (f : Region → Region) : (s.onRg r f).fab = s.fab := rfl
@[simp] theorem State.onRg_hlt (r : Rg) (f : Region → Region) : (s.onRg r f).hlt = s.hlt := rfl
@[simp] theorem State.onRg_ports (r : Rg) (f : Region → Region) : (s.onRg r f).ports = s.ports := rfl
@[simp] theorem State.onRg_txn (r : Rg) (f : Region → Region) : (s.onRg r f).txn = s.txn := rfl
@[simp] theorem State.onRg_events (r : Rg) (f : Region → Region) : (s.onRg r f).events = s.events := rfl
@[simp] theorem State.onRg_evtSeq (r : Rg) (f : Region → Region) : (s.onRg r f).evtSeq = s.evtSeq := rfl
@[simp] theorem State.onRg_sec (r : Rg) (f : Region → Region) : (s.onRg r f).sec = s.sec := rfl
@[simp] theorem State.onRg_pwr (r : Rg) (f : Region → Region) : (s.onRg r f).pwr = s.pwr := rfl
@[simp] theorem State.onRg_perf (r : Rg) (f : Region → Region) : (s.onRg r f).perf = s.perf := rfl
@[simp] theorem State.onRg_fenced (r : Rg) (f : Region → Region) : (s.onRg r f).fenced = s.fenced := rfl
@[simp] theorem State.onRg_erasures (r : Rg) (f : Region → Region) : (s.onRg r f).erasures = s.erasures := rfl
@[simp] theorem State.onRg_debugAddr (r : Rg) (f : Region → Region) : (s.onRg r f).debugAddr = s.debugAddr := rfl
@[simp] theorem State.onRg_debugReply (r : Rg) (f : Region → Region) : (s.onRg r f).debugReply = s.debugReply := rfl

/-! ### onPart -/

@[simp] theorem State.onPart_pending (p : Pt) (f : Part → Part) : (s.onPart p f).pending = s.pending := rfl
@[simp] theorem State.onPart_nonce (p : Pt) (f : Part → Part) : (s.onPart p f).nonce = s.nonce := rfl
@[simp] theorem State.onPart_mem (p : Pt) (f : Part → Part) : (s.onPart p f).mem = s.mem := rfl
@[simp] theorem State.onPart_glob (p : Pt) (f : Part → Part) : (s.onPart p f).glob = s.glob := rfl
@[simp] theorem State.onPart_parts (p : Pt) (f : Part → Part) : (s.onPart p f).parts = s.parts.set p (f s.parts[p]) := rfl
@[simp] theorem State.onPart_reqs (p : Pt) (f : Part → Part) : (s.onPart p f).reqs = s.reqs := rfl
@[simp] theorem State.onPart_cls (p : Pt) (f : Part → Part) : (s.onPart p f).cls = s.cls := rfl
@[simp] theorem State.onPart_rgs (p : Pt) (f : Part → Part) : (s.onPart p f).rgs = s.rgs := rfl
@[simp] theorem State.onPart_flights (p : Pt) (f : Part → Part) : (s.onPart p f).flights = s.flights := rfl
@[simp] theorem State.onPart_run (p : Pt) (f : Part → Part) : (s.onPart p f).run = s.run := rfl
@[simp] theorem State.onPart_fab (p : Pt) (f : Part → Part) : (s.onPart p f).fab = s.fab := rfl
@[simp] theorem State.onPart_hlt (p : Pt) (f : Part → Part) : (s.onPart p f).hlt = s.hlt := rfl
@[simp] theorem State.onPart_ports (p : Pt) (f : Part → Part) : (s.onPart p f).ports = s.ports := rfl
@[simp] theorem State.onPart_txn (p : Pt) (f : Part → Part) : (s.onPart p f).txn = s.txn := rfl
@[simp] theorem State.onPart_events (p : Pt) (f : Part → Part) : (s.onPart p f).events = s.events := rfl
@[simp] theorem State.onPart_evtSeq (p : Pt) (f : Part → Part) : (s.onPart p f).evtSeq = s.evtSeq := rfl
@[simp] theorem State.onPart_sec (p : Pt) (f : Part → Part) : (s.onPart p f).sec = s.sec := rfl
@[simp] theorem State.onPart_pwr (p : Pt) (f : Part → Part) : (s.onPart p f).pwr = s.pwr := rfl
@[simp] theorem State.onPart_perf (p : Pt) (f : Part → Part) : (s.onPart p f).perf = s.perf := rfl
@[simp] theorem State.onPart_fenced (p : Pt) (f : Part → Part) : (s.onPart p f).fenced = s.fenced := rfl
@[simp] theorem State.onPart_erasures (p : Pt) (f : Part → Part) : (s.onPart p f).erasures = s.erasures := rfl
@[simp] theorem State.onPart_debugAddr (p : Pt) (f : Part → Part) : (s.onPart p f).debugAddr = s.debugAddr := rfl
@[simp] theorem State.onPart_debugReply (p : Pt) (f : Part → Part) : (s.onPart p f).debugReply = s.debugReply := rfl

/-! ### onPort -/

@[simp] theorem State.onPort_pending (p : HPort) (f : HostPort → HostPort) : (s.onPort p f).pending = s.pending := rfl
@[simp] theorem State.onPort_nonce (p : HPort) (f : HostPort → HostPort) : (s.onPort p f).nonce = s.nonce := rfl
@[simp] theorem State.onPort_mem (p : HPort) (f : HostPort → HostPort) : (s.onPort p f).mem = s.mem := rfl
@[simp] theorem State.onPort_glob (p : HPort) (f : HostPort → HostPort) : (s.onPort p f).glob = s.glob := rfl
@[simp] theorem State.onPort_parts (p : HPort) (f : HostPort → HostPort) : (s.onPort p f).parts = s.parts := rfl
@[simp] theorem State.onPort_reqs (p : HPort) (f : HostPort → HostPort) : (s.onPort p f).reqs = s.reqs := rfl
@[simp] theorem State.onPort_cls (p : HPort) (f : HostPort → HostPort) : (s.onPort p f).cls = s.cls := rfl
@[simp] theorem State.onPort_rgs (p : HPort) (f : HostPort → HostPort) : (s.onPort p f).rgs = s.rgs := rfl
@[simp] theorem State.onPort_flights (p : HPort) (f : HostPort → HostPort) : (s.onPort p f).flights = s.flights := rfl
@[simp] theorem State.onPort_run (p : HPort) (f : HostPort → HostPort) : (s.onPort p f).run = s.run := rfl
@[simp] theorem State.onPort_fab (p : HPort) (f : HostPort → HostPort) : (s.onPort p f).fab = s.fab := rfl
@[simp] theorem State.onPort_hlt (p : HPort) (f : HostPort → HostPort) : (s.onPort p f).hlt = s.hlt := rfl
@[simp] theorem State.onPort_ports (p : HPort) (f : HostPort → HostPort) : (s.onPort p f).ports = s.ports.set p (f s.ports[p]) := rfl
@[simp] theorem State.onPort_txn (p : HPort) (f : HostPort → HostPort) : (s.onPort p f).txn = s.txn := rfl
@[simp] theorem State.onPort_events (p : HPort) (f : HostPort → HostPort) : (s.onPort p f).events = s.events := rfl
@[simp] theorem State.onPort_evtSeq (p : HPort) (f : HostPort → HostPort) : (s.onPort p f).evtSeq = s.evtSeq := rfl
@[simp] theorem State.onPort_sec (p : HPort) (f : HostPort → HostPort) : (s.onPort p f).sec = s.sec := rfl
@[simp] theorem State.onPort_pwr (p : HPort) (f : HostPort → HostPort) : (s.onPort p f).pwr = s.pwr := rfl
@[simp] theorem State.onPort_perf (p : HPort) (f : HostPort → HostPort) : (s.onPort p f).perf = s.perf := rfl
@[simp] theorem State.onPort_fenced (p : HPort) (f : HostPort → HostPort) : (s.onPort p f).fenced = s.fenced := rfl
@[simp] theorem State.onPort_erasures (p : HPort) (f : HostPort → HostPort) : (s.onPort p f).erasures = s.erasures := rfl
@[simp] theorem State.onPort_debugAddr (p : HPort) (f : HostPort → HostPort) : (s.onPort p f).debugAddr = s.debugAddr := rfl
@[simp] theorem State.onPort_debugReply (p : HPort) (f : HostPort → HostPort) : (s.onPort p f).debugReply = s.debugReply := rfl

/-! ### onPorts -/

@[simp] theorem State.onPorts_pending (f : HostPort → HostPort) : (s.onPorts f).pending = s.pending := rfl
@[simp] theorem State.onPorts_nonce (f : HostPort → HostPort) : (s.onPorts f).nonce = s.nonce := rfl
@[simp] theorem State.onPorts_mem (f : HostPort → HostPort) : (s.onPorts f).mem = s.mem := rfl
@[simp] theorem State.onPorts_glob (f : HostPort → HostPort) : (s.onPorts f).glob = s.glob := rfl
@[simp] theorem State.onPorts_parts (f : HostPort → HostPort) : (s.onPorts f).parts = s.parts := rfl
@[simp] theorem State.onPorts_reqs (f : HostPort → HostPort) : (s.onPorts f).reqs = s.reqs := rfl
@[simp] theorem State.onPorts_cls (f : HostPort → HostPort) : (s.onPorts f).cls = s.cls := rfl
@[simp] theorem State.onPorts_rgs (f : HostPort → HostPort) : (s.onPorts f).rgs = s.rgs := rfl
@[simp] theorem State.onPorts_flights (f : HostPort → HostPort) : (s.onPorts f).flights = s.flights := rfl
@[simp] theorem State.onPorts_run (f : HostPort → HostPort) : (s.onPorts f).run = s.run := rfl
@[simp] theorem State.onPorts_fab (f : HostPort → HostPort) : (s.onPorts f).fab = s.fab := rfl
@[simp] theorem State.onPorts_hlt (f : HostPort → HostPort) : (s.onPorts f).hlt = s.hlt := rfl
@[simp] theorem State.onPorts_ports (f : HostPort → HostPort) : (s.onPorts f).ports = s.ports.map f := rfl
@[simp] theorem State.onPorts_txn (f : HostPort → HostPort) : (s.onPorts f).txn = s.txn := rfl
@[simp] theorem State.onPorts_events (f : HostPort → HostPort) : (s.onPorts f).events = s.events := rfl
@[simp] theorem State.onPorts_evtSeq (f : HostPort → HostPort) : (s.onPorts f).evtSeq = s.evtSeq := rfl
@[simp] theorem State.onPorts_sec (f : HostPort → HostPort) : (s.onPorts f).sec = s.sec := rfl
@[simp] theorem State.onPorts_pwr (f : HostPort → HostPort) : (s.onPorts f).pwr = s.pwr := rfl
@[simp] theorem State.onPorts_perf (f : HostPort → HostPort) : (s.onPorts f).perf = s.perf := rfl
@[simp] theorem State.onPorts_fenced (f : HostPort → HostPort) : (s.onPorts f).fenced = s.fenced := rfl
@[simp] theorem State.onPorts_erasures (f : HostPort → HostPort) : (s.onPorts f).erasures = s.erasures := rfl
@[simp] theorem State.onPorts_debugAddr (f : HostPort → HostPort) : (s.onPorts f).debugAddr = s.debugAddr := rfl
@[simp] theorem State.onPorts_debugReply (f : HostPort → HostPort) : (s.onPorts f).debugReply = s.debugReply := rfl

/-! ### onFab -/

@[simp] theorem State.onFab_pending (f : Fabric → Fabric) : (s.onFab f).pending = s.pending := rfl
@[simp] theorem State.onFab_nonce (f : Fabric → Fabric) : (s.onFab f).nonce = s.nonce := rfl
@[simp] theorem State.onFab_mem (f : Fabric → Fabric) : (s.onFab f).mem = s.mem := rfl
@[simp] theorem State.onFab_glob (f : Fabric → Fabric) : (s.onFab f).glob = s.glob := rfl
@[simp] theorem State.onFab_parts (f : Fabric → Fabric) : (s.onFab f).parts = s.parts := rfl
@[simp] theorem State.onFab_reqs (f : Fabric → Fabric) : (s.onFab f).reqs = s.reqs := rfl
@[simp] theorem State.onFab_cls (f : Fabric → Fabric) : (s.onFab f).cls = s.cls := rfl
@[simp] theorem State.onFab_rgs (f : Fabric → Fabric) : (s.onFab f).rgs = s.rgs := rfl
@[simp] theorem State.onFab_flights (f : Fabric → Fabric) : (s.onFab f).flights = s.flights := rfl
@[simp] theorem State.onFab_run (f : Fabric → Fabric) : (s.onFab f).run = s.run := rfl
@[simp] theorem State.onFab_fab (f : Fabric → Fabric) : (s.onFab f).fab = f s.fab := rfl
@[simp] theorem State.onFab_hlt (f : Fabric → Fabric) : (s.onFab f).hlt = s.hlt := rfl
@[simp] theorem State.onFab_ports (f : Fabric → Fabric) : (s.onFab f).ports = s.ports := rfl
@[simp] theorem State.onFab_txn (f : Fabric → Fabric) : (s.onFab f).txn = s.txn := rfl
@[simp] theorem State.onFab_events (f : Fabric → Fabric) : (s.onFab f).events = s.events := rfl
@[simp] theorem State.onFab_evtSeq (f : Fabric → Fabric) : (s.onFab f).evtSeq = s.evtSeq := rfl
@[simp] theorem State.onFab_sec (f : Fabric → Fabric) : (s.onFab f).sec = s.sec := rfl
@[simp] theorem State.onFab_pwr (f : Fabric → Fabric) : (s.onFab f).pwr = s.pwr := rfl
@[simp] theorem State.onFab_perf (f : Fabric → Fabric) : (s.onFab f).perf = s.perf := rfl
@[simp] theorem State.onFab_fenced (f : Fabric → Fabric) : (s.onFab f).fenced = s.fenced := rfl
@[simp] theorem State.onFab_erasures (f : Fabric → Fabric) : (s.onFab f).erasures = s.erasures := rfl
@[simp] theorem State.onFab_debugAddr (f : Fabric → Fabric) : (s.onFab f).debugAddr = s.debugAddr := rfl
@[simp] theorem State.onFab_debugReply (f : Fabric → Fabric) : (s.onFab f).debugReply = s.debugReply := rfl

/-! ### onHlt -/

@[simp] theorem State.onHlt_pending (f : Health → Health) : (s.onHlt f).pending = s.pending := rfl
@[simp] theorem State.onHlt_nonce (f : Health → Health) : (s.onHlt f).nonce = s.nonce := rfl
@[simp] theorem State.onHlt_mem (f : Health → Health) : (s.onHlt f).mem = s.mem := rfl
@[simp] theorem State.onHlt_glob (f : Health → Health) : (s.onHlt f).glob = s.glob := rfl
@[simp] theorem State.onHlt_parts (f : Health → Health) : (s.onHlt f).parts = s.parts := rfl
@[simp] theorem State.onHlt_reqs (f : Health → Health) : (s.onHlt f).reqs = s.reqs := rfl
@[simp] theorem State.onHlt_cls (f : Health → Health) : (s.onHlt f).cls = s.cls := rfl
@[simp] theorem State.onHlt_rgs (f : Health → Health) : (s.onHlt f).rgs = s.rgs := rfl
@[simp] theorem State.onHlt_flights (f : Health → Health) : (s.onHlt f).flights = s.flights := rfl
@[simp] theorem State.onHlt_run (f : Health → Health) : (s.onHlt f).run = s.run := rfl
@[simp] theorem State.onHlt_fab (f : Health → Health) : (s.onHlt f).fab = s.fab := rfl
@[simp] theorem State.onHlt_hlt (f : Health → Health) : (s.onHlt f).hlt = f s.hlt := rfl
@[simp] theorem State.onHlt_ports (f : Health → Health) : (s.onHlt f).ports = s.ports := rfl
@[simp] theorem State.onHlt_txn (f : Health → Health) : (s.onHlt f).txn = s.txn := rfl
@[simp] theorem State.onHlt_events (f : Health → Health) : (s.onHlt f).events = s.events := rfl
@[simp] theorem State.onHlt_evtSeq (f : Health → Health) : (s.onHlt f).evtSeq = s.evtSeq := rfl
@[simp] theorem State.onHlt_sec (f : Health → Health) : (s.onHlt f).sec = s.sec := rfl
@[simp] theorem State.onHlt_pwr (f : Health → Health) : (s.onHlt f).pwr = s.pwr := rfl
@[simp] theorem State.onHlt_perf (f : Health → Health) : (s.onHlt f).perf = s.perf := rfl
@[simp] theorem State.onHlt_fenced (f : Health → Health) : (s.onHlt f).fenced = s.fenced := rfl
@[simp] theorem State.onHlt_erasures (f : Health → Health) : (s.onHlt f).erasures = s.erasures := rfl
@[simp] theorem State.onHlt_debugAddr (f : Health → Health) : (s.onHlt f).debugAddr = s.debugAddr := rfl
@[simp] theorem State.onHlt_debugReply (f : Health → Health) : (s.onHlt f).debugReply = s.debugReply := rfl

/-! ### onRun -/

@[simp] theorem State.onRun_pending (f : Run → Run) : (s.onRun f).pending = s.pending := rfl
@[simp] theorem State.onRun_nonce (f : Run → Run) : (s.onRun f).nonce = s.nonce := rfl
@[simp] theorem State.onRun_mem (f : Run → Run) : (s.onRun f).mem = s.mem := rfl
@[simp] theorem State.onRun_glob (f : Run → Run) : (s.onRun f).glob = s.glob := rfl
@[simp] theorem State.onRun_parts (f : Run → Run) : (s.onRun f).parts = s.parts := rfl
@[simp] theorem State.onRun_reqs (f : Run → Run) : (s.onRun f).reqs = s.reqs := rfl
@[simp] theorem State.onRun_cls (f : Run → Run) : (s.onRun f).cls = s.cls := rfl
@[simp] theorem State.onRun_rgs (f : Run → Run) : (s.onRun f).rgs = s.rgs := rfl
@[simp] theorem State.onRun_flights (f : Run → Run) : (s.onRun f).flights = s.flights := rfl
@[simp] theorem State.onRun_run (f : Run → Run) : (s.onRun f).run = f s.run := rfl
@[simp] theorem State.onRun_fab (f : Run → Run) : (s.onRun f).fab = s.fab := rfl
@[simp] theorem State.onRun_hlt (f : Run → Run) : (s.onRun f).hlt = s.hlt := rfl
@[simp] theorem State.onRun_ports (f : Run → Run) : (s.onRun f).ports = s.ports := rfl
@[simp] theorem State.onRun_txn (f : Run → Run) : (s.onRun f).txn = s.txn := rfl
@[simp] theorem State.onRun_events (f : Run → Run) : (s.onRun f).events = s.events := rfl
@[simp] theorem State.onRun_evtSeq (f : Run → Run) : (s.onRun f).evtSeq = s.evtSeq := rfl
@[simp] theorem State.onRun_sec (f : Run → Run) : (s.onRun f).sec = s.sec := rfl
@[simp] theorem State.onRun_pwr (f : Run → Run) : (s.onRun f).pwr = s.pwr := rfl
@[simp] theorem State.onRun_perf (f : Run → Run) : (s.onRun f).perf = s.perf := rfl
@[simp] theorem State.onRun_fenced (f : Run → Run) : (s.onRun f).fenced = s.fenced := rfl
@[simp] theorem State.onRun_erasures (f : Run → Run) : (s.onRun f).erasures = s.erasures := rfl
@[simp] theorem State.onRun_debugAddr (f : Run → Run) : (s.onRun f).debugAddr = s.debugAddr := rfl
@[simp] theorem State.onRun_debugReply (f : Run → Run) : (s.onRun f).debugReply = s.debugReply := rfl

/-! ### onSec -/

@[simp] theorem State.onSec_pending (f : Security → Security) : (s.onSec f).pending = s.pending := rfl
@[simp] theorem State.onSec_nonce (f : Security → Security) : (s.onSec f).nonce = s.nonce := rfl
@[simp] theorem State.onSec_mem (f : Security → Security) : (s.onSec f).mem = s.mem := rfl
@[simp] theorem State.onSec_glob (f : Security → Security) : (s.onSec f).glob = s.glob := rfl
@[simp] theorem State.onSec_parts (f : Security → Security) : (s.onSec f).parts = s.parts := rfl
@[simp] theorem State.onSec_reqs (f : Security → Security) : (s.onSec f).reqs = s.reqs := rfl
@[simp] theorem State.onSec_cls (f : Security → Security) : (s.onSec f).cls = s.cls := rfl
@[simp] theorem State.onSec_rgs (f : Security → Security) : (s.onSec f).rgs = s.rgs := rfl
@[simp] theorem State.onSec_flights (f : Security → Security) : (s.onSec f).flights = s.flights := rfl
@[simp] theorem State.onSec_run (f : Security → Security) : (s.onSec f).run = s.run := rfl
@[simp] theorem State.onSec_fab (f : Security → Security) : (s.onSec f).fab = s.fab := rfl
@[simp] theorem State.onSec_hlt (f : Security → Security) : (s.onSec f).hlt = s.hlt := rfl
@[simp] theorem State.onSec_ports (f : Security → Security) : (s.onSec f).ports = s.ports := rfl
@[simp] theorem State.onSec_txn (f : Security → Security) : (s.onSec f).txn = s.txn := rfl
@[simp] theorem State.onSec_events (f : Security → Security) : (s.onSec f).events = s.events := rfl
@[simp] theorem State.onSec_evtSeq (f : Security → Security) : (s.onSec f).evtSeq = s.evtSeq := rfl
@[simp] theorem State.onSec_sec (f : Security → Security) : (s.onSec f).sec = f s.sec := rfl
@[simp] theorem State.onSec_pwr (f : Security → Security) : (s.onSec f).pwr = s.pwr := rfl
@[simp] theorem State.onSec_perf (f : Security → Security) : (s.onSec f).perf = s.perf := rfl
@[simp] theorem State.onSec_fenced (f : Security → Security) : (s.onSec f).fenced = s.fenced := rfl
@[simp] theorem State.onSec_erasures (f : Security → Security) : (s.onSec f).erasures = s.erasures := rfl
@[simp] theorem State.onSec_debugAddr (f : Security → Security) : (s.onSec f).debugAddr = s.debugAddr := rfl
@[simp] theorem State.onSec_debugReply (f : Security → Security) : (s.onSec f).debugReply = s.debugReply := rfl

/-! ### onPwr -/

@[simp] theorem State.onPwr_pending (f : Power → Power) : (s.onPwr f).pending = s.pending := rfl
@[simp] theorem State.onPwr_nonce (f : Power → Power) : (s.onPwr f).nonce = s.nonce := rfl
@[simp] theorem State.onPwr_mem (f : Power → Power) : (s.onPwr f).mem = s.mem := rfl
@[simp] theorem State.onPwr_glob (f : Power → Power) : (s.onPwr f).glob = s.glob := rfl
@[simp] theorem State.onPwr_parts (f : Power → Power) : (s.onPwr f).parts = s.parts := rfl
@[simp] theorem State.onPwr_reqs (f : Power → Power) : (s.onPwr f).reqs = s.reqs := rfl
@[simp] theorem State.onPwr_cls (f : Power → Power) : (s.onPwr f).cls = s.cls := rfl
@[simp] theorem State.onPwr_rgs (f : Power → Power) : (s.onPwr f).rgs = s.rgs := rfl
@[simp] theorem State.onPwr_flights (f : Power → Power) : (s.onPwr f).flights = s.flights := rfl
@[simp] theorem State.onPwr_run (f : Power → Power) : (s.onPwr f).run = s.run := rfl
@[simp] theorem State.onPwr_fab (f : Power → Power) : (s.onPwr f).fab = s.fab := rfl
@[simp] theorem State.onPwr_hlt (f : Power → Power) : (s.onPwr f).hlt = s.hlt := rfl
@[simp] theorem State.onPwr_ports (f : Power → Power) : (s.onPwr f).ports = s.ports := rfl
@[simp] theorem State.onPwr_txn (f : Power → Power) : (s.onPwr f).txn = s.txn := rfl
@[simp] theorem State.onPwr_events (f : Power → Power) : (s.onPwr f).events = s.events := rfl
@[simp] theorem State.onPwr_evtSeq (f : Power → Power) : (s.onPwr f).evtSeq = s.evtSeq := rfl
@[simp] theorem State.onPwr_sec (f : Power → Power) : (s.onPwr f).sec = s.sec := rfl
@[simp] theorem State.onPwr_pwr (f : Power → Power) : (s.onPwr f).pwr = f s.pwr := rfl
@[simp] theorem State.onPwr_perf (f : Power → Power) : (s.onPwr f).perf = s.perf := rfl
@[simp] theorem State.onPwr_fenced (f : Power → Power) : (s.onPwr f).fenced = s.fenced := rfl
@[simp] theorem State.onPwr_erasures (f : Power → Power) : (s.onPwr f).erasures = s.erasures := rfl
@[simp] theorem State.onPwr_debugAddr (f : Power → Power) : (s.onPwr f).debugAddr = s.debugAddr := rfl
@[simp] theorem State.onPwr_debugReply (f : Power → Power) : (s.onPwr f).debugReply = s.debugReply := rfl

/-! ### draw -/

@[simp] theorem State.draw_nonce : s.draw.1 = s.nonce := rfl
@[simp] theorem State.draw_pending_after : s.draw.2.pending = s.pending := rfl
@[simp] theorem State.draw_nonce_after : s.draw.2.nonce = s.nonce + 1 := rfl
@[simp] theorem State.draw_mem_after : s.draw.2.mem = s.mem := rfl
@[simp] theorem State.draw_glob_after : s.draw.2.glob = s.glob := rfl
@[simp] theorem State.draw_parts_after : s.draw.2.parts = s.parts := rfl
@[simp] theorem State.draw_reqs_after : s.draw.2.reqs = s.reqs := rfl
@[simp] theorem State.draw_cls_after : s.draw.2.cls = s.cls := rfl
@[simp] theorem State.draw_rgs_after : s.draw.2.rgs = s.rgs := rfl
@[simp] theorem State.draw_flights_after : s.draw.2.flights = s.flights := rfl
@[simp] theorem State.draw_run_after : s.draw.2.run = s.run := rfl
@[simp] theorem State.draw_fab_after : s.draw.2.fab = s.fab := rfl
@[simp] theorem State.draw_hlt_after : s.draw.2.hlt = s.hlt := rfl
@[simp] theorem State.draw_ports_after : s.draw.2.ports = s.ports := rfl
@[simp] theorem State.draw_txn_after : s.draw.2.txn = s.txn := rfl
@[simp] theorem State.draw_events_after : s.draw.2.events = s.events := rfl
@[simp] theorem State.draw_evtSeq_after : s.draw.2.evtSeq = s.evtSeq := rfl
@[simp] theorem State.draw_sec_after : s.draw.2.sec = s.sec := rfl
@[simp] theorem State.draw_pwr_after : s.draw.2.pwr = s.pwr := rfl
@[simp] theorem State.draw_perf_after : s.draw.2.perf = s.perf := rfl
@[simp] theorem State.draw_fenced_after : s.draw.2.fenced = s.fenced := rfl
@[simp] theorem State.draw_erasures_after : s.draw.2.erasures = s.erasures := rfl
@[simp] theorem State.draw_debugAddr_after : s.draw.2.debugAddr = s.debugAddr := rfl
@[simp] theorem State.draw_debugReply_after : s.draw.2.debugReply = s.debugReply := rfl

/-! ### Units by number -/

@[simp] theorem State.onCl_self (c : Cl) (f : Cluster → Cluster) : (s.onCl c f).cl c = f (s.cl c) := by
  simp [State.cl, State.onCl]
theorem State.onCl_other {c d : Cl} (f : Cluster → Cluster) (h : d ≠ c) : (s.onCl c f).cl d = s.cl d := by
  simp only [State.cl, State.onCl, Fin.getElem_fin]
  exact Vector.getElem_set_ne _ _ fun e => h (Fin.ext e.symm)
@[simp] theorem State.onRg_self (r : Rg) (f : Region → Region) : (s.onRg r f).rg r = f (s.rg r) := by
  simp [State.rg, State.onRg]
theorem State.onRg_other {r q : Rg} (f : Region → Region) (h : q ≠ r) : (s.onRg r f).rg q = s.rg q := by
  simp only [State.rg, State.onRg, Fin.getElem_fin]
  exact Vector.getElem_set_ne _ _ fun e => h (Fin.ext e.symm)
@[simp] theorem State.onPart_self (p : Pt) (f : Part → Part) : (s.onPart p f).part p = f (s.part p) := by
  simp [State.part, State.onPart]
theorem State.onPart_other {p q : Pt} (f : Part → Part) (h : q ≠ p) : (s.onPart p f).part q = s.part q := by
  simp only [State.part, State.onPart, Fin.getElem_fin]
  exact Vector.getElem_set_ne _ _ fun e => h (Fin.ext e.symm)
@[simp] theorem State.onPort_self (p : HPort) (f : HostPort → HostPort) : (s.onPort p f).port p = f (s.port p) := by
  simp [State.port, State.onPort]
theorem State.onPort_other {p q : HPort} (f : HostPort → HostPort) (h : q ≠ p) : (s.onPort p f).port q = s.port q := by
  simp only [State.port, State.onPort, Fin.getElem_fin]
  exact Vector.getElem_set_ne _ _ fun e => h (Fin.ext e.symm)

/-! ### Registers that read as zero -/

@[simp] theorem Tahr.get_zero (t : Tahr) : t.get 0 = 0 := rfl
@[simp] theorem Tahr.set_zero (t : Tahr) (v : Word) : t.set 0 v = t := rfl

end Sys2Proof.Machine
end

