-- ==== Sys2Proof/Laws/Bus.lean ====
section
/-! SUPPORT. Accesses of agents without region tags: credits are all that a charge changes; reads change no byte; reads and writes keep the
canonical form of memory. -/
namespace Sys2Proof.Machine

/-- What every step of a fold keeps, the fold keeps. -/
theorem foldl_keeps {α β : Type} {q : β → Prop} {f : β → α → β} (h : ∀ b a, q b → q (f b a)) (xs : List α) {b : β} (hb : q b) :
    q (xs.foldl f b) := by
  induction xs generalizing b with
  | nil => exact hb
  | cons x xs ih => exact ih (h b x hb)

variable (s : State)

/-- Of the state, a charge changes the partitions only. -/
theorem State.chargeLine_frame (cls : Nat → Nat) (l : Nat × Nat) : ∃ ps, s.chargeLine cls l = { s with parts := ps } := by
  unfold State.chargeLine
  split
  · dsimp only
    split
    · exact ⟨_, rfl⟩
    · exact ⟨s.parts, rfl⟩
  · exact ⟨s.parts, rfl⟩

theorem State.charged_frame (cls : Nat → Nat) (ls : List (Nat × Nat)) : ∃ ps, s.charged cls ls = { s with parts := ps } := ⟨_, rfl⟩

@[simp] theorem State.charged_mem (cls : Nat → Nat) (ls : List (Nat × Nat)) : (s.charged cls ls).mem = s.mem := rfl

@[simp] theorem State.event_mem (src : Source) (code : Nat) (d : List Word) (st : Nat) : (s.event src code d st).mem = s.mem := by
  unfold State.event
  rfl

/-- An uncorrectable read changes no byte. -/
theorem State.markSector_bytes (p : Pt) (o n : Nat) (fresh : Bool) :
    (s.markSector p o n fresh).mem.cells = s.mem.cells ∧ (s.markSector p o n fresh).mem.fills = s.mem.fills := by
  unfold State.markSector
  dsimp only
  rw [State.event_mem]
  split <;> exact ⟨rfl, rfl⟩

theorem State.ueReads_bytes (a len : Nat) : (s.ueReads a len).mem.cells = s.mem.cells ∧ (s.ueReads a len).mem.fills = s.mem.fills := by
  unfold State.ueReads
  refine foldl_keeps (β := State) (q := fun t => t.mem.cells = s.mem.cells ∧ t.mem.fills = s.mem.fills) (fun t n h => ?_) _ ⟨rfl, rfl⟩
  split
  · rename_i p o _
    have e := t.markSector_bytes p o n true
    exact ⟨e.1.trans h.1, e.2.trans h.2⟩
  · exact h

theorem State.ueReads_of_clean (h : s.mem.ue = []) (a len : Nat) : s.ueReads a len = s := by simp [State.ueReads, h]

/-- A read by an agent changes no byte. -/
theorem State.busRead_bytes (cls : Nat → Nat) (a len : Nat) :
    (s.busRead cls a len).mem.cells = s.mem.cells ∧ (s.busRead cls a len).mem.fills = s.mem.fills := by
  have h := (s.charged cls (stretchLines a len)).ueReads_bytes a len
  rw [State.charged_mem] at h
  exact h

@[simp] theorem State.busRead_get (cls : Nat → Nat) (a len b : Nat) : (s.busRead cls a len).mem.get b = s.mem.get b := by
  simp only [Memory.get, (s.busRead_bytes cls a len).1, (s.busRead_bytes cls a len).2]

theorem State.busRead_wf (h : s.mem.wf = true) (cls : Nat → Nat) (a len : Nat) : (s.busRead cls a len).mem.wf = true := by
  simpa only [Memory.wf, (s.busRead_bytes cls a len).1, (s.busRead_bytes cls a len).2] using h

@[simp] theorem State.noTarget_mem (a : Nat) : (s.noTarget a).mem = s.mem := by
  unfold State.noTarget
  split <;> rfl

@[simp] theorem State.rewrote_mem (ws : List WByte) : (s.rewrote ws).mem = s.mem := by
  unfold State.rewrote
  split <;> rfl

theorem State.dropWrite_mem (n : Nat) : (s.dropWrite n).mem = s.mem := by
  unfold State.dropWrite
  split
  · rw [State.event_mem]; rfl
  · rfl

theorem State.writeSector_wf {s : State} (h : s.mem.wf = true) (n : Nat) (ws : List WByte) : (s.writeSector n ws).mem.wf = true := by
  unfold State.writeSector
  split
  · split
    · exact Memory.write_wf ws h
    · rw [State.dropWrite_mem]
      simpa only [Memory.wf, (s.ueReads_bytes (32 * n) 32).1, (s.ueReads_bytes (32 * n) 32).2] using h
  · exact Memory.write_wf ws h

/-- A write by an agent keeps the canonical form. -/
theorem State.busWrite_wf {s : State} (h : s.mem.wf = true) (cls : Nat → Nat) (ws : List WByte) : (s.busWrite cls ws).mem.wf = true := by
  have e : ((s.charged cls (writeLines ws)).rewrote ws).mem = s.mem := by simp
  unfold State.busWrite
  dsimp only
  split
  · exact Memory.write_wf ws (by rw [e]; exact h)
  · exact foldl_keeps (β := State) (q := fun t => t.mem.wf = true) (fun t n ht => State.writeSector_wf ht n _) _ (by rw [e]; exact h)

theorem State.svcWrite_wf {s : State} (h : s.mem.wf = true) (ws : List WByte) : (s.svcWrite ws).mem.wf = true := by
  unfold State.svcWrite
  dsimp only
  refine State.busWrite_wf ?_ _ _
  exact h

/-- A service's read changes no byte. -/
theorem State.svcRead_bytes (a len : Nat) : (s.svcRead a len).mem.cells = s.mem.cells ∧ (s.svcRead a len).mem.fills = s.mem.fills := by
  unfold State.svcRead
  refine foldl_keeps (β := State) (q := fun t => t.mem.cells = s.mem.cells ∧ t.mem.fills = s.mem.fills) (fun t g h => ?_) _ ⟨rfl, rfl⟩
  split
  · have e := t.busRead_bytes svcClass g.1 g.2.2
    exact ⟨e.1.trans h.1, e.2.trans h.2⟩
  · rw [State.noTarget_mem]; exact h

end Sys2Proof.Machine
end

