-- ==== Sys2Proof/Laws/Cluster.lean ====
section
/-! SUPPORT. What the shared operations on a cluster leave: registers of Tahr, awaited registers, work counters,
retirement, slots. -/
namespace Sys2Proof.Machine

/-! ### Registers of Tahr -/

/-- A register written reads back, but for x0. -/
theorem Tahr.get_set (t : Tahr) (rd r : BitVec 5) (v : Word) : (t.set rd v).get r = if r = rd ∧ r ≠ 0 then v else t.get r := by
  unfold Tahr.set Tahr.get
  by_cases h0 : rd = 0
  · subst h0; simp only [ite_true]; rw [if_neg (show ¬(r = 0 ∧ r ≠ 0) from fun h => h.2 h.1)]
  · by_cases hr : r = 0
    · simp [hr]
    · simp only [h0, hr, ite_false]
      by_cases he : r = rd
      · subst he; simp [show ¬r = 0#5 from hr]
      · simp only [he, false_and, ite_false]
        exact Vector.getElem_set_ne _ _ fun h => he (BitVec.eq_of_toNat_eq h.symm)

/-- A write of a register changes nothing but the registers. -/
theorem Tahr.set_eq (t : Tahr) (rd : BitVec 5) (v : Word) : t.set rd v = { t with x := (t.set rd v).x } := by
  unfold Tahr.set; split <;> rfl

@[simp] theorem Tahr.set_pc (t : Tahr) (rd : BitVec 5) (v : Word) : (t.set rd v).pc = t.pc := by rw [Tahr.set_eq]
@[simp] theorem Tahr.set_kernel (t : Tahr) (rd : BitVec 5) (v : Word) : (t.set rd v).kernel = t.kernel := by rw [Tahr.set_eq]
@[simp] theorem Tahr.set_wait (t : Tahr) (rd : BitVec 5) (v : Word) : (t.set rd v).wait = t.wait := by rw [Tahr.set_eq]
@[simp] theorem Tahr.set_icache (t : Tahr) (rd : BitVec 5) (v : Word) : (t.set rd v).icache = t.icache := by rw [Tahr.set_eq]
@[simp] theorem Tahr.set_summaries (t : Tahr) (rd : BitVec 5) (v : Word) : (t.set rd v).summaries = t.summaries := by rw [Tahr.set_eq]
@[simp] theorem Tahr.set_fetches (t : Tahr) (rd : BitVec 5) (v : Word) : (t.set rd v).fetches = t.fetches := by rw [Tahr.set_eq]

/-- Summaries delivered change the registers and leave none on its way. -/
theorem Tahr.deliverAll_eq (t : Tahr) : t.deliverAll = { t with x := t.deliverAll.x, summaries := [] } := by
  have key : ∀ (l : List Summary) (u : Tahr),
      l.foldl (fun t s => t.set s.rd s.value) u = { u with x := (l.foldl (fun t s => t.set s.rd s.value) u).x } := by
    intro l
    induction l with
    | nil => intro u; rfl
    | cons a l ih =>
      intro u
      have h := ih (u.set a.rd a.value)
      rw [List.foldl_cons]
      refine h.trans ?_
      simp
  exact key t.summaries { t with summaries := [] }

/-- Waiting for awaited registers changes the registers and the summaries on their way, and nothing else. -/
theorem Tahr.await_eq (t : Tahr) (rs : List (BitVec 5)) : t.await rs = { t with x := (t.await rs).x, summaries := (t.await rs).summaries } := by
  unfold Tahr.await
  split
  · have h := t.deliverAll_eq
    rw [h]
  · rfl

@[simp] theorem Tahr.await_pc (t : Tahr) (rs : List (BitVec 5)) : (t.await rs).pc = t.pc := by rw [Tahr.await_eq]
@[simp] theorem Tahr.await_kernel (t : Tahr) (rs : List (BitVec 5)) : (t.await rs).kernel = t.kernel := by rw [Tahr.await_eq]
@[simp] theorem Tahr.await_wait (t : Tahr) (rs : List (BitVec 5)) : (t.await rs).wait = t.wait := by rw [Tahr.await_eq]
@[simp] theorem Tahr.await_icache (t : Tahr) (rs : List (BitVec 5)) : (t.await rs).icache = t.icache := by rw [Tahr.await_eq]

/-- With no summary on its way nothing is awaited. -/
theorem Tahr.await_none (t : Tahr) (rs : List (BitVec 5)) (h : t.summaries = []) : t.await rs = t := by simp [Tahr.await, h]

theorem Cluster.awaited_eq (k : Cluster) (rs : List (BitVec 5)) : k.awaited rs = { k with tahr := k.tahr.await rs } := rfl

/-! ### Work counters and retirement -/

/-- WORK rises in a counter, or in the tally of a firing that is held. -/
theorem Cluster.work_eq (k : Cluster) (f : Option Firing) (e n : Nat) :
    k.work f e n = { k with firings := (k.work f e n).firings, stl := (k.work f e n).stl } := by
  unfold Cluster.work Cluster.charge
  split
  · split
    · rfl
    · unfold Cluster.count; split <;> rfl
  · unfold Cluster.count; split <;> rfl

/-- What a retired instruction leaves: the pc and the count of instructions while a kernel runs, and its WORK. -/
theorem Cluster.retire_eq (k : Cluster) (n : Nat) :
    k.retire n =
      { k with
        firings := (k.retire n).firings, stl := (k.retire n).stl
        tahr :=
          { k.tahr with
            pc := if k.tahr.kernel.isSome then k.tahr.pc + BitVec.ofNat 64 n else k.tahr.pc
            kernel := k.tahr.kernel.map fun x => { x with retired := x.retired + 1 } } } := by
  unfold Cluster.retire
  cases h : k.tahr.kernel with
  | none =>
    obtain ⟨_, _, t⟩ := k
    obtain ⟨_, _, _⟩ := t
    simp only at h
    subst h
    rfl
  | some x => exact Cluster.work_eq _ _ _ _

/-! ### Slots (R230) -/

theorem Cluster.setSlot_eq (k : Cluster) (n v : Nat) : k.setSlot n v = { k with slots := (k.setSlot n v).slots } := by
  unfold Cluster.setSlot; split <;> rfl

theorem Cluster.slot_setSlot (k : Cluster) (n v m : Nat) (hv : v < 65536) :
    (k.setSlot n v).slot m = if m = n ∧ n < 256 then v else k.slot m := by
  unfold Cluster.setSlot Cluster.slot
  by_cases hn : n < 256 <;> by_cases hm : m < 256
  · by_cases he : m = n
    · subst he; simp [hn, Nat.mod_eq_of_lt hv]
    · simp only [hn, hm, he, dite_true, false_and, ite_false]
      rw [Vector.getElem_set_ne _ _ fun h => he h.symm]
  · have he : m ≠ n := fun h => hm (h ▸ hn)
    simp [hn, hm, he]
  · simp [hn, hm]
  · simp [hn, hm]

end Sys2Proof.Machine
end

