-- ==== Sys2Proof/Laws/Maps.lean ====
section
/-! SUPPORT. What sparse maps hold after a write: the key that is written, and every other key. -/
namespace Sys2Proof.Machine

@[simp] theorem smFind_nil {α : Type} (k : Nat) : smFind ([] : SMap α) k = none := rfl

theorem smFind_cons {α : Type} (x : Nat × α) (m : SMap α) (k : Nat) : smFind (x :: m) k = if x.1 = k then some x.2 else smFind m k := by
  unfold smFind
  by_cases h : x.1 = k <;> simp [h]

theorem smFind_smErase {α : Type} (m : SMap α) (k j : Nat) : smFind (smErase m k) j = if j = k then none else smFind m j := by
  induction m with
  | nil => simp [smErase]
  | cons x m ih =>
    by_cases hx : x.1 = k
    · have e : smErase (x :: m) k = smErase m k := by simp [smErase, hx]
      rw [e, ih, smFind_cons]
      by_cases hj : j = k
      · simp [hj]
      · simp [hj, hx, show ¬k = j from fun e => hj e.symm]
    · have e : smErase (x :: m) k = x :: smErase m k := by simp [smErase, hx]
      rw [e, smFind_cons, smFind_cons, ih]
      by_cases hj : x.1 = j
      · simp [hj, show ¬j = k from fun e => hx (hj.trans e)]
      · simp [hj]

theorem smFind_smInsert {α : Type} (m : SMap α) (k j : Nat) (v : α) (h : smFind m k = none) :
    smFind (smInsert k v m) j = if j = k then some v else smFind m j := by
  induction m with
  | nil => simp [smInsert, smFind_cons, eq_comm]
  | cons x m ih =>
    obtain ⟨i, y⟩ := x
    have hi : i ≠ k := fun e => by simp [smFind_cons, e] at h
    have hm : smFind m k = none := by simpa [smFind_cons, hi] using h
    unfold smInsert
    split
    · rw [smFind_cons]; simp only [eq_comm]
    · rw [smFind_cons, smFind_cons, ih hm]
      by_cases hj : i = j
      · simp [hj, show ¬j = k from fun e => hi (hj.trans e)]
      · simp [hj]

/-- A key that is set is found, and every other as before. -/
theorem smFind_smSet {α : Type} (m : SMap α) (k j : Nat) (v : α) : smFind (smSet m k v) j = if j = k then some v else smFind m j := by
  unfold smSet
  rw [smFind_smInsert _ _ _ _ (by simp [smFind_smErase]), smFind_smErase]
  split <;> rfl

/-- A key that is written holds the value, and every other what it held. -/
theorem smGet_smPut {α : Type} [DecidableEq α] (d : α) (m : SMap α) (k j : Nat) (v : α) :
    smGet d (smPut d m k v) j = if j = k then v else smGet d m j := by
  unfold smGet smPut
  split
  · next h => rw [smFind_smErase]; split <;> simp [h]
  · rw [smFind_smSet]; split <;> rfl

end Sys2Proof.Machine
end

