-- ==== Sys2Proof/Laws/PerInstr.lean ====
section
/-! SUPPORT. What holds of every command as syntax, one lemma for each constructor. -/
namespace Sys2Proof.Laws.Operands
open Sys2Proof Sys2Proof.Machine

/-- A host's command is of a class of the command set (R513), and it is well-formed exactly if LENGTH can count the words
after its header (R507). -/
def Statement (i : Instr) : Prop := ∀ (key : Nat) (c : HostCmd), hostKey i = some (key, c) →
  key / 256 ∈ [1, 2, 3, 4, 5, 6, 7, 8, 0xE, 0xF] ∧ (i.wf = true ↔ c.words.length < 65536)

theorem of_none {i : Instr} (h : hostKey i = none) : Statement i := fun key c e => by simp [h] at e

theorem of_key {i : Instr} {key : Nat} {c : HostCmd} (h : hostKey i = some (key, c)) (k : key / 256 ∈ [1, 2, 3, 4, 5, 6, 7, 8, 0xE, 0xF])
    (w : i.wf = c.wf) : Statement i := fun key' c' e => by
  rw [h] at e
  cases e
  exact ⟨k, by simp [w, HostCmd.wf]⟩

theorem vadd (a : VArgs) : Statement (.vadd a) := of_none rfl
theorem vsub (a : VArgs) : Statement (.vsub a) := of_none rfl
theorem vmul (a : VArgs) : Statement (.vmul a) := of_none rfl
theorem vfma (a : VArgs) : Statement (.vfma a) := of_none rfl
theorem vfms (a : VArgs) : Statement (.vfms a) := of_none rfl
theorem vnfma (a : VArgs) : Statement (.vnfma a) := of_none rfl
theorem vdiv (a : VArgs) : Statement (.vdiv a) := of_none rfl
theorem vrcp (a : VArgs) : Statement (.vrcp a) := of_none rfl
theorem vsqrt (a : VArgs) : Statement (.vsqrt a) := of_none rfl
theorem vrsqrt (a : VArgs) : Statement (.vrsqrt a) := of_none rfl
theorem vmax (a : VArgs) : Statement (.vmax a) := of_none rfl
theorem vmin (a : VArgs) : Statement (.vmin a) := of_none rfl
theorem vabs (a : VArgs) : Statement (.vabs a) := of_none rfl
theorem vneg (a : VArgs) : Statement (.vneg a) := of_none rfl
theorem vmulp2 (a : VArgs) : Statement (.vmulp2 a) := of_none rfl
theorem vexp (a : VArgs) : Statement (.vexp a) := of_none rfl
theorem vexp2 (a : VArgs) : Statement (.vexp2 a) := of_none rfl
theorem vln (a : VArgs) : Statement (.vln a) := of_none rfl
theorem vlog2 (a : VArgs) : Statement (.vlog2 a) := of_none rfl
theorem vtanh (a : VArgs) : Statement (.vtanh a) := of_none rfl
theorem vsigm (a : VArgs) : Statement (.vsigm a) := of_none rfl
theorem verf (a : VArgs) : Statement (.verf a) := of_none rfl
theorem vbcastVs (a : VArgs) : Statement (.vbcastVs a) := of_none rfl
theorem vmv (a : VArgs) : Statement (.vmv a) := of_none rfl
theorem vsel (a : VArgs) (sel : BitVec 3) : Statement (.vsel a sel) := of_none rfl
theorem vcmpEq (a : VArgs) : Statement (.vcmpEq a) := of_none rfl
theorem vcmpNe (a : VArgs) : Statement (.vcmpNe a) := of_none rfl
theorem vcmpLt (a : VArgs) : Statement (.vcmpLt a) := of_none rfl
theorem vcmpLe (a : VArgs) : Statement (.vcmpLe a) := of_none rfl
theorem vcmpGt (a : VArgs) : Statement (.vcmpGt a) := of_none rfl
theorem vcmpGe (a : VArgs) : Statement (.vcmpGe a) := of_none rfl
theorem viadd (a : VArgs) : Statement (.viadd a) := of_none rfl
theorem visub (a : VArgs) : Statement (.visub a) := of_none rfl
theorem vimul (a : VArgs) : Statement (.vimul a) := of_none rfl
theorem vimulh (a : VArgs) : Statement (.vimulh a) := of_none rfl
theorem vimulhu (a : VArgs) : Statement (.vimulhu a) := of_none rfl
theorem vand (a : VArgs) : Statement (.vand a) := of_none rfl
theorem vor (a : VArgs) : Statement (.vor a) := of_none rfl
theorem vxor (a : VArgs) : Statement (.vxor a) := of_none rfl
theorem vsll (a : VArgs) : Statement (.vsll a) := of_none rfl
theorem vsrl (a : VArgs) : Statement (.vsrl a) := of_none rfl
theorem vsra (a : VArgs) : Statement (.vsra a) := of_none rfl
theorem vimin (a : VArgs) : Statement (.vimin a) := of_none rfl
theorem vimax (a : VArgs) : Statement (.vimax a) := of_none rfl
theorem viminu (a : VArgs) : Statement (.viminu a) := of_none rfl
theorem vimaxu (a : VArgs) : Statement (.vimaxu a) := of_none rfl
theorem vicmpEq (a : VArgs) : Statement (.vicmpEq a) := of_none rfl
theorem vicmpNe (a : VArgs) : Statement (.vicmpNe a) := of_none rfl
theorem vicmpLt (a : VArgs) : Statement (.vicmpLt a) := of_none rfl
theorem vicmpLe (a : VArgs) : Statement (.vicmpLe a) := of_none rfl
theorem vicmpLtu (a : VArgs) : Statement (.vicmpLtu a) := of_none rfl
theorem vicmpLeu (a : VArgs) : Statement (.vicmpLeu a) := of_none rfl
theorem vidx (a : VArgs) : Statement (.vidx a) := of_none rfl
theorem visplatVx (a : VArgs) : Statement (.visplatVx a) := of_none rfl
theorem vwid (a : VArgs) : Statement (.vwid a) := of_none rfl
theorem vnar (a : VArgs) : Statement (.vnar a) := of_none rfl
theorem viwid (a : VArgs) : Statement (.viwid a) := of_none rfl
theorem viwidu (a : VArgs) : Statement (.viwidu a) := of_none rfl
theorem vinar (a : VArgs) : Statement (.vinar a) := of_none rfl
theorem vcvtSiI (a : VArgs) : Statement (.vcvtSiI a) := of_none rfl
theorem vcvtISi (a : VArgs) : Statement (.vcvtISi a) := of_none rfl
theorem pand (a : VArgs) : Statement (.pand a) := of_none rfl
theorem por (a : VArgs) : Statement (.por a) := of_none rfl
theorem pxor (a : VArgs) : Statement (.pxor a) := of_none rfl
theorem pandn (a : VArgs) : Statement (.pandn a) := of_none rfl
theorem pnot (a : VArgs) : Statement (.pnot a) := of_none rfl
theorem pset (a : VArgs) : Statement (.pset a) := of_none rfl
theorem pclr (a : VArgs) : Statement (.pclr a) := of_none rfl
theorem vredsum (a : VArgs) : Statement (.vredsum a) := of_none rfl
theorem vredmax (a : VArgs) : Statement (.vredmax a) := of_none rfl
theorem vredmin (a : VArgs) : Statement (.vredmin a) := of_none rfl
theorem viredsum (a : VArgs) : Statement (.viredsum a) := of_none rfl
theorem viredmax (a : VArgs) : Statement (.viredmax a) := of_none rfl
theorem viredmin (a : VArgs) : Statement (.viredmin a) := of_none rfl
theorem vsegsum (a : VArgs) : Statement (.vsegsum a) := of_none rfl
theorem vsegmax (a : VArgs) : Statement (.vsegmax a) := of_none rfl
theorem vsegmin (a : VArgs) : Statement (.vsegmin a) := of_none rfl
theorem vcompress (a : VArgs) : Statement (.vcompress a) := of_none rfl
theorem vexpand (a : VArgs) : Statement (.vexpand a) := of_none rfl
theorem vperm (a : VArgs) : Statement (.vperm a) := of_none rfl
theorem vslideup (a : VArgs) : Statement (.vslideup a) := of_none rfl
theorem vslidedn (a : VArgs) : Statement (.vslidedn a) := of_none rfl
theorem vpsumPopc (a : VArgs) : Statement (.vpsumPopc a) := of_none rfl
theorem vpsumAny (a : VArgs) : Statement (.vpsumAny a) := of_none rfl
theorem vpsumAll (a : VArgs) : Statement (.vpsumAll a) := of_none rfl
theorem vpsumFirst (a : VArgs) : Statement (.vpsumFirst a) := of_none rfl
theorem vsmax (a : VArgs) : Statement (.vsmax a) := of_none rfl
theorem vmvx (a : VArgs) : Statement (.vmvx a) := of_none rfl
theorem vsetcfg (a : VArgs) : Statement (.vsetcfg a) := of_none rfl
theorem vld (a : VArgs) : Statement (.vld a) := of_none rfl
theorem vst (a : VArgs) : Statement (.vst a) := of_none rfl
theorem vldres (a : VArgs) : Statement (.vldres a) := of_none rfl
theorem vstres (a : VArgs) : Statement (.vstres a) := of_none rfl
theorem summaryDelivery (cl : Cl) : Statement (.summaryDelivery cl) := of_none rfl
theorem tahrBaseInstruction (cl : Cl) : Statement (.tahrBaseInstruction cl) := of_none rfl
theorem csrInstruction (cl : Cl) (f3 : BitVec 3) (rd : BitVec 5) (rs1 : BitVec 5) (csr : BitVec 12) : Statement (.csrInstruction cl f3 rd rs1 csr) := of_none rfl
theorem ebreak (cl : Cl) : Statement (.ebreak cl) := of_none rfl
theorem fence (cl : Cl) : Statement (.fence cl) := of_none rfl
theorem fenceI (cl : Cl) : Statement (.fenceI cl) := of_none rfl
theorem tarr (cl : Cl) (rs1 : BitVec 5) : Statement (.tarr cl rs1) := of_none rfl
theorem tarrsync (cl : Cl) (rd : BitVec 5) : Statement (.tarrsync cl rd) := of_none rfl
theorem tarrsyncResume (cl : Cl) : Statement (.tarrsyncResume cl) := of_none rfl
theorem tprod (cl : Cl) (rs1 : BitVec 5) (rs2 : BitVec 5) : Statement (.tprod cl rs1 rs2) := of_none rfl
theorem twaits (cl : Cl) (rs1 : BitVec 5) (rs2 : BitVec 5) : Statement (.twaits cl rs1 rs2) := of_none rfl
theorem twaitsResume (cl : Cl) : Statement (.twaitsResume cl) := of_none rfl
theorem tguard (cl : Cl) (rs1 : BitVec 5) (rs2 : BitVec 5) : Statement (.tguard cl rs1 rs2) := of_none rfl
theorem tend (cl : Cl) (rs1 : BitVec 5) : Statement (.tend cl rs1) := of_none rfl
theorem cycleBudgetExceeded (cl : Cl) : Statement (.cycleBudgetExceeded cl) := of_none rfl
theorem arrayCommandFetch (cl : Cl) : Statement (.arrayCommandFetch cl) := of_none rfl
theorem arrMode (cl : Cl) : Statement (.arrMode cl) := of_none rfl
theorem arrClear (cl : Cl) : Statement (.arrClear cl) := of_none rfl
theorem arrLoadShadow (cl : Cl) : Statement (.arrLoadShadow cl) := of_none rfl
theorem shadowLoadDone (cl : Cl) : Statement (.shadowLoadDone cl) := of_none rfl
theorem arrSwap (cl : Cl) : Statement (.arrSwap cl) := of_none rfl
theorem arrStream (cl : Cl) : Statement (.arrStream cl) := of_none rfl
theorem arrDrain (cl : Cl) : Statement (.arrDrain cl) := of_none rfl
theorem taskDispatch (cl : Cl) : Statement (.taskDispatch cl) := of_none rfl
theorem signalArrival (cl : Cl) (k : Nat) : Statement (.signalArrival cl k) := of_none rfl
theorem taskComplete (cl : Cl) (entry : BitVec 7) : Statement (.taskComplete cl entry) := of_none rfl
theorem specCommitWritesDone (cl : Cl) (entry : BitVec 7) : Statement (.specCommitWritesDone cl entry) := of_none rfl
theorem holdPeakReset (rg : Rg) : Statement (.holdPeakReset rg) := of_none rfl
theorem stepStart : Statement .stepStart := of_none rfl
theorem segmentFinish (rg : Rg) : Statement (.segmentFinish rg) := of_none rfl
theorem stepBoundary : Statement .stepBoundary := of_none rfl
theorem clusterFence (cl : Cl) (reason : FenceReason) : Statement (.clusterFence cl reason) := of_none rfl
theorem replacement : Statement .replacement := of_none rfl
theorem solverCallStart (rg : Rg) : Statement (.solverCallStart rg) := of_none rfl
theorem nyalaWaveInputDone (rg : Rg) : Statement (.nyalaWaveInputDone rg) := of_none rfl
theorem nyalaWaveComputeDone (rg : Rg) : Statement (.nyalaWaveComputeDone rg) := of_none rfl
theorem nyalaCallDone (rg : Rg) : Statement (.nyalaCallDone rg) := of_none rfl
theorem solverDeadline (rg : Rg) (k : Nat) : Statement (.solverDeadline rg k) := of_none rfl
theorem jacobiRound (rg : Rg) : Statement (.jacobiRound rg) := of_none rfl
theorem reduceScatterStart (op : BitVec 16) : Statement (.reduceScatterStart op) := of_none rfl
theorem distributionStart (op : BitVec 16) : Statement (.distributionStart op) := of_none rfl
theorem factorReductionStart (block : BitVec 16) : Statement (.factorReductionStart block) := of_none rfl
theorem newtonNormalisation (rg : Rg) : Statement (.newtonNormalisation rg) := of_none rfl
theorem medlarIterationDecision (rg : Rg) : Statement (.medlarIterationDecision rg) := of_none rfl
theorem tagGrant (rg : Rg) : Statement (.tagGrant rg) := of_none rfl
theorem sorterAccept (pt : Pt) : Statement (.sorterAccept pt) := of_none rfl
theorem bankSchedule (pt : Pt) (bank : BankTurn) : Statement (.bankSchedule pt bank) := of_none rfl
theorem memoryReadReturn (pt : Pt) (err : MemError) : Statement (.memoryReadReturn pt err) := of_none rfl
theorem watchdogPromotion (pt : Pt) : Statement (.watchdogPromotion pt) := of_none rfl
theorem regulatorRefill (pt : Pt) : Statement (.regulatorRefill pt) := of_none rfl
theorem scrubRead (pt : Pt) (err : MemError) : Statement (.scrubRead pt err) := of_none rfl
theorem hbmInitDone : Statement .hbmInitDone := of_none rfl
theorem linkTrainingDone (p : FPort) : Statement (.linkTrainingDone p) := of_none rfl
theorem linkAlignmentLost (p : FPort) : Statement (.linkAlignmentLost p) := of_none rfl
theorem linkAckTimeout (p : FPort) : Statement (.linkAckTimeout p) := of_none rfl
theorem linkControlReceive (p : FPort) (rx : RxPacket) : Statement (.linkControlReceive p rx) := of_none rfl
theorem linkControlSend (p : FPort) : Statement (.linkControlSend p) := of_none rfl
theorem portSlotSend (p : FPort) : Statement (.portSlotSend p) := of_none rfl
theorem packetReceive (p : FPort) (rx : RxPacket) : Statement (.packetReceive p rx) := of_none rfl
theorem desc : Statement .desc := of_none rfl
theorem data : Statement .data := of_none rfl
theorem ack : Statement .ack := of_none rfl
theorem nack : Statement .nack := of_none rfl
theorem cut : Statement .cut := of_none rfl
theorem streamStallTimeout (stream : BitVec 12) : Statement (.streamStallTimeout stream) := of_none rfl
theorem epochPrepare : Statement .epochPrepare := of_none rfl
theorem epochReply : Statement .epochReply := of_none rfl
theorem epochSwitch : Statement .epochSwitch := of_none rfl
theorem epochPoll : Statement .epochPoll := of_none rfl
theorem epochPollReply : Statement .epochPollReply := of_none rfl
theorem epochRelease : Statement .epochRelease := of_none rfl
theorem epochAbort : Statement .epochAbort := of_none rfl
theorem epochPrepareTimeout : Statement .epochPrepareTimeout := of_none rfl
theorem epochPollRound : Statement .epochPollRound := of_none rfl
theorem drainTimeout : Statement .drainTimeout := of_none rfl
theorem heartbeat : Statement .heartbeat := of_none rfl
theorem partnerHeartbeatSend : Statement .partnerHeartbeatSend := of_none rfl
theorem partnerLost : Statement .partnerLost := of_none rfl
theorem verifyDigest : Statement .verifyDigest := of_none rfl
theorem verifyResult : Statement .verifyResult := of_none rfl
theorem chunkDigestDone : Statement .chunkDigestDone := of_none rfl
theorem healthSample (sensors : Sensors) : Statement (.healthSample sensors) := of_none rfl
theorem snapshotFreezeDone : Statement .snapshotFreezeDone := of_none rfl
theorem level3Freeze : Statement .level3Freeze := of_none rfl
theorem snapshotMirrorDone : Statement .snapshotMirrorDone := of_none rfl
theorem privateFillDone (data : List Byte) : Statement (.privateFillDone data) := of_none rfl
theorem fillStallTimeout : Statement .fillStallTimeout := of_none rfl
theorem mbxInWrite (port : HPort) (word : Word) (take : Bool) : Statement (.mbxInWrite port word take) := of_none rfl
theorem mbxOutRead (port : HPort) : Statement (.mbxOutRead port) := of_none rfl
theorem resync (port : HPort) : Statement (.resync port) := of_none rfl
theorem mbxDbHeartbeat (port : HPort) : Statement (.mbxDbHeartbeat port) := of_none rfl
theorem mbxDbStep (port : HPort) (value : BitVec 16) : Statement (.mbxDbStep port value) := of_none rfl
theorem mbxDbIrq (port : HPort) (bits : BitVec 4) : Statement (.mbxDbIrq port bits) := of_none rfl
theorem windowRead (port : HPort) (off : BitVec 36) (len : Nat) : Statement (.windowRead port off len) := of_none rfl
theorem windowWrite (port : HPort) (off : BitVec 36) (data : List (Option Byte)) : Statement (.windowWrite port off data) := of_none rfl
theorem registerWrite (w : RegWriter) (addr : BitVec 45) (value : Word) : Statement (.registerWrite w addr value) := of_none rfl
theorem hostHeartbeatTimeout (port : HPort) : Statement (.hostHeartbeatTimeout port) := of_none rfl
theorem pciePortReset (port : HPort) (perst : Bool) : Statement (.pciePortReset port perst) := of_none rfl
theorem cfgBegin (c : HostCmd) : Statement (.cfgBegin c) := of_key rfl (by decide) rfl
theorem cfgSet (c : HostCmd) : Statement (.cfgSet c) := of_key rfl (by decide) rfl
theorem cfgCommit (c : HostCmd) : Statement (.cfgCommit c) := of_key rfl (by decide) rfl
theorem cfgRollback (c : HostCmd) : Statement (.cfgRollback c) := of_key rfl (by decide) rfl
theorem cfgStatus (c : HostCmd) : Statement (.cfgStatus c) := of_key rfl (by decide) rfl
theorem cfgApply : Statement .cfgApply := of_none rfl
theorem cfgIdleTimeout : Statement .cfgIdleTimeout := of_none rfl
theorem regRead (c : HostCmd) : Statement (.regRead c) := of_key rfl (by decide) rfl
theorem statClear (c : HostCmd) : Statement (.statClear c) := of_key rfl (by decide) rfl
theorem graphLoad (c : HostCmd) : Statement (.graphLoad c) := of_key rfl (by decide) rfl
theorem graphUnload (c : HostCmd) : Statement (.graphUnload c) := of_key rfl (by decide) rfl
theorem placeReport (c : HostCmd) : Statement (.placeReport c) := of_key rfl (by decide) rfl
theorem stepRun (c : HostCmd) : Statement (.stepRun c) := of_key rfl (by decide) rfl
theorem stepHalt (c : HostCmd) : Statement (.stepHalt c) := of_key rfl (by decide) rfl
theorem quiesce (c : HostCmd) : Statement (.quiesce c) := of_key rfl (by decide) rfl
theorem dmaCopy (c : HostCmd) : Statement (.dmaCopy c) := of_key rfl (by decide) rfl
theorem dmaCopyDone (port : HPort) (k : Fin 4) (data : List Byte) (bad : Option Nat) : Statement (.dmaCopyDone port k data bad) := of_none rfl
theorem slvProblemLoad (c : HostCmd) : Statement (.slvProblemLoad c) := of_key rfl (by decide) rfl
theorem slvProblemInfo (c : HostCmd) : Statement (.slvProblemInfo c) := of_key rfl (by decide) rfl
theorem slvContextClear (c : HostCmd) : Statement (.slvContextClear c) := of_key rfl (by decide) rfl
theorem cursorSet (c : HostCmd) : Statement (.cursorSet c) := of_key rfl (by decide) rfl
theorem snapNow (c : HostCmd) : Statement (.snapNow c) := of_key rfl (by decide) rfl
theorem snapMirrorBuf (c : HostCmd) : Statement (.snapMirrorBuf c) := of_key rfl (by decide) rfl
theorem restoreBegin (c : HostCmd) : Statement (.restoreBegin c) := of_key rfl (by decide) rfl
theorem fillSend (c : HostCmd) : Statement (.fillSend c) := of_key rfl (by decide) rfl
theorem restorePrivateHost (c : HostCmd) : Statement (.restorePrivateHost c) := of_key rfl (by decide) rfl
theorem restoreCommit (c : HostCmd) : Statement (.restoreCommit c) := of_key rfl (by decide) rfl
theorem verifyStart (c : HostCmd) : Statement (.verifyStart c) := of_key rfl (by decide) rfl
theorem evtRead (c : HostCmd) : Statement (.evtRead c) := of_key rfl (by decide) rfl
theorem evtMask (c : HostCmd) : Statement (.evtMask c) := of_key rfl (by decide) rfl
theorem cntRead (c : HostCmd) : Statement (.cntRead c) := of_key rfl (by decide) rfl
theorem cntClear (c : HostCmd) : Statement (.cntClear c) := of_key rfl (by decide) rfl
theorem phaseNotice (ph : Fin 7) (active : Bool) : Statement (.phaseNotice ph active) := of_none rfl
theorem pwrState (c : HostCmd) : Statement (.pwrState c) := of_key rfl (by decide) rfl
theorem powerStateEntry : Statement .powerStateEntry := of_none rfl
theorem regionDomainSwitch : Statement .regionDomainSwitch := of_none rfl
theorem computeReset (c : HostCmd) : Statement (.computeReset c) := of_key rfl (by decide) rfl
theorem computeResetGraceExpiry : Statement .computeResetGraceExpiry := of_none rfl
theorem attest (c : HostCmd) : Statement (.attest c) := of_key rfl (by decide) rfl
theorem unlockChallenge (c : HostCmd) : Statement (.unlockChallenge c) := of_key rfl (by decide) rfl
theorem unlockToken (c : HostCmd) : Statement (.unlockToken c) := of_key rfl (by decide) rfl
theorem debugLock (c : HostCmd) : Statement (.debugLock c) := of_key rfl (by decide) rfl
theorem ident (c : HostCmd) : Statement (.ident c) := of_key rfl (by decide) rfl
theorem identFusemap (c : HostCmd) : Statement (.identFusemap c) := of_key rfl (by decide) rfl
theorem fwBegin (c : HostCmd) : Statement (.fwBegin c) := of_key rfl (by decide) rfl
theorem fwWrite (c : HostCmd) : Statement (.fwWrite c) := of_key rfl (by decide) rfl
theorem fwCommit (c : HostCmd) : Statement (.fwCommit c) := of_key rfl (by decide) rfl
theorem fwAbort (c : HostCmd) : Statement (.fwAbort c) := of_key rfl (by decide) rfl
theorem fwSessionTimeout : Statement .fwSessionTimeout := of_none rfl
theorem logRead (c : HostCmd) : Statement (.logRead c) := of_key rfl (by decide) rfl
theorem moduleReset (c : HostCmd) : Statement (.moduleReset c) := of_key rfl (by decide) rfl
theorem moduleResetExecute (strap : Byte) : Statement (.moduleResetExecute strap) := of_none rfl
theorem powerOnReset (strap : Byte) : Statement (.powerOnReset strap) := of_none rfl
theorem bootLoadDone : Statement .bootLoadDone := of_none rfl
theorem bootReady : Statement .bootReady := of_none rfl
theorem bootWatchdog (strap : Byte) : Statement (.bootWatchdog strap) := of_none rfl
theorem powerInputLost (mv : BitVec 16) (high : Bool) : Statement (.powerInputLost mv high) := of_none rfl
theorem islandTimeout (snd : Fin 100) (rcv : Fin 100) : Statement (.islandTimeout snd rcv) := of_none rfl
theorem droop (rg : Rg) : Statement (.droop rg) := of_none rfl
theorem cageOvercurrent (p : FPort) : Statement (.cageOvercurrent p) := of_none rfl
theorem extRstAssert : Statement .extRstAssert := of_none rfl
theorem extRstRelease (strap : Byte) : Statement (.extRstRelease strap) := of_none rfl
theorem debugDataAccess (write : Option Word) : Statement (.debugDataAccess write) := of_none rfl
theorem arrStreamLastUpdate (cl : Cl) : Statement (.arrStreamLastUpdate cl) := of_none rfl
theorem arrDrainWritten (cl : Cl) : Statement (.arrDrainWritten cl) := of_none rfl
theorem placementFinished : Statement .placementFinished := of_none rfl
theorem linkTrainingStart (p : FPort) : Statement (.linkTrainingStart p) := of_none rfl
theorem initCheckFailed (strap : Byte) : Statement (.initCheckFailed strap) := of_none rfl
theorem perstDeassert (port : HPort) : Statement (.perstDeassert port) := of_none rfl
theorem bar0MissizedRead (port : HPort) : Statement (.bar0MissizedRead port) := of_none rfl

end Sys2Proof.Laws.Operands
end

