-- ==== Sys2Proof/Laws/Solver.lean ====
section
/-! SUPPORT. Lemmas about solver calls: λ by the side of its row, the end of the sweeps, what a record can hold. -/
namespace Sys2Proof.Machine

@[simp] theorem RowSide.hold_lower (w : Bool) (x : Ex) : 0 ≤ (RowSide.lower.hold w x).n := by
  show 0 ≤ (if x.n < 0 then Ex.zero else x).n
  split
  · exact Int.le_refl 0
  · omega

@[simp] theorem RowSide.hold_upper (w : Bool) (x : Ex) : (RowSide.upper.hold w x).n ≤ 0 := by
  show (if 0 < x.n then Ex.zero else x).n ≤ 0
  split
  · exact Int.le_refl 0
  · omega

@[simp] theorem RowSide.hold_inactive (x : Ex) : RowSide.inactive.hold false x = Ex.zero := rfl
@[simp] theorem RowSide.hold_free (w : Bool) (x : Ex) : RowSide.free.hold w x = x := rfl

/-- RES_MAN has 16 bits, and RES_SCALE of a residual is none of the codes that say there is no residual. -/
theorem resWord_fits (args : List Int) (k : Nat) (r : Ex) : (resWord args k r).1 < 2 ^ 16 ∧ (resWord args k r).2 < 255 := by
  unfold resWord; dsimp only; split
  · constructor <;> omega
  · constructor <;> dsimp only <;> omega

/-- A search for the first of n numbers that is met. -/
theorem find_range (n : Nat) (p : Nat → Bool) :
    (∃ k, (List.range n).find? p = some k ∧ k < n ∧ p k = true ∧ ∀ m, m < k → p m = false) ∨
    ((List.range n).find? p = none ∧ ∀ m, m < n → p m = false) := by
  rcases h : (List.range n).find? p with _ | k
  · refine Or.inr ⟨rfl, fun m hm => ?_⟩
    have := List.find?_eq_none.mp h m (List.mem_range.mpr hm)
    simpa using this
  · refine Or.inl ⟨k, rfl, ?_⟩
    simp only [List.find?_range_eq_some] at h
    obtain ⟨h1, h2, h3⟩ := h
    exact ⟨List.mem_range.mp h2, h1, fun m hm => by simpa using h3 m hm⟩

/-- The sweeps end at the first whose residual meets the tolerance, or at MAX_ITER. -/
theorem RowSolve.last_cases (r : RowSolve) (c : SlvCmd) (pr : Problem) :
    (∃ k, r.last c pr = (k + 1, false) ∧ k < slvMaxIter c ∧ slvUnmet c (r.residual pr (k + 1)) = false) ∨
    (r.last c pr = (slvMaxIter c, true) ∧ ∀ k, k < slvMaxIter c → slvUnmet c (r.residual pr (k + 1)) = true) := by
  unfold RowSolve.last
  rcases find_range (slvMaxIter c) fun k => !slvUnmet c (r.residual pr (k + 1)) with ⟨k, h, hk, hp, -⟩ | ⟨h, hp⟩
  · exact Or.inl ⟨k, by rw [h], hk, by simpa using hp⟩
  · exact Or.inr ⟨by rw [h], fun k hk => by simpa using hp k hk⟩

end Sys2Proof.Machine
end

