-- ==== Sys2Proof/Tests/Slice0.lean ====
section
/-! SUPPORT. Tests: operands that no party can send fail the check; for each statement a state and operands that meet its hypotheses; small
examples worked out by hand from the rules. -/
namespace Sys2Proof.Tests
open Sys2Proof Sys2Proof.Machine

set_option Elab.async false

/-- The state that a command leads to. -/
def after (i : Instr) (s : State) : State := match exec i s with | .next t => t | _ => s

/-- The state that a step leads to. -/
def ran (s : State) : State := match step s with | .next t => t | _ => s

/-! ### Well-formedness -/

theorem wf_of_long (c : HostCmd) (h : c.words.length = 65536) : (Instr.ident c).wf = false := by simp only [Instr.wf, HostCmd.wf, h]; rfl
theorem test_wf_length : (Instr.ident { port := 0, words := List.replicate 65536 0 }).wf = false := wf_of_long _ List.length_replicate
theorem test_wf_window_end : (Instr.windowRead 0 0xFFFFFFFFF 2).wf = false := by decide +kernel
theorem test_wf_window_write : (Instr.windowWrite 0 0 []).wf = false := by decide +kernel
theorem test_wf_islands : (Instr.islandTimeout 5 5).wf = false := by decide +kernel
theorem test_wf_copy : (Instr.dmaCopyDone 0 0 [] none).wf = true := by decide +kernel
theorem test_window_ends_with_bar : barBytes 0xFFFFFFFFF 2 = 1 := by decide +kernel

/-! ### The queue -/

theorem witness_StepRunsFrontCommand : ({ State.reset with pending := [.stepStart] } : State).pending = .stepStart :: [] := rfl
theorem witness_EmptyQueueTicks : State.reset.pending = [] ∧ State.reset.pwr.off = false := by decide +kernel
theorem witness_InvariantKept : State.reset.Inv ∧ ∃ t, step State.reset = .next t := ⟨rfl, _, rfl⟩

theorem test_front_runs_first : (ran { State.reset with pending := [.mbxDbHeartbeat 1, .stepStart] }).pending = [.stepStart] ∧
    ((ran { State.reset with pending := [.mbxDbHeartbeat 1, .stepStart] }).port 1).host = .present := by decide +kernel
theorem test_tick_counts : (ran State.reset).pwr.islands[99].ticks = 1 := by decide +kernel

/-! ### Vector engine -/

/-- The module with something changed in cluster 0. -/
def withCl (f : Cluster → Cluster) : State := State.reset.onCl 0 f

/-- Cluster 0 with 16-bit elements, groups of two registers and VL = 3, v2 holding 1, 0xFFFF, 0x7FFF and v4 holding 2 each. -/
def lanes : State := withCl fun k => { k with vec := { k.vec with
  ew := 1, grp := 1, vl := 3
  v := (k.vec.v.set 2 { data := 0x7FFFFFFF0001 }).set 4 { data := 0x0002000200020002 } } }

theorem witness_VectorRegisterOps : (vectorRow (.vadd { cl := 0 })).isSome = true ∧ (vectorRow (.vsetcfg { cl := 383 })).isSome = true := by
  decide +kernel

/-- Fields of a legal integer instruction on that cluster. -/
def laneArgs : VArgs := { cl := 0, vd := 6, vs1 := 2, vs2 := 4 }

theorem witness_IntegerLanes : (integerRow (.viadd laneArgs)).isSome = true ∧
    ((lanes.cl 0).awaited (scalarRegs laneArgs)).vec.legal laneArgs { vd := .int, vs1 := .int, vs2 := secondIntUse laneArgs } = true := by
  decide +kernel
/-- 1 + 2, 0xFFFF + 2 modulo 2^16, 0x7FFF + 2; the fourth element lies past VL. -/
theorem test_viadd : (((after (.viadd laneArgs) lanes).cl 0).vec.reg 6).data = 0x800100010003 := by decide +kernel
/-- The signed product of −1 and 2 has the high half 0xFFFF, that of 0x7FFF and 2 the high half 0. -/
theorem test_vimulh : (((after (.vimulh laneArgs) lanes).cl 0).vec.reg 6).data = 0xFFFF0000 := by decide +kernel
theorem test_vimin : (((after (.vimin laneArgs) lanes).cl 0).vec.reg 6).data = 0x0002FFFF0001 := by decide +kernel

/-- Cluster 0 with VL = 4, p1 = 1100 and p2 = 1010. -/
def preds : State := withCl fun k => { k with vec := { k.vec with vl := 4, p := (k.vec.p.set 1 0xC).set 2 0xA } }
def predArgs : VArgs := { cl := 0, vd := 3, vs1 := 1, vs2 := 2 }

theorem witness_PredicateBits :
    (preds.cl 0).vec.legal predArgs { vd := .pred, vs1 := .pred, vs2 := .pred, mask := false } = true ∧ predArgs.x = false := by
  decide +kernel
theorem witness_PredicateBits_none : (preds.cl 0).vec.legal { cl := 0, vd := 7 } { vd := .pred, mask := false } = true := by decide +kernel
theorem test_pandn : ((after (.pandn predArgs) preds).cl 0).vec.pred 3 = 4 := by decide +kernel
theorem test_pnot : ((after (.pnot { cl := 0, vd := 3, vs1 := 1 }) preds).cl 0).vec.pred 3 = 3 := by decide +kernel

/-- v1 is no multiple of the group of two registers. -/
theorem witness_IllegalOpsAndDelivery_illegal : ((lanes.cl 0).awaited (scalarRegs { cl := 0, vd := 1, vs1 := 2, vs2 := 4 })).vec.legal
    { cl := 0, vd := 1, vs1 := 2, vs2 := 4 } { vd := .si, vs1 := .si, vs2 := secondUse { cl := 0, vd := 1, vs1 := 2, vs2 := 4 }, prec := true } = false := by
  decide +kernel
/-- Tahr with two summaries on their way. -/
def summing : State := withCl fun k => { k with tahr := { k.tahr with summaries := [{ rd := 5, value := 9 }, { rd := 0, value := 1 }] } }
theorem witness_IllegalOpsAndDelivery_summary : (summing.cl 0).tahr.summaries = { rd := 5, value := 9 } :: [{ rd := 0, value := 1 }] := by
  decide +kernel
theorem test_summary : ((after (.summaryDelivery 0) summing).cl 0).tahr.get 5 = 9 := by decide +kernel

/-- A block of the largest value that a byte mantissa holds at 2^0, and one of a value past every exponent. -/
theorem witness_LeastBlockExponent_fits : ∀ el ∈ [({ val := some { n := 127, e := 0 } } : Elem)], ∀ x, el.val = some x →
    (x.roundAt (6 - (Carrier.elem 8).frac)).natAbs ≤ (Carrier.elem 8).mmax := by
  intro el h x e
  simp only [List.mem_singleton] at h
  subst h
  cases e
  decide +kernel
theorem witness_LeastBlockExponent_never : ∀ d : Int, -127 ≤ d → d ≤ 127 →
    ¬(({ n := 1, e := 1000 } : Ex).roundAt (d - (Carrier.elem 8).frac)).natAbs ≤ (Carrier.elem 8).mmax := by decide +kernel
theorem witness_LeastBlockExponent_zero : ∀ el ∈ ([] : List Elem), ∀ x, el.val = some x → x.n = 0 := by simp
/-- 127 fits one byte with the element's unit at 2^0, where frac is 6; 128 needs the next exponent. -/
theorem test_block_exponent : (formBlock (.elem 8) [{ val := some { n := 127, e := 0 } }]).1.e = (Carrier.elem 8).frac ∧
    (formBlock (.elem 8) [{ val := some { n := 128, e := 0 } }]).1.e = (Carrier.elem 8).frac + 1 := by decide +kernel

/-- A kernel that holds nothing may write anywhere in its tile memory. -/
theorem witness_VectorMemoryOps : MayWrite (lanes.cl 0) [{ addr := 0, data := 1 }] ∧ lanes.mem.wf = true := by
  have h : (lanes.cl 0).kernelFiring = none := by decide +kernel
  exact ⟨fun f e => by simp [h] at e, by decide +kernel⟩

/-- Tahr of cluster 0 waits for a slot, or runs nothing. -/
theorem witness_Vector_waits : ((withCl fun k => { k with tahr := { k.tahr with wait := some (.slot 0 1) } }).cl 0).tahr.wait.isSome = true ∧
    (lanes.cl 0).tahr.wait = none ∧ (preds.cl 0).tahr.wait = none := by decide +kernel
/-- The two words of the worked example of R209, and one of each major opcode: VADD, VIADD with a register of Tahr, VMV. -/
theorem test_words : vectorWord 0 0x4062A47B = some (.vsegsum { cl := 0, vd := 8, pm := 2, m := true, vs1 := 2, vs2 := 3 }) ∧
    vectorWord 0 0x6003057B = some (.vpsumPopc { cl := 0, vd := 10, vs1 := 3 }) ∧
    vectorWord 0 0x0084035B = some (.vadd { cl := 0, vd := 6, vs1 := 4, vs2 := 4 }) ∧
    vectorWord 0 0x8084032B = some (.viadd { cl := 0, vd := 6, vs1 := 4, vs2 := 4, x := true }) ∧
    vectorWord 0 0x5C04035B = some (.vmv { cl := 0, vd := 6, vs1 := 4 }) := by decide +kernel
/-- FN 0x1E and 0x1F of 0x2B are reserved, and a word of another opcode is none of these. -/
theorem test_words_reserved : vectorWord 0 0x7800002B = none ∧ vectorWord 0 0x7C00002B = none ∧ vectorWord 0 0x00000033 = none := by decide +kernel
theorem witness_IllegalOpsAndDelivery_words : siRows.length = 32 ∧ intRows.length = 30 ∧ ctlRows.length = 24 ∧ siRows[31]?.isSome = true := by
  decide +kernel
/-- A load past the end of tile memory, and a VSTRES whose fields name no group. -/
theorem witness_IllegalOpsAndDelivery_memory : (fmtOf 1 (lanes.desc 1)).usable = true ∧ vfmt { cl := 0, vs2 := 1 } = 1 ∧
    ((lanes.cl 0).awaited [0, nextReg 0]).vec.memLegal false { cl := 0, vs2 := 1 } (fmtOf 1 (lanes.desc 1)) (fun _ => 0xFFFFFF) = false ∧
    ((lanes.cl 0).awaited [0, nextReg 0]).vec.resLegal { cl := 0, vd := 1 } = false := by decide +kernel
theorem witness_IllegalOpsAndDelivery_none : (lanes.cl 0).tahr.summaries = [] := by decide +kernel
/-- A value above the range of a byte at exponent 127. -/
theorem witness_LeastBlockExponent_above : ((Carrier.elem 8).maxVal false).lt ({ n := 1, e := 200 } : Ex).abs = true ∧
    ∃ el ∈ [({ val := some { n := 1, e := 200 } } : Elem)], el.val = some { n := 1, e := 200 } := by
  refine ⟨by decide +kernel, _, List.mem_singleton.mpr rfl, rfl⟩
theorem test_saturates : (formBlock (.elem 8) [{ val := some { n := -1, e := 200 } }]).1 = { e := 127, m := [some (-127)] } := by decide +kernel

/-! ### Tahr -/

/-- Cluster 0 runs the kernel of entry 0 at an address where these bytes stand, a firing with these guards. -/
def running (pc : Nat) (code : List Byte) (guards : GSet) (f : Cluster → Cluster) : State :=
  ({ State.reset with mem := State.reset.mem.write (writesAt (tileBase 0 + pc) code) } : State).onCl 0 fun k => f { k with
    firings := [{ entry := 0, order := 0, unit := .vector, guards := guards }]
    tahr := { k.tahr with kernel := some { entry := 0, start := 0 }, pc := BitVec.ofNat 64 pc } }

/-- x9 and x8 hold these. -/
def regs (a v : Word) (k : Cluster) : Cluster := { k with tahr := { k.tahr with x := (k.tahr.x.set 9 a).set 8 v } }

/-- The cluster once the instruction at the pc has been fetched. -/
def fetched (s : State) (w : BitVec 32) : Cluster := ({ s.cl 0 with tahr := ((s.cl 0).tahr.fetch (s.tileLine 0)).1 }).awaited (rvOf w).regs

/-- What the fetch at the pc gives. -/
def word (s : State) : Option (BitVec 32 × Nat) := ((s.cl 0).tahr.fetch (s.tileLine 0)).2

/-- C.LI x1, 5 is 0x4095. -/
def li : State := running 0 [0x95, 0x40] [] id
theorem witness_TahrComputes : (li.cl 0).tahrReady = true ∧ word li = some (0x4095, 2) ∧
    rvResult (rvOf 0x4095) (fetched li 0x4095).tahr.pc ((fetched li 0x4095).tahr.pc + 2) (fetched li 0x4095).tahr.get = some (1, 5, 2) := by
  decide +kernel
theorem test_li : ((after (.tahrBaseInstruction 0) li).cl 0).tahr.get 1 = 5 := by decide +kernel
/-- BEQ x9, x8, −4 is 0xFE848EE3; both hold 7. -/
theorem test_branch : ((after (.tahrBaseInstruction 0) (running 62 [0xE3, 0x8E, 0x84, 0xFE] [] (regs 7 7))).cl 0).tahr.pc = 58 := by
  decide +kernel

/-- C.LD x8, 0(x9) is 0x6080 and C.SD x8, 0(x9) is 0xE080; the last doubleword of tile memory. -/
def lastLoad : State := running 0 [0x80, 0x60] [] (regs 0x5FFFF8 3)
def lastStore : State := running 0 [0x80, 0xE0] [] (regs 0x5FFFF8 0x0102030405060708)
theorem witness_TahrLoadsStores_load : (lastLoad.cl 0).tahrReady = true ∧ word lastLoad = some (0x6080, 2) ∧
    rvOf 0x6080 = .load 3 8 9 0 ∧ ((fetched lastLoad 0x6080).tahr.get 9 + 0).toNat = 0x5FFFF8 ∧ 0x5FFFF8 % loadLen 3 = 0 := by decide +kernel
theorem witness_TahrLoadsStores_store : (lastStore.cl 0).tahrReady = true ∧ word lastStore = some (0xE080, 2) ∧
    rvOf 0xE080 = .store 3 9 8 0 ∧ ((fetched lastStore 0xE080).tahr.get 9 + 0).toNat = 0x5FFFF8 ∧ 0x5FFFF8 % loadLen 3 = 0 ∧
    lastStore.mem.wf = true := by decide +kernel
theorem witness_TahrLoadsStores_may : MayWrite (fetched lastStore 0xE080) [{ addr := 0x5FFFF8, data := 8 }] := by
  have h : (fetched lastStore 0xE080).kernelFiring = some { entry := 0, order := 0, unit := .vector } := by decide +kernel
  intro f e
  rw [h] at e
  cases e
  decide
theorem test_store : (after (.tahrBaseInstruction 0) lastStore).mem.get (tileBase 0 + 0x5FFFFF) = 1 ∧
    (after (.tahrBaseInstruction 0) lastStore).mem.get (tileBase 0 + 0x5FFFF8) = 8 := by decide +kernel

/-- A load of eight bytes at an address. -/
def loadAt (a : Word) : State := running 0 [0x80, 0x60] [] (regs a 0)
/-- LBU x8, 0(x9) is 0x0004C403. -/
def byteAt (a : Word) : State := running 62 [0x03, 0xC4, 0x04, 0x00] [] (regs a 0)
theorem witness_TahrFaultsAndFences_illegal : word (running 0 [0, 0] [] id) = some (0, 2) ∧ rvOf 0 = .illegal := by decide +kernel
theorem witness_TahrFaultsAndFences_misaligned : word (loadAt 0x5FFFFF) = some (0x6080, 2) ∧
    ((fetched (loadAt 0x5FFFFF) 0x6080).tahr.get 9 + 0).toNat = 0x5FFFFF ∧ 0x5FFFFF % loadLen 3 ≠ 0 := by decide +kernel
theorem witness_TahrFaultsAndFences_range : word (loadAt 0x600000) = some (0x6080, 2) ∧
    ((fetched (loadAt 0x600000) 0x6080).tahr.get 9 + 0).toNat = 0x600000 ∧
    ((fetched (loadAt 0xFFFFFF) 0x6080).tahr.get 9 + 0).toNat = 0x1000000 - 1 ∧
    ((fetched (loadAt 0x1010000) 0x6080).tahr.get 9 + 0).toNat = 0x1010000 := by decide +kernel
theorem witness_TahrFaultsAndFences_short : word (byteAt 0x1000000) = some (0x0004C403, 4) ∧ rvOf 0x0004C403 = .load 4 8 9 0 ∧
    loadLen 4 < 8 ∧ ((fetched (byteAt 0x1000000) 0x0004C403).tahr.get 9 + 0).toNat = 0x1000000 ∧
    ((fetched (byteAt 0x100FFFF) 0x0004C403).tahr.get 9 + 0).toNat = 0x1010000 - 1 := by decide +kernel
/-- Debug scope 0 is open. -/
theorem witness_TahrFaultsAndFences_debug : ({ li with sec := { li.sec with debugOpen := 1 } } : State).sec.debugOpen.getLsbD 0 = true ∧
    li.sec.debugOpen.getLsbD 0 = false := by decide +kernel
/-- A fault makes the entry FAULTED. -/
theorem test_fault : (((after (.tahrBaseInstruction 0) (loadAt 0x5FFFFF)).cl 0).entry 0).state = .faulted := by decide +kernel

theorem witness_CsrAccess : (li.cl 0).tahrReady = true := by decide +kernel
/-- CSRRC with x9 = 1 would clear a bit; CSRRW of VEC_SSCALE returns the reset value 0x7F. -/
theorem test_csrrw : ((after (.csrInstruction 0 1 8 9 0x802) (running 0 [] [] (regs 0x42 0))).cl 0).tahr.get 8 = 0x7F ∧
    ((after (.csrInstruction 0 1 8 9 0x802) (running 0 [] [] (regs 0x42 0))).cl 0).vec.sscale = 0x42 := by decide +kernel

/-- The descriptor of entry 0 with USES_ARRAY, 15 commands queued. -/
def driving : State := running 0 [] [] fun k => regs 0x5FFFE0 0 { k with
  table := k.table.set 0 { desc := 0x4002 }, arr := { k.arr with queue := List.replicate 15 { word := 0, taskStrict := false } } }
theorem witness_TahrDrivesUnits_tarr : (driving.cl 0).tahrReady = true ∧
    (((driving.cl 0).awaited [9]).entry 0).usesArray = true ∧ (((driving.cl 0).awaited [9]).tahr.get 9).toNat + 32 = 0x600000 ∧
    ((driving.cl 0).awaited [9]).arr.queue.length = 15 := by decide +kernel
theorem test_tarr : ((after (.tarr 0 9) driving).cl 0).arr.queue.length = 16 := by decide +kernel
/-- Tahr waits for the array, which is idle, or for a slot that holds just enough. -/
def syncing : State := withCl fun k => { k with tahr := { k.tahr with wait := some (.sync 8) } }
def slotWait : State := withCl fun k => { k.addSlot 255 4 with tahr := { k.tahr with wait := some (.slot 255 4) } }
theorem witness_TahrDrivesUnits_sync : (syncing.cl 0).tahr.wait = some (.sync 8) ∧ (syncing.cl 0).arr.idle = true ∧
    (syncing.cl 0).tahr.summaries = [] := by decide +kernel
theorem witness_TahrDrivesUnits_wait : (slotWait.cl 0).tahr.wait = some (.slot 255 4) ∧ (4 : Byte).toNat ≤ (slotWait.cl 0).slot 255 := by decide +kernel
/-- x9 names slot 7 of a cluster, x8 the amount 1. -/
def prodTo (n : Nat) (gs : GSet) : State := running 0 [] gs (regs (BitVec.ofNat 64 (n + 512 * 7)) 1)
theorem witness_TahrDrivesUnits_prod : ∀ n ∈ [511, 0, 383],
    ((prodTo n []).cl 0).tahrReady = true ∧ (((prodTo n []).cl 0).kernelFiring.map (·.held)) = some false ∧
    fld (((prodTo n []).cl 0).awaited [9, 8] |>.tahr.get 9) 0 9 = n ∧ fld (((prodTo n []).cl 0).awaited [9, 8] |>.tahr.get 8) 0 8 = 1 := by
  decide +kernel
theorem witness_TahrDrivesUnits_held : ((prodTo 383 [(0, true)]).cl 0).kernelFiring.map (·.held) = some true ∧
    ((prodTo 383 [(0, true)]).rg 0).held.length < 512 := by decide +kernel
theorem test_tprod : ((after (.tprod 0 9 8) (prodTo 511 [])).cl 0).slot 7 = 1 ∧
    (after (.tprod 0 9 8) (prodTo 383 [])).flights = [{ cl := 383, slot := 7, amount := 1 }] := by decide +kernel

theorem witness_TahrGuardsAndEnds : (((prodTo 0 []).cl 0).kernelFiring.map (·.held)) = some false ∧
    (((prodTo 0 [(1, false)]).cl 0).kernelFiring.map (·.held)) = some true ∧ ((prodTo 0 []).cl 0).tahrReady = true := by decide +kernel
/-- BUDGET of entry 0 is 1 (word 6). -/
def budgeted : State := running 0 [] [] fun k => { k with table := k.table.set 0 { desc := 1 <<< 384 } }
theorem witness_TahrGuardsAndEnds_budget : (budgeted.cl 0).tahr.kernel.map (·.entry) = some 0 ∧ ((budgeted.cl 0).entry 0).f 6 0 32 = 1 := by
  decide +kernel
theorem test_tend : (((after (.tend 0 9) (running 0 [] [] (regs 0x1122334455 0))).cl 0).firing 0).map (·.result) = some 0x22334455 := by
  decide +kernel

/-- Tahr runs in cluster 0 with x9 the first address of its register block. -/
theorem witness_TahrLoadsStores_register : word (loadAt 0x1000000) = some (0x6080, 2) ∧ ((fetched (loadAt 0x1000000) 0x6080).tahr.get 9 + 0).toNat =
    0x1000000 + 8 * 0 ∧ ((fetched (loadAt 0x100FFF8) 0x6080).tahr.get 9 + 0).toNat = 0x1000000 + 8 * 8191 ∧ loadLen 3 = 8 := by decide +kernel
theorem witness_TahrLoadsStores_register_store : word (running 0 [0x80, 0xE0] [] (regs 0x1000000 5)) = some (0xE080, 2) ∧
    rvOf 0xE080 = .store 3 9 8 0 ∧ ((fetched (running 0 [0x80, 0xE0] [] (regs 0x1000000 5)) 0xE080).tahr.get 9 + 0).toNat = 0x1000000 := by decide +kernel
/-- A pc past tile memory; a word of the reserved function 0x1F of opcode 0x2B; an address of the register block that is no multiple of 8. -/
theorem witness_TahrFaultsAndFences_fetch : word (running 0x600000 [] [] id) = none ∧ ((running 0x600000 [] [] id).cl 0).tahrReady = true := by decide +kernel
theorem witness_TahrFaultsAndFences_reserved : word (running 62 [0x2B, 0, 0, 0x7C] [] id) = some (0x7C00002B, 4) ∧
    rvOf 0x7C00002B = .vector 0x7C00002B ∧ vectorWord 0 0x7C00002B = none := by decide +kernel
theorem witness_TahrFaultsAndFences_odd : ((fetched (loadAt 0x1000004) 0x6080).tahr.get 9 + 0).toNat = 0x1000004 ∧ 0x1000004 % 8 ≠ 0 := by decide +kernel
/-- A kernel that holds nothing and one that does. -/
theorem witness_TahrFaultsAndFences_kernel : (li.cl 0).kernelFiring.map (fun f => (f.held, f.final, f.unit.isVector)) = some (false, false, true) ∧
    ((running 0 [] [(3, true)] id).cl 0).kernelFiring.map (·.held) = some true := by decide +kernel
theorem test_ill_op : ((after (.tahrBaseInstruction 0) (running 62 [0x2B, 0, 0, 0x7C] [] id)).cl 0).vec.stat.getLsbD 15 = true := by decide +kernel

/-- Numbers that CSR instructions reach, that are read only, and that are not there. -/
theorem witness_CsrAccess_numbers : (csrValue li 0 (li.cl 0) 0x803).isSome = true ∧ (csrValue li 0 (li.cl 0) 0xCC0).isSome = true ∧
    0xC02#12 ∈ [0xCC0#12, 0xCC1#12, 0xC00#12, 0xC01#12, 0xC02#12] ∧ csrValue li 0 (li.cl 0) 0x804 = none := by decide +kernel
/-- CSRRSI x8, VEC_STAT, 1 writes the old value with bit 0 set, which clears every set bit (log entry 143). -/
theorem test_csrrs_stat : ((after (.csrInstruction 0 6 8 1 0x803) (running 0 [] [] fun k => { k with vec := { k.vec with stat := 6 } })).cl 0).vec.stat = 0 := by
  decide +kernel

/-- TARR without USES_ARRAY; past the end, off the grid, with a full queue. -/
theorem witness_TahrDrivesUnits_tarr_stops : (((li.cl 0).awaited [9]).entry 0).usesArray = false ∧
    ((regs 0x5FFFE1 0 (driving.cl 0)).tahr.get 9).toNat + 32 = 0x600001 ∧ ((regs 0x20 0 (driving.cl 0)).tahr.get 9).toNat % 32 = 0 ∧
    ((regs 0x10 0 (driving.cl 0)).tahr.get 9).toNat % 32 ≠ 0 ∧ (List.replicate 16 (0 : Nat)).length = 16 := by decide +kernel
theorem witness_TahrDrivesUnits_sync_own : (syncing.cl 0).ownArrayIdle = true ∧ (∀ rd, (li.cl 0).tahr.wait ≠ some (.sync rd)) :=
  ⟨by decide +kernel, by simp [show (li.cl 0).tahr.wait = none from by decide +kernel]⟩
theorem witness_TahrDrivesUnits_short : ((withCl fun k => { k.addSlot 255 3 with tahr := { k.tahr with wait := some (.slot 255 4) } }).cl 0).slot 255 = 3 := by
  decide +kernel
/-- The held table of region 0 full. -/
def fullHeld : State := (prodTo 383 [(0, true)]).onRg 0 fun r => { r with held := List.replicate 512 { item := .guard 0 true, cl := 1, entry := 0, order := 0, guards := [(1, true)] } }
theorem witness_TahrDrivesUnits_full : (fullHeld.rg 0).held.length = 512 ∧ (fullHeld.cl 0).kernelFiring.map (·.held) = some true ∧
    (((fullHeld.cl 0).awaited [9, 8]).retire 4).kernelFiring.isSome = true := by decide +kernel
/-- Clusters 384 and 510 are no clusters; an amount of 0. -/
theorem witness_TahrDrivesUnits_none : ∀ n ∈ [384, 510], fld (((prodTo n []).cl 0).awaited [9, 8] |>.tahr.get 9) 0 9 = n ∧
    fld ((running 0 [] [] (regs 0 0)).cl 0 |>.tahr.get 8) 0 8 = 0 := by decide +kernel
theorem witness_TahrGuardsAndEnds_no_budget : ((li.cl 0).entry 0).f 6 0 32 = 0 ∧ (li.cl 0).tahr.kernel.isSome = true := by decide +kernel

/-! ### Matrix array -/

/-- Cluster 0's array with one queued command. -/
def queued (w : BitVec 256) (f : Arr → Arr) : State := withCl fun k => { k with arr := f { k.arr with queue := [{ word := w, taskStrict := false }] } }

theorem witness_ArrayCommandsIssue : arrayRow (.arrSwap 0) = some (0, 4, fun a x _ => a.swap x) ∧
    (((queued 4 id).cl 0).arr.queue.map fun x => cw x.word 0 0 4) = [4] ∧ (queued 4 id).mem.wf = true := ⟨rfl, by decide +kernel⟩
/-- ARR_SWAP waits while a load runs and goes otherwise. -/
theorem witness_ArrayCommandsIssue_went : (∃ b ws, ({ ((queued 4 id).cl 0).arr with queue := [] } : Arr).swap { word := 4, taskStrict := false } = .done b ws) ∧
    ((queued 4 id).cl 0).arrayFiring = none := ⟨⟨_, _, rfl⟩, by decide +kernel⟩

theorem witness_SwapModeClear_swap : ((queued 4 fun a => { a with shadowFull := true }).cl 0).arr.loading = none ∧
    ((queued 4 fun a => { a with shadowFull := true }).cl 0).arr.shadowFull = true ∧ ((queued 4 id).cl 0).arr.shadowFull = false ∧
    ((queued 4 id).cl 0).arr.stat.getLsbD 6 = false := by decide +kernel
/-- ARR_MODE with HALF = 1 (bit 9) and STRICT = 0. -/
theorem witness_SwapModeClear_mode : (((queued 0x201 id).cl 0).arr.queue.map fun x => (cw x.word 0 0 4, cw x.word 0 8 1, cw x.word 0 9 1)) = [(1, 0, 1)] ∧
    ((queued 0x201 id).cl 0).arr.streams = [] ∧ ((queued 0x201 id).cl 0).arr.drains = [] := by decide +kernel
/-- ARR_CLEAR of all 256 rows, and of row 255 alone. -/
theorem witness_SwapModeClear_clear : (cw (2 + 256 * 2 ^ 24) 0 0 4, cw (2 + 256 * 2 ^ 24) 0 16 8, cw (2 + 256 * 2 ^ 24) 0 24 9) = (2, 0, 256) ∧
    (cw (2 + 255 * 2 ^ 16 + 2 ^ 24) 0 16 8, cw (2 + 255 * 2 ^ 16 + 2 ^ 24) 0 24 9) = (255, 1) := by decide +kernel
/-- An array task with one command left at the last place of tile memory; a load, a stream and a drain under way. -/
def tasked : State := withCl fun k => { k with arr := { k.arr with
  task := some { entry := 0, addr := 0x5FFFE0, left := 1, strict := false }
  loading := some ({ src := ⟨0, false, 0, 0, 0, 0, 0, 0⟩, limb := 0, half := false, blocks := [], nar := [], empty := true, maxExp := 0 }, [])
  streams := [{ base := 0, rows := 1 }], drains := [{ base := 255, rows := 1 }] } }
theorem witness_ArrayProgress : ((tasked.cl 0).arr.task.map fun k => (k.left, k.addr + 32)) = some (1, 0x600000) ∧
    (tasked.cl 0).arr.queue.length < 16 ∧ (tasked.cl 0).arr.loading.isSome = true ∧ (tasked.cl 0).arr.streams.length = 1 ∧
    (tasked.cl 0).arr.drains.length = 1 := by decide +kernel
theorem test_fetch_command : (((after (.arrayCommandFetch 0) tasked).cl 0).arr.task.map (·.left)) = some 0 := by decide +kernel
theorem test_swap_refused : ((after (.arrSwap 0) (queued 4 id)).cl 0).arr.errReason = 5 := by decide +kernel
theorem test_mode_half : ((after (.arrMode 0) (queued 0x201 id)).cl 0).arr.half = true := by decide +kernel

/-- A reserved opcode at the head, another row's opcode, an empty queue. -/
theorem witness_ArrayCommandsIssue_heads : (cw 0 0 0 4, cw 7 0 0 4, cw 15 0 0 4, cw 5 0 0 4) = (0, 7, 15, 5) ∧ (State.reset.cl 0).arr.queue = [] := by decide +kernel
/-- A load that runs holds up ARR_SWAP; a stream that loads by itself holds it up too. -/
theorem witness_ArrayCommandsIssue_waits : (tasked.cl 0).arr.loading.isSome = true ∧
    (∃ r ∈ ([{ base := 0, rows := 1, loads := true }] : List ArrRun), r.loads = true) := ⟨by decide +kernel, _, List.mem_singleton.mpr rfl, rfl⟩
theorem witness_SwapModeClear_idle : ((queued 4 id).cl 0).arr.loaderIdle = true := by decide +kernel
theorem witness_ArrayProgress_full : ({ (tasked.cl 0).arr with queue := List.replicate 16 { word := 0, taskStrict := false } } : Arr).queue.length = 16 ∧
    ({ (tasked.cl 0).arr with loading := none } : Arr).loading = none := by decide +kernel

/-- The largest sum at the lowest bit, and a first sum. -/
theorem witness_AccumulateExactly : (({ value := 0 } : Acc).anchor = none → ({ value := 0 } : Acc).value = 0) ∧
    (0 : Int) - 112 ≤ -112 ∧ ((0 : Int) + (2 ^ 127 - 1) * 2 ^ ((-112 : Int) - (0 - 112)).toNat).natAbs ≤ 2 ^ 127 - 1 ∧
    ((5 : Int) + 3 * 2 ^ ((-288 : Int) - (0 - 288)).toNat).natAbs ≤ 2 ^ 319 - 1 := by decide +kernel
/-- 5 × 2^−112 and then 3 × 2^−112. -/
theorem test_accumulate : (({ value := 5, anchor := some 0 } : Acc).addFast 3 (-112) 0).1.value = 8 := by decide +kernel

/-! ### Tasks -/

/-- Cluster 0 with these descriptors and states in its first entries, in a step. -/
def tasks (es : List (BitVec 1024 × TState)) (f : Cluster → Cluster) : State := (withCl fun k => f { k with
  table := Vector.ofFn fun i => match es[i.val]? with | some e => { desc := e.1, state := e.2 } | none => {} }).onRun fun r => { r with step := some {} }

/-- A kernel of 16 bytes at 0 with a stack at 0x600000 (KIND 2), waiting; entry 1 has PRIO 1. -/
def kernelDesc : BitVec 1024 := 2 ||| (0x600000#1024 <<< 352)
def two : State := tasks [(kernelDesc, .waiting), (kernelDesc ||| 0x10000, .waiting)] id
theorem witness_DispatchChoosesAndStarts : two.dispatchOff 0 = false ∧ (∀ j < 128, two.ready 0 j ≠ .skip) ∧ two.chosen 0 = some (1, []) ∧
    two.descriptorOk 0 1 ((two.cl 0).entry 1) = true ∧ ((two.cl 0).entry 1).kind = 2 := by decide +kernel
/-- An array task (KIND 1) of no commands. -/
def arrayTask : State := tasks [(1 ||| (1#1024 <<< 352), .waiting)] id
theorem witness_DispatchChoosesAndStarts_array : (∀ j < 128, arrayTask.ready 0 j ≠ .skip) ∧ arrayTask.chosen 0 = some (0, []) ∧
    arrayTask.descriptorOk 0 0 ((arrayTask.cl 0).entry 0) = true ∧ ((arrayTask.cl 0).entry 0).kind = 1 := by decide +kernel
/-- The higher PRIO goes first. -/
theorem test_dispatch_prio : (((after (.taskDispatch 0) two).cl 0).entry 1).state = .running ∧
    (((after (.taskDispatch 0) two).cl 0).entry 0).state = .waiting := by decide +kernel
theorem test_dispatch_stack : ((after (.taskDispatch 0) two).cl 0).tahr.get 2 = 0x600000 := by decide +kernel

/-- Two signals on their way, the second to cluster 0, whose slot 9 is full. -/
def flying : State := { withCl (fun k => k.setSlot 9 65535) with flights := [{ cl := 5, slot := 0, amount := 1 }, { cl := 0, slot := 9, amount := 1 }] }
theorem witness_SignalsAndCommits : takeNth (flying.flights.filter fun f => f.cl == 0) 0 = some ({ cl := 0, slot := 9, amount := 1 }, []) := by
  decide +kernel
theorem test_slot_overflow : ((after (.signalArrival 0 0) flying).cl 0).slot 9 = 65535 ∧ ((after (.signalArrival 0 0) flying).cl 0).tstat = 1 := by
  decide +kernel
/-- A firing of entry 3 that has ended, one whose commit is written, or one that is speculative and has ended. -/
def ended (gs : GSet) (committing : Bool) : State := tasks (List.replicate 3 ((0 : BitVec 1024), TState.idle) ++ [(0x800000#1024 ||| (0x105#1024 <<< 128), .running)]) fun k =>
  { k with firings := [{ entry := 3, order := 7, unit := .vector, ended := true, guards := gs, committing := committing }] }
theorem witness_SignalsAndCommits_commit : (((ended [] true).cl 0).firing 3).map (fun f => (f.committing, f.final)) = some (true, false) ∧
    (∀ q ∈ (ended [] true).reqs, q.pendingCommit 0 3 = false) ∧ (∀ g ∈ (ended [] true).commits 0, 7 ≤ g.order) ∧
    (ended [] true).heldGuards 0 3 = [] := by decide +kernel
theorem witness_FiringsEnd_held : (((ended [(2, true)] false).cl 0).firing 3).map (fun f => (f.final, f.held, ((ended [(2, true)] false).cl 0).workEnded f)) =
    some (false, true, true) ∧ ((ended [(2, true)] false).rg 0).held.length = 0 := by decide +kernel
theorem witness_FiringsEnd_completes : (((ended [] false).cl 0).firing 3).map (fun f => (f.final, f.held, f.committing, ((ended [] false).cl 0).workEnded f)) =
    some (false, false, false, true) ∧ (ended [] false).run.stopping = false ∧ (((ended [] false).cl 0).entry 3).guardEn = false ∧
    ((ended [] false).cl 0).head - ((ended [] false).cl 0).tail ≠ 255 := by decide +kernel
/-- The one local signal of the descriptor: slot 5, amount 1. -/
theorem test_complete : ((after (.taskComplete 0 3) (ended [] false)).cl 0).slot 5 = 1 ∧ ((after (.taskComplete 0 3) (ended [] false)).cl 0).head = 1 := by
  decide +kernel

/-- A DMA task of one element with this format on both sides, from this address. -/
def dmaTask (fmt src : Nat) : State := tasks [(BitVec.ofNat 1024
  (3 + src * 2 ^ 320 + (fmt + fmt * 2 ^ 8) * 2 ^ 448 + (1 + 2 ^ 24 + 2 ^ 44) * (2 ^ 512 + 2 ^ 640) + 4 * 2 ^ 960), .waiting)] id
/-- An invalid format; an address without a target. -/
theorem witness_DispatchChoosesAndStarts_dma : (dmaTask 0 0).chosen 0 = some (0, []) ∧ (dmaTask 0 0).fmtInvalid 0 0 (((dmaTask 0 0).cl 0).entry 0) = true ∧
    (let s := dmaTask 1 0x900000000000
     s.chosen 0 = some (0, []) ∧ s.fmtInvalid 0 0 ((s.cl 0).entry 0) = false ∧ s.descriptorOk 0 0 ((s.cl 0).entry 0) = true ∧
       s.spansOk 0 0 ((s.cl 0).entry 0) = false) ∧
    (let s := dmaTask 1 0
     s.descriptorOk 0 0 ((s.cl 0).entry 0) = true ∧ s.spansOk 0 0 ((s.cl 0).entry 0) = true) := by decide +kernel
/-- A solver call (KIND 4); a kernel whose code address is no multiple of 4; a cluster with nothing to dispatch. -/
theorem witness_DispatchChoosesAndStarts_others : (let s := tasks [(4, .waiting)] id
     s.chosen 0 = some (0, []) ∧ s.descriptorOk 0 0 ((s.cl 0).entry 0) = true ∧ ((s.cl 0).entry 0).kind = 4) ∧
    (let s := tasks [(kernelDesc ||| (2#1024 <<< 320), .waiting)] id
     s.chosen 0 = some (0, []) ∧ s.descriptorOk 0 0 ((s.cl 0).entry 0) = false) ∧ (tasks [] id).chosen 0 = none ∧ (tasks [] id).dispatchOff 0 = false := by
  decide +kernel
theorem witness_DispatchChoosesAndStarts_off : State.reset.run.step = none ∧ ((withCl fun k => { k with fenced := some 1 }).cl 0).fenced.isSome = true := by
  decide +kernel
theorem test_invalid_format : (((after (.taskDispatch 0) (dmaTask 0 0)).cl 0).firing 0).map (fun f => (f.ended, f.conds &&& cFmtInvalid)) = some (true, cFmtInvalid) := by
  decide +kernel
/-- R28: a signal to a fenced cluster is dropped; no signal is on its way to cluster 1. -/
def flyingFenced : State := flying.onCl 0 fun k => { k with fenced := some 1 }
theorem witness_SignalsAndCommits_fenced : (flyingFenced.cl 0).fenced.isSome = true ∧ takeNth (flying.flights.filter fun f => f.cl == 1) 0 = none := by decide +kernel
theorem test_signal_fenced : ((after (.signalArrival 0 0) flyingFenced).cl 0).tstat = 0 ∧ (after (.signalArrival 0 0) flyingFenced).flights.length = 1 := by decide +kernel
/-- A firing without a commit, and one whose commit an earlier commit of its region precedes. -/
theorem witness_SignalsAndCommits_wait : (((ended [] false).cl 0).firing 3).map (·.committing) = some false ∧
    (∃ g ∈ ((ended [] true).onCl 1 fun k => { k with firings := [{ entry := 0, order := 6, unit := .vector, committing := true }] }).commits 0, g.order < 7) := by
  refine ⟨by decide +kernel, { entry := 0, order := 6, unit := .vector, committing := true }, ?_, by decide⟩
  decide +kernel
/-- No room for the one signal of the firing; a firing that has completed; one whose work goes on; one that commits. -/
theorem witness_FiringsEnd_others :
    (((ended [(2, true)] false).onRg 0 fun r => { r with held := fullHeld.rg 0 |>.held }).rg 0).held.length + (signalsOf 0 (((ended [(2, true)] false).cl 0).entry 3)).length = 513 ∧
    ((ended [] false).cl 0).workEnded { entry := 3, order := 7, unit := .vector } = false ∧
    (((ended [] true).cl 0).firing 3).map (fun f => (f.final, f.held, f.committing, ((ended [] true).cl 0).workEnded f)) = some (false, false, true, true) := by
  decide +kernel
/-- A firing that finishes while it commits keeps its signals for the commit. -/
theorem test_commit_signals : ((after (.specCommitWritesDone 0 3) (after (.taskComplete 0 3) (ended [] true))).cl 0).head = 1 := by decide +kernel

/-! ### Steps, fences, placement -/

/-- A package without operations, and one with a stage in each of two segments. -/
def noPkg : Package := ⟨0, 0, 1, [], [], [], [], [], [], [], []⟩
def stage (op seg : Nat) (cs : List Nat) : Stage := ⟨op, seg, false, 0, false, 0, cs⟩
def twoSegs : Placement := ⟨[stage 0 0 [0], stage 1 1 [383]], [], 2, 0, [], [], 0⟩

/-- A graph is placed; health is NORMAL. -/
def placed (p : Package) (pl : Placement) (f : Run → Run) : State :=
  { State.reset with run := f { graph := some { pkg := p, place := some pl } }, hlt := { rcv := 5 } }

theorem witness_SegmentsRun : (placed noPkg twoSegs fun r => { r with budget := 1 }).placed = some (noPkg, twoSegs) ∧
    (placed noPkg twoSegs fun r => { r with budget := 1 }).mayStart = true ∧ (placed noPkg twoSegs id).mayStart = false := by decide +kernel
/-- The open segment 0 with so many reports; cluster 0 has retired its closing entry. -/
def reporting (n : Nat) : State := placed noPkg twoSegs fun r => { r with step := some { reported := (List.finRange 24).take n, closed := [(0, 0)] } }
theorem witness_SegmentsRun_reports : ((reporting 23).run.step.map fun k => (k.reported.contains (22 : Rg), k.reported.contains (23 : Rg),
    (reporting 23).segmentDone twoSegs 23 k, k.reported.length)) = some (true, false, true, 23) ∧
    ((reporting 22).run.step.map fun k => k.reported.contains (22 : Rg)) = some false := by decide +kernel
theorem test_step_start : ((after .stepStart (placed noPkg twoSegs fun r => { r with budget := 1 })).cl 0).slot 239 = 1 ∧
    ((after .stepStart (placed noPkg twoSegs fun r => { r with budget := 1 })).cl 383).slot 239 = 0 := by decide +kernel
theorem test_second_segment : ((after (.segmentFinish 23) (reporting 23)).cl 383).slot 240 = 1 := by decide +kernel

/-- The last segment of a step, reported by every region, its clusters done. -/
def ending : State := ({ placed noPkg twoSegs (fun r => { r with crvStep := 41, step := some { segment := 1, reported := List.finRange 24 } }) with
  perf := { interval := some 7 } } : State).onCl 0 (·.setSlot 255 1) |>.onCl 383 (·.setSlot 255 1)
theorem witness_StepEnds : (ending.run.step.map fun k => ending.atBoundary noPkg twoSegs k) = some true := by decide +kernel
theorem test_step_end : (after .stepBoundary ending).run.crvStep = 42 ∧ (after .stepBoundary ending).perf.stepLast = 7 := by decide +kernel

theorem witness_ClusterFenced : State.reset.run.graph = none ∧ (State.reset.cl 0).fenced = none ∧
    ((withCl fun k => { k with fenced := some 3 }).cl 0).fenced.isSome = true := by decide +kernel

/-- A quiesced module with a fence to report; a GRAPH_LOAD whose placement finds every cluster fenced. -/
def fences : State := placed noPkg twoSegs fun r => { r with fences := [(0, 1)] }
def allFenced : State := { placed noPkg twoSegs (fun r => { r with placing := some (.load 1 7 0) }) with
  cls := Vector.replicate 384 { fenced := some 1 } }
theorem witness_PlacementRuns : fences.quiesced = true ∧ fences.run.fences = [(0, 1)] ∧ fences.run.placing = none ∧
    (allFenced.onRun fun r => { r with placing := none }).placementOf noPkg none = .inr 0x20 ∧ allFenced.run.fences = [] := by decide +kernel
/-- With clusters left, a package without operations is placed. -/
theorem witness_PlacementRuns_succeeds : (match State.reset.placementOf noPkg none with | .inl _ => true | .inr _ => false) = true := by decide +kernel

/-- A graph that a GRAPH_LOAD still places, one that could not be placed again; a step to start none. -/
theorem witness_ClusterFenced_unplaced : (let s := State.reset.onRun fun r => { r with graph := some { pkg := noPkg, place := none }, placing := some (.load 1 7 0) }
     s.run.graph = some { pkg := noPkg, place := none } ∧ s.run.placing = some (.load 1 7 0) ∧ (s.cl 0).fenced = none) ∧
    (∀ p id a, (State.reset.onRun fun r => { r with graph := some { pkg := noPkg, place := none } }).run.placing ≠ some (.load p id a)) ∧
    (placed noPkg twoSegs id).run.graph = some { pkg := noPkg, place := some twoSegs } ∧ (placed noPkg twoSegs id).run.fences = [] ∧ State.reset.placed = none :=
  ⟨by decide +kernel, by intro p id a; simp [State.onRun, State.reset], by decide +kernel, by decide +kernel, by decide +kernel⟩
/-- A re-placement under way, of a package that can be placed and with every cluster fenced; a module that is not quiesced. -/
theorem witness_PlacementRuns_fence :
    (let s := placed noPkg twoSegs fun r => { r with fences := [(0, 1)], placing := some .fence, outcome := 1 }
     s.run.placing = some .fence ∧ (match s.placementOf noPkg (some twoSegs) with | .inl _ => true | .inr _ => false) = true) ∧
    (let s : State := { allFenced with run := { allFenced.run with placing := some .fence, fences := [(0, 1)] } }
     s.placementOf noPkg (some twoSegs) = .inr 0x20) ∧
    (placed noPkg twoSegs fun r => { r with fences := [(0, 1)], step := some {} }).quiesced = false ∧ State.reset.run.graph = none := by decide +kernel
/-- A step that runs again goes back to the budget. -/
theorem test_replaced_budget : (after .placementFinished (placed noPkg twoSegs fun r => { r with fences := [(0, 1)], placing := some .fence, outcome := 1, budget := 3 })).run.budget = 4 := by
  decide +kernel

/-! ### Nyala -/

/-- OP 9 with one instance, one limb, no context; a package whose dense slot 0 the operation of a stage names. -/
def denseCmd : SlvCmd := 9 ||| (1#512 <<< 12) ||| (0xFF#512 <<< 24) ||| (1#512 <<< 32)
def densePkg : Package := { noPkg with solver := [[1, 0, 0, 0]], opers := [⟨3, false, false, false, 0, 0, 0, 0, 0, 0, 0, 9⟩] }

/-- A call of entry 0 of cluster 0 queued with this command in tile memory, or running. -/
def calling (c : SlvCmd) (run : Option NyalaRun) (budget : Nat) : State :=
  let s := placed densePkg twoSegs id
  (({ s with mem := s.mem.write (writesAt (tileBase 0) (bytesOf 64 c.toNat)) } : State).onCl 0 fun k =>
    { k with firings := [{ entry := 0, order := 0, unit := .solver 0 0 }], table := k.table.set 0 { desc := BitVec.ofNat 1024 (budget * 2 ^ 384) } }).onRg 0 fun r =>
      { r with nyala := { r.nyala with queue := [{ cl := 0, entry := 0 }], run := run } }

/-- Its refusal reason. -/
def reasonOf (c : SlvCmd) : Option Nat := (((calling c none 0).cl 0).firing 0).map fun f =>
  (calling c none 0).slvReason densePkg 0 f (BitVec.ofNat 512 (leBytes ((calling c none 0).tile 0) (((calling c none 0).cl 0).entry 0).addr 64))

theorem witness_SolverCallStarts : reasonOf denseCmd = some 0 ∧ reasonOf 0 = some 1 ∧ ((calling 0 none 0).rg 0).nyala.run = none ∧
    ((calling 0 none 0).rg 0).nyala.stat.getLsbD 0 = false := by decide +kernel
/-- A call that runs in each phase. -/
def callRun (ph : NyalaPhase) : NyalaRun := { cl := 0, entry := 0, cmd := denseCmd, phase := ph }
theorem witness_SolverWavesAndEnds : ((calling denseCmd (some (callRun .input)) 1).slvRunProblem 0 (callRun .input)).isSome = true ∧
    ((calling denseCmd (some (callRun .compute)) 1).slvRunProblem 0 (callRun .compute)).isSome = true ∧
    (((calling denseCmd (some (callRun .finished)) 1).cl 0).firing 0).map (·.held) = some false ∧
    ((calling denseCmd (some (callRun .input)) 1).cl 0 |>.entry 0).f 6 0 32 = 1 := by decide +kernel
/-- R314: the factor of [4 2; 2 3] is D = 4, 2 with L = 1/2; its solution for (8, 7) is (5/4, 3/2). -/
def twoByTwo : List (Dual × List Dual) := ldl 2 [[Dual.int 4, Dual.int 2], [Dual.int 2, Dual.int 3]]
theorem test_ldl : twoByTwo = [(Dual.int 4, [(Dual.int 1).scale half]), (Dual.int 2, [])] ∧
    ldlSolve twoByTwo [Dual.int 8, Dual.int 7] = [(Dual.int 5).scale (unitsOf 1 (-2)), (Dual.int 3).scale half] := by decide +kernel
/-- R298, R299, R311: 2 kg one metre along x from an axis along y, gravity −10 along z: M = 2, and it falls about y with 10. -/
def pendulum : List Word :=
  [0x80001, 0, 0, BitVec.ofInt 64 (-10 * 2 ^ 32), 0, 0, 0, 0] ++ [0x1FF01, 0, 2 ^ 32, 0, 0, 0, 0, 2 ^ 32, 0, 0, 0, 2 * 2 ^ 32, 2 ^ 32, 0, 0]
    ++ List.replicate 9 0
theorem test_pendulum : let e := equations pendulum false { q := [Dual.zero], v := [Dual.zero], tau := [Dual.zero] }
    e.mass = [[Dual.int 2]] ∧ e.accel0 = [Dual.int 10] := by decide +kernel
/-- R312: two seconds from rest with a = 1: v′ = 2, q′ = q + 4. -/
theorem test_euler : eulerStep (probJoints pendulum) (unitsOf 2 0) [Dual.int 1] [Dual.zero] [Dual.int 1] = ([Dual.int 5], [Dual.int 2]) := by decide +kernel
/-- R370: one rotation of [2 1; 1 2] leaves 1 and 3 on the diagonal and zeroes the pair. -/
theorem test_rotation : let z (i k : Nat) : Int := if i = k then 2 * 2 ^ 400 else 2 ^ 400
    let ts := (jacobiPairs 2 0).map fun x => (x, jacobiAngle (z x.1 x.1) (z x.2 x.2) (z x.1 x.2))
    (List.range 4).map (fun i => (fxEx (jacobiTurn ts (fun a => jacobiTurn ts (z a) (i % 2)) (i / 2))).roundAt (-100)) =
      [3 * 2 ^ 100, 0, 0, 2 ^ 100] := by decide +kernel
/-- Rows at a lower and an upper limit and inside both; inactive rows alone converge at once, and no sweeps converge never. -/
def threeRows (sides : List RowSide) : RowSolve :=
  { eqs := { mass := [], force := [], rows := [] }, sides := sides, args := [], start := [0, 0, 0], warm := false, fall := false }
def noJoints : Problem := { image := [], signature := 0, nv := 0, nq := 0, rows := 0, joints := 0, bounds := [] }
theorem witness_SolverWavesAndEnds_forces : ((threeRows [.lower, .upper, .inactive]).forces noJoints 8 1).length = 3 ∧
    (threeRows [.inactive]).last (BitVec.ofNat 512 (2 ^ 288)) noJoints = (1, false) ∧ (threeRows [.lower]).last 0 noJoints = (0, true) := by decide +kernel
theorem test_refused : (((after (.solverCallStart 0) (calling 0 none 0)).rg 0).nyala.errReason) = 1 := by decide +kernel

/-- An engine that works, one without a call, and the pause of a level 3 snapshot. -/
theorem witness_SolverCallStarts_none : ((calling denseCmd (some (callRun .input)) 1).rg 0).nyala.run.isSome = true ∧ (State.reset.rg 0).nyala.queue = [] ∧
    (({ calling denseCmd none 1 with run := { (calling denseCmd none 1).run with paused := true } } : State)).run.paused = true := by decide +kernel
/-- A call of 257 instances of slot 0's problem: two waves, of 256 and of 1. -/
def bodyCmd : SlvCmd := 1 ||| (1#512 <<< 12) ||| (0xFF#512 <<< 24) ||| (257#512 <<< 32)
def bodyRun (ph : NyalaPhase) (wave : Nat) : NyalaRun := { cl := 0, entry := 0, cmd := bodyCmd, phase := ph, wave := wave }
def bodies (ph : NyalaPhase) (wave : Nat) : State :=
  ((calling bodyCmd (some (bodyRun ph wave)) 1).onRun fun r => { r with problems := [(0, ⟨[], 9, 0, 0, 0, 0, []⟩)] }).onRg 0 fun r =>
    { r with nyala := { r.nyala with slots := [0] } }
theorem witness_SolverWavesAndEnds_waves : ((bodies .compute 0).slvRunProblem 0 (bodyRun .compute 0)).isSome = true ∧ slvCount bodyCmd = 257 ∧
    lanesFor bodyCmd ⟨[], 9, 0, 0, 0, 0, []⟩ = 256 ∧ (0 + 1) * 256 < 257 ∧ 257 ≤ (1 + 1) * 256 := by decide +kernel
theorem test_next_wave : (((after (.nyalaWaveInputDone 0) (bodies .compute 0)).rg 0).nyala.run.map fun u => (u.wave, u.ahead.map (·.length))) = some (0, some 1) := by
  decide +kernel
/-- A firing that holds nothing, one that commits and one that is speculative; the only queued call without and with a deadline. -/
theorem witness_SolverWavesAndEnds_ends : (((calling denseCmd (some (callRun .finished)) 0).cl 0).firing 0).map (fun f => (f.held, f.committing)) = some (false, false) ∧
    ((calling denseCmd (some (callRun .finished)) 0).cl 0 |>.entry 0).f 6 0 32 = 0 ∧
    ((State.reset.onRg 0 fun r => { r with nyala := { r.nyala with queue := [{ cl := 0, entry := 0 }] } }).rg 0).nyala.run = none := by decide +kernel
theorem witness_SolverWavesAndEnds_may : CallMayWrite (calling denseCmd (some (callRun .finished)) 0) (callRun .finished) [{ addr := 0, data := 1 }] := by
  intro f h
  have : ((calling denseCmd (some (callRun .finished)) 0).cl 0).firing 0 = some { entry := 0, order := 0, unit := .solver 0 0 } := by decide +kernel
  rw [show (callRun .finished).cl = 0 from rfl, show (callRun .finished).entry = 0 from rfl, this] at h
  cases h
  decide
theorem test_deadline_queued : (((after (.solverDeadline 0 1) (calling denseCmd none 1)).rg 0).nyala.queue.map (·.expired)) = [true] ∧
    (((after (.solverDeadline 0 1) (calling denseCmd none 0)).rg 0).nyala.queue.map (·.expired)) = [false] := by decide +kernel

/-! ### Curvature -/

/-- A GEMM of K = 1 with a statistics entry (KIND 0, P 1, block 256, OP 0) and the class-6 operation that forms its root on
clusters 0 and 1; TOL −10, 3 iterations, 2 of them a step. -/
def crvPkg : Package := { noPkg with
  opers := [⟨1, false, false, false, 0, 0, 0, 0, 1, 1, 1, 0⟩, ⟨6, false, false, false, 0, 0, 0, 0, 0, 0, 0, 1 <<< 32⟩]
  curvature := [[0, 0, BitVec.ofNat 64 (0xF6 * 2 ^ 32 + 3 * 2 ^ 40 + 2 * 2 ^ 48), 0]] }
def crvPlace : Placement := ⟨[stage 1 0 [0, 1]], [], 1, 0, [], [], 0⟩
def crv (m : Medlar) (f : Run → Run) : State := (placed crvPkg crvPlace f).onRg 0 fun r => { r with medlar := m }

theorem witness_CurvatureProgress : (crv { todo := [0] } id).placed = some (crvPkg, crvPlace) ∧ crvPkg.block 0 = some ⟨0, 1, 0⟩ ∧
    (crvPkg.curv 0).isSome = true := by decide +kernel
/-- Z = 0: the trace is not positive. -/
theorem witness_CurvatureProgress_zero : traceOf 1 [some Ex.zero] = some Ex.zero ∧ Ex.zero.n ≤ 0 := by decide +kernel
theorem witness_CurvatureProgress_positive : traceOf 1 [some { n := 5 }] = some (Ex.add Ex.zero { n := 5 }) ∧ 0 < (Ex.add Ex.zero { n := 5 }).n := by
  decide +kernel
/-- An iteration that both clusters of the root group have ended. -/
theorem witness_CurvatureProgress_verdict : rootGroup crvPkg crvPlace 0 0 = [0, 1] ∧
    (∀ c ∈ rootGroup crvPkg crvPlace 0 0, ∃ x ∈ (crv { newton := some { block := 0, started := true }, codes := [(0, 100), (1, 90)] } id).rg 0 |>.medlar.codes, x.1 = c) := by
  decide +kernel
/-- Boundaries of R368 for TOL = −10 and 3 iterations, 2 of them a step. -/
theorem test_verdict : (crvPkg.curv 0).map (fun e => [verdict e 2 1 255 0 1, verdict e 2 1 117 0 1, verdict e 2 2 118 117 1,
    verdict e 2 3 118 118 1, verdict e 2 2 118 118 2, verdict e 2 1 118 0 1]) =
    some [.fallback false, .converged, .fallback true, .fallback false, .pause, .go] := by decide +kernel
/-- Jacobi at a round before the last of its sweep, at the last, and converged a step ago. -/
def jac (round : Nat) (conv : Bool) : State := crv { jacobi := some { block := 0, n := 4, z := [], q := [], round := round, gemmStep := if conv then some 0 else none } } fun r =>
  { r with crvStep := 1, step := some {} }
theorem witness_CurvatureProgress_jacobi : (((jac 1 false).rg 0).medlar.jacobi.map fun j => (j.gemmStep, j.round + 2, j.n)) = some (none, 3, 4) ∧
    (((jac 2 false).rg 0).medlar.jacobi.map fun j => (j.round + 2, j.sweep + 1)) = some (4, 1) ∧
    ((jac 1 false).rg 0).nyala.run = none ∧ ((jac 1 false).rg 0).nyala.queue = [] ∧ (jac 1 false).run.stopped = false ∧
    (((jac 1 true).rg 0).medlar.jacobi.map (·.gemmStep)) = some (some 0) ∧ (jac 1 true).run.crvStep.toNat = 1 := by
  decide +kernel

/-- No computation waits, one runs, or no code of a cluster has come; an uncorrectable sector of Z. -/
theorem witness_CurvatureProgress_none : (State.reset.rg 0).medlar.todo = [] ∧ (State.reset.rg 0).medlar.jacobi = none ∧
    ((crv { newton := some { block := 0, started := true } } id).rg 0).medlar.newton.isSome = true ∧
    (∃ c ∈ rootGroup crvPkg crvPlace 0 0, ∀ x ∈ ((crv { newton := some { block := 0, started := true } } id).rg 0).medlar.codes, x.1 ≠ c) ∧
    ({ State.reset.mem with ue := [0] } : Memory).marked 0 (siLen 4 1) = true := by
  refine ⟨by decide +kernel, by decide +kernel, by decide +kernel, ⟨0, by decide +kernel, ?_⟩, by decide +kernel⟩
  have : ((crv { newton := some { block := 0, started := true } } id).rg 0).medlar.codes = [] := by decide +kernel
  intro x hx
  rw [this] at hx
  cases hx
/-- A block of 1,024 rows and one of 1,025; Jacobi enabled and not. -/
theorem witness_CurvatureProgress_fallback : (⟨0, 1024, 0⟩ : Block).n ≤ 1024 ∧ 1024 < (⟨0, 1025, 0⟩ : Block).n ∧
    (crv {} fun r => { r with jacobiEn := true }).run.jacobiEn = true ∧ crvPkg.block 0 = some ⟨0, 1, 0⟩ := by decide +kernel
theorem witness_CurvatureProgress_due : (jac 1 true).run.step.isSome = true ∧ (jac 1 false).run.step.isSome = true ∧ ((jac 1 true).rg 0).medlar.newton = none := by
  decide +kernel

/-- A cluster of the root group of a block under work; M = I, and M at distance 1 from I; Z diagonal, and Z of 1 everywhere. -/
theorem witness_CurvatureProgress_code : ((crv { newton := some { block := 0, started := true } } id).rg 0).medlar.newton.map (fun w => (w.started, w.paused)) =
    some (true, false) ∧ (rootGroup crvPkg crvPlace 0 0).contains 1 = true ∧ (crvPkg.block 0).isSome = true := by decide +kernel
theorem test_dcode : dcodeOf 1 0 1 ⟨[], [], [], [some (unitsOf 1 0)], 0⟩ = 0 ∧ dcodeOf 1 0 1 ⟨[], [], [], [some (unitsOf 2 0)], 0⟩ = 127 ∧
    dcodeOf 1 0 1 ⟨[], [], [], [none], 0⟩ = 255 := by decide +kernel
theorem test_jacobi_norm : ({ block := 0, n := 2, z := rootMat 2 (unitMat 2), q := [] } : Jacobi).converges false = true ∧
    ({ block := 0, n := 2, z := rootMat 2 (List.replicate 4 (some (unitsOf 1 0))), q := [] } : Jacobi).converges true = false ∧
    ({ block := 0, n := 2, z := rootMat 2 [none], q := [] } : Jacobi).nar = true := by decide +kernel

/-! ### Services -/

/-- Operation 0 of this class on cluster 0, which has triggered it as its task table says (log entry 14). -/
def srvPkg (cls : Nat) : Package := { noPkg with opers := [⟨cls, false, false, false, 0, 0, 0, 0, 0, 0, 0, 0⟩] }
def srvPlace : Placement := ⟨[stage 0 0 [0]], [], 1, 0, [], [], 0⟩
def serving (cls : Nat) : State := placed (srvPkg cls) srvPlace fun r => { r with step := some { due := [0] }, triggered := [(0, 0)] }
theorem witness_ServicesStart : ((srvPkg 4).oper 0).map (·.cls) = some 4 ∧
    (serving 4).allTriggered (srvPkg 4) srvPlace 0 = true ∧ (serving 4).run.started.contains 0 = false := by
  refine ⟨by decide +kernel, ?_, by decide +kernel⟩
  simp [State.allTriggered, serving, placed, srvPlace, stage, Placement.stageOf, Placement.stagesOn, Nat.mod_one]
theorem witness_ServicesStart_alone : ((srvPkg 5).oper 0).map (·.cls) = some 5 ∧ (serving 5).group (srvPkg 5) = 1 := by decide +kernel
theorem witness_ServicesStart_factor : ((crv {} fun r => { r with step := some { due := [0] } }).run.step.map fun k => (k.due.contains 0, k.busy.contains 0)) =
    some (true, false) := by decide +kernel

/-- A data-parallel group along x of two modules; a package whose operation 1 is none; the services before the fabric is open. -/
def dpPkg (cls : Nat) : Package := { srvPkg cls with training := [[1]] }
def group2 (cls : Nat) : State := (placed (dpPkg cls) srvPlace fun r => { r with step := some { due := [0] }, triggered := [(0, 0)] }).onFab fun f => { f with xn := 2, valid := true }
theorem witness_ServicesStart_group : (group2 5).group (dpPkg 5) = 2 ∧ (group2 5).fab.valid = true ∧ (dpPkg 5).oper 1 = none ∧
    ((group2 5).onFab fun f => { f with valid := false }).fab.valid = false := by decide +kernel
theorem witness_ServicesStart_block : crvPkg.block 0 = some ⟨0, 1, 0⟩ ∧ (crv {} id).run.step = none ∧
    ((crv {} fun r => { r with step := some { due := [] } }).run.step.map fun k => k.due.contains 0) = some false ∧ (crv {} id).mem.ue = [] := by decide +kernel

/-! ### Memory system -/

/-- One request of region 0, its line in partition 0, bank 0. -/
def req (st : ReqState) (ws : List SecWrite) : MReq := { rg := 0, who := .dma 0 0 0, line := 0, sectors := 1, writes := ws, cls := 0, state := st, promoted := true }
def asking (q : MReq) : State := { State.reset with reqs := [q] }
def put : SecWrite := { sector := 0, mask := 1, data := 0xAB }

theorem witness_RequestsEnterMemory_promotion : (asking { req .net [] with parked := true }).nextPromotion 0 = some 0 := by decide +kernel
theorem witness_RequestsEnterMemory_grant : (asking (req .waits [])).nextPromotion 0 = none ∧ (asking (req .waits [])).nextGrant 0 = some 0 ∧
    (asking (req .waits [])).bankOf (req .waits []) = some (0, 0) ∧ (asking (req .waits [])).grantOf (req .waits []) = some false := by decide +kernel
theorem witness_RequestsEnterMemory_window : (asking { req .waits [] with line := tileBase 0 }).nextGrant 0 = some 0 ∧
    (asking { req .waits [] with line := tileBase 0 }).bankOf { req .waits [] with line := tileBase 0 } = none := by decide +kernel
theorem witness_RequestsEnterMemory_sorter : (State.reset.part 0).awake = true ∧ (asking (req .net [put])).mem.wf = true ∧
    (asking { req .net [put] with who := .commit 0 0 }).mem.ue = [] := by decide +kernel
theorem test_sorter_write : (after (.sorterAccept 0) (asking (req .net [put]))).mem.get 0 = 0xAB := by decide +kernel

theorem witness_BanksAndReturns : ((asking (req .sorted [])).part 0).awake = true ∧ (asking (req .sorted [])).bankChoice 0 0 = some 0 ∧
    (asking (req .sorted [put])).bankChoice 0 0 = some 0 ∧ (req .sorted [put]).drops = [] := by decide +kernel
theorem witness_BanksAndReturns_returns : (asking (req .issued [])).reqs.find? (fun q => decide (q.state = .issued) &&
    ((asking (req .issued [])).partAt q.line).any fun x => x.1 == 0) = some (req .issued []) ∧
    (∀ x ∈ (asking (req .issued [])).reqs, x.state = .issued → x.line = 0 → x.marks = 0) := by decide +kernel
theorem test_issue : (after (.bankSchedule 0 { bank := 0, found := {} }) (asking (req .sorted []))).reqs.map (·.state) = [.issued] := by decide +kernel

/-- 2 wrong symbols and no erasure are corrected, 2 and 1 are not, 1 and 2 are. -/
theorem test_sector : checkSector {} [3, 9] = .corrected [3, 9] ∧ checkSector { symA := 1, aValid := true } [3, 9] = .uncorrectable ∧
    checkSector { symA := 1, aValid := true, symB := 2, bValid := true } [1, 9] = .corrected [9] := by decide +kernel

/-- A request that has waited 6,401 ticks in the sorter. -/
def old : State := { asking { req .sorted [] with promoted := false } with pwr := { islands := Vector.replicate 100 { ticks := 6401 } } }
theorem witness_MemoryUpkeep : old.reqs.findIdx? (fun q => decide (q.state = .sorted) && !q.parked && !q.promoted &&
    ((old.partAt q.line).any fun x => x.1 == 0) && decide (6400 < old.partTicks 0 - q.since)) = some 0 := by decide +kernel
theorem witness_MemoryUpkeep_scrub : (State.reset.part 11).scrubEn = true ∧ (State.reset.part 11).awake = true ∧ State.reset.reqs = [] ∧
    State.reset.mem.ue = [] := by decide +kernel
theorem test_refill : ((after (.regulatorRefill 0) (State.reset.onPart 0 fun x => { x with classes := x.classes.set 3 { rate := 2, burst := 1 } })).part 0).classes[3].credits = 128 := by
  decide +kernel

/-- R423: a tick in which class 5 holds a request for which it has no credits. -/
theorem test_reg_stall : (after (.regulatorRefill 0) ((asking { req .sorted [] with promoted := false, cls := 5 }).onPart 0 fun x =>
    { x with wc := false })).part 0 |>.classes[5].stall = 1 := by decide +kernel

/-- A parked DMA write that its sorter has accepted; requests that wait for a park credit at the quota of their bank. -/
theorem witness_RequestsEnterMemory_parked : (asking { req .sorted [put] with parked := true }).nextPromotion 0 = some 0 ∧
    (req .sorted [put]).writes ≠ [] ∧ (req .sorted [put]).state = .sorted := by decide +kernel
def quota : State := { State.reset with reqs := List.replicate 256 (req .net []) ++ [req .waits []] }
theorem witness_RequestsEnterMemory_quota : quota.nextPromotion 0 = none ∧ quota.nextGrant 0 = some 256 ∧ quota.grantOf (req .waits []) = some true := by decide +kernel
theorem witness_RequestsEnterMemory_none : State.reset.nextPromotion 0 = none ∧ State.reset.nextGrant 0 = none ∧
    ((State.reset.onPart 0 fun x => { x with selfRefresh := true }).part 0).awake = false := by decide +kernel
theorem test_park : ((after (.tagGrant 0) quota).reqs[256]?).map (fun q => (q.parked, decide (q.state = .net))) = some (true, true) := by decide +kernel
theorem witness_BanksAndReturns_none : State.reset.bankChoice 0 0 = none ∧ (req .sorted []).writes = [] ∧ (req .sorted []).sectors = 1 ∧
    State.reset.reqs.find? (fun q => decide (q.state = .issued)) = none := by decide +kernel
/-- A scrub read that waits since tick 0 at tick 6,401; a scrub that its bank bars. -/
def lateScrub : State := { State.reset with pwr := { islands := Vector.replicate 100 { ticks := 6401 } } }.onPart 0 fun x => { x with scrubSince := some 0 }
theorem witness_MemoryUpkeep_late : (lateScrub.part 0).scrubPromoted = false ∧ (lateScrub.part 0).scrubSince = some 0 ∧ 6400 < lateScrub.partTicks 0 - 0 ∧
    lateScrub.reqs.findIdx? (fun q => decide (q.state = .sorted)) = none := by decide +kernel
theorem witness_MemoryUpkeep_barred : (asking (req .sorted [])).bankOf (req .sorted []) = some (0, (placeOf 0 (((asking (req .sorted [])).part 0).scrubPos.toNat * 256)).bankNo 0) ∧
    (asking (req .sorted [])).eligible 0 (req .sorted []) = true ∧ ((asking (req .sorted [])).part 0).scrubPromoted = false := by decide +kernel
theorem test_scrub_waits : ((after (.scrubRead 0 {}) (asking (req .sorted []))).part 0).scrubPos = 0 ∧ ((after (.scrubRead 0 {}) State.reset).part 0).scrubPos = 1 := by decide +kernel
theorem test_scrub_promoted : ((after (.watchdogPromotion 0) lateScrub).part 0).scrubPromoted = true := by decide +kernel

/-- R409: g(x) = (x + 1)(x + 2)(x + 4)(x + 8) over GF(2^8) with x^8 + x^4 + x^3 + x^2 + 1. -/
theorem test_generator : rsGen = [1, 15, 54, 120, 64] := by decide +kernel
/-- A sector that is uncorrectable: a part of it and the whole are written; a write that the scheduler drops; an address without a target. -/
def spoiled : State := { State.reset with mem := { ue := [0] } }
theorem witness_RequestsEnterMemory_agents : spoiled.mem.ue.contains 0 = true ∧ wholeSector (writesAt 0 [1]) 0 = false ∧
    wholeSector (writesAt 0 (List.replicate 32 1)) 0 = true ∧ State.reset.partAt 0 = some (0, 0) ∧ State.reset.reach 0x9000000000 = .noTarget ∧
    (State.reset.classAt 0 14).credits.toInt < 128 := by decide +kernel
theorem test_error_ends : (spoiled.busWrite hostClass (writesAt 0 (List.replicate 32 1))).mem.ue = [] ∧
    ((spoiled.busWrite hostClass (writesAt 0 [1])).part 0).ecc.getLsbD 2 = true := by decide +kernel
theorem witness_BanksAndReturns_settle : ({ req .sorted [put] with drops := [0] } : MReq).drops.contains put.sector = true ∧
    put.mask ≠ BitVec.allOnes 32 ∧ State.reset.partAt ({ req .sorted [put] with drops := [0] } : MReq).line = some (0, 0) := by decide +kernel

/-! ### Links and packets -/

/-- Port 0 as given, with these packets waiting in the router. -/
def linked (q : Port) (ws : List Waiting) : State := State.reset.onFab fun f =>
  { f with ports := f.ports.set 0 q, waiting := ws, valid := true }
/-- A packet of a type on class vc for the module at the origin, with these payload bytes. -/
def packet (type vc : Nat) (txn : BitVec 32) (payload : List Byte) : Packet := mkPacket (headerOf type vc false 0 0) txn (payloadOf payload)

theorem witness_LinkStates : ((linked {} []).link 0).link = .down ∧ ((linked {} []).link 0).cageCut = false ∧
    (linked {} []).pwr.fabOff.getLsbD 0 = false ∧ (linked {} []).pwr.off = false ∧ ((linked { link := .training } []).link 0).link = .training ∧
    ((linked { link := .up, replay := [packet 2 0 0 []] } []).link 0).live = true ∧
    ((linked { link := .up, replay := [packet 2 0 0 []] } []).link 0).replay ≠ [] := by decide +kernel
theorem test_alignment_lost : ((after (.linkAlignmentLost 0) (linked { link := .up } [])).link 0).link = .down ∧
    ((after (.linkAlignmentLost 0) (linked { link := .up } [])).events.head?.map (·.code)) = some 0x20 := by decide +kernel

/-- A replay of the one packet in the buffer; a packet that waits for the port; a full replay buffer. -/
theorem witness_PortsSendAndReceive_resend : ((linked { link := .up, replay := [packet 2 0 0 []], resend := 1 } []).link 0).replay[0]? = some (packet 2 0 0 []) := by
  decide +kernel
def waiting : State := linked { link := .up } [{ input := 8, output := 0, packet := packet 2 0 0 [] }]
/-- R607: a packet of VC 0 that waits at px+ without a credit costs 16 cycles of the port's island in a tick. -/
theorem test_tick_starved : ((ran (linked { link := .up, used := Vector.replicate 8 32 } [{ input := 8, output := 0, packet := packet 2 0 0 [] }])).link 0).stl[0] = 16 ∧
    ((ran waiting).link 0).stl[0] = 0 := by decide +kernel
theorem witness_PortsSendAndReceive_pick : (waiting.fab.pick 0).map (fun x => (x.1, x.2.1)) = some (0, 0) ∧ (waiting.link 0).replay.length < 2048 ∧
    (waiting.fab.waiting[0]?).isSome = true := by decide +kernel
theorem witness_PortsSendAndReceive_full : ((linked { link := .up, replay := List.replicate 2048 (packet 2 0 0 []) } []).link 0).replay.length = 2048 := by
  decide +kernel
theorem witness_PortsSendAndReceive_control : ((linked { link := .up } []).link 0).live = true ∧ 64 ≤ ((linked { link := .up } []).link 0).ctlSlots := by decide +kernel
/-- What arrives: damaged, in order, a replay after a discard, during a discard, link control. -/
def arrived (k : Packet) : RxPacket := { packet := k }
theorem witness_PortsSendAndReceive_bad : ({ arrived (packet 2 0 0 []) with uncorrectable := true } : RxPacket).good = false := by decide +kernel
theorem witness_PortsSendAndReceive_good : (arrived (packet 2 0 0 [1])).good = true ∧ (packet 2 0 0 [1]).type ≠ 0xE ∧
    (linked { link := .up } []).fab.closed = false ∧ (arrived (packet 0xE 0 0 [])).good = true ∧ (packet 0xE 0 0 []).type = 0xE ∧
    (packet 0xE 0 0 []).pf 2 1 = 0 := by decide +kernel
theorem test_send : ((after (.portSlotSend 0) waiting).link 0).txNext = 1 ∧ (after (.portSlotSend 0) waiting).fab.waiting = [] := by decide +kernel
theorem test_discard : ((after (.packetReceive 0 { arrived (packet 2 0 0 []) with uncorrectable := true }) (linked { link := .up } [])).link 0).discard = true := by
  decide +kernel

/-- A cut cage, a link that has nothing to be acknowledged, one that trains. -/
theorem witness_LinkStates_others : ((linked { cageCut := true } []).link 0).cageCut = true ∧ ((linked { link := .up } []).link 0).replay = [] ∧
    ((linked {} []).link 0).live = false ∧ ((linked { link := .up } []).link 0).link ≠ .training := by decide +kernel
/-- A port with nothing to send, one before the fabric is open, link control in its 63rd slot while data waits. -/
theorem witness_PortsSendAndReceive_idle : (linked { link := .up } []).fab.pick 0 = none ∧
    (waiting.onFab fun f => { f with valid := false }).fab.valid = false ∧ (∃ w ∈ waiting.fab.waiting, w.output = 0) := by
  refine ⟨by decide +kernel, by decide +kernel, { input := 8, output := 0, packet := packet 2 0 0 [] }, ?_, rfl⟩
  decide +kernel
theorem test_control_waits : ((after (.linkControlSend 0) (waiting.onFab (·.onLink 0 fun q => { q with ctlSlots := 62 }))).link 0).control = none ∧
    ((after (.linkControlSend 0) (waiting.onFab (·.onLink 0 fun q => { q with ctlSlots := 63 }))).link 0).control.isSome = true := by decide +kernel
/-- A NAK that names packet 0, after so many of them in a row; FENCED; a plain acknowledgement. -/
def control (flags : Byte) : RxPacket := arrived (packet 0xE 0 0 [0, 0, flags])
def nakked (n : Nat) : State := linked { link := .up, nakSeq := 0, nakRun := n, replay := [packet 2 0 0 []], txNext := 1 } []
theorem witness_PortsSendAndReceive_nak : (control 1).good = true ∧ (control 1).packet.type = 0xE ∧ ((control 0).packet.pf 2 1) % 4 = 0 ∧
    ((control 1).packet.pf 2 1) % 4 = 1 ∧ ((control 2).packet.pf 2 1) % 4 = 2 ∧ ((nakked 6).link 0).nakRun + 1 = 7 ∧ ((nakked 7).link 0).nakRun + 1 = 8 ∧
    ((nakked 6).link 0).live = true := by decide +kernel
theorem test_nak : ((after (.linkControlReceive 0 (control 1)) (nakked 6)).link 0).resend = 1 ∧ ((after (.linkControlReceive 0 (control 1)) (nakked 7)).link 0).link = .down ∧
    ((after (.linkControlReceive 0 (control 2)) (nakked 0)).link 0).link = .remoteFenced := by decide +kernel
theorem witness_PortsSendAndReceive_closed : ((linked { link := .up } []).onFab fun f => { f with valid := false }).fab.closed = true ∧
    ((linked { link := .up, discard := true } []).link 0).discard = true ∧ (arrived (packet 2 0 0 [])).replayed = false := by decide +kernel

/-- A router at the origin of an 8 × 8 × 8 torus; its bank sends dimension 1 from injection to port 2. -/
def router (link : LinkState) (b : Byte) : Fabric := { valid := true, xn := 8, yn := 8, zn := 8
                                                       banks := #v[[(8 * 0x80 + 0x20 + 3, b)], []], ports := (Vector.replicate 8 {}).set 2 { link := link } }
def toY3 : Packet := mkPacket (headerOf 2 0 false (addrOf 0 0 3 0 1) 0) 0 (payloadOf [])
theorem witness_DimensionOrder : coordsAt (packet 2 0 0 []).dest = (router .up 0xA).coords ∧ (coordsAt toY3.dest).getD 1 0 ≠ (router .up 0xA).coords.getD 1 0 ∧
    (∀ e, e < 1 → (coordsAt toY3.dest).getD e 0 = (router .up 0xA).coords.getD e 0) ∧
    (coordsAt toY3.dest).getD 3 0 = (router .up 0xA).coords.getD 3 0 := by decide +kernel
theorem test_route : (router .up 0xA).way 8 toY3 = .out 2 ∧ (router .down 0xA).way 8 toY3 = .lost ∧ (router .up 2).way 8 toY3 = .lost := by decide +kernel

/-- The other replica: the router has entry 0x600 for it; a way that is not VALID is lost. -/
theorem witness_DimensionOrder_partner : (coordsAt (addrOf 1 0 0 0 1)).getD 3 0 ≠ (router .up 0xA).coords.getD 3 0 ∧
    (router .up 2).way 8 toY3 = .lost := by decide +kernel

/-! ### Streams -/

/-- These packets have been delivered; a graph is placed whose one tensor is a GRAD of eight elements. -/
def inbox (ks : List Packet) (f : Fabric → Fabric) : State := (placed noPkg twoSegs id).onFab fun x =>
  f { x with inbox := ks.map fun k => { packet := k, input := 8, slot := 0 } }
/-- A DESC of a fill's header stream (service 5), of 384 bytes. -/
def descPacket (service : Nat) : Packet := packet 1 2 0 ([BitVec.ofNat 8 service, 0, 0, 0] ++ bytesOf 4 0xFFFFFFFF ++ bytesOf 8 0 ++ bytesOf 8 384 ++ bytesOf 8 0 ++ bytesOf 4 0)
theorem witness_StreamsRun_desc : (inbox [descPacket 5] id).takePacket (fun x => x.type == 1) = some (descPacket 5, inbox [] id) ∧
    (inbox [descPacket 0] id).descBad (descOf (descPacket 0)) = true ∧ (descOf (descPacket 5)).bytes ≠ 0 ∧ (descOf (descPacket 5)).service ≠ 4 ∧
    (inbox [descPacket 5] id).fab.rx = [] := by
  refine ⟨rfl, ?_⟩
  decide +kernel
/-- The next packet of a stream of so many. -/
def dataPacket (seq : Nat) : Packet := packet 2 2 (BitVec.ofNat 32 seq) [7]
def rxOf (bytes next : Nat) : RxStream := { src := 0, id := 0, desc := { service := 2, bytes := bytes }, next := next }
theorem witness_StreamsRun_data : ∀ x ∈ [(1024, 1024), (1, 1), (2, 1), (1, 2)],
    ((inbox [dataPacket x.1] fun f => { f with rx := [rxOf 96000 x.2] }).fab.rx.find? (fun r => r.src == (dataPacket x.1).src && r.id == (dataPacket x.1).stream)) =
      some (rxOf 96000 x.2) ∧ (dataPacket x.1).seq = x.1 ∧ (rxOf 96000 x.2).desc.total = 2000 := by decide +kernel
theorem witness_StreamsRun_last : (dataPacket 2000).seq = (rxOf 96000 2000).desc.total ∧ (dataPacket 1023).seq % 1024 ≠ 0 := by decide +kernel
/-- The sender's side. -/
def txOf (mc : Option (Nat × Bool)) : TxStream := { id := 0, run := 0, vc := 2, epoch := false, dest := 0, mc := mc, desc := { service := 2 }, src := [], total := 5, waits := [0] }
theorem witness_StreamsRun_answers : (∀ x ∈ ([(3, none), (5, some (0, false))] : List (Nat × Option (Nat × Bool))),
    ((inbox [packet x.1 1 0 []] fun f => { f with tx := [txOf x.2] }).fab.tx.find? (fun t => t.id == (packet x.1 1 0 []).stream)) = some (txOf x.2)) ∧
    (txOf none).waits.contains (packet 3 1 0 []).src = true ∧ (packet 3 1 0 []).poison = false ∧ (txOf (some (0, false))).cut = none ∧
    (txOf none).resent = false ∧ endpointOf (mkPacket (headerOf 4 1 false 2 0) 0 0).dest ≠ 0 := by decide +kernel
theorem test_desc_without_place : (after .desc (inbox [descPacket 0] id)).fab.rx = [] ∧
    ((after .desc (inbox [descPacket 0] id)).fab.stat.getLsbD 8) = true := by decide +kernel

/-- No packet has come; the module is asleep; a graph with another package; a stream of no bytes; the DESC of an open stream again. -/
theorem witness_StreamsRun_none : (inbox [] id).takePacket (fun x => x.type == 1) = none ∧ (inbox [] id).takePacket (fun x => x.type == 2) = none ∧
    (inbox [] id).fab.rx.find? (fun r => r.id == 0) = none ∧ State.reset.run.graph = none ∧
    ({ inbox [descPacket 5] id with pwr := { state := .a3 } } : State).pwr.state = .a3 ∧ (inbox [] id).mem.ue = [] ∧ (inbox [] id).mem.wf = true ∧
    (descOf (descPacket 5)).packageId = noPkg.packageId := by decide +kernel
theorem test_asleep : (after .desc { inbox [descPacket 5] id with pwr := { state := .a2 } }).fab.rx = [] ∧
    (after .desc { inbox [descPacket 5] id with pwr := { state := .a2 } }).fab.stat.getLsbD 8 = false := by decide +kernel
/-- A snapshot that just passes the end of its quarter and one that fills it. -/
theorem witness_StreamsRun_quarter : (inbox [] id).glob.quarterBytes < 1 + (inbox [] id).glob.quarterBytes ∧
    ¬ (inbox [] id).glob.quarterBytes < 0 + (inbox [] id).glob.quarterBytes := by decide +kernel
/-- A stalled stream: for the first time, again, again with a RELAY. -/
def stalled (resent relay : Bool) : State := inbox [] fun f =>
  { f with tx := [{ txOf none with resent := resent, desc := { service := 2, relay := relay } }] }
theorem witness_StreamsRun_stall : ((stalled false false).fab.tx.find? fun t => t.id == 0).map (fun t => (t.resent, t.desc.relay, t.waits)) = some (false, false, [0]) ∧
    ((stalled true false).fab.tx.find? fun t => t.id == 0).map (·.resent) = some true ∧ ((stalled true true).fab.tx.find? fun t => t.id == 0).map (·.desc.relay) = some true ∧
    (stalled true true).fab.tx.find? (fun t => t.id == 1) = none := by decide +kernel
theorem test_stall_again : (after (.streamStallTimeout 0) (stalled false false)).fab.resendCnt = 1 := by decide +kernel
/-- A NACK of reason 5 of a DESC, and one of a data packet that is no repair; NACKs to endpoint 0. -/
theorem witness_StreamsRun_nack : (5 : Nat) ∈ [2, 4, 5] ∧ (packet 4 1 0 [5]).seq = 0 ∧ (packet 4 1 0 [5]).pf 0 1 = 5 ∧ (packet 4 1 1 [3]).seq = 1 ∧ (txOf none).repair = false ∧
    endpointOf (packet 4 1 0 [1]).dest = 0 ∧ (packet 4 1 (BitVec.ofNat 32 (4 * 2 ^ 24)) []).msg = 4 ∧ (packet 4 1 (BitVec.ofNat 32 (0x20 * 2 ^ 24)) []).msg = 0x20 := by
  decide +kernel

/-! ### Route epochs -/

/-- A management message of a kind from the origin. -/
def mgmt (kind : Nat) (payload : List Byte) : Packet := packet 6 0 (BitVec.ofNat 32 (kind * 2 ^ 24)) payload
theorem witness_RouteEpochs_module : ∀ n ∈ [1, 3, 4, 6, 7], ((inbox [mgmt n [5, 0]] id).takeMsg n).map (·.1) = some (mgmt n [5, 0]) ∧ genOf (mgmt n [5, 0]) = 5 := by
  decide +kernel
/-- The standby bank holds generation 5; another one is promised. -/
theorem witness_RouteEpochs_prepare : (inbox [mgmt 1 [5, 0]] fun f => { f with standbyLoaded := true, standbyGen := 5 }).fab.standbyGen = genOf (mgmt 1 [5, 0]) ∧
    (inbox [] id).fab.readyFor.any (· != 5) = false ∧ (inbox [] fun f => { f with readyFor := some 4 }).fab.readyFor.any (· != 5) = true := by decide +kernel
/-- The initiator, with the extent of one module. -/
def switching (ph : EpochPhase) (k : Packet) : State := inbox [k] fun f => { f with epoch := some { gen := 5, phase := ph, round := 1, before := [(0, 0, 9)] } }
theorem witness_RouteEpochs_initiator : (∀ c ∈ [0, 1, 2], ((switching .prepare (mgmt 2 [5, 0, c])).takeMsg 2).map (·.1) = some (mgmt 2 [5, 0, c]) ∧
      (mgmt 2 [5, 0, c]).pf 2 1 = c.toNat) ∧ (switching .prepare (mgmt 2 [5, 0, 0])).fab.allIn [0] = true := by decide +kernel
/-- A round in which nothing is left and nothing has passed since, and one in which something has. -/
theorem witness_RouteEpochs_polling : (mgmt 5 ([5, 0, 1, 0, 0, 0] ++ bytesOf 4 0 ++ bytesOf 4 9)).pf 2 4 = 1 ∧
    (({ gen := 5, phase := .polling, round := 1, before := [(0, 0, 9)], now := [(0, 0, 9)] } : EpochRun).drained (switching .polling (mgmt 5 [])).fab.everyone) = true ∧
    (({ gen := 5, phase := .polling, round := 1, before := [(0, 0, 9)], now := [(0, 0, 8)] } : EpochRun).drained (switching .polling (mgmt 5 [])).fab.everyone) = false := by
  decide +kernel
theorem test_prepare_timeout : (after .epochPrepareTimeout (switching .prepare (mgmt 2 []))).fab.epoch = none := by decide +kernel
theorem test_switch_at_once : (after .epochSwitch (inbox [mgmt 3 [5, 0]] fun f => { f with readyFor := some 5, epochState := 1, standbyGen := 5 })).fab.activeGen = 5 := by
  decide +kernel

theorem witness_RouteEpochs_none : (∀ n ∈ [1, 2, 3, 4, 5, 6, 7], ((inbox [] id).takeMsg n).isNone = true) ∧ (inbox [] id).fab.epoch = none ∧
    (inbox [] fun f => { f with readyFor := some 5, activeGen := 5 }).fab.activeGen = genOf (mgmt 6 [5, 0]) := by decide +kernel
/-- A READY that is the last of two, and one that is not; a reply of another generation; a drain that is reported once. -/
theorem witness_RouteEpochs_heard : ((switching .prepare (mgmt 2 [5, 0, 0])).onFab fun f => { f with xn := 2 }).fab.allIn [0] = false ∧
    ((switching .prepare (mgmt 2 [5, 0, 0])).onFab fun f => { f with xn := 2 }).fab.allIn [0, addrOf 0 1 0 0 0] = true ∧ genOf (mgmt 2 [6, 0, 0]) ≠ 5 ∧
    (∀ c ∈ [3, 4], (mgmt 2 [5, 0, c]).pf 2 1 = c.toNat) := by decide +kernel
theorem test_epoch_done : (after .epochReply (switching .releasing (mgmt 2 [5, 0, 4]))).fab.epoch = none ∧
    ((after .epochReply (switching .prepare (mgmt 2 [5, 0, 0]))).fab.epoch.map (·.phase)) = some .switching := by decide +kernel
theorem test_release : (after .epochRelease (inbox [mgmt 6 [5, 0]] fun f => { f with readyFor := some 5, activeGen := 5, epochState := 2 })).fab.epochState = 0 ∧
    (after .epochRelease (inbox [mgmt 6 [5, 0]] fun f => { f with readyFor := some 5, activeGen := 4, epochState := 2 })).fab.epochState = 2 := by decide +kernel

/-! ### Pairing, verification, fills, snapshots, health -/

/-- A heartbeat whose sender stands in bytes 32 to 34: the partner's address, and another one. -/
def beat (sender : BitVec 24) : Packet := mgmt 0x10 ([9, 0, 0, 0, 0, 0, 0, 0, 77, 1] ++ List.replicate 22 0 ++ bytesOf 3 sender.toNat)
theorem witness_PairingMessages_beat : ((inbox [beat 512] id).takeMsg 0x10).map (·.1) = some (beat 512) ∧
    coordsAt (BitVec.ofNat 24 ((beat 512).pf 32 3)) ≠ coordsAt ((inbox [] id).fab.partnerAddr 0) ∧
    coordsAt (BitVec.ofNat 24 ((beat 0x800000).pf 32 3)) = coordsAt ((inbox [] id).fab.partnerAddr 0) ∧ (inbox [] id).pairs = false := by decide +kernel
theorem witness_PairingMessages_mirror : (inbox [] fun f => { f with mirror := true }).fab.mirror = true ∧ (inbox [] id).hlt.pairState ≠ 4 ∧
    (inbox [] id).hlt.paired = false := by decide +kernel
/-- A run of one chunk of which nothing has been compared, and one that found a difference. -/
def verifying (bad : Option Nat) : State :=
  let s := inbox [mgmt 0x21 ([0, 0, 0, 0, 0, 0, 0, 0] ++ List.replicate 8 0xFF)] fun f =>
    { f with verify := some { port := 0, tag := 3, peer := 0, step := 0, chunks := 1, sent := 1, mismatch := bad } }
  { s with hlt := { s.hlt with rcv := 2 } }
theorem witness_PairingMessages_verify : ((verifying none).takeMsg 0x21).isSome = true ∧ (mgmt 0x21 ([0, 0, 0, 0, 0, 0, 0, 0] ++ List.replicate 8 0xFF)).pf 8 8 = 2 ^ 64 - 1 ∧
    ((verifying none).fab.verify.map fun v => (v.chunks, v.compared + 1, v.mismatch)) = some (1, 1, none) ∧
    ((verifying (some 0)).fab.verify.map fun v => v.mismatch.isSome) = some true ∧ (verifying none).hlt.rcv = 2 := by decide +kernel
theorem test_heartbeat : (after .heartbeat (inbox [beat 0x800000] id)).hlt.peerRisk = 77 ∧ (after .heartbeat (inbox [beat 512] id)).hlt.peerRisk = 0 := by
  decide +kernel

/-- Health as given. -/
def health (f : Health → Health) : State := (placed noPkg twoSegs id).onHlt f
theorem witness_FillsAndSnapshots_fill : (health fun h => { h with rcv := 1, privateGot := 48 }).hlt.privateHost = none ∧
    (health fun h => { h with rcv := 1, privateGot := 48 }).filling = true ∧
    fld ((health id).mem.word ((health id).glob.quarter 3 + 24)) 0 48 ≤ 48 := by decide +kernel
def snap : Snap := { seq := 1, step := 0, midstep := false, mirror := true }
theorem witness_FillsAndSnapshots_snap : (health fun h => { h with snap := some snap, phase := .freeze }).hlt.snap = some snap ∧ snap.midstep = false ∧
    snap.poisoned = false ∧ (health id).hlt.paired = false ∧ (health fun h => { h with snap := some snap, phase := .mirror }).hlt.phase = .mirror := by decide +kernel
theorem witness_FillsAndSnapshots_freeze : (health fun h => { h with freeze3 := true }).taskBoundary = true ∧ (health id).hlt.phase ≠ .freeze ∧
    (health id).placed.isSome = true ∧ (health id).hlt.privBytes.toNat ≤ (health id).glob.quarterBytes := by decide +kernel
theorem test_stall : (after .fillStallTimeout (health fun h => { h with rcv := 1, privateGot := 1 })).hlt.rcv = 4 ∧
    (after .fillStallTimeout (health fun h => { h with rcv := 1, privateGot := 1 })).hlt.lastStatus = 0x40 := by decide +kernel

/-- A module that pairs with its partner. -/
def pairing (f : Health → Health) : State := ((inbox [beat 0x800000] fun f => { f with mirror := true, valid := true }).onHlt fun h => { h with pairEn := true }).onHlt f
theorem witness_PairingMessages_live : (beat 0x800000).pf 9 1 = 1 ∧ (pairing id).hlt.feedId = 0 ∧
    (pairing fun h => { h with pairState := 4 }).hlt.pairState = 4 ∧ (pairing fun h => { h with pairState := 2 }).hlt.paired = true ∧
    (inbox [] id).fab.mirror = false := by decide +kernel
theorem witness_PairingMessages_digest : (verifying none).fab.verify = some { port := 0, tag := 3, peer := 0, step := 0, chunks := 1, sent := 1, mismatch := none } ∧
    (inbox [] id).fab.verify = none ∧ ((inbox [] id).takeMsg 0x20).isNone = true ∧ ((inbox [] id).takeMsg 0x21).isNone = true ∧
    ((inbox [mgmt 0x20 []] id).takeMsg 0x20).map (·.1) = some (mgmt 0x20 []) := by decide +kernel
theorem test_verified : (after .verifyResult (verifying none)).hlt.rcv = 3 ∧ (after .verifyResult (verifying (some 0))).hlt.rcv = 4 := by decide +kernel
/-- A fill from a host of 64 bytes; no fill; a snapshot whose image does not fit; a freeze under way. -/
def hostFill : State := health fun h => { h with rcv := 1, privateHost := some (0, 7, 64) }
theorem witness_FillsAndSnapshots_host : hostFill.hlt.privateHost = some (0, 7, 64) ∧ (health id).filling = false ∧ (health id).hlt.rcv ≠ 1 ∧
    (health fun h => { h with freeze3 := true, phase := .freeze }).hlt.phase = .freeze ∧ (health id).hlt.snap = none ∧
    (health fun h => { h with rcv := 1, privateGot := 0 }).hlt.privateGot = 0 ∧ State.reset.placed = none := by decide +kernel
theorem test_host_fill_stall : (after .fillStallTimeout hostFill).hlt.privateHost = none ∧ (after .fillStallTimeout hostFill).hlt.fillAbortCnt = 1 := by decide +kernel
theorem test_host_fill_bad : (after (.privateFillDone (List.replicate 64 0)) hostFill).hlt.lastStatus = 0x42 := by decide +kernel
/-- R482: a snapshot of a paired module and a poisoned one of another. -/
theorem witness_FillsAndSnapshots_ways : (health fun h => { h with pairState := 2, snap := some snap, phase := .freeze }).hlt.paired = true ∧
    ({ snap with poisoned := true } : Snap).poisoned = true ∧ ({ snap with midstep := true } : Snap).midstep = true := by decide +kernel

/-- R481, R482: a mirror with a buffer that holds the image and one without, of a snapshot that was sent and one that was not. -/
def mirroring (n : Nat) (k : Snap) (f : Health → Health) : State :=
  health fun h => f { h with snap := some k, phase := .mirror, mirrors := [{ port := 0, addr := 0, len := n }] }
theorem witness_FillsAndSnapshots_mirror : (mirroring 4096 snap id).mirrorTargets ≠ [] ∧ (mirroring 0 snap fun h => { h with privBytes := 1 }).mirrorTargets = [] ∧
    (mirroring 4096 snap id).mirrorCommits snap = true ∧ (mirroring 4096 snap fun h => { h with pairState := 2 }).mirrorCommits snap = true ∧
    (mirroring 4096 snap fun h => { h with pairState := 2 }).mirrorCommits { snap with sent := true } = false := by decide +kernel
theorem test_mirror : (after .snapshotMirrorDone (mirroring 4096 snap id)).hlt.snapCnt = 1 ∧
    (after .snapshotMirrorDone (mirroring 0 snap fun h => { h with privBytes := 1 })).hlt.snapStat = 4 := by decide +kernel
/-- R480: what was deferred is due at the next boundary whatever the interval. -/
theorem test_deferred : (health fun h => { h with lastValid := true, fresh := false, deferred := true }).snapshotDue 1 = true ∧
    (health fun h => { h with lastValid := true, fresh := false }).snapshotDue 1 = false := by decide +kernel
/-- R434: the partner of a module without a mirror is not sent to, and the sender hears NACK NOROUTE. -/
theorem test_outside_extent : let f : Fabric := { valid := true, xn := 1, yn := 1, zn := 1 }
    let k := mkPacket (headerOf 6 0 false (f.partnerAddr 0) (f.own 0)) 0 0
    (f.inject k).waiting = [] ∧ (f.inject k).noroute = 0 ∧ (f.inject k).inbox.map (·.packet.type) = [4] := by decide +kernel
/-- R430: a closed router repeats the credits of its last link control. -/
theorem test_no_credits : let f : Fabric := { valid := true, rtr := true }
    let g := f.onLink 0 fun q => { q with freed := Vector.replicate 8 5 }
    g.grants 0 = Vector.replicate 8 0 ∧ ({ g with rtr := false } : Fabric).grants 0 = Vector.replicate 8 5 := by decide +kernel
/-- R593: A1 keeps the counters of a cluster and loses its slots. -/
theorem test_a1_counters : let k := ({ stl := Vector.replicate 128 3, slots := Vector.replicate 256 1 } : Cluster).unpowered
    k.stl = Vector.replicate 128 3 ∧ k.slots = Vector.replicate 256 0 := by decide +kernel

/-- The hottest junction that does not trip. -/
theorem witness_HealthSampled : (114 : Byte).toNat < 115 ∧ ({ junction := 114, die := 5 } : Sensors).die.toNat < 6 ∧ State.reset.pwr.off = false ∧
    State.reset.sec.extHeld = false ∧ State.reset.sec.boot = .ready ∧ (State.reset.pwr.leak && State.reset.pwr.leakHeld) = false := by decide +kernel
theorem test_throttle : (after (.healthSample { junction := 105, flow := some 2000 }) State.reset).pwr.level = 8 ∧
    (after (.healthSample { junction := 95, flow := some 2000 }) State.reset).pwr.level = 1 := by decide +kernel

/-- Off, held, RECOVERY; a die that there is not; a leak; A3. -/
theorem witness_HealthSampled_others : ({ State.reset with pwr := { off := true } } : State).pwr.off = true ∧
    (State.reset.onSec fun x => { x with boot := .recovery }).sec.boot ≠ .ready ∧ ({ leak := true } : Sensors).leak = true ∧
    ({ State.reset with pwr := { state := .a3 } } : State).pwr.transition = none := by decide +kernel
theorem test_trip : (after (.healthSample { junction := 115, flow := some 2000 }) State.reset).pwr.state = .a3 ∧
    (after (.healthSample { junction := 114, flow := some 2000 }) State.reset).pwr.state = .a0 := by decide +kernel

/-! ### Host ports -/

/-- Port 0 changed. -/
def port (f : HostPort → HostPort) : State := State.reset.onPort 0 f
theorem witness_MailboxAndDoorbells : State.reset.portUp 0 = true ∧ (State.reset.port 0).frame = .header ∧ (State.reset.port 0).fifo.length < 8192 ∧
    (State.reset.port 0).held = [] ∧ (State.reset.port 0).host ≠ .present ∧ ((port fun q => { q with host := .present }).port 0).host = .present := by decide +kernel
theorem witness_MailboxAndDoorbells_full : ((port fun q => { q with fifo := List.replicate 8192 0 }).port 0).fifo.length = 8192 ∧
    ((port fun q => { q with frame := .dropping }).port 0).frame = .dropping := by decide +kernel
theorem witness_MailboxAndDoorbells_steps : (placed noPkg twoSegs id).placed.isSome = true ∧ (placed noPkg twoSegs id).hlt.rcv = 5 ∧
    (placed noPkg twoSegs id).pwr.steady = true ∧ State.reset.placed = none := by decide +kernel
theorem test_steps : (after (.mbxDbStep 0 3) (placed noPkg twoSegs fun r => { r with budget := 0xFFFFFFFE })).run.budget = 0xFFFFFFFF := by decide +kernel
theorem test_mbx_out : ((after (.mbxOutRead 0) (port fun q => { q with out := [0x0102, 5] })).port 0).reply.data = [2, 1, 0, 0, 0, 0, 0, 0] := by decide +kernel
theorem witness_MailboxAndDoorbells_framing : { State.reset with pwr := { off := true } }.portUp 0 = false ∧
    ((port fun q => { q with frame := .words 0 (some 7) [] }).port 0).frame = .words 0 (some 7) [] ∧
    (State.reset.port 0).frame = .header := by decide +kernel
/-- With no graph, and during a restore, a step is not credited. -/
theorem test_step_ignored : ((after (.mbxDbStep 0 3) State.reset).port 0).stat = 32 ∧
    (after (.mbxDbStep 0 3) (health fun h => { h with rcv := 1 })).run.budget = 0 := by decide +kernel

/-- Ranges: HBM, nothing between the tiers, memory asleep. -/
theorem witness_Windows : State.reset.reach 0 = .reached ∧ (State.reset.port 0).winBase = 0 ∧ State.reset.mem.ue = [] ∧
    State.reset.reach 0x9000000000 = .noTarget ∧ (State.reset.onPart 0 fun p => { p with selfRefresh := true }).reach 0 = .asleep := by decide +kernel
theorem test_window : ((after (.windowRead 0 16 2) (after (.windowWrite 0 16 [some 0xA5, none]) State.reset)).port 0).reply.data = [0xA5, 0] := by decide +kernel
/-- A page whose memory is being filled; a port without power. -/
theorem witness_Windows_waits : (0, 0, 2) ∈ pagesOf 0 2 ∧ (State.reset.onPart 0 fun p => { p with initBusy := true }).reach 0 = .waits ∧
    { State.reset with pwr := { off := true } }.portUp 0 = false := by decide +kernel

/-- Offsets of BAR0 that are no multiple of 8, within MBX_IN, and beyond it for two words; a vector of the MSI-X table. -/
theorem witness_RegistersAndHosts : (0x1021#45).toNat % 0x10000 % 8 ≠ 0 ∧ (0xFF0#45).toNat % 0x10000 + 8 * 2 ≤ 0x1000 ∧
    0x1000 < (0xFF8#45).toNat % 0x10000 + 8 * 2 ∧ 0x30 / 16 % 4 = (3 : Fin 4).val := by decide +kernel
/-- R501: a read that came during the fill is answered when it ends. -/
theorem test_window_resumes : ((after .hbmInitDone (after (.windowRead 0 0 2) (State.reset.onPart 0 fun p => { p with initBusy := true }))).port 0).reply.data = [0, 0] := by
  decide +kernel
theorem test_mbx_burst : ((after (.registerWrite (.bar0 0 [0x102, 0x103]) 0x1000 0x101) State.reset).port 0).stat = 4 ∧
    ((after (.registerWrite (.bar0Part 0) 0 0) State.reset).port 0).stat = 4 := by decide +kernel
theorem witness_RegistersAndHosts_host : ((port fun q => { q with host := .present }).port 0).copies = [] ∧ State.reset.txn = none ∧ State.reset.sec.debugOpen = 0 := by
  decide +kernel
theorem test_mbx_stat : ((after (.registerWrite (.bar0 0 []) 0x1018 4) (port fun q => { q with stat := 6 })).port 0).stat = 2 := by decide +kernel
theorem test_host_lost : ((after (.hostHeartbeatTimeout 0) (port fun q => { q with host := .present })).port 0).host = .lost := by decide +kernel
theorem witness_RegistersAndHosts_drops : (State.reset.port 0).host ≠ .present ∧ { State.reset with pwr := { off := true } }.pwr.off = true ∧
    State.reset.pwr.off = false ∧ State.reset.portUp 0 = true := by decide +kernel

/-! ### Host commands -/

/-- A command of port 0 with tag 7 and these words. -/
def cmd (ws : List Word) : HostCmd := { port := 0, tag := 7, words := ws }
/-- Whether the module accepts it. -/
def takes (s : State) (key : Nat) (c : HostCmd) : Bool :=
  s.portUp c.port && (s.port c.port).ready.isEmpty && !(s.port c.port).outstanding.any (·.tag == c.tag) &&
    decide ((s.port c.port).outstanding.length < 256) && (s.started key c).refusal key c.words == none
theorem accepts_of_takes {s : State} {key : Nat} {c : HostCmd} (h : takes s key c = true) : Accepts s key c := by
  simpa [takes, Accepts, and_assoc] using h

/-- A copy of so many bytes from device address 0. -/
def copy (n : Nat) : HostCmd := cmd [0x1000, 0, BitVec.ofNat 64 n]
theorem witness_DmaCopies : Accepts State.reset 0x301 (copy 1) ∧ (copy 1).wf = true ∧ oneRange 0 0 = true ∧ rangeOf 0 = .hbm ∧ rangeOf 0x10000000000 = .far :=
  ⟨accepts_of_takes (by decide +kernel), by decide +kernel⟩
def copies (read : Bool) : State := port fun q => { q with copies := [{ tag := 7, host := 0, device := 0, len := 4096, read := read }] }
theorem witness_DmaCopies_done : (((copies true).port 0).copies.take 4)[0]? = some { tag := 7, host := 0, device := 0, len := 4096, read := true } ∧
    (copies false).copyWaits { tag := 7, host := 0, device := 0, len := 4096, read := false } = false ∧ (copies false).mem.ue = [] ∧
    (copies false).reach 0 = .reached := by decide +kernel
/-- A copy that a silent host leaves is stopped. -/
theorem test_copy_stopped : let t := after (.hostHeartbeatTimeout 0) ((copies true).onPort 0 fun q => { q with host := .present })
    (t.port 0).copies = [] ∧ (t.port 0).host = .lost := by decide +kernel
/-- A copy of no bytes, one without a target, a sector that is uncorrectable, a request that fails, no copy. -/
theorem witness_DmaCopies_others : Accepts State.reset 0x301 (copy 0) ∧ oneRange 0x5FFFFFF 0x6000000 = true ∧
    (State.reset.reach 0x9000000000 = .noTarget) ∧ rangeOf 0x9000000000 ≠ .hbm ∧
    ({ (copies true).mem with ue := [3] } : Memory).ue.filter (fun n => decide (32 * n < 0 + 4096) && decide (0 < 32 * n + 32)) = [3] ∧
    (∃ b : Nat, some 1 = some b ∧ ([0] : List Byte).length < 4096 ∧ b ≤ ([0] : List Byte).length) ∧ ((State.reset.port 0).copies.take 4)[0]? = none ∧
    ((copies false).onPart 0 fun p => { p with initBusy := true }).copyWaits { tag := 7, host := 0, device := 0, len := 4096, read := false } = true :=
  ⟨accepts_of_takes (by decide +kernel), by decide +kernel, by decide +kernel, by decide +kernel, by decide +kernel, ⟨1, by decide⟩, by decide +kernel, by decide +kernel⟩

/-- An outstanding command of tag 7 without NOTIFY. -/
def outCmd : OutCmd := { id := 7, tag := 7, cls := 1, op := 1, notify := false }
theorem witness_CommandsStartAndEnd : ((port fun q => { q with outstanding := [outCmd], out := List.replicate 16382 0 }).port 0).openCmd 7 = some outCmd ∧
    ((port fun q => { q with outstanding := [outCmd], out := List.replicate 16382 0 }).port 0).out.length + ({} : Reply).words.length + 2 = 16384 := by decide +kernel
theorem witness_CommandsStartAndEnd_refused : hostKey (.ident (cmd [])) = some (0xF01, cmd []) ∧ (cmd []).wf = true ∧
    (cmd (List.replicate 65536 0)).wf = false ∧ State.reset.portUp 0 = true ∧ { State.reset with pwr := { off := true } }.portUp 0 = false ∧
    ((port fun q => { q with outstanding := [outCmd] }).port 0).outstanding.any (·.tag == 7) = true := ⟨rfl, by decide +kernel⟩
theorem witness_CommandsStartAndEnd_checks : ((State.reset.started 0x101 (cmd [0])).refusal 0x101 [0]).isSome = true ∧
    { State.reset with sec := { boot := .recovery } }.sec.boot ≠ .ready ∧ State.reset.pwr.judged.serves 0x101 = true ∧
    { State.reset with pwr := { state := .a2 } }.pwr.judged.serves 0x201 = false ∧ { State.reset with pwr := { state := .a2 } }.pwr.servesQuiesce 0x201 [] = false := by
  decide +kernel
theorem test_same_tag : ((after (.ident (cmd [])) (port fun q => { q with outstanding := [outCmd] })).port 0).stat.getLsbD 1 = true := by decide +kernel
/-- A command that waits first at its port, and others that wait before another. -/
def first : State := port fun q => { q with ready := [{ id := 7, cls := 0xF, op := 1, tag := 7, flags := 0, words := [] }] }
theorem witness_CommandsStartAndEnd_first : ((first.port 0).ready.head?.map fun a => a.names 0xF01 (cmd [])) = some true ∧
    ((first.port 0).ready.head?.map fun a => a.names 0xF02 (cmd [])) = some false ∧ ((first.started 0xF02 (cmd [])).refusal 0xF02 []) = none ∧
    ((port fun q => { q with outstanding := List.replicate 256 { outCmd with tag := 8 } }).port 0).outstanding.length = 256 := by decide +kernel
theorem witness_CommandsStartAndEnd_posts : (State.reset.port 0).openCmd 7 = none ∧
    ((port fun q => { q with outstanding := [outCmd], held := [(none, [0])] }).port 0).held ≠ [] ∧
    lengthOk 0xF01 [] = some true ∧ lengthOk 0xF01 [0] = some false := by decide +kernel
/-- A completion: class 1, opcode 1, two words after the header, tag 7; status 0. -/
theorem test_completion : ((after (.cfgBegin (cmd [])) State.reset).port 0).out = [0x0101000100070000, 0] := by decide +kernel

/-- Transactions. -/
def txn (x : Txn) : State := { State.reset with txn := some x }
/-- CFG_SET of EVT register space: HLT_CFG.T1 and a step that no transaction holds. -/
theorem witness_Transactions : Accepts State.reset 0x101 (cmd []) ∧ Accepts (txn { owner := 1 }) 0x101 (cmd []) ∧ Accepts (txn { owner := 0 }) 0x103 (cmd []) ∧
    Accepts (txn { owner := 0 }) 0x104 (cmd []) ∧ Accepts (txn { owner := 0 }) 0x105 (cmd []) :=
  ⟨accepts_of_takes (by decide +kernel), accepts_of_takes (by decide +kernel), accepts_of_takes (by decide +kernel), accepts_of_takes (by decide +kernel),
    accepts_of_takes (by decide +kernel)⟩
theorem witness_Transactions_commit : ((txn { owner := 0 }).started 0x103 (cmd [])).firstBad { owner := 0 } = none ∧ (txn { owner := 0 }).canApply = true ∧
    ({ txn { owner := 0 } with run := { step := some {} } } : State).canApply = false := by decide +kernel
theorem witness_Transactions_apply : ((port fun q => { q with outstanding := [outCmd] }).port 0).outstanding.find? (·.id == 7) = some outCmd := by decide +kernel
theorem test_cfg_status : ((after (.cfgStatus (cmd [])) (txn { owner := 1 })).port 0).out.getLast? = some 5 := by decide +kernel
/-- Another port's transaction, none, and one that commits while a step runs. -/
theorem witness_Transactions_others : Accepts State.reset 0x103 (cmd []) ∧ Accepts (txn { owner := 1 }) 0x103 (cmd []) ∧
    Accepts (txn { owner := 0, commit := some 7 }) 0x104 (cmd []) ∧ (txn { owner := 0, commit := some 7 }).canApply = true ∧
    settable 0x1000 = false ∧ settable 0xFF0005000028 = true :=
  ⟨accepts_of_takes (by decide +kernel), accepts_of_takes (by decide +kernel), accepts_of_takes (by decide +kernel), by decide +kernel, by decide +kernel,
    by decide +kernel⟩
theorem test_cfg_apply : (after .cfgApply (txn { owner := 0, commit := some 7 })).txn = none ∧
    ((after .cfgApply (txn { owner := 0, commit := some 7 })).events.map (·.code)).head? = some 0x40 ∧
    ((after .cfgIdleTimeout (txn { owner := 0 })).events.map (·.code)).head? = some 0x41 := by decide +kernel

theorem witness_RegisterGraphStepCommands_reg : Accepts State.reset 0x110 (cmd [0xFF0004000000 + 2 ^ 48]) := accepts_of_takes (by decide +kernel)
theorem witness_RegisterGraphStepCommands_graph : State.reset.graphBarred = none ∧ Accepts State.reset 0x201 (cmd [0, 4096]) ∧
    Accepts State.reset 0x202 (cmd []) ∧ Accepts (placed noPkg twoSegs id) 0x203 (cmd [0, 1]) :=
  ⟨by decide +kernel, accepts_of_takes (by decide +kernel), accepts_of_takes (by decide +kernel), accepts_of_takes (by decide +kernel)⟩
theorem witness_RegisterGraphStepCommands_step : Accepts (placed noPkg twoSegs id) 0x210 (cmd [1]) ∧ Accepts State.reset 0x210 (cmd [1]) ∧
    Accepts State.reset 0x211 (cmd []) ∧ Accepts (placed noPkg twoSegs fun r => { r with step := some {} }) 0x212 (cmd [0]) ∧ State.reset.run.waits = [] :=
  ⟨accepts_of_takes (by decide +kernel), accepts_of_takes (by decide +kernel), accepts_of_takes (by decide +kernel), accepts_of_takes (by decide +kernel), rfl⟩
theorem test_step_run : (after (.stepRun (cmd [5])) (placed noPkg twoSegs id)).run.budget = 5 := by decide +kernel
theorem test_unload : (after (.graphUnload (cmd [])) (placed noPkg twoSegs id)).run.graph = none := by decide +kernel
/-- An open transaction, another load, a graph at work bar a load. -/
theorem witness_RegisterGraphStepCommands_barred : (txn { owner := 0 }).graphBarred = some { status := 0x11 } ∧
    ({ State.reset with run := { placing := some (.load 0 7 0) } } : State).graphBarred = some { status := 0x10 } ∧
    (placed noPkg twoSegs fun r => { r with step := some {} }).quiesced = false ∧
    (placed noPkg twoSegs fun r => { r with step := some {} }).graphBarred = some { status := 0x10 } := by decide +kernel
theorem test_halt_waits : let t := after (.stepHalt (cmd [])) (placed noPkg twoSegs fun r => { r with budget := 3, waits := [{ port := 1, tag := 9, left := 3 }] })
    t.run.budget = 0 ∧ t.run.waits.length = 0 := by decide +kernel
/-- CFG_SET of HLT_THRESH (0xFF00_0500_0028) to 1, 2, 3 in a transaction of port 0. -/
def setThresholds : HostCmd := cmd [0xFF0005000028 + 2 ^ 48, 0x030201]
theorem witness_Transactions_set : Accepts (txn { owner := 0 }) 0x102 setThresholds ∧
    ((txn { owner := 0 }).started 0x102 setThresholds).setDetail { owner := 0 } (setThresholds.words.headD 0) setThresholds.words.tail = 0 :=
  ⟨accepts_of_takes (by decide +kernel), by decide +kernel⟩

/-- A multibody slot 0 whose image passes, and a call for the information and the contexts of a slot. -/
theorem witness_SolverAndSurvivalCommands_solver : (∀ l ∈ State.reset.run.loads, l.slot ≠ 0) ∧
    Accepts (placed noPkg twoSegs fun r => { r with problems := [(0, ⟨[], 9, 0, 0, 0, 0, []⟩)] }) 0x402 (cmd [0]) ∧
    Accepts (placed noPkg twoSegs id) 0x403 (cmd [0]) ∧ Accepts (placed noPkg twoSegs fun r => { r with step := some {} }) 0x403 (cmd [0]) :=
  ⟨by simp [State.reset], accepts_of_takes (by decide +kernel), accepts_of_takes (by decide +kernel), accepts_of_takes (by decide +kernel)⟩
/-- A graph with multibody slot 0 and a problem whose image is too short. -/
def slotPkg : Package := { noPkg with solver := [[0, 0, 0, 0]] }
theorem witness_SolverAndSurvivalCommands_load : (placed slotPkg twoSegs id).run.graph.bind (fun g => solverEntry g.pkg 0 0) = some [0, 0, 0, 0] ∧
    probDetail [1] [0, 0, 0, 0] ≠ 0 := by decide +kernel
theorem witness_SolverAndSurvivalCommands_snap : Accepts State.reset 0x501 (cmd (List.replicate 64 1)) ∧ Accepts (placed noPkg twoSegs id) 0x502 (cmd []) ∧
    Accepts State.reset 0x503 (cmd [0x1000, 4096]) ∧ Accepts (placed noPkg twoSegs id) 0x510 (cmd []) ∧
    Accepts (placed noPkg twoSegs id) 0x511 (cmd [0x1000200]) ∧ (placed noPkg twoSegs id).quiesced = true :=
  ⟨accepts_of_takes (by decide +kernel), accepts_of_takes (by decide +kernel), accepts_of_takes (by decide +kernel), accepts_of_takes (by decide +kernel),
    accepts_of_takes (by decide +kernel), by decide +kernel⟩
theorem witness_SolverAndSurvivalCommands_restore : Accepts (health fun h => { h with rcv := 1 }) 0x512 (cmd [0, 4096]) ∧
    Accepts (health fun h => { h with rcv := 1, sharedDone := true, privateDone := true }) 0x513 (cmd []) ∧
    Accepts (placed noPkg twoSegs id) 0x514 (cmd [0]) :=
  ⟨accepts_of_takes (by decide +kernel), accepts_of_takes (by decide +kernel), accepts_of_takes (by decide +kernel)⟩
theorem test_cursor : (after (.cursorSet (cmd (List.replicate 64 5))) State.reset).hlt.cursor[63] = 5 := by decide +kernel
theorem test_restore_begin : (after (.restoreBegin (cmd [])) (placed noPkg twoSegs id)).hlt.rcv = 1 := by decide +kernel
/-- The slot of a load that waits; no slot; loads during a step; what restores refuse. -/
theorem witness_SolverAndSurvivalCommands_others :
    (∃ l ∈ [({ slot := 0, problem := ⟨[], 9, 0, 0, 0, 0, []⟩, port := 0, tag := 1 } : ProblemLoad)], l.slot = 0) ∧
    (State.reset.run.graph.bind fun g => solverEntry g.pkg 0 0) = none ∧ (placed slotPkg twoSegs fun r => { r with step := some {} }).run.step.isSome = true ∧
    smFind State.reset.run.problems 0 = none ∧ State.reset.placed = none ∧ (health fun h => { h with rcv := 1 }).hlt.rcv ≠ 5 ∧
    Accepts (health fun h => { h with rcv := 1, privateHost := some (0, 8, 0) }) 0x512 (cmd [0, 0]) ∧ Accepts (placed noPkg twoSegs id) 0x511 (cmd [0x2000200]) ∧
    (health fun h => { h with slotA := { valid := true } }).hlt.bestSlot = some false :=
  ⟨⟨_, List.mem_singleton.mpr rfl, rfl⟩, by decide +kernel, by decide +kernel, by decide +kernel, by decide +kernel, by decide +kernel,
    accepts_of_takes (by decide +kernel), accepts_of_takes (by decide +kernel), by decide +kernel⟩

theorem witness_EventsAndCounters : Accepts State.reset 0x601 (cmd [0, 64]) ∧ Accepts State.reset 0x602 (cmd [1, 0, 0, 0]) ∧
    Accepts State.reset 0x701 (cmd [0xFF0005000100 + 2 ^ 48]) ∧ (regAt 0xFF0005000100).isCounter = true ∧
    Accepts State.reset 0x702 (cmd [0x7F]) :=
  ⟨accepts_of_takes (by decide +kernel), accepts_of_takes (by decide +kernel), accepts_of_takes (by decide +kernel), by decide +kernel,
    accepts_of_takes (by decide +kernel)⟩
/-- A boundary copy of step 4. -/
theorem witness_EventsAndCounters_copy : ((arg (cmd [0xFF0005000100 + 2 ^ 48 + 2 ^ 56]).words 1).getLsbD 56) = true ∧
    ({ State.reset with perf := { copy := some (4, []) }, run := { stepped := true } } : State).perf.copy = some (4, []) := by decide +kernel
theorem test_phase : (after (.phaseNotice 2 true) State.reset).perf.phases[2].sources = 1 := by decide +kernel
theorem test_mask : ((after (.evtMask (cmd [0x12, 0, 0, 0])) State.reset).port 0).evtMask = 0x12 := by decide +kernel
/-- No counter; a copy without a completed step; the reserved set. -/
theorem witness_EventsAndCounters_others : (regAt 0xFF0004000000).isCounter = false ∧ State.reset.run.stepped = false ∧
    (arg (cmd [0x80]).words 1).getLsbD 7 = true := by decide +kernel

/-! ### Security and firmware -/

/-- The security state changed. -/
def secure (f : Security → Security) : State := State.reset.onSec f
theorem witness_SecurityAndFirmware : Accepts State.reset 0xF01 (cmd []) ∧ Accepts State.reset 0xF02 (cmd []) ∧ Accepts State.reset 0xE01 (cmd [1, 2, 3, 4, 0]) ∧
    Accepts (secure fun x => { x with sinceBoot := 8 }) 0xE01 (cmd [1, 2, 3, 4, 0]) ∧ Accepts State.reset 0xE02 (cmd []) ∧ Accepts State.reset 0xE04 (cmd []) :=
  ⟨accepts_of_takes (by decide +kernel), accepts_of_takes (by decide +kernel), accepts_of_takes (by decide +kernel), accepts_of_takes (by decide +kernel),
    accepts_of_takes (by decide +kernel), accepts_of_takes (by decide +kernel)⟩
/-- A token names the device and the nonce; whether its signatures verify is a free constant (log entry 13). -/
def tokenBytes : List Byte := [0, 0, 0, 0, 0, 0, 0, 0] ++ bytesOf 16 Config.uid.toNat ++ bytesOf 32 5 ++ [1, 0, 0xFF, 0, 0, 0, 0, 0]
theorem witness_SecurityAndFirmware_token : (secure fun x => { x with challenge := some { nonce := 5 } }).sec.challenge = some { nonce := 5 } ∧
    bytesWord ((tokenBytes.drop 6).take 1) < 2 ∧ (0 : Byte).toNat ≤ 0xFF := by decide +kernel
/-- A session of port 0 on bank B, and a bank that its manifest contradicts. -/
def session : State := secure fun x => { x with session := some { owner := 0, bank := true } }
theorem witness_SecurityAndFirmware_session : Accepts State.reset 0xF10 (cmd [2]) ∧ State.reset.sec.target 2 = some true ∧ State.reset.sec.bank ≠ some true ∧
    Accepts session 0xF11 (cmd [1, 5]) ∧ kinds.contains 1 = true ∧ Accepts session 0xF12 (cmd [0]) ∧ Accepts session 0xF13 (cmd []) ∧
    (session.sec.inconsistent (session.sec.bankAt true)).isSome = true ∧ Accepts State.reset 0xF20 (cmd [0, 0, 256]) ∧ Accepts State.reset 0xF30 (cmd [1]) :=
  ⟨accepts_of_takes (by decide +kernel), by decide +kernel, by decide +kernel, accepts_of_takes (by decide +kernel), by decide +kernel,
    accepts_of_takes (by decide +kernel), accepts_of_takes (by decide +kernel), by decide +kernel, accepts_of_takes (by decide +kernel),
    accepts_of_takes (by decide +kernel)⟩
theorem test_write : smGet (0xFF : Byte) ((after (.fwWrite (cmd [1, 0xAB])) session).sec.banks[1].images) (2 ^ 25) = 0xAB := by decide +kernel
theorem test_module_reset : (after (.moduleReset (cmd [1])) State.reset).sec.oneShot = some false := by decide +kernel
/-- What the checks refuse: a token that names the retired slot, a newer count of resets, a graph; a foreign session, no session, a boot
that goes on, a place that is no image, a bank that is not bootable. -/
theorem witness_SecurityAndFirmware_refused : State.reset.sec.challenge = none ∧ (secure fun x => { x with revoked := 1 <<< 5 }).sec.revoked.getLsbD (4 + 1) = true ∧
    (secure fun x => { x with challenge := some { nonce := 5, resets := 2 } }).sec.challenge.map (·.resets.toNat) = some 2 ∧
    (session.sec.session.map (·.owner)) = some 0 ∧ State.reset.sec.session = none ∧ (secure fun x => { x with boot := .init }).sec.boot = .init ∧
    9 ∉ [1, 2, 3, 4, 5, 6, 7, 8, 15] ∧ (secure fun x => { x with bootable := #v[false, false] }).sec.bootable[bankIx true] = false := by decide +kernel

/-! ### Power, boot, debug -/

/-- The power state changed. -/
def power (f : Power → Power) : State := State.reset.onPwr f
/-- R583: with the memory and port domains off their inputs give no points. -/
theorem test_points_off : ((power fun p => { p with domains := 0 }).riskPoints [{ ce := 255, ue := 1, farCe := 15, retries := 3 }] 0).take 5 = [0, 0, 0, 0, 0] ∧
    (State.reset.riskPoints [{ ce := 255, ue := 1, farCe := 15, retries := 3 }] 0).take 5 = [64, 0, 128, 16, 16] := by decide +kernel
def toState (x : PState) (entered : Bool) : Transition := { target := x, immediate := false, port := 0, tag := 7, entered := entered }
theorem witness_PowerChanges_command : Accepts State.reset 0x801 (cmd [2, 0]) ∧ targetOf 2 = some .a2 ∧ Accepts State.reset 0x801 (cmd [0, 0]) ∧
    Accepts (power fun p => { p with state := .a1 }) 0x801 (cmd [0, 0]) ∧
    Accepts (power fun p => { p with transition := some (toState .a2 false) }) 0x801 (cmd [2, 0]) ∧
    Accepts (power fun p => { p with transition := some (toState .a2 false) }) 0x802 (cmd []) :=
  ⟨accepts_of_takes (by decide +kernel), by decide +kernel, accepts_of_takes (by decide +kernel), accepts_of_takes (by decide +kernel),
    accepts_of_takes (by decide +kernel), accepts_of_takes (by decide +kernel)⟩
theorem witness_PowerChanges_reset : Accepts State.reset 0x802 (cmd []) ∧ Accepts (power fun p => { p with state := .a1 }) 0x802 (cmd []) :=
  ⟨accepts_of_takes (by decide +kernel), accepts_of_takes (by decide +kernel)⟩
/-- A2 may be entered; 24 region domains go off for A1, four at most at a time. -/
def sleepy : State := { power (fun p => { p with transition := some (toState .a2 false) }) with run := { stopped := true } }
theorem witness_PowerChanges_entry : sleepy.run.stopped = true ∧ sleepy.quiet = true ∧ sleepy.txn = none ∧ sleepy.pwr.regions = BitVec.allOnes 24 ∧
    sleepy.hlt.phase = .idle := by decide +kernel
theorem witness_PowerChanges_switch : ((power fun p => { p with transition := some (toState .a1 true) }).pwr.transition.map (·.entered)) = some true ∧
    (List.range 24).countP (fun r => (power id).pwr.regions.getLsbD r != (PState.regions .a1).getLsbD r) = 24 ∧
    (List.range 24).countP (fun r => ((power fun p => { p with domains := 0xF }).pwr.regions.getLsbD r != (PState.regions .a1).getLsbD r)) = 4 := by decide +kernel
theorem witness_PowerChanges_grace : ((power fun p => { p with creset := some { port := 0, tag := 7 } }).pwr.creset.map (·.entered)) = some false := by decide +kernel
/-- What PWR_STATE refuses, and changes that do not go on. -/
theorem witness_PowerChanges_others : ({ State.reset with run := { placing := some (.load 0 7 0) } } : State).run.placing.isSome = true ∧
    (placed noPkg twoSegs id).run.graph.isSome = true ∧ (power fun p => { p with leak := true }).pwr.leak = true ∧
    State.reset.pwr.transition = none ∧ State.reset.pwr.creset = none ∧
    ({ sleepy with run := { step := some {} } } : State).run.step ≠ none ∧ (power fun p => { p with transition := some (toState .a0 false) }).pwr.transition.isSome = true ∧
    (List.range 24).countP (fun r => (power id).pwr.regions.getLsbD r = false) = 0 ∧
    (List.range 24).countP (fun r => (power fun p => { p with domains := 0xF }).pwr.regions.getLsbD r = false) = 20 := by decide +kernel
/-- The second failure of a crossing at a region, at a fabric port, at neither; a domain off; an end that meets itself. -/
theorem witness_PowerChanges_crossings : (power fun p => { p with retried := [(0, 99, 0), (96, 97, 0)] }).pwr.retrying 0 99 = true ∧
    (power fun p => { p with retried := [(0, 99, 0), (96, 97, 0)] }).pwr.retrying 96 97 = true ∧ portIsland 84 ≠ none ∧ portIsland 96 = none ∧ portIsland 97 = none ∧
    (power fun p => { p with domains := 0 }).pwr.domains.getLsbD 3 = false := by decide +kernel
theorem test_fatal_crossing : (after (.islandTimeout 96 97) (power fun p => { p with retried := [(96, 97, 0)] })).pwr.dead = [(96, 97)] := by decide +kernel
theorem witness_PowerChanges_faults : State.reset.pwr.islands[0].running = true ∧ State.reset.pwr.islands[96].running = true ∧
    State.reset.pwr.islands[84].running = true ∧ (State.reset.supply .a1 0).pwr.islands[0].running = false ∧ State.reset.pwr.retrying 0 99 = false ∧ State.reset.pwr.domains.getLsbD 23 = true ∧ State.reset.sec.extHeld = false := by
  decide +kernel
theorem test_four_domains : (List.range 24).countP (fun r => !(after .regionDomainSwitch (power fun p => { p with transition := some (toState .a1 true) })).pwr.regions.getLsbD r) = 4 := by
  decide +kernel
theorem test_droop : (after (.droop 5) State.reset).pwr.droopCnt = 1 := by decide +kernel
/-- R604: a stretch costs the vector engine and Tahr of a running kernel 256 cycles each, and the idle array none. -/
theorem test_droop_thermal : let k := (after (.droop 0) (running 0 [] [] id)).cl 0
    k.stl[9] = 0 ∧ k.stl[25] = 256 ∧ k.stl[41] = 256 := by decide +kernel
/-- R603: BUSY 5 and SUMMARY_WAIT 3 of a squashed kernel's Tahr reach SPEC_SQUASH; its WORK of 4 is dropped. -/
theorem test_squash_tally : let f : Firing := { entry := 0, order := 0, unit := .vector, guards := [(3, true)], tally := [(39, 3), (42, 5), (43, 4)] }
    let k := ((running 0 [] [(3, true)] id).squash 0 f 1).cl 0
    k.stl[38] = 8 ∧ k.stl[42] = 0 ∧ k.stl[43] = 0 := by decide +kernel

theorem witness_ResetsReboot : (power fun p => { p with off := true }).pwr.off = true ∧ (secure fun x => { x with resetDue := true }).sec.resetDue = true ∧
    (secure fun x => { x with boot := .init, trying := some false }).sec.boot = .init ∧ State.reset.pwr.off = false := by decide +kernel
theorem test_power_on : (after (.powerOnReset 3) (power fun p => { p with off := true })).pwr.rstCause = 1 ∧
    (after (.powerOnReset 3) (power fun p => { p with off := true })).sec.boot = .load := by decide +kernel
theorem witness_ResetsReboot_not : State.reset.sec.resetDue = false ∧ (secure fun x => { x with resetDue := true, extHeld := true }).sec.extHeld = true := by decide +kernel
/-- Bank A with two failed attempts and with three; both banks used up. -/
def banks (a b : Byte) : Security := { bootable := #v[true, true], cnt := #v[a, b] }
theorem witness_BankSelection : (banks 2 3).usable false = true ∧ (banks 3 2).usable false = false ∧ (banks 3 2).usable true = true ∧
    (banks 3 3).usable false = false ∧ (banks 3 3).usable true = false := by decide +kernel
theorem test_fallback_bank : (banks 3 2).romSelect.trying = some true ∧ (banks 3 3).romSelect.boot = .recovery := by decide +kernel
theorem witness_BootAndHolds : (secure fun x => { x with boot := .load, trying := some true }).sec.trying = some true ∧
    ((secure fun x => { x with boot := .load }).sec.inconsistent ((secure id).sec.bankAt true)).isSome = true ∧
    (secure fun x => { x with boot := .init, trying := some false }).sec.pendingSvn[bankIx false] = false ∧ (secure id).sec.preferred = false ∧
    (secure fun x => { x with extHeld := true }).sec.extHeld = true := by decide +kernel
theorem test_boot_ready : (after .bootReady (secure fun x => { x with boot := .init, trying := some false, bank := none })).sec.bank = some false := by decide +kernel
/-- No bank is tried; a bank that is not preferred, with an advance due; the input of a module that is not READY; no reset to release. -/
theorem witness_BootAndHolds_others : State.reset.sec.trying = none ∧
    (secure fun x => { x with boot := .init, trying := some true, pendingSvn := #v[false, true] }).sec.pendingSvn[bankIx true] = true ∧
    (secure fun x => { x with boot := .recovery }).sec.boot ≠ .ready ∧ State.reset.sec.extHeld = false := by decide +kernel
theorem test_fallback_event : ((after .bootReady (secure fun x => { x with boot := .init, trying := some true, bank := none })).events.map (·.code)).take 2 = [0xC1, 0xC0] := by
  decide +kernel

/-- Scope 0 is open and cluster 0 halted; ADDR stands at its last word. -/
def halted : State := { (withCl fun k => { k with tahr := { k.tahr with kernel := some { entry := 0, start := 0 }, wait := some .debug } }).onSec fun x => { x with debugOpen := 1 } with
  debugAddr := BitVec.ofNat 64 (tileBase 0 + 0x5FFFF8) }
theorem witness_DebugWindow : halted.debugAt halted.debugAddr.toNat = .tile ∧ halted.mem.wf = true ∧ halted.sec.boot = .ready ∧
    State.reset.debugAt 4 = .closed ∧ State.reset.sec.debugOpen = 0 := by decide +kernel
theorem test_debug_write : (after (.debugDataAccess (some 0x55)) halted).mem.get (tileBase 0 + 0x5FFFF8) = 0x55 := by decide +kernel
/-- DEBUG_LOCK ends the task of the halted Tahr. -/
theorem witness_SecurityAndFirmware_closes : halted.sec.debugOpen.getLsbD 0 = true ∧ (halted.cl 0).tahr.wait = some .debug ∧
    (State.reset.cl 1).tahr.wait ≠ some .debug := by decide +kernel
/-- The first register of the halted cluster; the first entry of the directory; an address that is not aligned. -/
theorem witness_DebugWindow_register : halted.debugAt 0xFF0001000000 = .register 0 := by decide +kernel
theorem witness_DebugWindow_directory : (halted.debugAt debugSpace = .directory 0) ∧ State.reset.debugAt 1 = .closed := by
  refine ⟨?_, by decide +kernel⟩
  have h : halted.sec.debugOpen = 1 := by decide +kernel
  have b : debugSpace < debugSpace + 16 * (Config.debugDir.length + 1) := by omega
  simp [State.debugAt, h, b, show debugSpace % 8 = 0 from rfl]

end Sys2Proof.Tests
end

section
/-! Proofs. The exponent that a block takes (R60, R63): an exact value is the rational number n ÷ d × 2^e, and rounding, the
order and ⌊log₂⌋ are stated about that number. -/
namespace Sys2Proof.Machine

/-! ### Exact values as rational numbers -/

/-- The rational number that an exact value stands for. -/
def Ex.toRat (x : Ex) : ℚ := x.n / x.den * 2 ^ x.e

theorem pow2_eq_mul_zpow (i : Int) : (pow2 i : ℚ) = pow2 (-i) * 2 ^ i := by
  obtain ⟨n, rfl | rfl⟩ := i.eq_nat_or_neg <;> simp [pow2]

theorem pow2_pos (i : Int) : (0 : ℚ) < pow2 i := by simp [pow2]

theorem pow2_eq_zpow {i : Int} (h : 0 ≤ i) : (pow2 i : ℚ) = 2 ^ i := by
  lift i to ℕ using h
  simp [pow2]

theorem Ex.den_ne_zero (x : Ex) : x.den ≠ 0 := by
  unfold Ex.den
  split <;> omega

theorem Ex.den_pos (x : Ex) : (0 : ℚ) < x.den := by exact_mod_cast Nat.pos_of_ne_zero x.den_ne_zero

/-- The fraction that `Ex.roundAt` rounds, in units of 2^k. -/
theorem Ex.toRat_eq_units (x : Ex) (k : Int) :
    x.toRat = (x.n * pow2 (x.e - k) : Int) / (x.den * pow2 (k - x.e) : Nat) * 2 ^ k := by
  have hQ := (pow2_pos (k - x.e)).ne'
  have hD := x.den_pos.ne'
  push_cast
  rw [pow2_eq_mul_zpow (x.e - k), neg_sub, zpow_sub₀ two_ne_zero, Ex.toRat]
  field_simp

theorem Ex.toRat_neg_iff (x : Ex) : x.toRat < 0 ↔ x.n < 0 := by
  have h2 : (0 : ℚ) < 2 ^ x.e := by positivity
  rw [Ex.toRat, ← zero_mul (2 ^ x.e : ℚ), mul_lt_mul_iff_left₀ h2, div_lt_iff₀ x.den_pos, zero_mul, Int.cast_lt_zero]

theorem Ex.toRat_neg (x : Ex) : x.neg.toRat = -x.toRat := by
  change ((-x.n : Int) / x.den * 2 ^ x.e : ℚ) = -(x.n / x.den * 2 ^ x.e)
  push_cast
  ring

theorem Ex.toRat_abs (x : Ex) : x.abs.toRat = |x.toRat| := by
  change ((x.n.natAbs : Int) / x.den * 2 ^ x.e : ℚ) = |(x.n / x.den * 2 ^ x.e : ℚ)|
  have h2 : (0 : ℚ) < 2 ^ x.e := by positivity
  rw [abs_mul, abs_div, abs_of_pos h2, abs_of_pos x.den_pos, Int.natCast_natAbs, Int.cast_abs]

theorem Ex.toRat_add (x y : Ex) : (x.add y).toRat = x.toRat + y.toRat := by
  have hx := x.den_pos.ne'
  have hy := y.den_pos.ne'
  have hd : (x.add y).den = x.den * y.den := if_neg (Nat.mul_ne_zero x.den_ne_zero y.den_ne_zero)
  rw [Ex.toRat, hd]
  simp only [Ex.add]
  push_cast
  rw [pow2_eq_zpow (sub_nonneg.mpr (min_le_left _ _)), pow2_eq_zpow (sub_nonneg.mpr (min_le_right _ _)),
    zpow_sub₀ two_ne_zero, zpow_sub₀ two_ne_zero, Ex.toRat, Ex.toRat]
  field_simp

theorem Ex.lt_iff (x y : Ex) : x.lt y = true ↔ x.toRat < y.toRat := by
  rw [Ex.lt, decide_eq_true_iff, Ex.cmp, ← Ex.toRat_neg_iff, Ex.sub, Ex.toRat_add, Ex.toRat_neg, ← sub_eq_add_neg, sub_neg]

/-! ### Rounding (R62) -/

/-- A quotient of at least an integer rounds to at least that integer. -/
theorem le_rneDiv {m n : Int} {d : Nat} (hd : 0 < d) (h : m * d ≤ n) : m ≤ rneDiv n d := by
  have hq : m ≤ n.fdiv d := by
    rw [Int.fdiv_eq_ediv_of_nonneg _ (Int.natCast_nonneg d)]
    exact (Int.le_ediv_iff_mul_le (by exact_mod_cast hd)).mpr h
  unfold rneDiv
  dsimp only
  split_ifs <;> omega

/-- A quotient of at most an integer rounds to at most that integer: at the integer itself there is nothing to round. -/
theorem rneDiv_le {m n : Int} {d : Nat} (hd : 0 < d) (h : n ≤ m * d) : rneDiv n d ≤ m := by
  have hd' : (0 : Int) < d := by exact_mod_cast hd
  have hq : n.fdiv d = n / d := Int.fdiv_eq_ediv_of_nonneg _ hd'.le
  unfold rneDiv
  rw [hq]
  rcases h.lt_or_eq with hlt | rfl
  · have : n / d < m := (Int.ediv_lt_iff_lt_mul hd').mpr hlt
    dsimp only
    split_ifs <;> omega
  · rw [Int.mul_ediv_cancel _ hd'.ne']
    simp [hd]

theorem Ex.units_pos (x : Ex) (k : Int) : 0 < x.den * pow2 (k - x.e) :=
  Nat.mul_pos (Nat.pos_of_ne_zero x.den_ne_zero) (Nat.two_pow_pos _)

theorem Ex.le_roundAt {x : Ex} {m k : Int} (h : m * 2 ^ k ≤ x.toRat) : m ≤ x.roundAt k := by
  have hD := x.units_pos k
  rw [x.toRat_eq_units k, mul_le_mul_iff_left₀ (by positivity), le_div_iff₀ (by exact_mod_cast hD)] at h
  exact le_rneDiv hD (by exact_mod_cast h)

theorem Ex.roundAt_le {x : Ex} {m k : Int} (h : x.toRat ≤ m * 2 ^ k) : x.roundAt k ≤ m := by
  have hD := x.units_pos k
  rw [x.toRat_eq_units k, mul_le_mul_iff_left₀ (by positivity), div_le_iff₀ (by exact_mod_cast hD)] at h
  exact rneDiv_le hD (by exact_mod_cast h)

theorem Ex.natAbs_roundAt_le {x : Ex} {m : Nat} {k : Int} (h : |x.toRat| ≤ m * 2 ^ k) : (x.roundAt k).natAbs ≤ m := by
  obtain ⟨hlo, hhi⟩ := abs_le.mp h
  have hle : x.roundAt k ≤ m := Ex.roundAt_le (by exact_mod_cast hhi)
  have hge : -(m : Int) ≤ x.roundAt k := Ex.le_roundAt (by push_cast; linarith)
  omega

/-- A magnitude of at least m units rounds to at least m units on the side of the value's sign. -/
theorem Ex.roundAt_outside {x : Ex} {m : Nat} {k : Int} (h : m * 2 ^ k ≤ |x.toRat|) :
    if x.n < 0 then x.roundAt k ≤ -m else m ≤ x.roundAt k := by
  split
  next hn =>
    rw [abs_of_neg (x.toRat_neg_iff.mpr hn)] at h
    exact Ex.roundAt_le (by push_cast; linarith)
  next hn =>
    rw [abs_of_nonneg (not_lt.mp (x.toRat_neg_iff.not.mpr hn))] at h
    exact Ex.le_roundAt (by exact_mod_cast h)

theorem Ex.le_natAbs_roundAt {x : Ex} {m : Nat} {k : Int} (h : m * 2 ^ k ≤ |x.toRat|) : m ≤ (x.roundAt k).natAbs := by
  have := Ex.roundAt_outside h
  split at this <;> omega

theorem Ex.roundAt_of_zero {x : Ex} (h : x.n = 0) (k : Int) : x.roundAt k = 0 := by
  have h0 : x.toRat = 0 := by simp [Ex.toRat, h]
  exact le_antisymm (Ex.roundAt_le (by simp [h0])) (Ex.le_roundAt (by simp [h0]))

/-! ### ⌊log₂⌋ -/

theorem zpow_log2_le {a : Nat} (h : a ≠ 0) : (2 : ℚ) ^ (a.log2 : Int) ≤ a := by
  exact_mod_cast Nat.log2_self_le h

theorem lt_zpow_log2 (a : Nat) : (a : ℚ) < 2 ^ (a.log2 + 1 : Int) := by
  exact_mod_cast Nat.lt_log2_self (n := a)

/-- The quotient of the leading powers of two, out by less than a factor of two. -/
theorem div_log2_bounds {a b : Nat} (ha : a ≠ 0) (hb : b ≠ 0) :
    (2 : ℚ) ^ (a.log2 - b.log2 - 1 : Int) ≤ a / b ∧ (a / b : ℚ) < 2 ^ (a.log2 - b.log2 + 1 : Int) := by
  have hb0 : (0 : ℚ) < b := by exact_mod_cast Nat.pos_of_ne_zero hb
  constructor
  · calc (2 : ℚ) ^ (a.log2 - b.log2 - 1 : Int) = 2 ^ (a.log2 : Int) / 2 ^ (b.log2 + 1 : Int) := by
          rw [← zpow_sub₀ two_ne_zero, sub_sub]
      _ ≤ a / b := div_le_div₀ (by positivity) (zpow_log2_le ha) hb0 (lt_zpow_log2 b).le
  · calc (a / b : ℚ) < 2 ^ (a.log2 + 1 : Int) / 2 ^ (b.log2 : Int) :=
          div_lt_div₀ (lt_zpow_log2 a) (zpow_log2_le hb) (by positivity) (by positivity)
      _ = 2 ^ (a.log2 - b.log2 + 1 : Int) := by rw [← zpow_sub₀ two_ne_zero, add_sub_right_comm]

/-- The comparison by which `Ex.log2` decides between two exponents. -/
theorem mul_pow2_lt_iff {a b : Nat} (hb : b ≠ 0) (k : Int) : a * pow2 (-k) < b * pow2 k ↔ (a / b : ℚ) < 2 ^ k := by
  have hb0 : (0 : ℚ) < b := by exact_mod_cast Nat.pos_of_ne_zero hb
  have hp := pow2_pos (-k)
  rw [div_lt_iff₀ hb0, ← mul_lt_mul_iff_left₀ hp, ← Nat.cast_lt (α := ℚ)]
  push_cast
  rw [pow2_eq_mul_zpow k, show (b * (pow2 (-k) * 2 ^ k) : ℚ) = 2 ^ k * b * pow2 (-k) by ring]

theorem Ex.abs_toRat (x : Ex) : |x.toRat| = x.n.natAbs / x.den * 2 ^ x.e := by
  rw [← Ex.toRat_abs]
  rfl

/-- 2^k ≤ |x| < 2^(k+1) for k = ⌊log₂|x|⌋. -/
theorem Ex.log2_bounds {x : Ex} (h : x.n ≠ 0) : (2 : ℚ) ^ x.log2 ≤ |x.toRat| ∧ |x.toRat| < 2 ^ (x.log2 + 1) := by
  have h2 : (0 : ℚ) < 2 ^ x.e := by positivity
  obtain ⟨hlo, hhi⟩ := div_log2_bounds (Int.natAbs_ne_zero.mpr h) x.den_ne_zero
  unfold Ex.log2
  simp only [mul_pow2_lt_iff x.den_ne_zero]
  rw [Ex.abs_toRat]
  split
  next hlt =>
    rw [add_right_comm, sub_add_cancel, zpow_add₀ two_ne_zero, zpow_add₀ two_ne_zero]
    exact ⟨mul_le_mul_of_nonneg_right hlo h2.le, mul_lt_mul_of_pos_right hlt h2⟩
  next hge =>
    rw [add_right_comm, zpow_add₀ two_ne_zero, zpow_add₀ two_ne_zero]
    exact ⟨mul_le_mul_of_nonneg_right (not_lt.mp hge) h2.le, mul_lt_mul_of_pos_right hhi h2⟩

/-! ### What one element asks of the exponent (R60) -/

/-- R50: in its width of W bits a carrier holds mantissas up to a largest one from 2^(W−2) to 2^(W−1) − 1. -/
def Carrier.Full (c : Carrier) : Prop := 2 ^ c.width ≤ 4 * c.mmax ∧ 2 * (c.mmax + 1) ≤ 2 ^ c.width

theorem Carrier.full_of_known {c : Carrier}
    (h : c = .half ∨ c ∈ [.elem 8, .elem 16, .elem 32, .elem 64] ∨ ∃ l, 1 ≤ l ∧ l ≤ 8 ∧ c = .limb l) : c.Full := by
  unfold Carrier.Full
  rcases h with rfl | helem | ⟨l, hl, hl8, rfl⟩
  · decide
  · revert c
    decide
  · interval_cases l <;> decide

theorem Carrier.zpow_sub_frac (c : Carrier) (d : Int) : (2 : ℚ) ^ (d - c.frac) = 4 * 2 ^ d / 2 ^ c.width := by
  rw [Carrier.frac, sub_sub_eq_add_sub, zpow_sub₀ two_ne_zero, zpow_add₀ two_ne_zero, zpow_natCast]
  norm_num [mul_comm]

section
variable {c : Carrier} (hc : c.Full)
include hc

/-- A magnitude up to 2^d fits at exponent d. -/
theorem Carrier.Full.zpow_le (d : Int) : (2 : ℚ) ^ d ≤ c.mmax * 2 ^ (d - c.frac) := by
  have hw : (2 : ℚ) ^ c.width ≤ 4 * c.mmax := by exact_mod_cast hc.1
  have hd : (0 : ℚ) < 2 ^ d := by positivity
  rw [c.zpow_sub_frac, ← mul_div_assoc, le_div_iff₀ (by positivity)]
  nlinarith only [hw, hd]

/-- A magnitude from 2^(d+1) does not fit at exponent d. -/
theorem Carrier.Full.le_zpow (d : Int) : ((c.mmax + 1 : Nat) : ℚ) * 2 ^ (d - c.frac) ≤ 2 ^ (d + 1) := by
  have hw : (2 : ℚ) * (c.mmax + 1 : Nat) ≤ 2 ^ c.width := by exact_mod_cast hc.2
  have hd : (0 : ℚ) < 2 ^ d := by positivity
  rw [c.zpow_sub_frac, ← mul_div_assoc, div_le_iff₀ (by positivity), zpow_add_one₀ two_ne_zero]
  nlinarith only [hw, hd]

/-- `needExp` is the least exponent at which a non-zero value fits after rounding. Below ⌊log₂⌋ the value never fits, above it
always does, and at ⌊log₂⌋ itself the rounding decides, as the definition does. -/
theorem needExp_le_iff {x : Ex} (hx : x.n ≠ 0) (d : Int) :
    needExp c x ≤ d ↔ (x.roundAt (d - c.frac)).natAbs ≤ c.mmax := by
  obtain ⟨hlo, hhi⟩ := Ex.log2_bounds hx
  have below : d < x.log2 → c.mmax + 1 ≤ (x.roundAt (d - c.frac)).natAbs := fun h =>
    Ex.le_natAbs_roundAt ((hc.le_zpow d).trans ((zpow_le_zpow_right₀ one_le_two h).trans hlo))
  have above : x.log2 < d → (x.roundAt (d - c.frac)).natAbs ≤ c.mmax := fun h =>
    Ex.natAbs_roundAt_le (hhi.le.trans ((zpow_le_zpow_right₀ one_le_two h).trans (hc.zpow_le d)))
  simp only [needExp]
  rcases lt_trichotomy d x.log2 with h | rfl | h
  · have := below h
    split <;> omega
  · split <;> omega
  · have := above h
    split <;> omega

end

/-! ### A value above ±max (R63) -/

theorem Ex.above_iff (x : Ex) (c : Carrier) : x.above c = true ↔ (c.mmax : ℚ) * 2 ^ (127 - c.frac) < |x.toRat| := by
  have hmax : (c.maxVal false).toRat = c.mmax * 2 ^ (127 - c.frac) := by simp [Ex.toRat, Carrier.maxVal, Ex.den]
  rw [Ex.above, Ex.lt_iff, Ex.toRat_abs, hmax]

theorem Ex.not_fits_126_of_above {x : Ex} {c : Carrier} (hc : c.Full) (h : x.above c = true) :
    c.mmax < (x.roundAt (126 - c.frac)).natAbs :=
  Ex.le_natAbs_roundAt ((hc.le_zpow 126).trans ((hc.zpow_le 127).trans ((x.above_iff c).mp h).le))

/-- Where the exact magnitude is above ±max, the rounded one is not below it: saturation changes no mantissa that fits. -/
theorem Ex.roundAt_of_above_of_fits {x : Ex} {c : Carrier} (h : x.above c = true)
    (hfit : (x.roundAt (127 - c.frac)).natAbs ≤ c.mmax) :
    x.roundAt (127 - c.frac) = if x.n < 0 then -(c.mmax : Int) else c.mmax := by
  have hout := Ex.roundAt_outside ((x.above_iff c).mp h).le
  split
  next hn =>
    rw [if_pos hn] at hout
    omega
  next hn =>
    rw [if_neg hn] at hout
    omega

/-! ### One element rounded at the block's exponent -/

theorem roundElem_mant (c : Carrier) (e : Int) (el : Elem) :
    (roundElem c e el).1 = el.val.map fun x =>
      let m := x.roundAt (e - c.frac)
      if c.mmax < m.natAbs then (if x.n < 0 then -(c.mmax : Int) else c.mmax) else m := by
  unfold roundElem
  cases el.val with
  | none => rfl
  | some x =>
    by_cases hfit : c.mmax < (x.roundAt (e - c.frac)).natAbs
    · simp [hfit]
    · by_cases habove : e = 127 ∧ x.above c = true
      · obtain ⟨rfl, habove⟩ := habove
        simp [habove, Ex.roundAt_of_above_of_fits habove (not_lt.mp hfit)]
      · simp only [Option.map_some, if_neg hfit]
        rw [if_neg (by simpa [hfit] using habove)]
        split
        · rfl
        · split
          next hzero =>
            simp only [Bool.and_eq_true, decide_eq_true_eq] at hzero
            rw [hzero.1]
          next => rfl

theorem roundElem_cond_of_above {c : Carrier} {el : Elem} {x : Ex} (hx : el.val = some x) (h : x.above c = true) :
    (roundElem c 127 el).2 = cSat := by
  simp [roundElem, hx, h]

/-- The bits of k stay set when more are added. -/
theorem or_and_of_and {k a : Cond} (b : Cond) (h : a &&& k = k) : (a ||| b) &&& k = k := by
  ext i hi
  have := congrArg (·[i]) h
  simp only [BitVec.getElem_and, BitVec.getElem_or] at this ⊢
  grind

theorem orAll_and_of_mem {cs : List Cond} {k : Cond} (h : k ∈ cs) : orAll cs &&& k = k := by
  obtain ⟨before, after, rfl⟩ := List.append_of_mem h
  rw [orAll, List.foldl_append, List.foldl_cons]
  refine foldl_keeps (q := fun b => b &&& k = k) (fun a b ha => or_and_of_and b ha) after ?_
  rw [BitVec.or_comm]
  exact or_and_of_and _ (BitVec.and_self)

/-! ### The block's exponent -/

/-- Every value of the block fits at exponent d after rounding (R60). -/
def BlockFits (c : Carrier) (els : List Elem) (d : Int) : Prop :=
  ∀ el ∈ els, ∀ x, el.val = some x → (x.roundAt (d - c.frac)).natAbs ≤ c.mmax

theorem foldl_max_le_iff {α : Type} (f : α → Int) (vs : List α) (a d : Int) :
    vs.foldl (fun b v => max b (f v)) a ≤ d ↔ a ≤ d ∧ ∀ v ∈ vs, f v ≤ d := by
  induction vs generalizing a with
  | nil => simp
  | cons v vs ih => simp [ih, and_assoc]

theorem blockFits_of_zeros {c : Carrier} {els : List Elem} (h : ∀ el ∈ els, ∀ x, el.val = some x → x.n = 0) (d : Int) :
    BlockFits c els d := by
  intro el hel x hx
  simp [Ex.roundAt_of_zero (h el hel x hx)]

section
variable {c : Carrier} (hc : c.Full)
include hc

theorem elemNeed_le_iff {d : Int} (hd : -127 ≤ d) (v : Option Ex) :
    elemNeed c v ≤ d ↔ ∀ x, v = some x → (x.roundAt (d - c.frac)).natAbs ≤ c.mmax := by
  cases v with
  | none => simpa [elemNeed] using hd
  | some x =>
    by_cases hx : x.n = 0
    · simp [elemNeed, hx, hd, Ex.roundAt_of_zero hx]
    · simp [elemNeed, hx, needExp_le_iff hc hx]

/-- The block's exponent is the need of its elements, at most 127; that need is at most d exactly where all of them fit. -/
theorem blockExp_eq_min_need (els : List Elem) :
    ∃ need, blockExp c (els.map (·.val)) = min 127 need ∧ ∀ d, need ≤ d ↔ -127 ≤ d ∧ BlockFits c els d := by
  refine ⟨_, rfl, fun d => ?_⟩
  rw [foldl_max_le_iff, List.forall_mem_map]
  exact and_congr_right fun hd => forall₂_congr fun el _ => elemNeed_le_iff hc hd el.val

theorem blockExp_of_zeros {els : List Elem} (h : ∀ el ∈ els, ∀ x, el.val = some x → x.n = 0) :
    blockExp c (els.map (·.val)) = -127 := by
  obtain ⟨need, he, hneed⟩ := blockExp_eq_min_need hc els
  have hlo := ((hneed need).mp le_rfl).1
  have hhi := (hneed (-127)).mpr ⟨le_rfl, blockFits_of_zeros h _⟩
  omega

/-- Where some exponent up to 127 suffices, the block's exponent is at most that one, and suffices. -/
theorem blockExp_least {els : List Elem} {d : Int} (hlo : -127 ≤ d) (hhi : d ≤ 127) (h : BlockFits c els d) :
    blockExp c (els.map (·.val)) ≤ d ∧ BlockFits c els (blockExp c (els.map (·.val))) := by
  obtain ⟨need, he, hneed⟩ := blockExp_eq_min_need hc els
  have hle := (hneed d).mpr ⟨hlo, h⟩
  rw [he, min_eq_right (hle.trans hhi)]
  exact ⟨hle, ((hneed need).mp le_rfl).2⟩

theorem blockExp_of_not_fits_126 {els : List Elem} (h : ¬ BlockFits c els 126) : blockExp c (els.map (·.val)) = 127 := by
  obtain ⟨need, he, hneed⟩ := blockExp_eq_min_need hc els
  have hnot : ¬ need ≤ 126 := fun hle => h ((hneed 126).mp hle).2
  omega

end

theorem formBlock_exp (c : Carrier) (els : List Elem) : (formBlock c els).1.e = blockExp c (els.map (·.val)) := rfl

theorem formBlock_mants (c : Carrier) (els : List Elem) :
    (formBlock c els).1.m = els.map fun el => (roundElem c (formBlock c els).1.e el).1 := by
  simp [formBlock]

theorem formBlock_cond_of_mem {c : Carrier} {els : List Elem} {el : Elem} (h : el ∈ els) :
    (formBlock c els).2 &&& (roundElem c (formBlock c els).1.e el).2 = (roundElem c (formBlock c els).1.e el).2 :=
  orAll_and_of_mem (List.mem_map_of_mem (List.mem_map_of_mem h))

/-- A value above ±max takes the block to exponent 127 and sets SAT (R63). -/
theorem formBlock_saturates {c : Carrier} (hc : c.Full) {els : List Elem} {el : Elem} {x : Ex} (hel : el ∈ els)
    (hx : el.val = some x) (h : x.above c = true) : (formBlock c els).1.e = 127 ∧ (formBlock c els).2 &&& cSat = cSat := by
  have he : (formBlock c els).1.e = 127 :=
    blockExp_of_not_fits_126 hc fun hfit => (Ex.not_fits_126_of_above hc h).not_ge (hfit el hel x hx)
  have hcond := formBlock_cond_of_mem (c := c) hel
  rw [he, roundElem_cond_of_above hx h] at hcond
  exact ⟨he, hcond⟩

/-- Settles O9: the need of an element is the least exponent at which it fits, so the greatest need is that of the block. -/
theorem leastBlockExponent : Obligations.LeastBlockExponent := by
  unfold Obligations.LeastBlockExponent
  intro c els e hlo hhi hknown fits
  have hc := Carrier.full_of_known hknown
  refine ⟨fun hzero => ?_, blockExp_least hc hlo hhi, fun hnever => ?_, ?_, fun el hel x hx habove => ?_⟩
  · rw [formBlock_exp, blockExp_of_zeros hc hzero]
    exact ⟨rfl, rfl⟩
  · exact blockExp_of_not_fits_126 hc (hnever 126 (by norm_num) (by norm_num))
  · rw [formBlock_mants]
    exact List.map_congr_left fun el _ => roundElem_mant c _ el
  · exact formBlock_saturates hc hel hx habove

end Sys2Proof.Machine
end

section
/-! Proofs. What issuing a command leaves in the array (R137, R140): the array that the command gives, but for the record of the
rows that its firing has changed; then ARR_SWAP, ARR_MODE and ARR_CLEAR on an array by itself (R128, R139, R141). -/
namespace Sys2Proof.Machine

/-! ### Accumulator rows (R139) -/

theorem Arr.row_of_acc_nil {a : Arr} (h : a.acc = []) (m : Nat) : a.row m = List.replicate 128 {} := by
  simp [Arr.row, h, smGet, clearRow]

theorem Arr.row_setRow (a : Arr) (n m : Nat) (r : List Acc) : (a.setRow n r).row m = if m = n then r else a.row m :=
  smGet_smPut clearRow a.acc n m r

/-- The array with `count` rows from `base` on clear in its mode, cleared one after another. -/
def Arr.clearRows (a : Arr) (base count : Nat) : Arr :=
  (List.range count).foldl (fun b i => b.setRow (base + i) (List.replicate 128 { strict := b.strict })) a

@[simp] theorem Arr.clearRows_zero (a : Arr) (base : Nat) : a.clearRows base 0 = a := rfl

theorem Arr.clearRows_succ (a : Arr) (base n : Nat) : a.clearRows base (n + 1) =
    (a.clearRows base n).setRow (base + n) (List.replicate 128 { strict := (a.clearRows base n).strict }) := by
  simp only [Arr.clearRows, List.range_succ, List.foldl_append, List.foldl_cons, List.foldl_nil]

@[simp] theorem Arr.clearRows_strict (a : Arr) (base count : Nat) : (a.clearRows base count).strict = a.strict := by
  induction count with
  | zero => rfl
  | succ n ih => rw [Arr.clearRows_succ]; exact ih

theorem Arr.row_clearRows (a : Arr) (base count m : Nat) :
    (a.clearRows base count).row m =
      if base ≤ m ∧ m < base + count then List.replicate 128 { strict := a.strict } else a.row m := by
  induction count with
  | zero => rw [Arr.clearRows_zero, if_neg (by omega)]
  | succ n ih =>
    rw [Arr.clearRows_succ, Arr.row_setRow, Arr.clearRows_strict, ih]
    by_cases hm : m = base + n
    · rw [if_pos hm, if_pos (by omega)]
    · rw [if_neg hm]
      exact if_congr (by omega) rfl rfl

/-! ### Refused commands (R140, R152) -/

theorem Arr.refuse_stat (a : Arr) (op reason : Nat) : (a.refuse op reason).stat = a.stat ||| 64#7 := by
  have hbit : arrBits cCmdErr = 64#7 := by decide
  simp only [Arr.refuse, Arr.raise, hbit]

/-- The first refusal since CMD_ERR was last 0 is recorded. -/
theorem Arr.refuse_err {a : Arr} (op reason : Nat) (h : a.stat.getLsbD 6 = false) :
    (a.refuse op reason).errOp = BitVec.ofNat 4 op ∧ (a.refuse op reason).errReason = BitVec.ofNat 4 reason := by
  simp only [Arr.refuse, h, Bool.not_false, if_true, and_self]

/-! ### Issuing a command (R137) -/

@[simp] theorem Cluster.work_arr (k : Cluster) (f : Option Firing) (e n : Nat) : (k.work f e n).arr = k.arr := by
  rw [Cluster.work_eq]

/-- A unit that writes nothing leaves the state, whatever its firing may write. -/
@[simp] theorem State.firingWrite_nil (s : State) (c : Cl) (f : Option Firing) : s.firingWrite c f [] = s := by
  unfold State.firingWrite
  split
  · split <;> rfl
  · rfl

/-- The head of the queue is issued when its opcode is the named one and it does not wait. -/
theorem Arr.issue_done {a b : Arr} {x : ArrCmd} {rest : List ArrCmd} {op : Nat} {fn : Arr → ArrCmd → Issue} {ws : List WByte}
    (hq : a.queue = x :: rest) (hop : cw x.word 0 0 4 = op) (hpos : 0 < op) (hle : op ≤ 6)
    (hfn : fn { a with queue := rest } x = .done b ws) : a.issue op fn = (b, ws) := by
  have hknown : (decide (op = 0) || decide (6 < op)) = false := by
    simp only [Bool.or_eq_false_iff, decide_eq_false_iff_not]
    omega
  simp [Arr.issue, hq, hop, hknown, hfn]

/-- A command that is issued and writes no byte leaves in its cluster the array that it gives, but for the rows recorded as changed. -/
theorem State.arrIssue_arr {s : State} {c : Cl} {op : Nat} {fn : Arr → ArrCmd → (Nat → Byte) → Issue} {b : Arr}
    (work : Arr → ArrCmd → (Nat → Byte) → Nat)
    (h : ((s.cl c).arr.issue op fun a x => fn a x (s.tileAs c (s.cl c).arrayFiring)) = (b, [])) :
    ∃ rows, ((s.arrIssue c op fn work).cl c).arr = { b with touched := rows } := by
  unfold State.arrIssue
  simp only [h, State.firingWrite_nil, State.onCl_self, apply_ite Cluster.arr, Cluster.work_arr, ite_self]
  exact ⟨_, rfl⟩

/-- An instruction that issues the head of the array's queue, where the command writes no byte, leaves the array that the command
gives, but for the rows recorded as changed. -/
theorem answers_issue {i : Instr} {c : Cl} {op : Nat} {f : Arr → ArrCmd → (Nat → Byte) → Issue} {s : State} {x : ArrCmd}
    {rest : List ArrCmd} {b : Arr} (hexec : exec i s = .next (s.arrIssue c op f)) (hq : (s.cl c).arr.queue = x :: rest)
    (hop : cw x.word 0 0 4 = op) (hpos : 0 < op) (hle : op ≤ 6)
    (hf : ∀ rd, f { (s.cl c).arr with queue := rest } x rd = .done b []) :
    Answers i s fun t => ∃ rows, (t.cl c).arr = { b with touched := rows } :=
  ⟨_, hexec, State.arrIssue_arr _ (Arr.issue_done hq hop hpos hle (hf _))⟩

/-! ### ARR_SWAP, ARR_MODE and ARR_CLEAR on an array -/

theorem Arr.swap_full {a : Arr} (x : ArrCmd) (hidle : a.loaderIdle = true) (hfull : a.shadowFull = true) :
    a.swap x = .done { a with active := a.shadow, shadow := a.active, shadowFull := false } [] := by
  simp [Arr.swap, hidle, hfull]

theorem Arr.swap_not_full {a : Arr} (x : ArrCmd) (hidle : a.loaderIdle = true) (hfull : a.shadowFull = false) :
    a.swap x = .done (a.refuse 4 5) [] := by
  simp [Arr.swap, hidle, hfull]

theorem decide_eq_bool_iff {p : Prop} [Decidable p] {b : Bool} : decide p = b ↔ (p ↔ b = true) := by
  cases b <;> simp

section
variable {a : Arr} {x : ArrCmd} (hload : a.loading = none) (hstreams : a.streams = []) (hdrains : a.drains = [])
include hload hstreams hdrains

/-- With nothing under way ARR_MODE looks at its two bits alone. -/
theorem Arr.mode_idle : a.mode x =
    if decide (cw x.word 0 8 1 = 1) ≠ x.taskStrict then .done (a.refuse 1 6) []
    else if decide (cw x.word 0 9 1 = 1) ≠ a.half then
      .done { a with
        strict := decide (cw x.word 0 8 1 = 1), half := decide (cw x.word 0 9 1 = 1)
        active := none, shadow := none, shadowFull := false } []
    else .done { a with strict := decide (cw x.word 0 8 1 = 1) } [] := by
  simp [Arr.mode, hload, hstreams, hdrains, decide_eq_bool_iff]

theorem Arr.mode_other_strict (hstrict : decide (cw x.word 0 8 1 = 1) ≠ x.taskStrict) : a.mode x = .done (a.refuse 1 6) [] := by
  rw [Arr.mode_idle hload hstreams hdrains, if_pos hstrict]

theorem Arr.mode_same_half (hstrict : decide (cw x.word 0 8 1 = 1) = x.taskStrict) (hhalf : decide (cw x.word 0 9 1 = 1) = a.half) :
    a.mode x = .done { a with strict := x.taskStrict } [] := by
  rw [Arr.mode_idle hload hstreams hdrains, if_neg (not_not_intro hstrict), if_neg (not_not_intro hhalf), hstrict]

theorem Arr.mode_other_half (hstrict : decide (cw x.word 0 8 1 = 1) = x.taskStrict) (hhalf : decide (cw x.word 0 9 1 = 1) ≠ a.half) :
    a.mode x = .done { a with
      strict := x.taskStrict, half := decide (cw x.word 0 9 1 = 1), active := none, shadow := none, shadowFull := false } [] := by
  rw [Arr.mode_idle hload hstreams hdrains, if_neg (not_not_intro hstrict), if_pos hhalf, hstrict]

end

theorem not_rowsMeet {base count : Nat} {r : ArrRun} (h : r.base + r.rows ≤ base ∨ base + count ≤ r.base) :
    rowsMeet base count r = false := by
  simp only [rowsMeet, Bool.and_eq_false_iff, decide_eq_false_iff_not]
  omega

/-- A legal ARR_CLEAR whose rows no stream and no drain uses clears them at once. -/
theorem Arr.clear_free {a : Arr} {x : ArrCmd} (hpos : 0 < cw x.word 0 24 9) (hend : cw x.word 0 16 8 + cw x.word 0 24 9 ≤ 256)
    (hstrict : a.strict = x.taskStrict)
    (hfree : ∀ r ∈ a.streams ++ a.drains, r.base + r.rows ≤ cw x.word 0 16 8 ∨ cw x.word 0 16 8 + cw x.word 0 24 9 ≤ r.base) :
    a.clear x = .done (a.clearRows (cw x.word 0 16 8) (cw x.word 0 24 9)) [] := by
  have hreason : firstReason [(decide (cw x.word 0 24 9 = 0) || decide (256 < cw x.word 0 16 8 + cw x.word 0 24 9), 2),
      (decide (a.strict ≠ x.taskStrict), 6)] = none := by
    have hrange : (decide (cw x.word 0 24 9 = 0) || decide (256 < cw x.word 0 16 8 + cw x.word 0 24 9)) = false := by
      simp only [Bool.or_eq_false_iff, decide_eq_false_iff_not]
      omega
    simp [firstReason, hrange, hstrict]
  have hany : (a.streams ++ a.drains).any (rowsMeet (cw x.word 0 16 8) (cw x.word 0 24 9)) = false :=
    List.any_eq_false.mpr fun r hr => by simp [not_rowsMeet (hfree r hr)]
  simp only [Arr.clear, hreason, hany, Bool.false_eq_true, if_false, Arr.clearRows]

/-! ### The obligation -/

theorem reset_cl (c : Cl) : State.reset.cl c = {} := by
  simp [State.cl, State.reset]

/-- Settles O19: each command by what it gives on the array alone. -/
theorem swapModeClear : Obligations.SwapModeClear := by
  unfold Obligations.SwapModeClear
  refine ⟨fun c m => Arr.row_of_acc_nil (by rw [reset_cl]) m, fun k m => Arr.row_of_acc_nil rfl m,
    fun c s x rest hq => ⟨?_, ?_, ?_, ?_, ?_⟩⟩
  · intro hop hidle hfull
    obtain ⟨t, ht, rows, harr⟩ := answers_issue (i := .arrSwap c) rfl hq hop (by decide) (by decide)
      fun _ => Arr.swap_full x hidle hfull
    exact ⟨t, ht, by simp [harr]⟩
  · intro hop hidle hfull
    obtain ⟨t, ht, rows, harr⟩ := answers_issue (i := .arrSwap c) rfl hq hop (by decide) (by decide)
      fun _ => Arr.swap_not_full x hidle hfull
    refine ⟨t, ht, ?_⟩
    simp only [harr]
    exact ⟨rfl, rfl, Arr.refuse_stat .., rfl, Arr.refuse_err 4 5⟩
  · intro hop hload hstreams hdrains hstrict
    by_cases hhalf : decide (cw x.word 0 9 1 = 1) = (s.cl c).arr.half
    · obtain ⟨t, ht, rows, harr⟩ := answers_issue (i := .arrMode c) rfl hq hop (by decide) (by decide)
        fun _ => Arr.mode_same_half hload hstreams hdrains hstrict hhalf
      exact ⟨t, ht, by simp [harr, hhalf]⟩
    · obtain ⟨t, ht, rows, harr⟩ := answers_issue (i := .arrMode c) rfl hq hop (by decide) (by decide)
        fun _ => Arr.mode_other_half hload hstreams hdrains hstrict hhalf
      exact ⟨t, ht, by simp [harr, hhalf]⟩
  · intro hop hload hstreams hdrains hstrict
    obtain ⟨t, ht, rows, harr⟩ := answers_issue (i := .arrMode c) rfl hq hop (by decide) (by decide)
      fun _ => Arr.mode_other_strict hload hstreams hdrains hstrict
    refine ⟨t, ht, ?_⟩
    simp only [harr]
    exact ⟨rfl, rfl, rfl, Arr.refuse_stat ..⟩
  · intro base count hop hpos hend hstrict hfree
    obtain ⟨t, ht, rows, harr⟩ := answers_issue (i := .arrClear c) rfl hq hop (by decide) (by decide)
      fun _ => Arr.clear_free hpos hend hstrict hfree
    refine ⟨t, ht, fun m => ?_⟩
    have hrow := Arr.row_clearRows { (s.cl c).arr with queue := rest } base count m
    rw [harr]
    exact ⟨fun hin => hrow.trans (if_pos hin), fun hout => hrow.trans (if_neg (by omega))⟩

end Sys2Proof.Machine
end

section
/-! Proofs. What a vector instruction on registers leaves in the engine, what a predicate holds after a write (R164), and the
predicate instructions by these (R178). -/
namespace Sys2Proof.Machine

/-! ### A vector instruction on registers -/

@[simp] theorem Cluster.retire_vec (k : Cluster) (n : Nat) : (k.retire n).vec = k.vec := by rw [Cluster.retire_eq]

/-- While Tahr does not wait, the engine takes the operation's result on the registers that were awaited. -/
theorem State.vecOp_vec {s : State} {a : VArgs} (hwait : (s.cl a.cl).tahr.wait = none) (rs : List (BitVec 5))
    (op : Vec → XRegs → VRes) :
    ((s.vecOp a rs op).cl a.cl).vec = (op (s.cl a.cl).vec ((s.cl a.cl).awaited rs).tahr.get).vec := by
  have hready : (s.cl a.cl).vecReady = true := by rw [Cluster.vecReady, hwait, Option.isNone_none]
  simp [State.vecOp, hready, Cluster.awaited_eq]

/-! ### Predicates (R164) -/

@[simp] theorem Vec.setPred_v (v : Vec) (p : BitVec 3) (b : BitVec 8192) : (v.setPred p b).v = v.v := rfl

@[simp] theorem Vec.pred_setPred_self (v : Vec) (p : BitVec 3) (b : BitVec 8192) : (v.setPred p b).pred p = b := by
  simp [Vec.pred, Vec.setPred]

theorem Vec.pred_setPred_other {v : Vec} {p q : BitVec 3} (b : BitVec 8192) (h : q ≠ p) : (v.setPred p b).pred q = v.pred q :=
  Vector.getElem_set_ne p.isLt q.isLt fun e => h (BitVec.eq_of_toNat_eq e.symm)

@[simp] theorem Vec.writePred_v (v : Vec) (p : BitVec 3) (n : Nat) (fn : Nat → Option Bool) : (v.writePred p n fn).v = v.v := rfl

theorem Vec.pred_writePred_other {v : Vec} {p q : BitVec 3} (n : Nat) (fn : Nat → Option Bool) (h : q ≠ p) :
    (v.writePred p n fn).pred q = v.pred q :=
  Vec.pred_setPred_other _ h

/-- Bit n of a predicate alone takes the value that fn gives it. -/
theorem Vec.getLsbD_writePred_succ (v : Vec) (p : BitVec 3) (n : Nat) (fn : Nat → Option Bool) {e : Nat} (he : e < 8192) :
    ((v.writePred p (n + 1) fn).pred p).getLsbD e =
      if e = n then (fn n).getD (((v.writePred p n fn).pred p).getLsbD e) else ((v.writePred p n fn).pred p).getLsbD e := by
  simp only [Vec.writePred, Vec.pred_setPred_self, List.range_succ, List.foldl_append, List.foldl_cons, List.foldl_nil]
  have hbit : (1#8192 <<< n).getLsbD e = decide (e = n) := (BitVec.getLsbD_twoPow n e).trans (by grind)
  by_cases hen : e = n
  · subst hen
    rcases fn e with _ | _ | _ <;> simp [he]
  · rcases fn n with _ | _ | _ <;>
      simp only [BitVec.getLsbD_or, BitVec.getLsbD_and, BitVec.getLsbD_not, hbit, hen, he, if_false, decide_false, decide_true,
        Bool.not_false, Bool.and_true, Bool.or_false]

/-- A write of the bits below n leaves each of them as fn gives it, and the bits from n on as they were. -/
theorem Vec.getLsbD_writePred_self (v : Vec) (p : BitVec 3) (n : Nat) (fn : Nat → Option Bool) {e : Nat} (he : e < 8192) :
    ((v.writePred p n fn).pred p).getLsbD e = if e < n then (fn e).getD ((v.pred p).getLsbD e) else (v.pred p).getLsbD e := by
  induction n with
  | zero => simp [Vec.writePred]
  | succ n ih =>
    rw [Vec.getLsbD_writePred_succ v p n fn he]
    by_cases hen : e = n
    · subst hen
      simp [ih]
    · rw [if_neg hen, ih]
      simp [show e < n + 1 ↔ e < n by omega]

/-! ### Predicate instructions (R178) -/

theorem Vec.predOp_legal {v : Vec} {a : VArgs} {u1 u2 : Use} (f : Bool → Bool → Bool)
    (hlegal : v.legal a { vd := .pred, vs1 := u1, vs2 := u2, mask := false } = true) (hx : a.x = false) :
    (v.predOp a u1 u2 f).vec = v.writePred (a.vd.truncate 3) v.VL fun k =>
      some (f ((v.pred (a.vs1.truncate 3)).getLsbD k) ((v.pred (a.vs2.truncate 3)).getLsbD k)) := by
  simp [Vec.predOp, Vec.guarded, hlegal, hx]

/-- Settles O8: each instruction is the operation `Vec.predOp` with its function of two bits. -/
theorem predicateBits : Obligations.PredicateBits := by
  unfold Obligations.PredicateBits
  intro a s i f u1 u2 hrow v hlegal hx hwait
  have hexec : exec i s = .next (s.vecOp a [] fun v _ => v.predOp a u1 u2 f) := by
    simp only [List.mem_cons, List.not_mem_nil, or_false, Prod.mk.injEq] at hrow
    obtain ⟨rfl, rfl, rfl, rfl⟩ | ⟨rfl, rfl, rfl, rfl⟩ | ⟨rfl, rfl, rfl, rfl⟩ | ⟨rfl, rfl, rfl, rfl⟩ | ⟨rfl, rfl, rfl, rfl⟩ |
      ⟨rfl, rfl, rfl, rfl⟩ | ⟨rfl, rfl, rfl, rfl⟩ := hrow <;> rfl
  have hvec := (State.vecOp_vec hwait [] fun v _ => v.predOp a u1 u2 f).trans (Vec.predOp_legal f hlegal hx)
  refine ⟨_, hexec, ?_⟩
  simp only [hvec]
  exact ⟨fun e he => Vec.getLsbD_writePred_self v _ _ _ he, fun p hp => Vec.pred_writePred_other _ _ hp, Vec.writePred_v ..⟩

end Sys2Proof.Machine
end

section
/-! Proofs. What every operation on the state keeps: the queue of waiting commands, and memory in its canonical form. -/
namespace Sys2Proof.Machine

/-- The queue of `t` is that of `s`, and memory of `t` is in its canonical form where that of `s` is. -/
structure Keeps (s t : State) : Prop where
  pending : t.pending = s.pending
  mem : s.mem.wf = true → t.mem.wf = true

/-- Memory `n` is in its canonical form where memory `m` is. -/
def Memory.Keeps (m n : Memory) : Prop := m.wf = true → n.wf = true

@[simp] theorem Keeps.refl (s : State) : Keeps s s := ⟨rfl, id⟩
@[simp] theorem Memory.Keeps.refl (m : Memory) : m.Keeps m := id

theorem Keeps.trans {s t u : State} (h : Keeps s t) (k : Keeps t u) : Keeps s u :=
  ⟨k.pending.trans h.pending, fun w => k.mem (h.mem w)⟩

section
variable {m n : Memory} (h : m.Keeps n)
include h

@[simp] theorem Memory.Keeps.write {ws} : m.Keeps (n.write ws) := fun w => Memory.write_wf ws (h w)
@[simp] theorem Memory.Keeps.fill {base len nonce} : m.Keeps (n.fill base len nonce) := fun w => Memory.fill_wf base len nonce (h w)
@[simp] theorem Memory.Keeps.mark {ue} : m.Keeps { n with ue := ue } := h
@[simp] theorem Memory.Keeps.foldl {α : Type} {f : Memory → α → Memory} {xs : List α} (hf : ∀ (n : Memory) a, n.Keeps (f n a)) :
    m.Keeps (xs.foldl f n) :=
  foldl_keeps (q := m.Keeps) (fun b a hb w => hf b a (hb w)) xs h
@[simp] theorem Memory.Keeps.ite {k : Memory} {c : Prop} [Decidable c] (hk : m.Keeps k) : m.Keeps (if c then n else k) := by
  split
  · exact h
  · exact hk

end

section
variable {s t : State} (h : Keeps s t)
include h

/-- An update of other fields keeps both; one of memory keeps them where it keeps the canonical form. -/
@[simp] theorem Keeps.update {n m g ps rq cs rs fl ru fa hl po tx ev es se pw pe fe er da dr} (hm : t.mem.Keeps m) :
    Keeps s ⟨t.pending, n, m, g, ps, rq, cs, rs, fl, ru, fa, hl, po, tx, ev, es, se, pw, pe, fe, er, da, dr⟩ :=
  ⟨h.pending, fun w => hm (h.mem w)⟩

@[simp] theorem Keeps.ite {u : State} {c : Prop} [Decidable c] (hu : Keeps s u) : Keeps s (if c then t else u) := by
  split
  · exact h
  · exact hu

@[simp] theorem Keeps.foldl {α : Type} {f : State → α → State} {xs : List α} (hf : ∀ t a, Keeps t (f t a)) : Keeps s (xs.foldl f t) :=
  foldl_keeps (q := Keeps s) (fun b a hb => hb.trans (hf b a)) xs h

@[simp] theorem Keeps.draw : Keeps s t.draw.2 := by simp [State.draw, h]

theorem Keeps.of_draw {n : Nat} {u : State} (hd : t.draw = (n, u)) : Keeps s u := by
  have := h.draw
  rwa [hd] at this


/-! ### The fields of the state -/

@[simp] theorem Keeps.onCl {c f} : Keeps s (t.onCl c f) := by simp [State.onCl, h]

@[simp] theorem Keeps.onRg {r f} : Keeps s (t.onRg r f) := by simp [State.onRg, h]

@[simp] theorem Keeps.onPart {p f} : Keeps s (t.onPart p f) := by simp [State.onPart, h]

@[simp] theorem Keeps.onPort {p f} : Keeps s (t.onPort p f) := by simp [State.onPort, h]

@[simp] theorem Keeps.onFab {f} : Keeps s (t.onFab f) := by simp [State.onFab, h]

@[simp] theorem Keeps.onHlt {f} : Keeps s (t.onHlt f) := by simp [State.onHlt, h]

@[simp] theorem Keeps.onRun {f} : Keeps s (t.onRun f) := by simp [State.onRun, h]

@[simp] theorem Keeps.onSec {f} : Keeps s (t.onSec f) := by simp [State.onSec, h]

@[simp] theorem Keeps.onPwr {f} : Keeps s (t.onPwr f) := by simp [State.onPwr, h]

@[simp] theorem Keeps.onPorts {f} : Keeps s (t.onPorts f) := by simp [State.onPorts, h]

/-! ### Events and completions -/

@[simp] theorem Keeps.event {src code d status} : Keeps s (t.event src code d status) := by simp [State.event, h]

@[simp] theorem Keeps.notify {p asked ws} : Keeps s (t.notify p asked ws) := by simp [State.notify, h]

@[simp] theorem Keeps.finish {p id r flags} : Keeps s (t.finish p id r flags) := by
  unfold State.finish
  split <;> simp [h]

@[simp] theorem Keeps.interim {p id} : Keeps s (t.interim p id) := by
  unfold State.interim
  split <;> simp [h]

@[simp] theorem Keeps.mbxStat {p bit} : Keeps s (t.mbxStat p bit) := by simp [State.mbxStat, h]

@[simp] theorem Keeps.noTarget {a} : Keeps s (t.noTarget a) := by simp [State.noTarget, h]

/-! ### Accesses of agents without region tags -/

@[simp] theorem Keeps.chargeLine {cls l} : Keeps s (t.chargeLine cls l) := by
  unfold State.chargeLine
  split <;> simp [h]

@[simp] theorem Keeps.charged {cls ls} : Keeps s (t.charged cls ls) := by simp [State.charged, h]

@[simp] theorem Keeps.markSector {p o sector fresh} : Keeps s (t.markSector p o sector fresh) := by
  unfold State.markSector
  refine Keeps.event ?_
  dsimp only
  split
  · exact h.onPart.onHlt.update (.mark (.refl _))
  · exact h.onPart.onHlt

@[simp] theorem Keeps.ueReads {a len} : Keeps s (t.ueReads a len) := by
  unfold State.ueReads
  exact h.foldl fun t a => by split <;> simp

@[simp] theorem Keeps.dropWrite {sector} : Keeps s (t.dropWrite sector) := by
  unfold State.dropWrite
  split <;> simp [h]

@[simp] theorem Keeps.writeSector {sector ws} : Keeps s (t.writeSector sector ws) := by
  unfold State.writeSector
  exact .ite (.ite (h.update (.mark (.write (.refl _)))) h.ueReads.dropWrite) (h.update (.write (.refl _)))

@[simp] theorem Keeps.busRead {cls a len} : Keeps s (t.busRead cls a len) := by simp [State.busRead, h]

@[simp] theorem Keeps.rewrote {ws} : Keeps s (t.rewrote ws) := by simp [State.rewrote, h]

@[simp] theorem Keeps.busWrite {cls ws} : Keeps s (t.busWrite cls ws) := by
  unfold State.busWrite
  have hu : Keeps s ((t.charged cls (writeLines ws)).rewrote ws) := h.charged.rewrote
  exact .ite (hu.update (.write (.refl _))) (hu.foldl fun t n => (Keeps.refl t).writeSector)

@[simp] theorem Keeps.svcWrite {ws} : Keeps s (t.svcWrite ws) := by simp [State.svcWrite, h]

@[simp] theorem Keeps.svcRead {a len} : Keeps s (t.svcRead a len) := by
  unfold State.svcRead
  exact h.foldl fun t a => by split <;> simp

/-! ### Packets and links -/

@[simp] theorem Keeps.epochReply {dest id gen code} : Keeps s (t.epochReply dest id gen code) := by simp [State.epochReply, h]

@[simp] theorem Keeps.switchBank {src id} : Keeps s (t.switchBank src id) := by simp [State.switchBank, h]

@[simp] theorem Keeps.serveSwitch : Keeps s t.serveSwitch := by
  unfold State.serveSwitch
  split <;> simp [h]

@[simp] theorem Keeps.linkDown {p} : Keeps s (t.linkDown p) := by
  unfold State.linkDown
  split <;> simp [h]

/-! ### Tasks, signals and commits -/

@[simp] theorem Keeps.signal {c target slot amount} : Keeps s (t.signal c target slot amount) := by
  unfold State.signal
  repeat' split
  all_goals simp [h]

@[simp] theorem Keeps.tileWrite {c ws} : Keeps s (t.tileWrite c ws) := by simp [State.tileWrite, h]

@[simp] theorem Keeps.addTally {c w} : Keeps s (t.addTally c w) := by simp [State.addTally, h]

@[simp] theorem Keeps.record {c ws} : Keeps s (t.record c ws) := by
  unfold State.record
  dsimp only
  split <;> simp [h]

@[simp] theorem Keeps.onClusters {r f} : Keeps s (t.onClusters r f) := by simp [State.onClusters, h]

@[simp] theorem Keeps.unresolve {r g} : Keeps s (t.unresolve r g) := by simp [State.unresolve, h]

@[simp] theorem Keeps.settle {c i} : Keeps s (t.settle c i) := by
  unfold State.settle
  exact .ite h (.ite h.onCl.onRg.unresolve h.onCl.onRg)

@[simp] theorem Keeps.cutWaits {ws} : Keeps s (t.cutWaits ws) := by simp [State.cutWaits, h]

@[simp] theorem Keeps.cutSteps : Keeps s t.cutSteps := by simp [State.cutSteps, h]

@[simp] theorem Keeps.restoreRequired : Keeps s t.restoreRequired := by
  unfold State.restoreRequired
  exact h.onHlt.onFab.cutSteps

@[simp] theorem Keeps.dropRoots : Keeps s t.dropRoots := by simp [State.dropRoots, h]

@[simp] theorem Keeps.freshGuards : Keeps s t.freshGuards := by simp [State.freshGuards, h]

@[simp] theorem Keeps.installProblem {slot pr} : Keeps s (t.installProblem slot pr) := by
  unfold State.installProblem
  split <;> simp [h]

@[simp] theorem Keeps.installLoads : Keeps s t.installLoads := by
  unfold State.installLoads
  exact h.onRun.foldl fun t l => (Keeps.refl t).installProblem.finish

@[simp] theorem Keeps.clearContext {ctx} : Keeps s (t.clearContext ctx) := by simp [State.clearContext, h]

@[simp] theorem Keeps.clearContexts : Keeps s t.clearContexts := by
  unfold State.clearContexts
  exact h.onRun.foldl fun t l => (Keeps.refl t).clearContext.finish

@[simp] theorem Keeps.quietDone : Keeps s t.quietDone := by
  unfold State.quietDone
  split
  · exact h
  · extract_lets n ws t1 w q t2 t3 t4
    have h1 : Keeps s t1 := h.onRun
    have h2 : Keeps s t2 := h1.update (.refl _)
    have h3 : Keeps s t3 := h2.restoreRequired.ite h2
    exact h3.dropRoots.freshGuards.installLoads.clearContexts.serveSwitch.foldl fun t w => (Keeps.refl t).finish

@[simp] theorem Keeps.stopUnit {c f} : Keeps s (t.stopUnit c f) := by
  unfold State.stopUnit
  dsimp only
  repeat' split
  all_goals simp [h]

@[simp] theorem Keeps.addStatistics {c i p pl k} : Keeps s (t.addStatistics c i p pl k) := by
  unfold State.addStatistics
  dsimp only
  split
  · exact h
  · refine h.foldl fun t x => ?_
    split
    · split
      · exact (Keeps.refl t).busRead.busWrite
      · exact .refl t
    · exact .refl t

@[simp] theorem Keeps.updateFactors {cls p pl k} : Keeps s (t.updateFactors cls p pl k) := by
  unfold State.updateFactors
  split
  · exact h
  · exact h.foldl fun t x => .ite (Keeps.refl t).busRead.busRead.busWrite (.refl t)

@[simp] theorem Keeps.formStatistics {c f} : Keeps s (t.formStatistics c f) := by
  unfold State.formStatistics
  split
  · refine h.foldl fun t k => ?_
    split
    · exact (Keeps.refl t).addStatistics
    · exact .ite (.ite (Keeps.refl t).onRun.updateFactors.onRun (Keeps.refl t).onRun) (.refl t)
    · exact .refl t
  · exact h

@[simp] theorem Keeps.optimised : Keeps s t.optimised := by simp [State.optimised, h]

@[simp] theorem Keeps.report {c f} : Keeps s (t.report c f) := by
  unfold State.report
  extract_lets e u t1 t2
  have h1 : Keeps s t1 := .ite h.formStatistics.onRun h.formStatistics
  have h2 : Keeps s t2 := .ite h1.onRun h1
  split
  · exact .ite h2.onRg (.ite h2.optimised h2)
  · exact h2

@[simp] theorem Keeps.endFiring {c f outcome cause signals} : Keeps s (t.endFiring c f outcome cause signals) := by
  unfold State.endFiring
  extract_lets k e f'
  split
  next n u hd =>
  extract_lets cycles t1 t2 a b t3 t4
  have h2 : Keeps s t2 := (h.of_draw hd).record.onCl
  have h3 : Keeps s t3 := by
    refine Keeps.ite (.report (Keeps.ite h2 ?_)) h2
    refine Keeps.foldl (h2.foldl fun t p => (Keeps.refl t).onCl) fun t p => ?_
    split
    · exact (Keeps.refl t).update (.refl _)
    · exact .refl t
  have h4 : Keeps s t4 := .ite h3.onCl.event (.ite h3.onCl h3)
  exact .quietDone (.ite h4.settle h4)

@[simp] theorem Keeps.dropFiring {c f outcome cause} : Keeps s (t.dropFiring c f outcome cause) := by
  unfold State.dropFiring
  extract_lets t1 t2
  have h1 : Keeps s t1 := h.stopUnit.onRg
  have h2 : Keeps s t2 := .ite (h1.foldl fun t w => (Keeps.refl t).addTally) h1
  split
  next n u e => exact ((h2.of_draw e).foldl fun t p => (Keeps.refl t).update (.fill (.refl _))).endFiring

@[simp] theorem Keeps.squash {c f cause} : Keeps s (t.squash c f cause) := by simp [State.squash, h]

@[simp] theorem Keeps.faultFiring {c f cause} : Keeps s (t.faultFiring c f cause) := by
  unfold State.faultFiring
  exact .ite h.squash h.stopUnit.onRg.endFiring

@[simp] theorem Keeps.firingWrite {c f ws} : Keeps s (t.firingWrite c f ws) := by
  unfold State.firingWrite
  repeat' split
  all_goals simp [h]

@[simp] theorem Keeps.holdItem {c f item} : Keeps s (t.holdItem c f item) := by simp [State.holdItem, h]

@[simp] theorem Keeps.prod {c target slot amount} : Keeps s (t.prod c target slot amount) := by simp [State.prod, h]

@[simp] theorem Keeps.commitEffects {c i} : Keeps s (t.commitEffects c i) := by
  unfold State.commitEffects
  extract_lets k t1 items t2 t3 t4
  have h1 : Keeps s t1 := h.foldl fun t w => (Keeps.refl t).onCl
  have h2 : Keeps s t2 := h1.foldl fun t x => by
    split
    · exact (Keeps.refl t).prod
    · exact .refl t
  split
  · exact h
  · exact (h2.onRg.onRg.foldl fun t w => (Keeps.refl t).addTally).onCl

@[simp] theorem Keeps.commitEnd {c i} : Keeps s (t.commitEnd c i) := by
  unfold State.commitEnd
  split <;> simp [h]

@[simp] theorem Keeps.skipBound {r g v} : Keeps s (t.skipBound r g v) := by
  unfold State.skipBound
  exact h.foldl fun t c => (Keeps.refl t).foldl fun t i => .ite (Keeps.refl t).endFiring (.refl t)

omit h in
/-- A resolution keeps both, however deep those that follow from it go. -/
theorem State.resolve_keeps (fuel : Nat) : ∀ (t : State) (r : Rg) (g : Nat) (v : Bool), Keeps t (State.resolve fuel t r g v) := by
  induction fuel with
  | zero => exact fun t _ _ _ => .refl t
  | succ fuel ih =>
    intro t r g v
    rw [State.resolve]
    refine .ite (Keeps.refl t).onRun (.ite (Keeps.refl t).onRg ?_)
    extract_lets t1 against t2 t3 mine t4 t5 t6 t7 y
    have h2 : Keeps t t2 := (Keeps.refl t).onRg.foldl fun t p => (Keeps.refl t).dropFiring
    have h6 : Keeps t t6 := h2.onRg.onClusters.onRg.foldl fun t p => by
      dsimp only
      split
      · exact .commitEnd ((Keeps.refl t).commitEffects.foldl fun t (x : Nat × Bool) => ih t r x.1 x.2)
      · exact ((Keeps.refl t).update (.refl _)).onCl
    exact .ite h6.skipBound.unresolve h6.skipBound

@[simp] theorem Keeps.resolve {fuel r g v} : Keeps s (State.resolve fuel t r g v) := h.trans (State.resolve_keeps fuel t r g v)

@[simp] theorem Keeps.quiesceNow : Keeps s t.quiesceNow := by
  unfold State.quiesceNow
  exact ((h.onRun.foldl fun t p => (Keeps.refl t).dropFiring).update (.refl _)).freshGuards.quietDone

@[simp] theorem Keeps.arrIssue {c op fn work} : Keeps s (t.arrIssue c op fn work) := by simp [State.arrIssue, h]

/-! ### Registers -/

theorem Keeps.clearReg {a w} {u : State} (e : t.clearReg a w = some u) : Keeps s u := by
  unfold State.clearReg at e
  split at e
  · obtain ⟨k, -, rfl⟩ := Option.map_eq_some_iff.mp e
    exact h.onCl
  · obtain ⟨k, -, rfl⟩ := Option.map_eq_some_iff.mp e
    exact h.onRg
  · obtain ⟨-, e⟩ := Option.ite_none_right_eq_some.mp e
    cases e
    exact h.onPart
  · obtain ⟨-, e⟩ := Option.ite_none_right_eq_some.mp e
    cases e
    exact h.update (.refl _)
  · obtain ⟨-, e⟩ := Option.ite_none_right_eq_some.mp e
    cases e
    exact h.onFab
  · obtain ⟨-, e⟩ := Option.ite_none_right_eq_some.mp e
    cases e
    exact h.onHlt
  · cases e

@[simp] theorem Keeps.writeReg {a w} : Keeps s (t.writeReg a w) := by
  unfold State.writeReg
  split
  next e => exact h.clearReg e
  next =>
    split
    · exact h.onCl
    · exact h

/-! ### DMA tasks -/

@[simp] theorem Keeps.holdWrites {c f ls} : Keeps s (t.holdWrites c f ls) := by
  unfold State.holdWrites
  dsimp only
  split <;> simp [h]

@[simp] theorem Keeps.dmaConvert {c f d} : Keeps s (t.dmaConvert c f d) := by
  unfold State.dmaConvert
  extract_lets e x m a b ws cond ws'
  split
  next own far _ =>
  extract_lets ls sectors t1 t2
  have h2 : Keeps s t2 := h.onCl.firingWrite
  split
  · exact h2
  · exact .ite h2 (.ite h2.holdWrites.onCl (h2.update (.refl _)).onCl)

@[simp] theorem Keeps.dmaStart {c f engine} : Keeps s (t.dmaStart c f engine) := by
  unfold State.dmaStart
  dsimp only
  split <;> simp [h]

@[simp] theorem Keeps.dmaRead {c i line data bad} : Keeps s (t.dmaRead c i line data bad) := by
  unfold State.dmaRead
  dsimp only
  repeat' split
  all_goals simp [h]

@[simp] theorem Keeps.dmaWritten {c i} : Keeps s (t.dmaWritten c i) := by
  unfold State.dmaWritten
  repeat' split
  all_goals simp [h]

/-! ### Memory requests -/

@[simp] theorem Keeps.onReq {i f} : Keeps s (t.onReq i f) := by simp [State.onReq, h]

@[simp] theorem Keeps.written {q} : Keeps s (t.written q) := by
  unfold State.written
  split <;> simp [h]

@[simp] theorem Keeps.serveWindow {i q} : Keeps s (t.serveWindow i q) := by
  unfold State.serveWindow
  extract_lets u
  have hu : Keeps s u := h.update (.refl _)
  split
  · split
    · exact hu.dmaRead
    · exact hu
  · exact (hu.update (.write (.refl _))).written

@[simp] theorem Keeps.promote {i} : Keeps s (t.promote i) := by
  unfold State.promote
  repeat' split
  all_goals simp [h]

theorem Keeps.acceptSector {q w} : Keeps s (t.acceptSector q w).1 := by
  unfold State.acceptSector
  extract_lets n w' j all whole drop bytes y m u
  have hu : Keeps s u := .ite (h.update (.refl _)) h
  have em : u.mem = t.mem := by
    unfold u
    split <;> rfl
  have hm : u.mem.Keeps m := by
    rw [em]
    exact .ite (.refl _) (.mark (.write (.refl _)))
  clear_value j
  split
  · exact (hu.update hm).onReq
  · exact hu.update hm

theorem Keeps.acceptWrites {q} : Keeps s (t.acceptWrites q).1 := by
  unfold State.acceptWrites
  refine foldl_keeps (q := fun a : State × List SecWrite × List (Fin 8) => Keeps s a.1) (fun a w ha => ?_) _ h
  exact ha.acceptSector

@[simp] theorem Keeps.accept {p i} : Keeps s (t.accept p i) := by
  unfold State.accept
  split
  · exact h
  · extract_lets rest q
    split
    · exact h.update (.refl _)
    · split
      next u ws drops e =>
      have hu : Keeps s u := by
        have := Keeps.acceptWrites (s := s) (t := { t with reqs := rest }) (q := q) (h.update (.refl _))
        rwa [e] at this
      extract_lets u'
      have hu' : Keeps s u' := .ite hu (hu.update (.refl _))
      exact .ite hu' hu'.written

/-! ### ECC -/

@[simp] theorem Keeps.countSymbol {p o sector k} : Keeps s (t.countSymbol p o sector k) := by
  unfold State.countSymbol
  dsimp only
  repeat' split
  all_goals simp [h]

@[simp] theorem Keeps.correctSector {p o sector ks} : Keeps s (t.correctSector p o sector ks) := by
  unfold State.correctSector
  exact h.onPart.onHlt.foldl fun t k => (Keeps.refl t).countSymbol

theorem Keeps.readSector {p line o e marked fresh data k} : Keeps s (t.readSector p line o e marked fresh data k).1 := by
  unfold State.readSector
  dsimp only
  split
  · split
    · exact h
    · exact h.correctSector
    · exact h.markSector
  · split
    · exact h.markSector
    · exact h

theorem Keeps.readLine {p line e sectors marks rewritten data} : Keeps s (t.readLine p line e sectors marks rewritten data).1 := by
  unfold State.readLine
  split
  · exact h
  · refine foldl_keeps (q := fun a : State × BitVec 2048 × List Nat => Keeps s a.1) (fun a k ha => ?_) _ h
    split
    · exact ha.readSector
    · exact ha

theorem Keeps.readForWrite {p q e w} : Keeps s (t.readForWrite p q e w).1 := by
  unfold State.readForWrite
  dsimp only
  split
  · exact h.readSector
  · exact h

@[simp] theorem Keeps.giveBack {q w} : Keeps s (t.giveBack q w) := by simp [State.giveBack, h]

@[simp] theorem Keeps.settleWrite {p q e w} : Keeps s (t.settleWrite p q e w) := by
  unfold State.settleWrite
  refine .ite h ?_
  split
  next u bad hr =>
  have hu : Keeps s u := by
    have := h.readForWrite (p := p) (q := q) (e := e) (w := w)
    rwa [hr] at this
  exact .ite (.dropWrite (.ite hu hu.giveBack)) hu

@[simp] theorem Keeps.settleWrites {p q e} : Keeps s (t.settleWrites p q e) := by simp [State.settleWrites, h]

@[simp] theorem Keeps.pay {p q} : Keeps s (t.pay p q) := by simp [State.pay, h]

/-! ### Counters and the mailbox -/

@[simp] theorem Keeps.cntRead {port tag w} : Keeps s (t.cntRead port tag w) := by
  unfold State.cntRead
  dsimp only
  refine .ite h.finish (.ite ?_ h.finish)
  split <;> exact h.finish

@[simp] theorem Keeps.clearSet {k} : Keeps s (t.clearSet k) := by
  unfold State.clearSet
  split <;> simp [h]

@[simp] theorem Keeps.clearSets {ks} : Keeps s (t.clearSets ks) := by simp [State.clearSets, h]

@[simp] theorem Keeps.cntClear {port tag w} : Keeps s (t.cntClear port tag w) := by
  unfold State.cntClear
  split <;> simp [h]

@[simp] theorem Keeps.refuse {p w flags} : Keeps s (t.refuse p w flags) := by simp [State.refuse, h]

theorem Keeps.header {p w} : Keeps s (t.header p w).1 := by
  unfold State.header
  dsimp only
  split
  · exact h.refuse.mbxStat
  · split
    · exact h.refuse
    · dsimp only
      exact h.onPort

@[simp] theorem Keeps.received {p id w ws} : Keeps s (t.received p id w ws) := by
  unfold State.received
  split <;> simp [h]

@[simp] theorem Keeps.gather {p w id got} : Keeps s (t.gather p w id got) := by
  unfold State.gather
  repeat' split
  all_goals simp [h]

@[simp] theorem Keeps.frameWord {p w} : Keeps s (t.frameWord p w) := by
  unfold State.frameWord
  split
  · exact h.header.gather
  · exact h.gather
  · exact h

@[simp] theorem Keeps.frameAll {p} : Keeps s (t.frameAll p) := by simp [State.frameAll, h]

@[simp] theorem Keeps.cutShort {p} : Keeps s (t.cutShort p) := by
  unfold State.cutShort
  split <;> simp [h]

@[simp] theorem Keeps.wordIn {p w} : Keeps s (t.wordIn p w) := by
  unfold State.wordIn
  exact .ite h (.ite h.frameAll.cutShort.onPort.mbxStat h.onPort)

@[simp] theorem Keeps.resync {p} : Keeps s (t.resync p) := by
  unfold State.resync
  exact h.frameAll.cutShort.onPort

theorem Keeps.startCmd {p id key ws} {body : State → HPort → BitVec 16 → List Word → State}
    (hb : ∀ t p id ws, Keeps t (body t p id ws)) : Keeps s (t.startCmd p id key ws body) := by
  unfold State.startCmd
  split
  · exact h.finish
  · exact (h.trans (hb _ _ _ _)).interim

theorem Keeps.hostRow {key c} {body : State → HPort → BitVec 16 → List Word → State}
    (hb : ∀ t p id ws, Keeps t (body t p id ws)) : Keeps s (t.hostRow key c body) := by
  have hh {u : State} {r} (e : t.header c.port (cmdHeader key c) = (u, r)) : Keeps s u := by
    have := h.header (p := c.port) (w := cmdHeader key c)
    rwa [e] at this
  unfold State.hostRow
  refine .ite h ?_
  split
  · refine .ite (h.onPort.startCmd hb) ?_
    split
    next e => exact (hh e).received
    next e => exact hh e
  · split
    next e => exact (hh e).startCmd hb
    next e => exact hh e

/-! ### Placement and fences -/

@[simp] theorem Keeps.loadGuards : Keeps s t.loadGuards := by simp [State.loadGuards, h]

@[simp] theorem Keeps.installTiles {p pl} : Keeps s (t.installTiles p pl) := by
  unfold State.installTiles
  exact h.update (.foldl (.refl _) fun n c => .foldl (.refl _) fun n x => .write (.refl _))

@[simp] theorem Keeps.rearmTables {p pl} : Keeps s (t.rearmTables p pl) := by simp [State.rearmTables, h]

@[simp] theorem Keeps.installTables {p pl} : Keeps s (t.installTables p pl) := by
  unfold State.installTables
  exact (h.update (.refl _)).loadGuards.installTiles

@[simp] theorem Keeps.installSolvers {p pl} : Keeps s (t.installSolvers p pl) := by simp [State.installSolvers, h]

@[simp] theorem Keeps.forgetData : Keeps s t.forgetData := by
  unfold State.forgetData
  split
  next n u e => exact (h.of_draw e).update (.mark (.foldl (.refl _) fun n x => .fill (.refl _)))

@[simp] theorem Keeps.fillTensors {w p pl} : Keeps s (t.fillTensors w p pl) := by
  unfold State.fillTensors
  refine h.update (.foldl (.refl _) fun n a => ?_)
  split
  · exact .fill (.refl _)
  · exact .write (.fill (.refl _))

@[simp] theorem Keeps.moveTiles {v p old new} : Keeps s (State.moveTiles v t p old new) := h.update (.write (.refl _))

@[simp] theorem Keeps.clearFactors {p pl} : Keeps s (t.clearFactors p pl) := by
  unfold State.clearFactors
  exact h.update (.foldl (.refl _) fun n x => .fill (.refl _))

@[simp] theorem Keeps.unloadGraph : Keeps s t.unloadGraph := by simp [State.unloadGraph, h]

@[simp] theorem Keeps.fenceEvent {c reason outcome detail} : Keeps s (t.fenceEvent c reason outcome detail) := by simp [State.fenceEvent, h]

@[simp] theorem Keeps.reportFences {outcome detail} : Keeps s (t.reportFences outcome detail) := by simp [State.reportFences, h]

@[simp] theorem Keeps.graphLoad {port tag addr len} : Keeps s (t.graphLoad port tag addr len) := by
  unfold State.graphLoad
  split
  · exact h.finish
  · exact .ite h.unloadGraph.reportFences.finish h.unloadGraph.onRun

@[simp] theorem Keeps.graphUnload {port tag} : Keeps s (t.graphUnload port tag) := by
  unfold State.graphUnload
  split
  · exact h.finish
  · exact h.unloadGraph.reportFences.finish

@[simp] theorem Keeps.placeReport {port tag first count} : Keeps s (t.placeReport port tag first count) := by
  unfold State.placeReport
  split <;> simp [h]

@[simp] theorem Keeps.placedLoad {port tag addr p} : Keeps s (t.placedLoad port tag addr p) := by
  unfold State.placedLoad
  extract_lets u
  have hu : Keeps s u := h.onRun
  split
  · exact hu.onRun.reportFences.finish
  · exact hu.forgetData.installTables.installSolvers.fillTensors.clearFactors.onRun.onHlt.reportFences.finish

@[simp] theorem Keeps.placedFence {g} : Keeps s (t.placedFence g) := by
  unfold State.placedFence
  extract_lets u n
  have hu : Keeps s u := h.onRun
  split
  · exact hu.onRun.cutSteps.reportFences
  · extract_lets t1 t2 t3
    have h1 : Keeps s t1 := hu.installTables.installSolvers
    have h2 : Keeps s t2 := by
      unfold t2
      split
      · exact h1.moveTiles
      · exact h1
    exact h2.onRun.reportFences

@[simp] theorem Keeps.abortCluster {c} : Keeps s (t.abortCluster c) := by simp [State.abortCluster, h]

@[simp] theorem Keeps.fence {c reason} : Keeps s (t.fence c reason) := by
  unfold State.fence
  refine .ite h ?_
  split
  next n u e =>
  extract_lets t1 t2 lost t3
  have h1 : Keeps s t1 := (h.of_draw e).onCl
  have h2 : Keeps s t2 := .ite (h1.update (.refl _)) h1
  have h3 : Keeps s t3 := .ite (h2.update (.fill (.refl _))) h2
  split
  · exact h3.fenceEvent
  · split
    · exact h3.onRun
    · exact h3.fenceEvent
  · exact .ite h3.onRun.abortCluster h3.onRun.quiesceNow.abortCluster.quietDone

/-! ### Solver calls and curvature -/

@[simp] theorem Keeps.onNyala {r f} : Keeps s (t.onNyala r f) := by simp [State.onNyala, h]

@[simp] theorem Keeps.slvRefuse {c f reason} : Keeps s (t.slvRefuse c f reason) := by
  unfold State.slvRefuse
  exact h.onNyala.faultFiring

@[simp] theorem Keeps.sendWave {r pr u} : Keeps s (t.sendWave r pr u) := by simp [State.sendWave, h]

@[simp] theorem Keeps.slvProblemLoad {port tag slot image} : Keeps s (t.slvProblemLoad port tag slot image) := by
  unfold State.slvProblemLoad
  refine .ite h.finish ?_
  split
  · exact h.finish
  · exact .ite h.finish (.ite h.onRun h.installProblem.finish)

@[simp] theorem Keeps.slvProblemInfo {port tag slot} : Keeps s (t.slvProblemInfo port tag slot) := by
  unfold State.slvProblemInfo
  split <;> simp [h]

@[simp] theorem Keeps.slvContextClear {port tag ctx} : Keeps s (t.slvContextClear port tag ctx) := by
  unfold State.slvContextClear
  split <;> simp [h]

@[simp] theorem Keeps.onMedlar {r f} : Keeps s (t.onMedlar r f) := by simp [State.onMedlar, h]

@[simp] theorem Keeps.medlarMarks {r a len} : Keeps s (t.medlarMarks r a len) := by simp [State.medlarMarks, h]

@[simp] theorem Keeps.installRoot {p pl x} : Keeps s (t.installRoot p pl x) := by
  unfold State.installRoot
  extract_lets t1 cls src
  have h1 : Keeps s t1 := h.onRun
  split
  · exact h1
  · split
    · exact h1
    · extract_lets nb all bs t2 t3
      have h2 : Keeps s t2 := by
        unfold t2
        split
        · exact h1.medlarMarks
        · exact h1
      exact .ite h2.busRead.busWrite h2.busRead.draw.busWrite

@[simp] theorem Keeps.copyRoots {p pl} : Keeps s (t.copyRoots p pl) := by
  unfold State.copyRoots
  exact h.onRun.foldl fun t x => (Keeps.refl t).installRoot

@[simp] theorem Keeps.resolveStats {p pl} : Keeps s (t.resolveStats p pl) := by
  unfold State.resolveStats
  refine h.foldl fun t x => ?_
  extract_lets e on u
  have hu : Keeps t u := .ite ((Keeps.refl t).foldl fun t k => (Keeps.refl t).onRun.update (.fill (.refl _))) (.refl t)
  exact hu.foldl fun t r => .ite (Keeps.refl t).resolve (.refl t)

@[simp] theorem Keeps.othersFail {p due} : Keeps s (t.othersFail p due) := by
  unfold State.othersFail
  split
  next n u e => exact (h.of_draw e).foldl fun t x => .ite (.refl t) (Keeps.refl t).onRun

@[simp] theorem Keeps.dueRoots {p pl} : Keeps s (t.dueRoots p pl) := by
  unfold State.dueRoots
  dsimp only
  refine .othersFail (.onRun (h.foldl fun t x => ?_))
  split
  · exact (Keeps.refl t).onMedlar
  · exact .refl t

@[simp] theorem Keeps.resumeNewton : Keeps s t.resumeNewton := by simp [State.resumeNewton, h]

@[simp] theorem Keeps.openSegment {pl seg} : Keeps s (t.openSegment pl seg) := by
  unfold State.openSegment
  exact h.foldl fun t a => by split <;> simp

@[simp] theorem Keeps.startStep {p pl} : Keeps s (t.startStep p pl) := by
  unfold State.startStep
  extract_lets u
  have hu : Keeps s u := .ite h.rearmTables h
  exact (hu.onRun.update (.refl _)).copyRoots.dueRoots.resolveStats.resumeNewton.openSegment

@[simp] theorem Keeps.nextSegment {pl k} : Keeps s (t.nextSegment pl k) := by
  unfold State.nextSegment
  split <;> simp [h]

@[simp] theorem Keeps.formZ {p pl b sum} : Keeps s (t.formZ p pl b sum) := by
  unfold State.formZ
  repeat' split
  all_goals simp [h]

@[simp] theorem Keeps.statNar {pl op} : Keeps s (t.statNar pl op) := by
  unfold State.statNar
  split <;> simp [h]

@[simp] theorem Keeps.rootFailed {r b} : Keeps s (t.rootFailed r b) := by simp [State.rootFailed, h]

@[simp] theorem Keeps.fallBack {p pl r b} : Keeps s (t.fallBack p pl r b) := by
  unfold State.fallBack
  split
  · exact h.rootFailed
  · exact .ite h.medlarMarks.busRead.onMedlar h.rootFailed

@[simp] theorem Keeps.iterGuard {key r v} : Keeps s (t.iterGuard key r v) := by
  unfold State.iterGuard
  exact .ite h.resolve h

@[simp] theorem Keeps.rootFormed {b iters jacobi} : Keeps s (t.rootFormed b iters jacobi) := by simp [State.rootFormed, h]

@[simp] theorem Keeps.iterationEnds {p pl r w} : Keeps s (t.iterationEnds p pl r w) := by
  unfold State.iterationEnds
  split
  · exact h
  · extract_lets x code cls len t1 t2 n perStep key w t3 t4
    have h1 : Keeps s t1 := h.foldl fun t a => (Keeps.refl t).medlarMarks.busRead
    have h3 : Keeps s t3 := h1.busWrite.onMedlar
    split
    · exact (Keeps.ite h3.onMedlar h3).fallBack.iterGuard
    · exact (h3.busRead.busWrite.onMedlar.rootFormed).iterGuard
    · exact h3.onMedlar.iterGuard
    · exact h3.iterGuard

@[simp] theorem Keeps.jacobiRoot {p pl r j} : Keeps s (t.jacobiRoot p pl r j) := by
  unfold State.jacobiRoot
  exact h.medlarMarks.busRead.busWrite.rootFormed

@[simp] theorem Keeps.jacobiSweep {r j free} : Keeps s (t.jacobiSweep r j free) := by
  unfold State.jacobiSweep
  dsimp only
  repeat' split
  all_goals simp [h]

/-! ### Streams and services -/

@[simp] theorem Keeps.packetRead {t' seq} : Keeps s (t.packetRead t' seq) := by
  unfold State.packetRead
  split <;> simp [h]

@[simp] theorem Keeps.pump {id} : Keeps s (t.pump id) := by
  unfold State.pump
  split
  · exact h
  · exact .ite h (h.foldl fun t q => (Keeps.refl t).packetRead.onFab)

@[simp] theorem Keeps.pumpAll : Keeps s t.pumpAll := by simp [State.pumpAll, h]

@[simp] theorem Keeps.openStream {t'} : Keeps s (t.openStream t') := by
  unfold State.openStream
  exact h.onFab.onRun.pump

omit h in
theorem State.runPump_keeps (fuel : Nat) : ∀ (t : State) (id : Nat), Keeps t (State.runPump fuel t id) := by
  induction fuel with
  | zero => exact fun t _ => .refl t
  | succ fuel ih =>
    intro t id
    rw [State.runPump]
    split
    · exact .refl t
    · dsimp only
      split
      · exact .refl t
      · refine .ite (.refl t) ?_
        split
        · exact .refl t
        · exact (Keeps.refl t).onFab.openStream.trans (ih _ id)

@[simp] theorem Keeps.runPump {fuel id} : Keeps s (State.runPump fuel t id) := h.trans (State.runPump_keeps fuel t id)

@[simp] theorem Keeps.startRun {kind step mk} : Keeps s (t.startRun kind step mk) := by
  unfold State.startRun
  exact h.onFab.runPump

@[simp] theorem Keeps.enqueue {id ts} : Keeps s (t.enqueue id ts) := by
  unfold State.enqueue
  exact h.onFab.runPump

@[simp] theorem Keeps.reduceDone {p pl r} : Keeps s (t.reduceDone p pl r) := by
  unfold State.reduceDone
  split
  · split
    · split
      next n u e => exact ((h.of_draw e).foldl fun t x => (Keeps.refl t).update (.fill (.refl _))).svcWrite
    · exact h
  · refine .ite h ?_
    split
    · exact h.formZ
    · exact h
  · exact h

@[simp] theorem Keeps.endDrained {id} : Keeps s (t.endDrained id) := by
  unfold State.endDrained
  split <;> simp [h]

@[simp] theorem Keeps.enterDim {p pl id fuel} : Keeps s (t.enterDim p pl id fuel) := by
  unfold State.enterDim
  split
  · split
    · exact h.reduceDone.onFab.endDrained
    · exact h
  · split
    · exact h
    · exact h.onFab.enqueue

@[simp] theorem Keeps.combine {p r l} : Keeps s (t.combine p r l) := by
  unfold State.combine
  extract_lets data lost u lo
  split
  · exact h.svcRead
  · refine .ite h.svcRead.onFab ?_
    split
    · exact h.svcRead.onFab.enqueue
    · exact h.svcRead.onFab

omit h in
theorem State.advance_keeps (fuel : Nat) : ∀ (t : State) (p : Package) (pl : Placement) (id : Nat), Keeps t (State.advance fuel t p pl id) := by
  induction fuel with
  | zero => exact fun t _ _ _ => .refl t
  | succ fuel ih =>
    intro t p pl id
    rw [State.advance]
    split
    · exact .refl t
    · split
      · split
        · exact (Keeps.refl t).onFab.combine.trans (ih _ p pl id)
        · exact .refl t
      · exact .ite (.refl t) ((Keeps.refl t).onFab.enterDim.trans (ih _ p pl id))

@[simp] theorem Keeps.advance {fuel p pl id} : Keeps s (State.advance fuel t p pl id) := h.trans (State.advance_keeps fuel t p pl id)

@[simp] theorem Keeps.beginReduce {p pl kind unused} : Keeps s (t.beginReduce p pl kind unused) := by
  unfold State.beginReduce
  exact h.startRun.onFab.enterDim.advance

/-! ### Snapshots -/

@[simp] theorem Keeps.snapEvent {kind seq step addr} : Keeps s (t.snapEvent kind seq step addr) := by simp [State.snapEvent, h]

@[simp] theorem Keeps.startFreeze {mid} : Keeps s (t.startFreeze mid) := by
  unfold State.startFreeze
  repeat' split
  all_goals simp [h]

@[simp] theorem Keeps.endSnapshot : Keeps s t.endSnapshot := by simp [State.endSnapshot, h]

@[simp] theorem Keeps.commitSnapshot {k} : Keeps s (t.commitSnapshot k) := by simp [State.commitSnapshot, h]

@[simp] theorem Keeps.startMirror {k} : Keeps s (t.startMirror k) := by
  unfold State.startMirror
  exact .ite h.onHlt.snapEvent.endSnapshot h.onHlt

@[simp] theorem Keeps.dropRuns {g} : Keeps s (t.dropRuns g) := by simp [State.dropRuns, h]

@[simp] theorem Keeps.abandonSnapshot : Keeps s t.abandonSnapshot := by
  unfold State.abandonSnapshot
  split
  · exact h.dropRuns.onHlt.startMirror
  · exact h

@[simp] theorem Keeps.abortSnapshot : Keeps s t.abortSnapshot := by
  unfold State.abortSnapshot
  split
  · exact h
  · exact (Keeps.ite (h.dropRuns.onHlt.foldl fun t b => (Keeps.refl t).snapEvent) h.dropRuns.onHlt).endSnapshot

@[simp] theorem Keeps.sealStaging {k} : Keeps s (t.sealStaging k) := by simp [State.sealStaging, h]

@[simp] theorem Keeps.endPause : Keeps s t.endPause := by
  unfold State.endPause
  exact h.onRun.foldl fun t d => (Keeps.refl t).resolve

@[simp] theorem Keeps.snapshotSent {header partly} : Keeps s (t.snapshotSent header partly) := by
  unfold State.snapshotSent
  repeat' split
  all_goals simp [h]

/-! ### Streams that arrive -/

@[simp] theorem Keeps.answer {type p seq payload poison} : Keeps s (t.answer type p seq payload poison) := by simp [State.answer, h]

@[simp] theorem Keeps.nackWith {p reason} : Keeps s (t.nackWith p reason) := by simp [State.nackWith, h]

@[simp] theorem Keeps.invalid {status} : Keeps s (t.invalid status) := by simp [State.invalid, h]

@[simp] theorem Keeps.landed {p pl r} : Keeps s (t.landed p pl r) := by
  unfold State.landed
  exact h.onFab.foldl fun t x => (Keeps.refl t).advance

@[simp] theorem Keeps.stageRoot {p d} : Keeps s (t.stageRoot p d) := by simp [State.stageRoot, h]

@[simp] theorem Keeps.streamWhole {r} : Keeps s (t.streamWhole r) := by
  unfold State.streamWhole
  dsimp only
  repeat' split
  all_goals simp [h]

@[simp] theorem Keeps.rxEnd {r p} : Keeps s (t.rxEnd r p) := by
  unfold State.rxEnd
  extract_lets u ack e d place bytes bad v
  have hu : Keeps s u := .ite h h.onFab.streamWhole
  refine .ite ?_ hu.answer
  split
  · refine .ite (.ite hu hu.answer) ?_
    have hv : Keeps s v := hu.foldl fun t x => (Keeps.refl t).svcRead
    split
    · exact hv.startRun
    · exact hv.answer
  · exact hu.answer

@[simp] theorem Keeps.skippedEvents {xs} : Keeps s (Machine.skippedEvents t xs) := by
  unfold Machine.skippedEvents
  exact h.foldl fun t n => (Keeps.refl t).foldl fun t k => (Keeps.refl t).event

@[simp] theorem Keeps.fillSent {r port tag bytes} : Keeps s (t.fillSent r port tag bytes) := by simp [State.fillSent, h]

@[simp] theorem Keeps.runDone {r} : Keeps s (t.runDone r) := by
  unfold State.runDone
  extract_lets u
  have hu : Keeps s u := h.onFab
  split
  · exact hu.skippedEvents.onFab
  · split
    · exact hu.skippedEvents.onFab
    · exact hu.skippedEvents
  · exact hu.snapshotSent
  · exact hu.fillSent
  · exact hu

@[simp] theorem Keeps.settleRun {id} : Keeps s (t.settleRun id) := by
  unfold State.settleRun
  repeat' split
  all_goals simp [h]

@[simp] theorem Keeps.settleStreams {id} : Keeps s (t.settleStreams id) := by
  unfold State.settleStreams
  exact .settleRun (h.onFab.foldl fun t r => (Keeps.refl t).runPump)

@[simp] theorem Keeps.beginRun {kind step mk} : Keeps s (t.beginRun kind step mk) := by simp [State.beginRun, h]

@[simp] theorem Keeps.skipDest {id a target} : Keeps s (t.skipDest id a target) := by
  unfold State.skipDest
  repeat' split
  all_goals simp [h]

@[simp] theorem Keeps.unicastLine {t' d a skip} : Keeps s (t.unicastLine t' d a skip) := by
  unfold State.unicastLine
  exact .ite h.onFab.enqueue.skipDest h.onFab.enqueue.settleStreams

@[simp] theorem Keeps.nackStream {p} : Keeps s (t.nackStream p) := by
  unfold State.nackStream
  dsimp only
  repeat' split
  all_goals simp [h]

/-! ### Route epochs -/

@[simp] theorem Keeps.epochResult {gen status} : Keeps s (t.epochResult gen status) := by simp [State.epochResult, h]

@[simp] theorem Keeps.startSwitch {gen} : Keeps s (t.startSwitch gen) := by simp [State.startSwitch, h]

@[simp] theorem Keeps.epochSwitch {gen force} : Keeps s (t.epochSwitch gen force) := by
  unfold State.epochSwitch
  repeat' split
  all_goals simp [h]

@[simp] theorem Keeps.abortSwitch {e status} : Keeps s (t.abortSwitch e status) := by simp [State.abortSwitch, h]

@[simp] theorem Keeps.epochAnswer {e src code} : Keeps s (t.epochAnswer e src code) := by
  unfold State.epochAnswer
  dsimp only
  repeat' split
  all_goals simp [h]

@[simp] theorem Keeps.pollHeard {e a drain passed} : Keeps s (t.pollHeard e a drain passed) := by simp [State.pollHeard, h]

@[simp] theorem Keeps.pollLost {id} : Keeps s (t.pollLost id) := by
  unfold State.pollLost
  split <;> simp [h]

/-! ### Pairing, fills and verification -/

@[simp] theorem Keeps.enterPair {n} : Keeps s (t.enterPair n) := by
  unfold State.enterPair
  repeat' split
  all_goals simp [h]

@[simp] theorem Keeps.repair : Keeps s t.repair := by
  unfold State.repair
  split <;> simp [h]

@[simp] theorem Keeps.stopFill : Keeps s t.stopFill := by
  unfold State.stopFill
  extract_lets t1
  have h1 : Keeps s t1 := by
    unfold t1
    split
    · exact h.foldl fun t i => (Keeps.refl t).draw.foldl fun u x => (Keeps.refl u).update (.fill (.refl _))
    · exact h
  split
  next n u e =>
  extract_lets t2 t3 t4
  have h3 : Keeps s t3 := ((h1.of_draw e).update (.fill (.refl _))).onFab
  have h4 : Keeps s t4 := by
    unfold t4
    split
    · exact h3.finish
    · exact h3
  exact h4.invalid.onHlt

@[simp] theorem Keeps.endVerify {v} : Keeps s (t.endVerify v) := by
  unfold State.endVerify
  exact h.onFab.onHlt.finish

@[simp] theorem Keeps.verifyLost : Keeps s t.verifyLost := by
  unfold State.verifyLost
  split <;> simp [h]

@[simp] theorem Keeps.cursorSet {port tag ws} : Keeps s (t.cursorSet port tag ws) := by
  unfold State.cursorSet
  split <;> simp [h]

@[simp] theorem Keeps.snapNowCmd {port tag} : Keeps s (t.snapNowCmd port tag) := by simp [State.snapNowCmd, h]

@[simp] theorem Keeps.snapMirrorBuf {port tag addr len} : Keeps s (t.snapMirrorBuf port tag addr len) := by simp [State.snapMirrorBuf, h]

@[simp] theorem Keeps.restoreBegin {port tag} : Keeps s (t.restoreBegin port tag) := by
  unfold State.restoreBegin
  exact .ite h.finish h.cutSteps.onHlt.finish

@[simp] theorem Keeps.fillSend {port tag w} : Keeps s (t.fillSend port tag w) := by
  unfold State.fillSend
  dsimp only
  repeat' split
  all_goals simp [h]

@[simp] theorem Keeps.restorePrivateHost {port tag len} : Keeps s (t.restorePrivateHost port tag len) := by
  unfold State.restorePrivateHost
  split <;> simp [h]

@[simp] theorem Keeps.installCtx {p pl a e insts} : Keeps s (t.installCtx p pl a e insts) := by simp [State.installCtx, h]

@[simp] theorem Keeps.installPrivate {p pl} : Keeps s (t.installPrivate p pl) := by
  unfold State.installPrivate
  exact (h.onHlt.foldl fun t x => (Keeps.refl t).svcWrite).foldl fun t x => (Keeps.refl t).installCtx

@[simp] theorem Keeps.restoreCommit {port tag} : Keeps s (t.restoreCommit port tag) := by
  unfold State.restoreCommit
  split
  · exact .ite h.installPrivate.onHlt.onRun.finish h.finish
  · exact h.finish

@[simp] theorem Keeps.verifyStart {port tag w} : Keeps s (t.verifyStart port tag w) := by
  unfold State.verifyStart
  split
  · exact h.finish
  · exact .ite h.finish (.ite h.finish (.ite h.endVerify h.onFab))

/-! ### Transactions -/

@[simp] theorem Keeps.setWord {a w} : Keeps s (t.setWord a w) := by
  unfold State.setWord
  repeat' split
  all_goals simp [h]

@[simp] theorem Keeps.withStaged {ws} : Keeps s (t.withStaged ws) := by simp [State.withStaged, h]

@[simp] theorem Keeps.afterSet {v ws} : Keeps s (State.afterSet v t ws) := by
  unfold State.afterSet
  extract_lets wrote
  split
  next n1 u1 e1 =>
  extract_lets t1
  have h1 : Keeps s t1 := .ite (h.of_draw e1) ((h.of_draw e1).update (.fill (.refl _)))
  split
  next n2 u2 e2 =>
  extract_lets t2 t3 t4
  have h2 : Keeps s t2 := .ite (h1.of_draw e2) ((h1.of_draw e2).update (.fill (.refl _)))
  have h3 : Keeps s t3 := .ite h2.onFab h2
  exact .repair (.ite h3.onHlt h3)

@[simp] theorem Keeps.writeOnly {w} : Keeps s (t.writeOnly w) := by
  unfold State.writeOnly
  repeat' split
  all_goals simp [h]

@[simp] theorem Keeps.applyTxn {x} : Keeps s (t.applyTxn x) := by
  unfold State.applyTxn
  exact (h.withStaged.afterSet.foldl fun t w => (Keeps.refl t).writeOnly).update (.refl _)

@[simp] theorem Keeps.applyLate : Keeps s t.applyLate := by
  unfold State.applyLate
  split
  · split
    · exact h.applyTxn.finish.event
    · exact h
  · exact h

@[simp] theorem Keeps.rollback {cause} : Keeps s (t.rollback cause) := by
  unfold State.rollback
  repeat' split
  all_goals simp [h]

@[simp] theorem Keeps.rollbackOf {p cause} : Keeps s (t.rollbackOf p cause) := by simp [State.rollbackOf, h]

@[simp] theorem Keeps.cfgBegin {port tag} : Keeps s (t.cfgBegin port tag) := by
  unfold State.cfgBegin
  split <;> simp [h]

@[simp] theorem Keeps.cfgSet {port tag ws} : Keeps s (t.cfgSet port tag ws) := by
  unfold State.cfgSet
  dsimp only
  repeat' split
  all_goals simp [h]

@[simp] theorem Keeps.cfgCommit {port tag} : Keeps s (t.cfgCommit port tag) := by
  unfold State.cfgCommit
  split
  · refine .ite h.finish ?_
    split
    · exact (h.update (.refl _)).event.finish
    · exact .ite h.applyTxn.finish (h.update (.refl _))
  · exact h.finish
  · exact h

@[simp] theorem Keeps.cfgRollback {port tag} : Keeps s (t.cfgRollback port tag) := by
  unfold State.cfgRollback
  repeat' split
  all_goals simp [h]

@[simp] theorem Keeps.cfgStatus {port tag} : Keeps s (t.cfgStatus port tag) := by simp [State.cfgStatus, h]

/-! ### Host commands -/

@[simp] theorem Keeps.regRead {p id ws} : Keeps s (t.regRead p id ws) := by
  unfold State.regRead
  dsimp only
  split <;> simp [h]

@[simp] theorem Keeps.statClear {p id ws} : Keeps s (t.statClear p id ws) := by
  unfold State.statClear
  dsimp only
  refine .ite h.finish ?_
  split
  next e => exact (h.clearReg e).finish
  next => exact h.finish

@[simp] theorem Keeps.placeReportCmd {p id ws} : Keeps s (t.placeReportCmd p id ws) := by simp [State.placeReportCmd, h]

@[simp] theorem Keeps.stepRunCmd {p id ws} : Keeps s (t.stepRunCmd p id ws) := by
  unfold State.stepRunCmd
  repeat' split
  all_goals simp [h]

@[simp] theorem Keeps.haltSteps : Keeps s t.haltSteps := by simp [State.haltSteps, h]

@[simp] theorem Keeps.quiesceCmd {p id ws} : Keeps s (t.quiesceCmd p id ws) := by
  unfold State.quiesceCmd
  exact .ite (Keeps.ite h.cutSteps h.haltSteps).onRun.quiesceNow h.haltSteps.onRun

@[simp] theorem Keeps.evtRead {p id ws} : Keeps s (t.evtRead p id ws) := by simp [State.evtRead, h]

@[simp] theorem Keeps.evtMaskCmd {p id ws} : Keeps s (t.evtMaskCmd p id ws) := by simp [State.evtMaskCmd, h]

@[simp] theorem Keeps.closeScopes : Keeps s t.closeScopes := by
  unfold State.closeScopes
  refine .ite (h.onSec.foldl fun u c => .ite ?_ (.refl u)) h.onSec
  split
  · exact (Keeps.refl u).faultFiring
  · exact .refl u

@[simp] theorem Keeps.anyReset : Keeps s t.anyReset := by simp [State.anyReset, h]

@[simp] theorem Keeps.debugLock {p id} : Keeps s (t.debugLock p id) := by
  unfold State.debugLock
  exact h.closeScopes.onSec.event.finish

@[simp] theorem Keeps.unlockChallenge {p id} : Keeps s (t.unlockChallenge p id) := by
  unfold State.unlockChallenge
  split
  next n u e => exact (h.of_draw e).onSec.finish

@[simp] theorem Keeps.tokenFails {p id status detail} : Keeps s (t.tokenFails p id status detail) := by
  unfold State.tokenFails
  exact h.onSec.event.finish

@[simp] theorem Keeps.unlockToken {p id ws} : Keeps s (t.unlockToken p id ws) := by
  unfold State.unlockToken
  dsimp only
  split
  · exact h.tokenFails
  · exact .ite h.tokenFails (.ite h.tokenFails (.ite h.tokenFails (.ite h.tokenFails h.onSec.event.finish)))

@[simp] theorem Keeps.attest {p id ws} : Keeps s (t.attest p id ws) := by
  unfold State.attest
  dsimp only
  repeat' split
  all_goals simp [h]

@[simp] theorem Keeps.fwBegin {p id ws} : Keeps s (t.fwBegin p id ws) := by
  unfold State.fwBegin
  repeat' split
  all_goals simp [h]

@[simp] theorem Keeps.fwWrite {p id ws} : Keeps s (t.fwWrite p id ws) := by
  unfold State.fwWrite
  dsimp only
  repeat' split
  all_goals simp [h]

@[simp] theorem Keeps.fwCommit {p id ws} : Keeps s (t.fwCommit p id ws) := by
  unfold State.fwCommit
  split
  · dsimp only
    split
    · exact h.interim.finish
    · exact h.interim.onSec.event.finish
  · exact h.finish
  · exact h

@[simp] theorem Keeps.endSession : Keeps s t.endSession := by simp [State.endSession, h]

@[simp] theorem Keeps.endSessionOf {p} : Keeps s (t.endSessionOf p) := by simp [State.endSessionOf, h]

@[simp] theorem Keeps.fwAbort {p id} : Keeps s (t.fwAbort p id) := by
  unfold State.fwAbort
  split <;> simp [h]

@[simp] theorem Keeps.logRead {p id ws} : Keeps s (t.logRead p id ws) := by
  unfold State.logRead
  exact .ite (.ite h.finish (.ite h.finish h.finish)) (.ite h.finish h.finish)

@[simp] theorem Keeps.moduleResetCmd {p id ws} : Keeps s (t.moduleResetCmd p id ws) := by
  unfold State.moduleResetCmd
  dsimp only
  repeat' split
  all_goals simp [h]

/-! ### Ports and windows -/

@[simp] theorem Keeps.setHost {p h'} : Keeps s (t.setHost p h') := by
  unfold State.setHost
  split <;> simp [h]

theorem Keeps.windowReadPage {p r a len} : Keeps s (t.windowReadPage p r a len).1 := by
  unfold State.windowReadPage
  split
  · exact h.busRead
  · exact h.mbxStat
  · exact h.mbxStat.noTarget

@[simp] theorem Keeps.windowWritePage {p a bs} : Keeps s (t.windowWritePage p a bs) := by
  unfold State.windowWritePage
  split <;> simp [h]

@[simp] theorem Keeps.windowServe {p w} : Keeps s (t.windowServe p w) := by
  unfold State.windowServe
  dsimp only
  split
  · refine .onPort ?_
    exact foldl_keeps (q := fun x : State × HostRead => Keeps s x.1) (fun x g hx => hx.windowReadPage) _ h
  · exact h.foldl fun t g => (Keeps.refl t).windowWritePage

@[simp] theorem Keeps.windowAccess {p w} : Keeps s (t.windowAccess p w) := by
  unfold State.windowAccess
  split <;> simp [h]

@[simp] theorem Keeps.windowResume {p} : Keeps s (t.windowResume p) := by simp [State.windowResume, h]

@[simp] theorem Keeps.bar0Write {p off w} : Keeps s (t.bar0Write p off w) := by
  unfold State.bar0Write
  exact .ite h.wordIn.frameAll (.ite h.onPort (.ite (.ite h.resync h) (.ite h.onPort (.ite h.onPort h))))

@[simp] theorem Keeps.bar0Access {p off ws} : Keeps s (t.bar0Access p off ws) := by
  unfold State.bar0Access
  repeat' split
  all_goals simp [h]

@[simp] theorem Keeps.dmaCopyCmd {p id ws} : Keeps s (t.dmaCopyCmd p id ws) := by simp [State.dmaCopyCmd, h]

@[simp] theorem Keeps.copyOut {p c} : Keeps s (t.copyOut p c) := by
  unfold State.copyOut
  exact (h.foldl fun t g => .ite (Keeps.refl t).busRead (Keeps.refl t).noTarget).finish

@[simp] theorem Keeps.copyIn {p c data bad} : Keeps s (t.copyIn p c data bad) := by
  unfold State.copyIn
  extract_lets put
  have hp : ∀ {t off bs}, Keeps s t → Keeps s (put t off bs) := fun h =>
    h.foldl fun t g => .ite (Keeps.refl t).busWrite (Keeps.refl t).noTarget
  split
  · exact (hp h).finish
  · exact (hp (hp h)).finish

@[simp] theorem Keeps.stopCopy {p c} : Keeps s (t.stopCopy p c) := by
  unfold State.stopCopy
  split
  next n u e =>
  have hu : ∀ {f}, Keeps s (u.onPort p f) := (h.of_draw e).onPort
  exact (Keeps.ite hu (hu.update (.fill (.refl _)))).finish

@[simp] theorem Keeps.stopCopies {p} : Keeps s (t.stopCopies p) := by
  unfold State.stopCopies
  exact (h.foldl fun t c => (Keeps.refl t).stopCopy).foldl fun t c => (Keeps.refl t).onPort.finish

/-! ### Resets and power -/

@[simp] theorem Keeps.supply {st regions} : Keeps s (t.supply st regions) := by simp [State.supply, h]

@[simp] theorem Keeps.settleAll : Keeps s t.settleAll := by
  unfold State.settleAll
  exact h.foldl fun t a => by split <;> simp

@[simp] theorem Keeps.sleep : Keeps s t.sleep := by simp [State.sleep, h]

@[simp] theorem Keeps.wake : Keeps s t.wake := by simp [State.wake, h]

@[simp] theorem Keeps.dropPort {p} : Keeps s (t.dropPort p) := by simp [State.dropPort, h]

@[simp] theorem Keeps.fabricPortReset {p} : Keeps s (t.fabricPortReset p) := by
  unfold State.fabricPortReset
  extract_lets t1 held t2
  have h1 : Keeps s t1 := h.dropPort
  have h2 : Keeps s t2 := .ite h1 h1.onFab
  exact h2.onPwr.anyReset

@[simp] theorem Keeps.dropPorts : Keeps s t.dropPorts := by simp [State.dropPorts, h]

@[simp] theorem Keeps.loseVolatile : Keeps s t.loseVolatile := by
  unfold State.loseVolatile
  split
  next n u e =>
  extract_lets t1 t2
  have h1 : Keeps s t1 := by
    unfold t1
    split
    · exact (h.of_draw e).clearFactors
    · exact h.of_draw e
  have h2 : Keeps s t2 := .ite (h1.update (.fill (.refl _))) h1
  exact (h2.update (.fill (.refl _))).repair

@[simp] theorem Keeps.cutCommands {own} : Keeps s (t.cutCommands own) := by
  unfold State.cutCommands
  extract_lets t1 t2
  have h2 : Keeps s t2 := h.cutSteps.foldl fun t p => (Keeps.refl t).stopCopies
  refine h2.foldl fun t p => ?_
  refine (Keeps.refl t).foldl fun u o => ?_
  dsimp only
  split
  · exact (Keeps.refl u).draw.finish
  · exact (Keeps.refl u).finish

@[simp] theorem Keeps.resetTxn : Keeps s t.resetTxn := by simp [State.resetTxn, h]

@[simp] theorem Keeps.cold {cause strap} : Keeps s (t.cold cause strap) := by
  unfold State.cold
  exact ⟨h.pending, fun _ => Memory.fresh_wf _ _⟩

@[simp] theorem Keeps.bootRecord {bank kind reason status} : Keeps s (t.bootRecord bank kind reason status) := by simp [State.bootRecord, h]

@[simp] theorem Keeps.cutAttempt {reason} : Keeps s (t.cutAttempt reason) := by
  unfold State.cutAttempt
  split <;> simp [h]

@[simp] theorem Keeps.reboot {cause strap reason} : Keeps s (t.reboot cause strap reason) := by
  unfold State.reboot
  exact h.cutAttempt.anyReset.cold.onSec

/-! ### Boot and the step boundary -/

@[simp] theorem Keeps.enterInit {b} : Keeps s (t.enterInit b) := by
  unfold State.enterInit
  exact h.supply.onSec.onFab.update (.fill (.refl _))

@[simp] theorem Keeps.advanceSvn {b} : Keeps s (t.advanceSvn b) := by
  unfold State.advanceSvn
  exact .ite h (.ite h.onSec.event.onSec h.onSec.event)

@[simp] theorem Keeps.checkStats {p pl n} : Keeps s (t.checkStats p pl n) := by
  unfold State.checkStats
  exact h.foldl fun t a => by split <;> simp

@[simp] theorem Keeps.boundaryReplies {step} : Keeps s (t.boundaryReplies step) := by
  unfold State.boundaryReplies
  extract_lets ws qs t1 t2
  have h2 : Keeps s t2 := .ite h.onRun h.onRun.dropRoots
  exact (h2.foldl fun t w => (Keeps.refl t).finish).foldl fun t w => (Keeps.refl t).finish

@[simp] theorem Keeps.boundarySnapshot {n} : Keeps s (t.boundarySnapshot n) := by
  unfold State.boundarySnapshot
  dsimp only
  repeat' split
  all_goals simp [h]

@[simp] theorem Keeps.endStep {p pl} : Keeps s (t.endStep p pl) := by
  unfold State.endStep
  extract_lets n t1 t2 t3 t4 t5 q t6
  have h1 : Keeps s t1 := h.foldl fun t c => .ite (Keeps.refl t).onCl (.refl t)
  have h5 : Keeps s t5 := h1.checkStats.onRun.onFab.update (.refl _)
  have h6 : Keeps s t6 := h5.update (.refl _)
  exact h6.event.boundaryReplies.installLoads.clearContexts.serveSwitch.boundarySnapshot

@[simp] theorem Keeps.debugMoved {w} : Keeps s (t.debugMoved w) := by simp [State.debugMoved, h]

/-! ### Links, vector engine and Tahr -/

@[simp] theorem Keeps.linkControl {p k} : Keeps s (t.linkControl p k) := by
  unfold State.linkControl
  extract_lets seq isNak isFenced a q1 q2 q3 t1 t2
  have h2 : Keeps s t2 := .ite h.onFab.onHlt h.onFab
  exact .ite h2.linkDown (.ite h2.onFab h2)

@[simp] theorem Keeps.cutCage {p} : Keeps s (t.cutCage p) := by simp [State.cutCage, h]

@[simp] theorem Keeps.vecOp {f rs fn} : Keeps s (t.vecOp f rs fn) := by simp [State.vecOp, h]

@[simp] theorem Keeps.vecMem {f fn} : Keeps s (t.vecMem f fn) := by
  unfold State.vecMem
  split <;> simp [h]

@[simp] theorem Keeps.tahrFault {c cause} : Keeps s (t.tahrFault c cause) := by
  unfold State.tahrFault
  split <;> simp [h]

@[simp] theorem Keeps.tahrSet {c rd v len} : Keeps s (t.tahrSet c rd v len) := by simp [State.tahrSet, h]

@[simp] theorem Keeps.tahrLoad {c f3 rd a len} : Keeps s (t.tahrLoad c f3 rd a len) := by
  unfold State.tahrLoad
  split <;> simp [h]

@[simp] theorem Keeps.tahrStore {c f3 v a len} : Keeps s (t.tahrStore c f3 v a len) := by
  unfold State.tahrStore
  dsimp only
  repeat' split
  all_goals simp [h]

@[simp] theorem Keeps.rvExec {c i len} : Keeps s (t.rvExec c i len) := by
  unfold State.rvExec
  repeat' split
  all_goals simp [h]

@[simp] theorem Keeps.kernelSignal {c target slot amount} : Keeps s (t.kernelSignal c target slot amount) := by
  unfold State.kernelSignal
  split <;> simp [h]

/-! ### Dispatch -/

@[simp] theorem Keeps.startUnit {c f} : Keeps s (t.startUnit c f) := by
  unfold State.startUnit
  split <;> simp [h]

@[simp] theorem Keeps.dispatch {c i gs} : Keeps s (t.dispatch c i gs) := by
  unfold State.dispatch
  extract_lets k e r f u
  have hu : Keeps s u := h.onRg.onCl
  exact .ite hu.onCl (.ite hu.faultFiring (.ite hu.faultFiring hu.startUnit))

@[simp] theorem Keeps.skipAll {c} : Keeps s (t.skipAll c) := by
  unfold State.skipAll
  exact h.foldl fun t a => by split <;> simp

@[simp] theorem Keeps.holdSignals {c f} : Keeps s (t.holdSignals c f) := by
  unfold State.holdSignals
  exact .ite h.squash (h.foldl fun t i => (Keeps.refl t).holdItem)

@[simp] theorem Keeps.complete {c f} : Keeps s (t.complete c f) := by
  unfold State.complete
  dsimp only
  split
  · exact h.onCl
  · exact .ite h.onCl.onCl.holdSignals (.ite h.onCl.onCl h.onCl.endFiring)

/-! ### The tick and power -/

@[simp] theorem Keeps.loseCycles {r n} : Keeps s (t.loseCycles r n) := by
  unfold State.loseCycles
  extract_lets t1 t2
  have h1 : Keeps s t1 := h.foldl fun t c => (Keeps.refl t).onCl
  have h2 : Keeps s t2 := by
    unfold t2
    split
    · exact .ite h1.onCl h1.onRg
    · exact h1
  exact .ite h2.onRg h2

@[simp] theorem Keeps.tick : Keeps s t.tick := by simp [State.tick, h]

@[simp] theorem Keeps.enterA3 {own} : Keeps s (t.enterA3 own) := by
  unfold State.enterA3
  exact h.resetTxn.cutCommands.closeScopes.dropPorts.loseVolatile

@[simp] theorem Keeps.endTransition {x} : Keeps s (t.endTransition x) := by
  unfold State.endTransition
  extract_lets old t1 t2 t3 t4 t5
  have h1 : Keeps s t1 := .ite h.enterA3 h
  have h3 : Keeps s t3 := .ite h1.onPwr.wake.pumpAll h1.onPwr
  have h5 : Keeps s t5 := .ite h3.event.event h3.event
  exact h5.finish

@[simp] theorem Keeps.loseUnits : Keeps s t.loseUnits := by simp [State.loseUnits, h]

@[simp] theorem Keeps.switchDomains {x} : Keeps s (t.switchDomains x) := by
  unfold State.switchDomains
  extract_lets t1 t2
  have h2 : Keeps s t2 := .ite h.supply.loseUnits h.supply
  exact .ite h2.endTransition h2.onPwr

@[simp] theorem Keeps.setFabOff {off} : Keeps s (t.setFabOff off) := by
  unfold State.setFabOff
  exact (h.onPwr.foldl fun t p => (Keeps.refl t).dropPort).supply

@[simp] theorem Keeps.startTransition {x} : Keeps s (t.startTransition x) := by
  unfold State.startTransition
  exact .ite h.onPwr (.ite h.onPwr.cutSteps.quiesceNow h.onPwr.cutSteps)

@[simp] theorem Keeps.pwrStateCmd {p id ws} : Keeps s (t.pwrStateCmd p id ws) := by
  unfold State.pwrStateCmd
  extract_lets a b n cap placing watts t1 t2 t3
  have h1 : Keeps s t1 := .ite h.onPwr h
  have h2 : Keeps s t2 := .ite h1.setFabOff h1
  have h3 : Keeps s t3 := h2.foldl fun t p => (Keeps.refl t).fabricPortReset
  refine .ite h.finish (.ite h.finish (.ite h.finish (.ite h.finish ?_)))
  split
  · exact h3.finish
  · exact .ite h3.finish h3.startTransition

@[simp] theorem Keeps.endCReset {x} : Keeps s (t.endCReset x) := by
  unfold State.endCReset
  exact (h.wake.update (.refl _)).onPwr.event.finish

@[simp] theorem Keeps.enterCReset {x} : Keeps s (t.enterCReset x) := by
  unfold State.enterCReset
  extract_lets t1 t2 t3 x t4 t5
  have h5 : Keeps s t5 := h.resetTxn.sleep.cutCommands.anyReset.loseVolatile.onPwr.onPwr.supply
  exact .ite h5.endCReset h5

@[simp] theorem Keeps.stopFirings : Keeps s t.stopFirings := by simp [State.stopFirings, h]

@[simp] theorem Keeps.computeResetCmd {p id} : Keeps s (t.computeResetCmd p id) := by
  unfold State.computeResetCmd
  exact .ite h.finish (.ite h.finish (.ite h.onPwr.cutSteps.quiesceNow.enterCReset h.onPwr.cutSteps.quiesceNow))

/-! ### Health -/

@[simp] theorem Keeps.trip : Keeps s t.trip := by
  unfold State.trip
  refine .ite h ?_
  extract_lets t1 t2 t3 t4 t5
  have h1 : Keeps s t1 := by
    unfold t1
    split
    · exact h.finish
    · exact h
  have h2 : Keeps s t2 := by
    unfold t2
    split
    · exact h1.finish
    · exact h1
  exact h2.onPwr.sleep.enterA3.supply.onPwr.event.event

@[simp] theorem Keeps.fenceRegion {n} : Keeps s (t.fenceRegion n) := by
  unfold State.fenceRegion
  repeat' split
  all_goals simp [h]

@[simp] theorem Keeps.timeoutEvent {snd rcv second fatal} : Keeps s (t.timeoutEvent snd rcv second fatal) := by simp [State.timeoutEvent, h]

@[simp] theorem Keeps.sense {x} : Keeps s (t.sense x) := by simp [State.sense, h]

@[simp] theorem Keeps.thermal {x kind} : Keeps s (t.thermal x kind) := by simp [State.thermal, h]

@[simp] theorem Keeps.throttle {x status} : Keeps s (t.throttle x status) := by
  unfold State.throttle
  extract_lets p n t1 t2 t3
  have h2 : Keeps s t2 := .ite h.onPwr h.onPwr.event
  have h3 : Keeps s t3 := .ite h2.thermal h2
  exact .ite h3.thermal h3

@[simp] theorem Keeps.droopRecords : Keeps s t.droopRecords := by
  unfold State.droopRecords
  exact (h.foldl fun t r => .ite (.refl t) (Keeps.refl t).event).onPwr

@[simp] theorem Keeps.farErrors {es} : Keeps s (t.farErrors es) := by
  unfold State.farErrors
  exact h.foldl fun t a => (Keeps.refl t).onPart.onHlt

@[simp] theorem Keeps.fecSample : Keeps s t.fecSample := by simp [State.fecSample, h]

@[simp] theorem Keeps.level3 : Keeps s t.level3 := by
  unfold State.level3
  exact .ite h.snapEvent.onHlt.onRun h.snapEvent

@[simp] theorem Keeps.riskSample {status} : Keeps s (t.riskSample status) := by
  unfold State.riskSample
  extract_lets b window ps score old n act2 act3 t1 t2
  have h2 : Keeps s t2 := .ite h.onHlt h.onHlt.event
  exact .ite h2.level3 h2

@[simp] theorem Keeps.tripCheck {x rises} : Keeps s (t.tripCheck x rises) := by
  unfold State.tripCheck
  dsimp only
  repeat' split
  all_goals simp [h]

end

/-! ### Commands -/

/-- A command answers a next state, which keeps the queue and the canonical form of memory. -/
def StepKeeps (s : State) (r : Res) : Prop := ∃ t, r = .next t ∧ Keeps s t

@[simp] theorem StepKeeps.next_iff {s t : State} : StepKeeps s (.next t) ↔ Keeps s t :=
  ⟨fun ⟨_, e, h⟩ => by cases e; exact h, fun h => ⟨t, rfl, h⟩⟩

theorem Keeps.next {s t : State} (h : Keeps s t) : StepKeeps s (.next t) := ⟨t, rfl, h⟩

theorem StepKeeps.hostCmd {s key c body} (hb : ∀ t p id ws, Keeps t (body t p id ws)) : StepKeeps s (hostCmd key c body s) :=
  ((Keeps.refl s).hostRow hb).next

@[simp] theorem StepKeeps.ite {s : State} {a b : Res} {c : Prop} [Decidable c] (ha : StepKeeps s a) (hb : StepKeeps s b) :
    StepKeeps s (if c then a else b) := by
  split
  · exact ha
  · exact hb

section
variable {s t : State} (h : Keeps s t)
include h

theorem Keeps.takePacket {g p u} (e : t.takePacket g = some (p, u)) : Keeps s u := by
  unfold State.takePacket at e
  split at e
  · obtain ⟨d, -, e⟩ := Option.map_eq_some_iff.mp e
    cases e
    exact h.onFab
  · cases e

theorem Keeps.takeMsg {n p u} (e : t.takeMsg n = some (p, u)) : Keeps s u := h.takePacket e

theorem Keeps.writeData {r p} : Keeps s (t.writeData r p).1 := h.svcWrite

end


theorem execArrayCommandFetch_keeps (c s) : StepKeeps s (execArrayCommandFetch c s) := by
  unfold execArrayCommandFetch
  dsimp only; (repeat' split) <;> simp

theorem execArrMode_keeps (c s) : StepKeeps s (execArrMode c s) := by
  unfold execArrMode
  simp

theorem execArrClear_keeps (c s) : StepKeeps s (execArrClear c s) := by
  unfold execArrClear
  simp

theorem execArrLoadShadow_keeps (c s) : StepKeeps s (execArrLoadShadow c s) := by
  unfold execArrLoadShadow
  simp

theorem execShadowLoadDone_keeps (c s) : StepKeeps s (execShadowLoadDone c s) := by
  unfold execShadowLoadDone
  (repeat' split) <;> simp

theorem execArrSwap_keeps (c s) : StepKeeps s (execArrSwap c s) := by
  unfold execArrSwap
  simp

theorem execArrStream_keeps (c s) : StepKeeps s (execArrStream c s) := by
  unfold execArrStream
  simp

theorem execArrStreamLastUpdate_keeps (c s) : StepKeeps s (execArrStreamLastUpdate c s) := by
  unfold execArrStreamLastUpdate
  simp

theorem execArrDrain_keeps (c s) : StepKeeps s (execArrDrain c s) := by
  unfold execArrDrain
  simp

theorem execArrDrainWritten_keeps (c s) : StepKeeps s (execArrDrainWritten c s) := by
  unfold execArrDrainWritten
  simp

theorem execTagGrant_keeps (r s) : StepKeeps s (execTagGrant r s) := by
  unfold execTagGrant
  split
  · exact (Keeps.refl s).promote.next
  · split
    · exact (Keeps.refl s).next
    · split
      · exact (Keeps.refl s).next
      · have h : ∀ {r f}, Keeps s (s.onRg r f) := (Keeps.refl s).onRg
        dsimp only
        split
        · exact h.serveWindow.next
        · exact (Keeps.ite h.onPart h).onReq.onRg.next

theorem execSorterAccept_keeps (p s) : StepKeeps s (execSorterAccept p s) := by
  unfold execSorterAccept
  refine .ite (Keeps.refl s).next ((Keeps.refl s).foldl fun t r => .ite (.refl t) ?_).next
  split
  · exact (Keeps.refl t).accept
  · exact .refl t

theorem execWatchdogPromotion_keeps (p s) : StepKeeps s (execWatchdogPromotion p s) := by
  unfold execWatchdogPromotion
  dsimp only; (repeat' split) <;> simp

theorem execRegulatorRefill_keeps (p s) : StepKeeps s (execRegulatorRefill p s) := by
  unfold execRegulatorRefill
  simp

theorem execBankSchedule_keeps (p bank s) : StepKeeps s (execBankSchedule p bank s) := by
  unfold execBankSchedule
  extract_lets b
  refine .ite (Keeps.refl s).next ?_
  split
  · exact (Keeps.refl s).next
  · split
    · exact (Keeps.refl s).next
    · dsimp only
      split
      · refine ((Keeps.foldl (f := fun t (x : MReq) => t.pay p x) ?_ fun t x => (Keeps.refl t).pay).update (.refl _)).next
        exact .ite (Keeps.refl s).onPart.pay (Keeps.refl s).onPart
      · refine (Keeps.settleWrites ((Keeps.foldl ?_ fun t c => (Keeps.refl t).onPart).update (.refl _))).next
        exact .ite (Keeps.refl s).onPart.pay (Keeps.refl s).onPart

theorem execMemoryReadReturn_keeps (p e s) : StepKeeps s (execMemoryReadReturn p e s) := by
  unfold execMemoryReadReturn
  split
  · exact (Keeps.refl s).next
  · extract_lets mine readers sectors marks rewritten
    split
    next q' hq _ t d bad hr =>
    have ht : Keeps s t := by
      have := (Keeps.refl s).readLine (p := p) (line := q'.line) (e := e) (sectors := sectors) (marks := marks)
        (rewritten := rewritten) (data := q'.data)
      rwa [hr] at this
    refine (Keeps.foldl (ht.update (.refl _)) fun t x => ?_).next
    split
    · exact (Keeps.refl t).dmaRead
    · exact .refl t

theorem execScrubRead_keeps (p e s) : StepKeeps s (execScrubRead p e s) := by
  unfold execScrubRead
  dsimp only
  refine .ite (Keeps.refl s).next (.ite (Keeps.refl s).onPart.next ?_)
  exact (Keeps.refl s).readLine.onPart.next

theorem execPhaseNotice_keeps (ph active s) : StepKeeps s (execPhaseNotice ph active s) := by
  unfold execPhaseNotice
  simp

theorem execMbxInWrite_keeps (port word take s) : StepKeeps s (execMbxInWrite port word take s) := by
  unfold execMbxInWrite
  (repeat' split) <;> simp

theorem execMbxOutRead_keeps (port s) : StepKeeps s (execMbxOutRead port s) := by
  unfold execMbxOutRead
  simp

theorem execResync_keeps (port s) : StepKeeps s (execResync port s) := by
  unfold execResync
  simp

theorem execPlacementFinished_keeps (s) : StepKeeps s (execPlacementFinished s) := by
  unfold execPlacementFinished
  (repeat' split) <;> simp

theorem execReplacement_keeps (s) : StepKeeps s (execReplacement s) := by
  unfold execReplacement
  simp

theorem execClusterFence_keeps (c reason s) : StepKeeps s (execClusterFence c reason s) := by
  unfold execClusterFence
  simp

theorem execSolverCallStart_keeps (r s) : StepKeeps s (execSolverCallStart r s) := by
  unfold execSolverCallStart
  dsimp only; (repeat' split) <;> simp

theorem execNyalaWaveInputDone_keeps (r s) : StepKeeps s (execNyalaWaveInputDone r s) := by
  unfold execNyalaWaveInputDone
  (repeat' split) <;> simp

theorem execNyalaWaveComputeDone_keeps (r s) : StepKeeps s (execNyalaWaveComputeDone r s) := by
  unfold execNyalaWaveComputeDone
  (repeat' split) <;> simp

theorem execSolverDeadline_keeps (r k s) : StepKeeps s (execSolverDeadline r k s) := by
  unfold execSolverDeadline
  dsimp only; (repeat' split) <;> simp

theorem execNyalaCallDone_keeps (r s) : StepKeeps s (execNyalaCallDone r s) := by
  unfold execNyalaCallDone
  split
  · exact (Keeps.refl s).next
  · dsimp only
    split
    · exact (Keeps.refl s).onNyala.onCl.firingWrite.next
    · exact (Keeps.refl s).onNyala.next
    · exact (Keeps.refl s).next

theorem execStepStart_keeps (s) : StepKeeps s (execStepStart s) := by
  unfold execStepStart
  (repeat' split) <;> simp

theorem execSegmentFinish_keeps (rg s) : StepKeeps s (execSegmentFinish rg s) := by
  unfold execSegmentFinish
  (repeat' split) <;> simp

theorem execNewtonNormalisation_keeps (r s) : StepKeeps s (execNewtonNormalisation r s) := by
  unfold execNewtonNormalisation
  dsimp only
  split
  · split
    · have h : ∀ {r f a n cls g}, Keeps s ((((s.onMedlar r f).medlarMarks r a n).busRead cls a n).onMedlar r g) :=
        (Keeps.refl s).onMedlar.medlarMarks.busRead.onMedlar
      split
      · exact h.fallBack.next
      · exact .ite h.fallBack.next h.busWrite.next
    · exact (Keeps.refl s).onMedlar.next
  · exact (Keeps.refl s).next

theorem execMedlarIterationDecision_keeps (r s) : StepKeeps s (execMedlarIterationDecision r s) := by
  unfold execMedlarIterationDecision
  dsimp only; (repeat' split) <;> simp

theorem execJacobiRound_keeps (r s) : StepKeeps s (execJacobiRound r s) := by
  unfold execJacobiRound
  dsimp only; (repeat' split) <;> simp

theorem execReduceScatterStart_keeps (op s) : StepKeeps s (execReduceScatterStart op s) := by
  unfold execReduceScatterStart
  split
  · split
    · refine .ite ?_ (Keeps.refl s).next
      exact ((Keeps.refl s).onRun.foldl fun t x => (Keeps.refl t).svcRead).beginReduce.next
    · exact (Keeps.refl s).next
  · exact (Keeps.refl s).next

theorem execFactorReductionStart_keeps (block s) : StepKeeps s (execFactorReductionStart block s) := by
  unfold execFactorReductionStart
  split
  · dsimp only
    split
    · refine .ite ?_ (Keeps.refl s).next
      refine (Keeps.svcRead (.ite ?_ (Keeps.refl s).onRun)).beginReduce.next
      split
      · exact (Keeps.refl s).onRun.statNar
      · exact (Keeps.refl s).onRun
    · exact (Keeps.refl s).next
  · exact (Keeps.refl s).next

theorem execDistributionStart_keeps (op s) : StepKeeps s (execDistributionStart op s) := by
  unfold execDistributionStart
  (repeat' split) <;> simp

theorem execSnapshotFreezeDone_keeps (s) : StepKeeps s (execSnapshotFreezeDone s) := by
  unfold execSnapshotFreezeDone
  split
  · extract_lets t1 t2
    have h : Keeps s t2 := .ite (Keeps.refl s).sealStaging.endPause (Keeps.refl s).sealStaging
    exact .ite h.onHlt.startRun.next (.ite h.onHlt.endSnapshot.next h.startMirror.next)
  · exact (Keeps.refl s).next

theorem execSnapshotMirrorDone_keeps (s) : StepKeeps s (execSnapshotMirrorDone s) := by
  unfold execSnapshotMirrorDone
  split
  · refine .ite (Keeps.refl s).startMirror.next ?_
    extract_lets t1 t2
    have h : Keeps s t2 := (Keeps.refl s).onHlt.foldl fun t b => (Keeps.refl t).snapEvent
    exact (Keeps.ite h.commitSnapshot h).endSnapshot.next
  · exact (Keeps.refl s).next

theorem execLevel3Freeze_keeps (s) : StepKeeps s (execLevel3Freeze s) := by
  unfold execLevel3Freeze
  have h : ∀ {f}, Keeps s ((s.abortSnapshot.onHlt f).startFreeze true) := (Keeps.refl s).abortSnapshot.onHlt.startFreeze
  exact .ite (Keeps.ite h h.endPause).next (Keeps.refl s).next

theorem execDesc_keeps (s) : StepKeeps s (execDesc s) := by
  unfold execDesc
  split
  · exact (Keeps.refl s).next
  next p t e =>
  extract_lets d u
  have h : Keeps s u := ((Keeps.refl s).takePacket e).onFab
  refine .ite h.nackWith.next (.ite h.onFab.nackWith.next ?_)
  split
  · exact (Keeps.refl s).next
  · dsimp only
    have h1 : ∀ {c : Prop} [Decidable c] {f}, Keeps s (if c then u.onHlt f else u) := .ite h.onHlt h
    have h2 : ∀ {c d : Prop} [Decidable c] [Decidable d] {f g},
        Keeps s (if c then (if d then u.onHlt f else u).onHlt g else if d then u.onHlt f else u) :=
      .ite h1.onHlt h1
    exact (Keeps.ite h2.onFab.rxEnd h2.onFab).next

theorem execData_keeps (s) : StepKeeps s (execData s) := by
  unfold execData
  split
  · exact (Keeps.refl s).next
  next p t e =>
  have h : Keeps s t := (Keeps.refl s).takePacket e
  split
  · exact h.next
  · refine .ite h.next (.ite (Keeps.refl s).next ?_)
    have hw : ∀ {r p}, Keeps s (t.writeData r p).1 := h.writeData
    dsimp only
    exact (Keeps.ite hw.onFab.rxEnd (.ite hw.onFab.answer hw.onFab)).next

theorem execAck_keeps (s) : StepKeeps s (execAck s) := by
  unfold execAck
  split
  · exact (Keeps.refl s).next
  next p t e =>
  have h : Keeps s t := (Keeps.refl s).takePacket e
  split
  · exact h.next
  · exact .ite h.next h.onFab.pump.settleStreams.next

theorem execCut_keeps (s) : StepKeeps s (execCut s) := by
  unfold execCut
  split
  · exact (Keeps.refl s).next
  next p t e =>
  have h : Keeps s t := (Keeps.refl s).takePacket e
  split
  · exact h.next
  · split
    · exact h.onFab.enqueue.pump.settleStreams.next
    · exact h.next

theorem execStreamStallTimeout_keeps (stream s) : StepKeeps s (execStreamStallTimeout stream s) := by
  unfold execStreamStallTimeout
  (repeat' split) <;> simp

theorem execEpochReply_keeps (s) : StepKeeps s (execEpochReply s) := by
  unfold execEpochReply
  split
  · exact (Keeps.refl s).next
  next p t e =>
  have h : Keeps s t := (Keeps.refl s).takeMsg e
  split
  · exact (Keeps.ite h.epochAnswer h).next
  · exact h.next

theorem execEpochPrepareTimeout_keeps (s) : StepKeeps s (execEpochPrepareTimeout s) := by
  unfold execEpochPrepareTimeout
  (repeat' split) <;> simp

theorem execEpochPollRound_keeps (s) : StepKeeps s (execEpochPollRound s) := by
  unfold execEpochPollRound
  (repeat' split) <;> simp

theorem execEpochPollReply_keeps (s) : StepKeeps s (execEpochPollReply s) := by
  unfold execEpochPollReply
  split
  · exact (Keeps.refl s).next
  next p t e =>
  have h : Keeps s t := (Keeps.refl s).takeMsg e
  split
  · exact (Keeps.ite h.pollHeard h).next
  · exact h.next

theorem execDrainTimeout_keeps (s) : StepKeeps s (execDrainTimeout s) := by
  unfold execDrainTimeout
  (repeat' split) <;> simp

theorem execEpochPrepare_keeps (s) : StepKeeps s (execEpochPrepare s) := by
  unfold execEpochPrepare
  split
  · exact (Keeps.refl s).next
  next p t e =>
  have h : Keeps s t := (Keeps.refl s).takeMsg e
  exact .ite h.epochReply.next (.ite h.onFab.epochReply.next h.epochReply.next)

theorem execEpochSwitch_keeps (s) : StepKeeps s (execEpochSwitch s) := by
  unfold execEpochSwitch
  split
  · exact (Keeps.refl s).next
  next p t e =>
  have h : Keeps s t := (Keeps.refl s).takeMsg e
  exact .ite h.next (.ite h.switchBank.next h.onFab.next)

theorem execEpochPoll_keeps (s) : StepKeeps s (execEpochPoll s) := by
  unfold execEpochPoll
  split
  · exact (Keeps.refl s).next
  next p t e =>
  have h : Keeps s t := (Keeps.refl s).takeMsg e
  exact h.onFab.next

theorem execEpochRelease_keeps (s) : StepKeeps s (execEpochRelease s) := by
  unfold execEpochRelease
  split
  · exact (Keeps.refl s).next
  next p t e =>
  have h : Keeps s t := (Keeps.refl s).takeMsg e
  exact .ite h.onFab.epochReply.next h.next

theorem execEpochAbort_keeps (s) : StepKeeps s (execEpochAbort s) := by
  unfold execEpochAbort
  split
  · exact (Keeps.refl s).next
  next p t e =>
  have h : Keeps s t := (Keeps.refl s).takeMsg e
  exact h.onFab.next

theorem execPartnerHeartbeatSend_keeps (s) : StepKeeps s (execPartnerHeartbeatSend s) := by
  unfold execPartnerHeartbeatSend
  simp

theorem execHeartbeat_keeps (s) : StepKeeps s (execHeartbeat s) := by
  unfold execHeartbeat
  split
  · exact (Keeps.refl s).next
  next p t e =>
  have h : Keeps s t := (Keeps.refl s).takeMsg e
  exact .ite h.event.next (Keeps.ite h.onHlt.onFab.enterPair h.onHlt.onFab).next

theorem execFillStallTimeout_keeps (s) : StepKeeps s (execFillStallTimeout s) := by
  unfold execFillStallTimeout
  simp

theorem execVerifyDigest_keeps (s) : StepKeeps s (execVerifyDigest s) := by
  unfold execVerifyDigest
  split
  · exact (Keeps.refl s).next
  next p t e =>
  split at e
  · cases e
  · exact ((Keeps.refl s).takeMsg e).onFab.next

theorem execVerifyResult_keeps (s) : StepKeeps s (execVerifyResult s) := by
  unfold execVerifyResult
  split
  · exact (Keeps.refl s).next
  next p t e =>
  have h : Keeps s t := (Keeps.refl s).takeMsg e
  split
  · exact h.next
  · exact .ite h.next (Keeps.ite h.endVerify h.onFab).next

theorem execChunkDigestDone_keeps (s) : StepKeeps s (execChunkDigestDone s) := by
  unfold execChunkDigestDone
  (repeat' split) <;> simp

theorem execPartnerLost_keeps (s) : StepKeeps s (execPartnerLost s) := by
  unfold execPartnerLost
  refine .ite (Keeps.refl s).next ?_
  extract_lets t1 t2 mine t3
  have h1 : Keeps s t1 := (Keeps.refl s).onFab.event
  have h2 : Keeps s t2 := h1.enterPair.abandonSnapshot
  have h3 : Keeps s t3 := .ite h2.stopFill h2
  exact .ite h1.next (Keeps.ite h3.verifyLost h3).next

theorem execNack_keeps (s) : StepKeeps s (execNack s) := by
  unfold execNack
  split
  · exact (Keeps.refl s).next
  next p t e =>
  have h : Keeps s t := (Keeps.refl s).takePacket e
  exact .ite (Keeps.ite h.pollLost (.ite h.verifyLost h)).next h.nackStream.next

theorem execPrivateFillDone_keeps (data s) : StepKeeps s (execPrivateFillDone data s) := by
  unfold execPrivateFillDone
  refine .ite (Keeps.refl s).next ?_
  split
  · exact (Keeps.refl s).svcWrite.onHlt.onHlt.finish.next
  · exact (Keeps.ite (Keeps.refl s).onHlt (.refl s)).next

theorem execCfgApply_keeps (s) : StepKeeps s (execCfgApply s) := by
  unfold execCfgApply
  simp

theorem execCfgIdleTimeout_keeps (s) : StepKeeps s (execCfgIdleTimeout s) := by
  unfold execCfgIdleTimeout
  simp

theorem execFwSessionTimeout_keeps (s) : StepKeeps s (execFwSessionTimeout s) := by
  unfold execFwSessionTimeout
  simp

theorem execMbxDbHeartbeat_keeps (port s) : StepKeeps s (execMbxDbHeartbeat port s) := by
  unfold execMbxDbHeartbeat
  simp

theorem execMbxDbStep_keeps (port value s) : StepKeeps s (execMbxDbStep port value s) := by
  unfold execMbxDbStep
  (repeat' split) <;> simp

theorem execMbxDbIrq_keeps (port bits s) : StepKeeps s (execMbxDbIrq port bits s) := by
  unfold execMbxDbIrq
  simp

theorem execWindowRead_keeps (port off len s) : StepKeeps s (execWindowRead port off len s) := by
  unfold execWindowRead
  simp

theorem execWindowWrite_keeps (port off data s) : StepKeeps s (execWindowWrite port off data s) := by
  unfold execWindowWrite
  simp

theorem execHbmInitDone_keeps (s) : StepKeeps s (execHbmInitDone s) := by
  unfold execHbmInitDone
  exact ((Keeps.refl s).update (.refl _)).windowResume.windowResume.next

theorem execRegisterWrite_keeps (w addr value s) : StepKeeps s (execRegisterWrite w addr value s) := by
  unfold execRegisterWrite
  (repeat' split) <;> simp

theorem execBar0MissizedRead_keeps (port s) : StepKeeps s (execBar0MissizedRead port s) := by
  unfold execBar0MissizedRead
  (repeat' split) <;> simp

theorem execDmaCopyDone_keeps (port k data bad s) : StepKeeps s (execDmaCopyDone port k data bad s) := by
  unfold execDmaCopyDone
  (repeat' split) <;> simp

theorem execHostHeartbeatTimeout_keeps (port s) : StepKeeps s (execHostHeartbeatTimeout port s) := by
  unfold execHostHeartbeatTimeout
  refine .ite ?_ (Keeps.refl s).next
  exact ((Keeps.refl s).setHost.rollbackOf.foldl fun t c => (Keeps.refl t).stopCopy).endSessionOf.next

theorem execPciePortReset_keeps (port perst s) : StepKeeps s (execPciePortReset port perst s) := by
  unfold execPciePortReset
  exact .ite (Keeps.refl s).next (Keeps.refl s).onPort.stopCopies.setHost.rollbackOf.endSessionOf.anyReset.next

theorem execPerstDeassert_keeps (port s) : StepKeeps s (execPerstDeassert port s) := by
  unfold execPerstDeassert
  simp

theorem execPowerOnReset_keeps (strap s) : StepKeeps s (execPowerOnReset strap s) := by
  unfold execPowerOnReset
  simp

theorem execModuleResetExecute_keeps (strap s) : StepKeeps s (execModuleResetExecute strap s) := by
  unfold execModuleResetExecute
  simp

theorem execBootWatchdog_keeps (strap s) : StepKeeps s (execBootWatchdog strap s) := by
  unfold execBootWatchdog
  simp

theorem execInitCheckFailed_keeps (strap s) : StepKeeps s (execInitCheckFailed strap s) := by
  unfold execInitCheckFailed
  simp

theorem execExtRstAssert_keeps (s) : StepKeeps s (execExtRstAssert s) := by
  unfold execExtRstAssert
  exact .ite (Keeps.refl s).next (Keeps.refl s).cutAttempt.cold.onSec.next

theorem execExtRstRelease_keeps (strap s) : StepKeeps s (execExtRstRelease strap s) := by
  unfold execExtRstRelease
  simp

theorem execPowerInputLost_keeps (mv high s) : StepKeeps s (execPowerInputLost mv high s) := by
  unfold execPowerInputLost
  refine .ite (Keeps.refl s).next ?_
  extract_lets t u
  have h : Keeps s t := .ite (Keeps.refl s).event (.refl s)
  exact (h.cold.onSec.onPwr.update (.refl _)).next

theorem execBootLoadDone_keeps (s) : StepKeeps s (execBootLoadDone s) := by
  unfold execBootLoadDone
  (repeat' split) <;> simp

theorem execBootReady_keeps (s) : StepKeeps s (execBootReady s) := by
  unfold execBootReady
  split
  · refine .ite (Keeps.refl s).next ?_
    extract_lets t1 t2 t3 t4 t5
    have h : Keeps s t4 := (Keeps.refl s).onSec.bootRecord.onSec.event
    exact (Keeps.ite h h.onSec.event).advanceSvn.next
  · exact (Keeps.refl s).next

theorem execStepBoundary_keeps (s) : StepKeeps s (execStepBoundary s) := by
  unfold execStepBoundary
  (repeat' split) <;> simp

theorem execDebugDataAccess_keeps (write s) : StepKeeps s (execDebugDataAccess write s) := by
  unfold execDebugDataAccess
  extract_lets a refused
  have h : Keeps s refused := (Keeps.refl s).update (.refl _)
  refine .ite h.next ?_
  split
  · exact h.next
  · exact (Keeps.refl s).debugMoved.next
  · exact (Keeps.refl s).debugMoved.next
  · exact (Keeps.refl s).debugMoved.next
  · exact (Keeps.ite h (Keeps.refl s).writeReg.debugMoved).next
  · exact (Keeps.refl s).debugMoved.next
  · exact ((Keeps.refl s).update (.write (.refl _))).debugMoved.next
  · exact (Keeps.refl s).draw.debugMoved.next
  · exact (Keeps.refl s).debugMoved.next

theorem execLinkTrainingStart_keeps (p s) : StepKeeps s (execLinkTrainingStart p s) := by
  unfold execLinkTrainingStart
  simp

theorem execLinkTrainingDone_keeps (p s) : StepKeeps s (execLinkTrainingDone p s) := by
  unfold execLinkTrainingDone
  simp

theorem execLinkAlignmentLost_keeps (p s) : StepKeeps s (execLinkAlignmentLost p s) := by
  unfold execLinkAlignmentLost
  simp

theorem execLinkAckTimeout_keeps (p s) : StepKeeps s (execLinkAckTimeout p s) := by
  unfold execLinkAckTimeout
  simp

theorem execLinkControlReceive_keeps (p rx s) : StepKeeps s (execLinkControlReceive p rx s) := by
  unfold execLinkControlReceive
  (repeat' split) <;> simp

theorem execLinkControlSend_keeps (p s) : StepKeeps s (execLinkControlSend p s) := by
  unfold execLinkControlSend
  simp

theorem execPortSlotSend_keeps (p s) : StepKeeps s (execPortSlotSend p s) := by
  unfold execPortSlotSend
  dsimp only; (repeat' split) <;> simp

theorem execPacketReceive_keeps (p rx s) : StepKeeps s (execPacketReceive p rx s) := by
  unfold execPacketReceive
  extract_lets q u
  have h : Keeps s u := (Keeps.refl s).onFab
  exact .ite (Keeps.refl s).next (.ite h.onFab.next (.ite h.linkControl.next (.ite h.next (Keeps.ite h.onFab.onFab h.onFab).next)))

theorem execSummaryDelivery_keeps (c s) : StepKeeps s (execSummaryDelivery c s) := by
  unfold execSummaryDelivery
  simp

theorem execTahrBaseInstruction_keeps (c s) : StepKeeps s (execTahrBaseInstruction c s) := by
  unfold execTahrBaseInstruction
  refine .ite (Keeps.refl s).next ?_
  dsimp only
  split
  · exact (Keeps.refl s).onCl.tahrFault.next
  · exact (Keeps.refl s).onCl.onCl.rvExec.next

theorem execCsrInstruction_keeps (c f3 rd rs1 num s) : StepKeeps s (execCsrInstruction c f3 rd rs1 num s) := by
  unfold execCsrInstruction
  refine .ite (Keeps.refl s).next ?_
  split
  next n u e =>
  extract_lets v op writes
  have h : Keeps s v := ((Keeps.refl s).of_draw e).onCl
  split
  · exact h.tahrFault.next
  · exact .ite h.tahrFault.next (Keeps.ite h.onCl h).tahrSet.next

theorem execEbreak_keeps (c s) : StepKeeps s (execEbreak c s) := by
  unfold execEbreak
  (repeat' split) <;> simp

theorem execFence_keeps (c s) : StepKeeps s (execFence c s) := by
  unfold execFence
  simp

theorem execFenceI_keeps (c s) : StepKeeps s (execFenceI c s) := by
  unfold execFenceI
  simp

theorem execTarr_keeps (c rs1 s) : StepKeeps s (execTarr c rs1 s) := by
  unfold execTarr
  dsimp only; (repeat' split) <;> simp

theorem execTarrsync_keeps (c rd s) : StepKeeps s (execTarrsync c rd s) := by
  unfold execTarrsync
  simp

theorem execTarrsyncResume_keeps (c s) : StepKeeps s (execTarrsyncResume c s) := by
  unfold execTarrsyncResume
  dsimp only; (repeat' split) <;> simp

theorem execTprod_keeps (c rs1 rs2 s) : StepKeeps s (execTprod c rs1 rs2 s) := by
  unfold execTprod
  refine .ite (Keeps.refl s).next ?_
  have h : ∀ {f}, Keeps s (s.onCl c f) := (Keeps.refl s).onCl
  exact .ite h.tahrFault.next (Keeps.ite h.onCl h.onCl.kernelSignal).next

theorem execTwaits_keeps (c rs1 rs2 s) : StepKeeps s (execTwaits c rs1 rs2 s) := by
  unfold execTwaits
  simp

theorem execTwaitsResume_keeps (c s) : StepKeeps s (execTwaitsResume c s) := by
  unfold execTwaitsResume
  dsimp only; (repeat' split) <;> simp

theorem execTguard_keeps (c rs1 rs2 s) : StepKeeps s (execTguard c rs1 rs2 s) := by
  unfold execTguard
  refine .ite (Keeps.refl s).next ?_
  dsimp only
  split
  · exact (Keeps.ite (Keeps.refl s).onCl.onCl.holdItem (Keeps.refl s).onCl.onCl.resolve).next
  · exact (Keeps.refl s).onCl.onCl.next

theorem execTend_keeps (c rs1 s) : StepKeeps s (execTend c rs1 s) := by
  unfold execTend
  simp

theorem execCycleBudgetExceeded_keeps (c s) : StepKeeps s (execCycleBudgetExceeded c s) := by
  unfold execCycleBudgetExceeded
  dsimp only; (repeat' split) <;> simp

theorem execTaskDispatch_keeps (c s) : StepKeeps s (execTaskDispatch c s) := by
  unfold execTaskDispatch
  dsimp only; (repeat' split) <;> simp

theorem execSignalArrival_keeps (c k s) : StepKeeps s (execSignalArrival c k s) := by
  unfold execSignalArrival
  (repeat' split) <;> simp

theorem execTaskComplete_keeps (c entry s) : StepKeeps s (execTaskComplete c entry s) := by
  unfold execTaskComplete
  (repeat' split) <;> simp

theorem execSpecCommitWritesDone_keeps (c entry s) : StepKeeps s (execSpecCommitWritesDone c entry s) := by
  unfold execSpecCommitWritesDone
  split
  · refine .ite ?_ (Keeps.refl s).next
    exact ((Keeps.refl s).commitEffects.foldl fun t x => (Keeps.refl t).resolve).commitEnd.next
  · exact (Keeps.refl s).next

theorem execHoldPeakReset_keeps (r s) : StepKeeps s (execHoldPeakReset r s) := by
  unfold execHoldPeakReset
  simp

theorem execPowerStateEntry_keeps (s) : StepKeeps s (execPowerStateEntry s) := by
  unfold execPowerStateEntry
  split
  · exact (Keeps.refl s).next
  · refine .ite (Keeps.refl s).next (.ite (Keeps.refl s).switchDomains.next (.ite (Keeps.refl s).next ?_))
    extract_lets t1 t2 t3
    have h1 : Keeps s t1 := .ite (.refl s) (Keeps.refl s).quiesceNow
    have h3 : Keeps s t3 := .ite h1.applyLate h1.applyLate.sleep
    exact .ite h1.next h3.switchDomains.next

theorem execComputeResetGraceExpiry_keeps (s) : StepKeeps s (execComputeResetGraceExpiry s) := by
  unfold execComputeResetGraceExpiry
  (repeat' split) <;> simp

theorem execRegionDomainSwitch_keeps (s) : StepKeeps s (execRegionDomainSwitch s) := by
  unfold execRegionDomainSwitch
  dsimp only; (repeat' split) <;> simp

theorem execIslandTimeout_keeps (snd rcv s) : StepKeeps s (execIslandTimeout snd rcv s) := by
  unfold execIslandTimeout
  refine (Keeps.ite (.refl s) ?_).next
  extract_lets again t ps
  have h : Keeps s t := (Keeps.refl s).onPwr
  refine .ite h.timeoutEvent (.ite h.timeoutEvent.fenceRegion.fenceRegion (.ite h.onPwr.timeoutEvent ?_))
  exact h.timeoutEvent.foldl fun t p => (Keeps.refl t).fabricPortReset

theorem execDroop_keeps (rg s) : StepKeeps s (execDroop rg s) := by
  unfold execDroop
  (repeat' split) <;> simp

theorem execCageOvercurrent_keeps (p s) : StepKeeps s (execCageOvercurrent p s) := by
  unfold execCageOvercurrent
  exact .ite (Keeps.refl s).next (Keeps.refl s).cutCage.dropPort.supply.next

theorem execHealthSample_keeps (x s) : StepKeeps s (execHealthSample x s) := by
  unfold execHealthSample
  refine (Keeps.ite (.refl s) ?_).next
  exact Keeps.ite (Keeps.refl s).sense (Keeps.refl s).sense.throttle.droopRecords.farErrors.fecSample.riskSample.tripCheck


/-! ### All commands -/

/-- Every command answers a next state, and keeps the queue and the canonical form of memory. -/
theorem exec_keeps (i : Instr) (s : State) : StepKeeps s (exec i s) := by
  cases i
  case vadd | vsub | vmul | vfma | vfms | vnfma | vdiv | vrcp | vsqrt | vrsqrt | vmax | vmin | vabs | vneg |
    vmulp2 | vexp | vexp2 | vln | vlog2 | vtanh | vsigm | verf | vbcastVs | vmv | vsel | vcmpEq | vcmpNe |
    vcmpLt | vcmpLe | vcmpGt | vcmpGe | viadd | visub | vimul | vimulh | vimulhu | vand | vor | vxor | vsll |
    vsrl | vsra | vimin | vimax | viminu | vimaxu | vicmpEq | vicmpNe | vicmpLt | vicmpLe | vicmpLtu |
    vicmpLeu | vidx | visplatVx | vwid | vnar | viwid | viwidu | vinar | vcvtSiI | vcvtISi | pand | por | pxor
    | pandn | pnot | pset | pclr | vredsum | vredmax | vredmin | viredsum | viredmax | viredmin | vsegsum |
    vsegmax | vsegmin | vcompress | vexpand | vperm | vslideup | vslidedn | vpsumPopc | vpsumAny | vpsumAll |
    vpsumFirst | vsmax | vmvx | vsetcfg =>
    exact (Keeps.refl s).vecOp.next
  case vld | vst | vldres | vstres =>
    exact (Keeps.refl s).vecMem.next
  case cfgBegin | cfgSet | cfgCommit | cfgRollback | cfgStatus | regRead | statClear | graphLoad | graphUnload
    | placeReport | stepRun | stepHalt | quiesce | dmaCopy | slvProblemLoad | slvProblemInfo | slvContextClear
    | cursorSet | snapNow | snapMirrorBuf | restoreBegin | fillSend | restorePrivateHost | restoreCommit |
    verifyStart | evtRead | evtMask | cntRead | cntClear | pwrState | computeReset | attest | unlockChallenge
    | unlockToken | debugLock | ident | identFusemap | fwBegin | fwWrite | fwCommit | fwAbort | logRead |
    moduleReset =>
    exact .hostCmd fun t p id ws => by simp
  case summaryDelivery cl => exact execSummaryDelivery_keeps cl s
  case tahrBaseInstruction cl => exact execTahrBaseInstruction_keeps cl s
  case csrInstruction cl f3 rd rs1 csr => exact execCsrInstruction_keeps cl f3 rd rs1 csr s
  case ebreak cl => exact execEbreak_keeps cl s
  case fence cl => exact execFence_keeps cl s
  case fenceI cl => exact execFenceI_keeps cl s
  case tarr cl rs1 => exact execTarr_keeps cl rs1 s
  case tarrsync cl rd => exact execTarrsync_keeps cl rd s
  case tarrsyncResume cl => exact execTarrsyncResume_keeps cl s
  case tprod cl rs1 rs2 => exact execTprod_keeps cl rs1 rs2 s
  case twaits cl rs1 rs2 => exact execTwaits_keeps cl rs1 rs2 s
  case twaitsResume cl => exact execTwaitsResume_keeps cl s
  case tguard cl rs1 rs2 => exact execTguard_keeps cl rs1 rs2 s
  case tend cl rs1 => exact execTend_keeps cl rs1 s
  case cycleBudgetExceeded cl => exact execCycleBudgetExceeded_keeps cl s
  case arrayCommandFetch cl => exact execArrayCommandFetch_keeps cl s
  case arrMode cl => exact execArrMode_keeps cl s
  case arrClear cl => exact execArrClear_keeps cl s
  case arrLoadShadow cl => exact execArrLoadShadow_keeps cl s
  case shadowLoadDone cl => exact execShadowLoadDone_keeps cl s
  case arrSwap cl => exact execArrSwap_keeps cl s
  case arrStream cl => exact execArrStream_keeps cl s
  case arrDrain cl => exact execArrDrain_keeps cl s
  case taskDispatch cl => exact execTaskDispatch_keeps cl s
  case signalArrival cl k => exact execSignalArrival_keeps cl k s
  case taskComplete cl entry => exact execTaskComplete_keeps cl entry s
  case specCommitWritesDone cl entry => exact execSpecCommitWritesDone_keeps cl entry s
  case holdPeakReset rg => exact execHoldPeakReset_keeps rg s
  case stepStart => exact execStepStart_keeps s
  case segmentFinish rg => exact execSegmentFinish_keeps rg s
  case stepBoundary => exact execStepBoundary_keeps s
  case clusterFence cl reason => exact execClusterFence_keeps cl reason s
  case replacement => exact execReplacement_keeps s
  case solverCallStart rg => exact execSolverCallStart_keeps rg s
  case nyalaWaveInputDone rg => exact execNyalaWaveInputDone_keeps rg s
  case nyalaWaveComputeDone rg => exact execNyalaWaveComputeDone_keeps rg s
  case nyalaCallDone rg => exact execNyalaCallDone_keeps rg s
  case solverDeadline rg k => exact execSolverDeadline_keeps rg k s
  case jacobiRound rg => exact execJacobiRound_keeps rg s
  case reduceScatterStart op => exact execReduceScatterStart_keeps op s
  case distributionStart op => exact execDistributionStart_keeps op s
  case factorReductionStart block => exact execFactorReductionStart_keeps block s
  case newtonNormalisation rg => exact execNewtonNormalisation_keeps rg s
  case medlarIterationDecision rg => exact execMedlarIterationDecision_keeps rg s
  case tagGrant rg => exact execTagGrant_keeps rg s
  case sorterAccept pt => exact execSorterAccept_keeps pt s
  case bankSchedule pt bank => exact execBankSchedule_keeps pt bank s
  case memoryReadReturn pt err => exact execMemoryReadReturn_keeps pt err s
  case watchdogPromotion pt => exact execWatchdogPromotion_keeps pt s
  case regulatorRefill pt => exact execRegulatorRefill_keeps pt s
  case scrubRead pt err => exact execScrubRead_keeps pt err s
  case hbmInitDone => exact execHbmInitDone_keeps s
  case linkTrainingDone p => exact execLinkTrainingDone_keeps p s
  case linkAlignmentLost p => exact execLinkAlignmentLost_keeps p s
  case linkAckTimeout p => exact execLinkAckTimeout_keeps p s
  case linkControlReceive p rx => exact execLinkControlReceive_keeps p rx s
  case linkControlSend p => exact execLinkControlSend_keeps p s
  case portSlotSend p => exact execPortSlotSend_keeps p s
  case packetReceive p rx => exact execPacketReceive_keeps p rx s
  case desc => exact execDesc_keeps s
  case data => exact execData_keeps s
  case ack => exact execAck_keeps s
  case nack => exact execNack_keeps s
  case cut => exact execCut_keeps s
  case streamStallTimeout stream => exact execStreamStallTimeout_keeps stream s
  case epochPrepare => exact execEpochPrepare_keeps s
  case epochReply => exact execEpochReply_keeps s
  case epochSwitch => exact execEpochSwitch_keeps s
  case epochPoll => exact execEpochPoll_keeps s
  case epochPollReply => exact execEpochPollReply_keeps s
  case epochRelease => exact execEpochRelease_keeps s
  case epochAbort => exact execEpochAbort_keeps s
  case epochPrepareTimeout => exact execEpochPrepareTimeout_keeps s
  case epochPollRound => exact execEpochPollRound_keeps s
  case drainTimeout => exact execDrainTimeout_keeps s
  case heartbeat => exact execHeartbeat_keeps s
  case partnerHeartbeatSend => exact execPartnerHeartbeatSend_keeps s
  case partnerLost => exact execPartnerLost_keeps s
  case verifyDigest => exact execVerifyDigest_keeps s
  case verifyResult => exact execVerifyResult_keeps s
  case chunkDigestDone => exact execChunkDigestDone_keeps s
  case healthSample sensors => exact execHealthSample_keeps sensors s
  case snapshotFreezeDone => exact execSnapshotFreezeDone_keeps s
  case level3Freeze => exact execLevel3Freeze_keeps s
  case snapshotMirrorDone => exact execSnapshotMirrorDone_keeps s
  case privateFillDone data => exact execPrivateFillDone_keeps data s
  case fillStallTimeout => exact execFillStallTimeout_keeps s
  case mbxInWrite port word take => exact execMbxInWrite_keeps port word take s
  case mbxOutRead port => exact execMbxOutRead_keeps port s
  case resync port => exact execResync_keeps port s
  case mbxDbHeartbeat port => exact execMbxDbHeartbeat_keeps port s
  case mbxDbStep port value => exact execMbxDbStep_keeps port value s
  case mbxDbIrq port bits => exact execMbxDbIrq_keeps port bits s
  case windowRead port off len => exact execWindowRead_keeps port off len s
  case windowWrite port off data => exact execWindowWrite_keeps port off data s
  case registerWrite w addr value => exact execRegisterWrite_keeps w addr value s
  case hostHeartbeatTimeout port => exact execHostHeartbeatTimeout_keeps port s
  case pciePortReset port perst => exact execPciePortReset_keeps port perst s
  case cfgApply => exact execCfgApply_keeps s
  case cfgIdleTimeout => exact execCfgIdleTimeout_keeps s
  case dmaCopyDone port k data bad => exact execDmaCopyDone_keeps port k data bad s
  case phaseNotice ph active => exact execPhaseNotice_keeps ph active s
  case powerStateEntry => exact execPowerStateEntry_keeps s
  case regionDomainSwitch => exact execRegionDomainSwitch_keeps s
  case computeResetGraceExpiry => exact execComputeResetGraceExpiry_keeps s
  case fwSessionTimeout => exact execFwSessionTimeout_keeps s
  case moduleResetExecute strap => exact execModuleResetExecute_keeps strap s
  case powerOnReset strap => exact execPowerOnReset_keeps strap s
  case bootLoadDone => exact execBootLoadDone_keeps s
  case bootReady => exact execBootReady_keeps s
  case bootWatchdog strap => exact execBootWatchdog_keeps strap s
  case powerInputLost mv high => exact execPowerInputLost_keeps mv high s
  case islandTimeout snd rcv => exact execIslandTimeout_keeps snd rcv s
  case droop rg => exact execDroop_keeps rg s
  case cageOvercurrent p => exact execCageOvercurrent_keeps p s
  case extRstAssert => exact execExtRstAssert_keeps s
  case extRstRelease strap => exact execExtRstRelease_keeps strap s
  case debugDataAccess write => exact execDebugDataAccess_keeps write s
  case arrStreamLastUpdate cl => exact execArrStreamLastUpdate_keeps cl s
  case arrDrainWritten cl => exact execArrDrainWritten_keeps cl s
  case placementFinished => exact execPlacementFinished_keeps s
  case linkTrainingStart p => exact execLinkTrainingStart_keeps p s
  case initCheckFailed strap => exact execInitCheckFailed_keeps strap s
  case perstDeassert port => exact execPerstDeassert_keeps port s
  case bar0MissizedRead port => exact execBar0MissizedRead_keeps port s

/-! ### The step -/

theorem step_keeps_wf {s t : State} (h : s.mem.wf = true) (e : step s = .next t) : t.mem.wf = true := by
  unfold step at e
  split at e
  next => cases e; exact (Keeps.refl s).tick.mem h
  next c rest _ =>
    obtain ⟨u, hu, k⟩ := exec_keeps c { s with pending := rest }
    rw [hu] at e
    cases e
    exact k.mem h

/-- Settles O5: a tick changes no byte, and every command keeps the canonical form. -/
theorem invariantKept : Obligations.InvariantKept := fun _ _ => step_keeps_wf

/-- Settles O3: every command answers a next state with the queue that it found. -/
theorem commandsLeaveQueue : Obligations.CommandsLeaveQueue := fun c s => by
  obtain ⟨t, e, k⟩ := exec_keeps c s
  exact ⟨t, e, k.pending⟩

/-- Settles O4: after reset no byte is listed. -/
theorem invariantAtReset : Obligations.InvariantAtReset := Memory.empty_wf

/-- Settles O1: a queue that is not empty has a front command. -/
theorem stepRunsFrontCommand : Obligations.StepRunsFrontCommand := fun s c rest h => by
  unfold step
  rw [h]

end Sys2Proof.Machine
end

section
/-! Proofs. Fields of a word, what an integer write leaves in each element and each register (R158, R163), and the two-source integer
instructions by these (R176). -/
namespace Sys2Proof.Machine

/-! ### Fields of a word -/

theorem testBit_fld {w : Nat} (x : BitVec w) (lo len i : Nat) : (fld x lo len).testBit i = (decide (i < len) && x.getLsbD (lo + i)) := by
  rw [fld, Nat.testBit_mod_two_pow, Nat.testBit_div_two_pow, BitVec.testBit_toNat, Nat.add_comm]

theorem fld_lt {w : Nat} (x : BitVec w) (lo len : Nat) : fld x lo len < 2 ^ len := Nat.mod_lt _ (Nat.two_pow_pos _)

theorem getLsbD_setBits {w : Nat} (x : BitVec w) (lo len val i : Nat) (h : i < w) :
    (setBits x lo len val).getLsbD i = if lo ≤ i ∧ i < lo + len then val.testBit (i - lo) else x.getLsbD i := by
  simp only [setBits, BitVec.getLsbD_or, BitVec.getLsbD_and, BitVec.getLsbD_not, BitVec.getLsbD_ofNat, Nat.testBit_mul_two_pow,
    Nat.testBit_two_pow_sub_one, Nat.testBit_mod_two_pow, h, decide_true, Bool.true_and]
  grind

/-- A field that is written reads as written. -/
theorem fld_setBits_self {w : Nat} (x : BitVec w) (lo len val : Nat) (h : lo + len ≤ w) : fld (setBits x lo len val) lo len = val % 2 ^ len := by
  refine Nat.eq_of_testBit_eq fun i => ?_
  rw [testBit_fld, Nat.testBit_mod_two_pow]
  by_cases hi : i < len
  · rw [getLsbD_setBits x lo len val _ (by omega), if_pos (by omega), Nat.add_sub_cancel_left]
  · simp [hi]

/-- A field apart from the one that is written reads as before. -/
theorem fld_setBits_other {w : Nat} (x : BitVec w) (lo lo' len val : Nat) (h : lo' + len ≤ lo ∨ lo + len ≤ lo') (hw : lo' + len ≤ w) :
    fld (setBits x lo len val) lo' len = fld x lo' len := by
  refine Nat.eq_of_testBit_eq fun i => ?_
  rw [testBit_fld, testBit_fld]
  by_cases hi : i < len
  · rw [getLsbD_setBits x lo len val _ (by omega), if_neg (by omega)]
  · simp [hi]

/-! ### Registers and codes (R158, R159) -/

theorem Vec.reg_setReg (v : Vec) (n m : Nat) (r : VReg) : (v.setReg n r).reg m = if m % 32 = n % 32 then r else v.reg m := by
  unfold Vec.reg Vec.setReg
  split
  next h => simp [h]
  next h => exact Vector.getElem_set_ne (Nat.mod_lt _ (by decide)) _ (Ne.symm h)

theorem Vec.EW_perReg (v : Vec) : perReg v.EW * v.EW = 8192 := by
  have h : ∀ e : BitVec 2, perReg (8 * 2 ^ e.toNat) * (8 * 2 ^ e.toNat) = 8192 := by decide
  exact h v.ew

section
variable {w : Nat} (hw : perReg w * w = 8192)
include hw

theorem perReg_pos : 0 < perReg w := Nat.pos_of_ne_zero fun h => by simp [h] at hw

/-- Where element k stands in its register. -/
theorem element_fits (k : Nat) : k % perReg w * w + w ≤ 8192 := by
  have h : k % perReg w + 1 ≤ perReg w := Nat.mod_lt k (perReg_pos hw)
  calc k % perReg w * w + w = (k % perReg w + 1) * w := by ring
    _ ≤ perReg w * w := Nat.mul_le_mul_right w h
    _ = 8192 := hw

omit hw in
/-- Two elements of one register stand apart. -/
theorem elements_apart {k e : Nat} (hd : k / perReg w = e / perReg w) (h : e ≠ k) :
    e % perReg w * w + w ≤ k % perReg w * w ∨ k % perReg w * w + w ≤ e % perReg w * w := by
  have hne : e % perReg w ≠ k % perReg w := fun hm => h (by rw [← Nat.div_add_mod e (perReg w), ← Nat.div_add_mod k (perReg w), hd, hm])
  rcases Nat.lt_or_gt_of_ne hne with hlt | hgt
  · exact .inl (by calc e % perReg w * w + w = (e % perReg w + 1) * w := by ring
      _ ≤ _ := Nat.mul_le_mul_right w hlt)
  · exact .inr (by calc k % perReg w * w + w = (k % perReg w + 1) * w := by ring
      _ ≤ _ := Nat.mul_le_mul_right w hgt)

/-- An element that is written reads as written, and every other element of its group as before. -/
theorem Vec.code_putCode (v : Vec) {n k e : Nat} (c : Nat) (hk : n + k / perReg w < 32) (he : n + e / perReg w < 32) :
    (v.putCode w n k c).code w n e = if e = k then c % 2 ^ w else v.code w n e := by
  simp only [Vec.code, Vec.putCode, Vec.reg_setReg, Nat.mod_eq_of_lt hk, Nat.mod_eq_of_lt he]
  split
  next hd =>
    have hd : k / perReg w = e / perReg w := by omega
    split
    next hek =>
      subst hek
      exact fld_setBits_self _ _ _ _ (element_fits hw e)
    next hek =>
      rw [fld_setBits_other _ _ _ _ _ (elements_apart hd hek) (element_fits hw e), hd]
  next hd =>
    rw [if_neg fun h => hd (by rw [h])]

end

theorem Vec.scale_putCode (v : Vec) (w n k c m : Nat) : ((v.putCode w n k c).reg m).scale = (v.reg m).scale := by
  rw [Vec.putCode, Vec.reg_setReg]
  split
  next h => simp only [Vec.reg, h]
  next => rfl

theorem Vec.reg_putCode_other (v : Vec) {w n k : Nat} (c : Nat) {m : Nat} (hm : m < 32) (hk : n + k / perReg w < 32) (h : m ≠ n + k / perReg w) :
    (v.putCode w n k c).reg m = v.reg m := by
  rw [Vec.putCode, Vec.reg_setReg, if_neg (by rw [Nat.mod_eq_of_lt hm, Nat.mod_eq_of_lt hk]; exact h)]

/-! ### Integer writes (R163) -/

theorem Vec.writeInt_succ (v : Vec) (w n count : Nat) (fn : Nat → Option Nat) :
    v.writeInt w n (count + 1) fn = (fn count).elim (v.writeInt w n count fn) ((v.writeInt w n count fn).putCode w n count) := by
  simp only [Vec.writeInt, List.range_succ, List.foldl_append, List.foldl_cons, List.foldl_nil]
  cases fn count <;> rfl

/-- A write of integer elements changes registers, and of them no scale byte. -/
theorem Vec.writeInt_frame (v : Vec) (w n count : Nat) (fn : Nat → Option Nat) :
    v.writeInt w n count fn = { v with v := (v.writeInt w n count fn).v } ∧
      ∀ m, ((v.writeInt w n count fn).reg m).scale = (v.reg m).scale := by
  induction count with
  | zero => exact ⟨rfl, fun _ => rfl⟩
  | succ k ih =>
    rw [Vec.writeInt_succ]
    cases fn k with
    | none => exact ih
    | some c =>
      rw [Option.elim_some]
      exact ⟨by rw [ih.1]; rfl, fun m => (Vec.scale_putCode ..).trans (ih.2 m)⟩

/-- A write of elements of a group leaves the registers outside the group. -/
theorem Vec.reg_writeInt_other (v : Vec) {w n count g : Nat} (fn : Nat → Option Nat) (hc : count ≤ g * perReg w) (hn : n + g ≤ 32) {m : Nat}
    (hm : m < 32) (h : m < n ∨ n + g ≤ m) : (v.writeInt w n count fn).reg m = v.reg m := by
  induction count with
  | zero => rfl
  | succ k ih =>
    have hk : k / perReg w < g := Nat.div_lt_of_lt_mul (by rw [Nat.mul_comm]; omega)
    have ih := ih (by omega)
    rw [Vec.writeInt_succ]
    cases fn k with
    | none => exact ih
    | some c =>
      refine (Vec.reg_putCode_other _ _ hm ?_ ?_).trans ih <;> generalize k / perReg w = q at hk <;> omega

/-- A write of the elements below count leaves each of them as fn gives it, and every other of the group as it was. -/
theorem Vec.code_writeInt (v : Vec) {w n count g : Nat} (hw : perReg w * w = 8192) (fn : Nat → Option Nat) (hc : count ≤ g * perReg w)
    (hn : n + g ≤ 32) {e : Nat} (he : e < g * perReg w) :
    (v.writeInt w n count fn).code w n e =
      if e < count then ((fn e).map (· % 2 ^ w)).getD (v.code w n e) else v.code w n e := by
  have inGroup : ∀ k, k < g * perReg w → n + k / perReg w < 32 := fun k hk => by
    have : k / perReg w < g := Nat.div_lt_of_lt_mul (by rw [Nat.mul_comm]; omega)
    omega
  induction count with
  | zero => rfl
  | succ k ih =>
    have ih := ih (by omega)
    rw [Vec.writeInt_succ]
    by_cases hek : e = k
    · subst hek
      rw [if_neg (lt_irrefl e)] at ih
      rw [if_pos (Nat.lt_succ_self e)]
      cases hf : fn e with
      | none => exact ih
      | some c =>
        exact (Vec.code_putCode hw _ _ (inGroup e he) (inGroup e he)).trans (if_pos rfl)
    · have hlt : e < k + 1 ↔ e < k := by omega
      simp only [hlt, ← ih]
      cases fn k with
      | none => rfl
      | some c => exact (Vec.code_putCode hw _ _ (inGroup k (by omega)) (inGroup e he)).trans (if_neg hek)

/-! ### Two-source integer instructions (R176) -/

theorem exec_of_integerRow {i : Instr} {a : VArgs} {f : Nat → Nat → Nat → Nat} (h : integerRow i = some (a, f)) (s : State) :
    exec i s = .next (s.vecOp a (scalarRegs a) fun v x => v.intBin a x f) := by
  cases i
  case viadd | visub | vimul | vimulh | vimulhu | vand | vor | vxor | vsll | vsrl | vsra | vimin | vimax | viminu | vimaxu =>
    cases h
    rfl
  all_goals cases h

theorem Vec.EW_pos (v : Vec) : 0 < v.EW := by unfold Vec.EW; positivity

/-- The result of an integer instruction is a code of the width. -/
theorem integerRow_lt {i : Instr} {a : VArgs} {f : Nat → Nat → Nat → Nat} (h : integerRow i = some (a, f)) {w p q : Nat}
    (hp : p < 2 ^ w) (hq : q < 2 ^ w) : f w p q < 2 ^ w := by
  have hpos : 0 < 2 ^ w := Nat.two_pow_pos w
  have hint (x : Int) : (x % 2 ^ w).toNat < 2 ^ w := by
    have h0 : (0 : Int) < 2 ^ w := by positivity
    have h1 := Int.emod_nonneg x h0.ne'
    have h2 := Int.emod_lt_of_pos x h0
    zify
    rwa [Int.toNat_of_nonneg h1]
  cases i
  case viadd | visub | vimul | vsll => cases h; exact Nat.mod_lt _ hpos
  case vimulh | vsra => cases h; exact hint _
  case vimulhu =>
    cases h
    exact Nat.div_lt_of_lt_mul (Nat.mul_lt_mul_of_lt_of_lt hp hq)
  case vand => cases h; exact Nat.and_lt_two_pow p hq
  case vor => cases h; exact Nat.or_lt_two_pow hp hq
  case vxor => cases h; exact Nat.xor_lt_two_pow hp hq
  case vsrl => cases h; exact (Nat.div_le_self ..).trans_lt hp
  case vimin | vimax =>
    cases h
    dsimp only
    split <;> assumption
  case viminu => cases h; exact (min_le_left p q).trans_lt hp
  case vimaxu => cases h; exact max_lt hp hq
  all_goals cases h

theorem Vec.code_lt (v : Vec) (w n k : Nat) : v.code w n k < 2 ^ w := fld_lt ..

theorem Vec.secondCode_lt (v : Vec) (a : VArgs) (x : XRegs) (k : Nat) : v.secondCode a x k < 2 ^ v.EW := by
  unfold Vec.secondCode
  split
  · exact Nat.mod_lt _ (Nat.two_pow_pos _)
  · exact Vec.code_lt ..

/-- A register field that names a single group leaves room for the whole group. -/
theorem Vec.group_fits {v : Vec} {r : BitVec 5} (h : v.useOk .int r = true) : r.toNat + v.G ≤ 32 := by
  have key : ∀ g : BitVec 2, ∀ r : BitVec 5, r.toNat % 2 ^ g.toNat = 0 → r.toNat + 2 ^ g.toNat ≤ 32 := by decide
  exact key v.grp r (of_decide_eq_true h)

/-- Settles O7: the instruction is an integer write whose results are codes of the element width. -/
theorem integerLanes : Obligations.IntegerLanes := by
  unfold Obligations.IntegerLanes
  intro i a f s hrow hwait k v hlegal
  have hvd : v.useOk .int a.vd = true := by
    simp only [Vec.legal, Bool.and_eq_true] at hlegal
    exact hlegal.1.1.1.1.1
  have hfits := Vec.group_fits hvd
  have hVL : v.VL ≤ v.G * perReg v.EW := min_le_right _ _
  have hvec : ((s.vecOp a (scalarRegs a) fun v x => v.intBin a x f).cl a.cl).vec = v.writeInt v.EW a.vd.toNat v.VL fun e =>
      if v.active a e then some (f v.EW (v.code v.EW a.vs1.toNat e) (v.secondCode a k.tahr.get e)) else none := by
    rw [State.vecOp_vec hwait, Vec.intBin]
    exact congrArg VRes.vec (if_pos hlegal)
  refine ⟨_, exec_of_integerRow hrow s, ?_⟩
  simp only [hvec]
  have hframe := Vec.writeInt_frame v v.EW a.vd.toNat v.VL fun e =>
      if v.active a e then some (f v.EW (v.code v.EW a.vs1.toNat e) (v.secondCode a k.tahr.get e)) else none
  refine ⟨fun e he => ?_, fun n _ => hframe.2 n, fun n hn hout => Vec.reg_writeInt_other v _ hVL hfits hn hout, ?_, ?_⟩
  · rw [Vec.code_writeInt v v.EW_perReg _ hVL hfits he]
    have hres := Nat.mod_eq_of_lt (integerRow_lt hrow (v.code_lt v.EW a.vs1.toNat e) (v.secondCode_lt a k.tahr.get e))
    by_cases hact : v.active a e = true
    · have hlt : e < v.VL := by simp only [Vec.active, Bool.and_eq_true, decide_eq_true_eq] at hact; exact hact.1
      simp [hact, hlt, hres]
    · simp [hact]
  · rw [hframe.1]
  · rw [hframe.1]
end Sys2Proof.Machine
end

section
/-! Proofs. What issuing a vector instruction makes of its cluster (R195, R218), legal or not (R180); vector accesses to tile memory
(R201 to R206); the words of vector instructions (R209 to R214). -/
namespace Sys2Proof.Machine

/-! ### Instructions on registers -/

theorem psumAny_eq (a : VArgs) (v : Vec) :
    (v.psum a fun _ ones => if ones.isEmpty then 0 else 1) = v.psum a fun _ ones => if ones = [] then 0 else 1 := by
  simp only [List.isEmpty_iff]

theorem psumFirst_eq (a : VArgs) (v : Vec) :
    (v.psum a fun _ ones => match ones with | [] => -1 | k :: _ => (k : Int)) =
      v.psum a fun _ ones => (ones.head?.map fun k => (k : Int)).getD (-1) := by
  congr 1
  funext _ ones
  cases ones <;> rfl

/-- A vector instruction on registers runs the operation of its row. -/
theorem exec_of_vectorRow {i : Instr} {a : VArgs} {rs : List (BitVec 5)} {op : Vec → XRegs → VRes}
    (h : vectorRow i = some (a, rs, op)) (s : State) : exec i s = .next (s.vecOp a rs op) := by
  cases i
  case vpsumAny =>
    cases h
    exact congrArg (fun op => Host.Outcome.next (s.vecOp a [] op)) (funext fun v => funext fun _ => psumAny_eq a v)
  case vpsumFirst =>
    cases h
    exact congrArg (fun op => Host.Outcome.next (s.vecOp a [] op)) (funext fun v => funext fun _ => psumFirst_eq a v)
  all_goals first | (cases h; done) | (cases h; rfl)

theorem State.vecOp_of_wait {s : State} {a : VArgs} (h : (s.cl a.cl).tahr.wait.isSome = true) (rs : List (BitVec 5))
    (op : Vec → XRegs → VRes) : s.vecOp a rs op = s := by
  have hwait : (s.cl a.cl).vecReady = false := by simpa [Cluster.vecReady] using h
  simp [State.vecOp, hwait]

/-- What an issued vector instruction makes of its cluster. -/
def Cluster.issued (k : Cluster) (rs : List (BitVec 5)) (op : Vec → XRegs → VRes) : Cluster :=
  let k := k.awaited rs
  let r := op k.vec k.tahr.get
  { k with vec := r.vec, tahr := { k.tahr with summaries := k.tahr.summaries ++ r.sum.toList } }.retire 4

theorem Cluster.vecReady_of_wait_none {k : Cluster} (h : k.tahr.wait = none) : k.vecReady = true := by
  rw [Cluster.vecReady, h, Option.isNone_none]

theorem State.vecOp_of_ready {s : State} {a : VArgs} (h : (s.cl a.cl).tahr.wait = none) (rs : List (BitVec 5))
    (op : Vec → XRegs → VRes) : s.vecOp a rs op = s.onCl a.cl fun k => k.issued rs op := by
  simp only [State.vecOp, Cluster.vecReady_of_wait_none h, Bool.not_true, Bool.false_eq_true, if_false]
  congr 1
  funext k
  unfold Cluster.issued
  dsimp only
  cases (op (k.awaited rs).vec (k.awaited rs).tahr.get).sum <;> simp

theorem OnlyCluster.onCl (s : State) (c : Cl) (f : Cluster → Cluster) : OnlyCluster c s (s.onCl c f) :=
  ⟨rfl, fun _ h => State.onCl_other s f h⟩

/-- Settles O6: what issues is `Cluster.issued`, and a retired instruction changes the pc and counts only. -/
theorem vectorRegisterOps : Obligations.VectorRegisterOps := by
  unfold Obligations.VectorRegisterOps
  intro i a rs op s hrow
  rw [exec_of_vectorRow hrow]
  refine ⟨fun hwait => by rw [State.vecOp_of_wait hwait], fun hwait => ⟨_, exec_of_vectorRow hrow s, ?_⟩⟩
  rw [State.vecOp_of_ready hwait]
  refine ⟨OnlyCluster.onCl .., ?_⟩
  simp only [State.onCl_self, Cluster.issued]
  rw [Cluster.retire_eq]
  exact ⟨rfl, rfl, rfl, rfl, rfl, rfl, rfl, rfl, rfl, rfl, rfl, rfl, rfl, rfl, rfl, rfl⟩

/-! ### Illegal vector instructions (R180) -/

theorem Vec.guarded_of_illegal {v : Vec} {ok : Bool} (h : ok = false) (r : VRes) : v.guarded ok r = { vec := v.illegal } := by
  rw [h]; rfl

theorem illegal_of_vectorOk {i : Instr} {a : VArgs} {rs : List (BitVec 5)} {op : Vec → XRegs → VRes} {ok : Vec → Bool}
    (hrow : vectorRow i = some (a, rs, op)) (hok : vectorOk i = some ok) {v : Vec} (hv : ok v = false) (x : XRegs) :
    op v x = { vec := v.illegal } := by
  cases i
  case vredsum | vredmax | vredmin | vsegsum | vsegmax | vsegmin | vsmax =>
    cases hrow
    cases hok
    simp only [Vec.red, Vec.intRed, Vec.siRed, Vec.seg, Vec.smax]
    dsimp only at hv
    split at hv
    next hx => rw [if_pos hx]; exact Vec.guarded_of_illegal hv _
    next hx => rw [if_neg hx]; exact Vec.guarded_of_illegal hv _
  all_goals first | (cases hrow; done) | (cases hrow; cases hok; exact Vec.guarded_of_illegal hv _)

theorem vectorOk_isSome (i : Instr) (h : (vectorRow i).isSome = true) : (vectorOk i).isSome = true := by
  cases i <;> first | rfl | cases h

/-- An illegal instruction that retires is turned away. -/
theorem TurnedAway.retire (k : Cluster) : TurnedAway k ({ k with vec := k.vec.illegal }.retire 4) := by
  rw [Cluster.retire_eq]
  exact ⟨rfl, rfl, rfl, rfl⟩

theorem Cluster.issued_of_illegal {k : Cluster} {rs : List (BitVec 5)} {op : Vec → XRegs → VRes}
    (h : ∀ x, op (k.awaited rs).vec x = { vec := (k.awaited rs).vec.illegal }) :
    k.issued rs op = { k.awaited rs with vec := (k.awaited rs).vec.illegal }.retire 4 := by
  simp only [Cluster.issued, h, Option.toList_none, List.append_nil]

/-! ### Loads and stores of the vector engine (R201 to R206) -/

theorem State.tileWrite_nil (s : State) (c : Cl) : s.tileWrite c [] = s := rfl

/-- A kernel writes what it may write. -/
theorem State.firingWrite_of_mayWrite {s : State} {c : Cl} {ws : List WByte} (h : MayWrite (s.cl c) ws) :
    s.firingWrite c (s.cl c).kernelFiring ws = s.tileWrite c ws := by
  unfold State.firingWrite
  split
  next f hf =>
    split
    next hheld =>
      have hall := List.filter_eq_self.mpr (h f hf hheld)
      have hnone : (ws.filter fun w => !(s.cl c).inClaim f.entry w.addr) = [] :=
        List.filter_eq_nil_iff.mpr fun w hw => by simp [h f hf hheld w hw]
      rw [List.partition_eq_filter_filter]
      simp only [hall]
      erw [hnone]
      rfl
    next => rfl
  next => rfl

/-- A firing apart from its tally. -/
def Firing.untallied (f : Firing) : Firing := { f with tally := [] }

theorem Cluster.charge_firings (k : Cluster) (f : Option Firing) (engine slot n : Nat) :
    (k.charge f engine slot n).firings.map Firing.untallied = k.firings.map Firing.untallied := by
  have hcount : (k.count engine slot n).firings = k.firings := by unfold Cluster.count; split <;> rfl
  unfold Cluster.charge
  split
  · split
    · simp only [Cluster.onFiring, List.map_map]
      refine List.map_congr_left fun x _ => ?_
      simp only [Function.comp]
      split <;> rfl
    · rw [hcount]
  · rw [hcount]

theorem Cluster.firing_untallied (k : Cluster) (i : Nat) :
    (k.firing i).map Firing.untallied = (k.firings.map Firing.untallied).find? (·.entry == i) := by
  rw [List.find?_map]
  rfl

theorem Cluster.retire_firings (k : Cluster) (n : Nat) : (k.retire n).firings.map Firing.untallied = k.firings.map Firing.untallied := by
  unfold Cluster.retire
  split
  · rfl
  · exact Cluster.charge_firings ..

theorem Cluster.retire_kernelFiring (k : Cluster) (n : Nat) :
    (k.retire n).kernelFiring.map Firing.untallied = k.kernelFiring.map Firing.untallied := by
  have hfiring (i : Nat) : ((k.retire n).firing i).map Firing.untallied = (k.firing i).map Firing.untallied := by
    rw [Cluster.firing_untallied, Cluster.firing_untallied, Cluster.retire_firings]
  have hkernel : (k.retire n).tahr.kernel = k.tahr.kernel.map fun x => { x with retired := x.retired + 1 } := by rw [Cluster.retire_eq]
  unfold Cluster.kernelFiring
  rw [hkernel]
  cases k.tahr.kernel with
  | none => rfl
  | some t => exact hfiring t.entry

theorem MayWrite.retire {k u : Cluster} {ws : List WByte} (h : MayWrite k ws) (hf : u.kernelFiring.map Firing.untallied = k.kernelFiring.map Firing.untallied)
    (hb : u.bufs = k.bufs) : MayWrite u ws := by
  intro f hu hheld w hw
  rw [hu, Option.map_some] at hf
  obtain ⟨g, hg, hfg⟩ := Option.map_eq_some_iff.mp hf.symm
  have hentry : g.untallied.entry = f.untallied.entry := by rw [hfg]
  have hguards : g.untallied.guards = f.untallied.guards := by rw [hfg]
  simp only [Firing.untallied] at hentry hguards
  have hclaim := h g hg (by rw [Firing.held, hguards]; exact hheld) w hw
  simpa only [Cluster.inClaim, hb, hentry] using hclaim

/-- What an issued vector access to memory makes of its cluster. -/
def Cluster.accessed (k : Cluster) (a : VArgs) (v : Vec) : Cluster := { k.awaited [a.vs1, nextReg a.vs1] with vec := v }.retire 4

theorem Cluster.accessed_kernelFiring (k : Cluster) (a : VArgs) (v : Vec) :
    (k.accessed a v).kernelFiring.map Firing.untallied = k.kernelFiring.map Firing.untallied := by
  rw [Cluster.accessed, Cluster.retire_kernelFiring, Cluster.kernelFiring, Cluster.kernelFiring, Cluster.awaited_eq]
  simp only [Tahr.await_kernel]
  rfl

theorem Cluster.accessed_vec (k : Cluster) (a : VArgs) (v : Vec) : (k.accessed a v).vec = v := by
  rw [Cluster.accessed, Cluster.retire_vec]

theorem Cluster.accessed_bufs (k : Cluster) (a : VArgs) (v : Vec) : (k.accessed a v).bufs = k.bufs := by
  rw [Cluster.accessed, Cluster.retire_eq]; rfl

theorem State.vecMem_of_wait {s : State} {a : VArgs} (h : (s.cl a.cl).tahr.wait.isSome = true) (fn : Vec → XRegs → Src → VMemRes) :
    s.vecMem a fn = s := by
  have hwait : (s.cl a.cl).vecReady = false := by simpa [Cluster.vecReady] using h
  simp [State.vecMem, hwait]

/-- The result of a vector access to memory on the state where it issues. -/
def State.accessRes (s : State) (a : VArgs) (fn : Vec → XRegs → Src → VMemRes) : VMemRes :=
  let k := (s.cl a.cl).awaited [a.vs1, nextReg a.vs1]
  fn k.vec k.tahr.get { byte := s.kernelTile a.cl }

theorem State.vecMem_of_mayWrite {s : State} {a : VArgs} (h : (s.cl a.cl).tahr.wait = none) {fn : Vec → XRegs → Src → VMemRes}
    (hw : MayWrite (s.cl a.cl) (s.accessRes a fn).writes) :
    s.vecMem a fn = (s.onCl a.cl fun k => k.accessed a (s.accessRes a fn).vec).tileWrite a.cl (s.accessRes a fn).writes := by
  simp only [State.vecMem, Cluster.vecReady_of_wait_none h, Bool.not_true, Bool.false_eq_true, if_false]
  refine State.firingWrite_of_mayWrite ?_
  rw [State.onCl_self]
  exact hw.retire (Cluster.accessed_kernelFiring ..) (Cluster.accessed_bufs ..)

theorem mayWrite_nil (k : Cluster) : MayWrite k [] := fun _ _ _ _ h => absurd h (List.not_mem_nil)

/-- A vector access to memory that writes nothing changes its cluster alone. -/
theorem State.vecMem_of_no_writes {s : State} {a : VArgs} (h : (s.cl a.cl).tahr.wait = none) {fn : Vec → XRegs → Src → VMemRes}
    (hw : (s.accessRes a fn).writes = []) :
    s.vecMem a fn = s.onCl a.cl fun k => k.accessed a (s.accessRes a fn).vec := by
  rw [State.vecMem_of_mayWrite h (by rw [hw]; exact mayWrite_nil _), hw, State.tileWrite_nil]

theorem Vec.ld_writes (v : Vec) (f : VArgs) (descs : Nat → Desc) (x : XRegs) (m : Src) : (v.ld f descs x m).writes = [] := by
  unfold Vec.ld
  dsimp only
  split
  · rfl
  · split <;> rfl

theorem Vec.ldres_writes (v : Vec) (f : VArgs) (x : XRegs) (m : Src) : (v.ldres f x m).writes = [] := by
  unfold Vec.ldres
  dsimp only
  rw [apply_ite VMemRes.writes]
  exact ite_self _

/-- Settles O10: an access that its kernel may make changes its cluster, and memory by its own bytes. -/
theorem vectorMemoryOps : Obligations.VectorMemoryOps := by
  unfold Obligations.VectorMemoryOps
  intro a s
  refine ⟨fun hwait i hi => ?_, fun hwait => ⟨?_, ?_⟩⟩
  · have hexec : ∃ fn, exec i s = .next (s.vecMem a fn) := by
      simp only [List.mem_cons, List.not_mem_nil, or_false] at hi
      obtain rfl | rfl | rfl | rfl := hi <;> exact ⟨_, rfl⟩
    obtain ⟨fn, hexec⟩ := hexec
    rw [hexec, State.vecMem_of_wait hwait]
  · have load (i : Instr) (fn) (hexec : exec i s = .next (s.vecMem a fn)) (hw : (s.accessRes a fn).writes = []) :
        Answers i s fun t => OnlyCluster a.cl s t ∧ (t.cl a.cl).vec = (s.accessRes a fn).vec := by
      refine ⟨_, hexec, ?_⟩
      rw [State.vecMem_of_no_writes hwait hw]
      exact ⟨OnlyCluster.onCl .., by rw [State.onCl_self, Cluster.accessed_vec]⟩
    intro i r hi
    simp only [List.mem_cons, List.not_mem_nil, or_false, Prod.mk.injEq] at hi
    obtain ⟨rfl, rfl⟩ | ⟨rfl, rfl⟩ := hi
    · exact load _ (fun v x m => v.ld a s.desc x m) rfl (Vec.ld_writes ..)
    · exact load _ (fun v x m => v.ldres a x m) rfl (Vec.ldres_writes ..)
  · have store (i : Instr) (fn) (hexec : exec i s = .next (s.vecMem a fn)) (hmay : MayWrite (s.cl a.cl) (s.accessRes a fn).writes)
        (hwf : s.mem.wf = true) :
        Answers i s fun t => t = { s with cls := t.cls, mem := t.mem } ∧ (∀ d, d ≠ a.cl → t.cl d = s.cl d) ∧
          (t.cl a.cl).vec = (s.accessRes a fn).vec ∧
          t.mem = s.mem.write ((s.accessRes a fn).writes.map fun w => { w with addr := tileBase a.cl.val + w.addr }) ∧
          ∀ b, (∀ w ∈ (s.accessRes a fn).writes, tileBase a.cl.val + w.addr ≠ b) → t.mem.get b = s.mem.get b := by
      refine ⟨_, hexec, ?_⟩
      rw [State.vecMem_of_mayWrite hwait hmay]
      generalize s.accessRes a fn = r at *
      refine ⟨rfl, fun d hd => State.onCl_other s (·.accessed a r.vec) hd, ?_, rfl, fun b hb => Memory.get_write_other hwf _ b ?_⟩
      · exact (congrArg Cluster.vec (State.onCl_self s a.cl (·.accessed a r.vec))).trans (Cluster.accessed_vec ..)
      · simpa using hb
    intro i r hi hmay hwf
    simp only [List.mem_cons, List.not_mem_nil, or_false, Prod.mk.injEq] at hi
    obtain ⟨rfl, rfl⟩ | ⟨rfl, rfl⟩ := hi
    · exact store _ (fun v x _ => v.st a s.desc x) rfl hmay hwf
    · exact store _ (fun v x _ => v.stres a x) rfl hmay hwf

/-! ### Words of vector instructions (R209 to R214) -/

theorem vectorArgs_vectorBits (major fn : Nat) (a : VArgs) : vectorArgs a.cl (vectorBits major fn a) = a := by
  obtain ⟨cl, vd, pm, m, vs1, vs2, x⟩ := a
  simp only [vectorArgs, VArgs.mk.injEq, true_and]
  refine ⟨?_, ?_, ?_, ?_, ?_, ?_⟩
  case refine_3 | refine_6 => rw [vectorBits]; simp only [BitVec.getLsbD_append]; simp
  all_goals
    ext i hi
    simp [vectorBits]
    grind

theorem vectorBits_fn {fn : Nat} (major : Nat) (h : fn < 32) (a : VArgs) :
    ((vectorBits major fn a).extractLsb' 26 5).toNat = fn := by
  have hfield : (vectorBits major fn a).extractLsb' 26 5 = BitVec.ofNat 5 fn := by
    ext i hi
    simp [vectorBits]
    grind
  rw [hfield]
  simpa using h

theorem vectorBits_major {major : Nat} (fn : Nat) (h : major < 128) (a : VArgs) :
    ((vectorBits major fn a).extractLsb' 0 7).toNat = major := by
  have hfield : (vectorBits major fn a).extractLsb' 0 7 = BitVec.ofNat 7 major := by
    ext i hi
    simp [vectorBits]
    grind
  rw [hfield]
  simpa using h

theorem vectorWord_si {fn : Nat} (h : fn < 32) (a : VArgs) : vectorWord a.cl (vectorBits 0x5B fn a) = some (vectorSi fn a) := by
  simp only [vectorWord, vectorBits_major fn (show 0x5B < 128 by decide) a, vectorBits_fn 0x5B h a, vectorArgs_vectorBits]

theorem vectorWord_int {fn : Nat} (h : fn < 32) (a : VArgs) : vectorWord a.cl (vectorBits 0x2B fn a) = vectorInt fn a := by
  simp only [vectorWord, vectorBits_major fn (show 0x2B < 128 by decide) a, vectorBits_fn 0x2B h a, vectorArgs_vectorBits]

theorem vectorWord_ctl {fn : Nat} (h : fn < 32) (a : VArgs) : vectorWord a.cl (vectorBits 0x7B fn a) = vectorCtl fn a := by
  simp only [vectorWord, vectorBits_major fn (show 0x7B < 128 by decide) a, vectorBits_fn 0x7B h a, vectorArgs_vectorBits]

theorem claim_vectorWords : Claim.VectorWords := by
  intro a
  refine ⟨fun n f hf => ?_, fun n f hf => ?_, fun n f hf => ?_, ?_, fun n f hf => ?_, fun n hn => ?_, ?_, ?_⟩
  · have hn : n < 32 := (List.getElem?_eq_some_iff.mp hf).1
    rw [vectorWord_si hn]
    interval_cases n <;> cases hf <;> rfl
  · have hn : n < 30 := (List.getElem?_eq_some_iff.mp hf).1
    rw [vectorWord_int (by omega)]
    interval_cases n <;> cases hf <;> rfl
  · have hn : n < 24 := (List.getElem?_eq_some_iff.mp hf).1
    rw [vectorWord_ctl (by omega)]
    interval_cases n <;> cases hf <;> rfl
  · rw [vectorWord_ctl (by decide)]
    change vectorPsum a = _
    have h : a.vs2.toNat < 32 := a.vs2.isLt
    unfold vectorPsum
    generalize a.vs2.toNat = n at h
    interval_cases n <;> rfl
  · simp only [List.mem_cons, List.not_mem_nil, or_false, Prod.mk.injEq] at hf
    obtain ⟨rfl, rfl⟩ | ⟨rfl, rfl⟩ | ⟨rfl, rfl⟩ | ⟨rfl, rfl⟩ | ⟨rfl, rfl⟩ | ⟨rfl, rfl⟩ | ⟨rfl, rfl⟩ := hf <;>
      exact vectorWord_ctl (by decide) a
  · simp only [List.mem_cons, List.not_mem_nil, or_false] at hn
    obtain rfl | rfl := hn <;> exact vectorWord_int (by decide) a
  · rfl
  · rfl

/-! ### Claims -/

theorem accessRes_illegal {s : State} {a : VArgs} (fn : Vec → XRegs → Src → VMemRes) (hwait : (s.cl a.cl).tahr.wait = none)
    (h : s.accessRes a fn = { vec := ((s.cl a.cl).awaited [a.vs1, nextReg a.vs1]).vec.illegal }) {i : Instr}
    (hexec : exec i s = .next (s.vecMem a fn)) :
    Answers i s fun t => t = { s with cls := t.cls, mem := t.mem } ∧ t.mem.cells = s.mem.cells ∧
      TurnedAway ((s.cl a.cl).awaited [a.vs1, nextReg a.vs1]) (t.cl a.cl) := by
  refine ⟨_, hexec, ?_⟩
  rw [State.vecMem_of_no_writes hwait (by rw [h]), h]
  refine ⟨rfl, rfl, ?_⟩
  rw [State.onCl_self]
  exact TurnedAway.retire _

theorem Vec.ld_of_not_legal {v : Vec} {f : VArgs} {descs : Nat → Desc} {x : XRegs} (m : Src)
    (hu : (fmtOf (vfmt f) (descs (vfmt f))).usable = true) (hl : v.memLegal false f (fmtOf (vfmt f) (descs (vfmt f))) x = false) :
    v.ld f descs x m = { vec := v.illegal } := by
  simp [Vec.ld, hu, hl]

theorem Vec.st_of_not_legal {v : Vec} {f : VArgs} {descs : Nat → Desc} {x : XRegs}
    (hu : (fmtOf (vfmt f) (descs (vfmt f))).usable = true) (hl : v.memLegal true f (fmtOf (vfmt f) (descs (vfmt f))) x = false) :
    v.st f descs x = { vec := v.illegal } := by
  simp [Vec.st, hu, hl]

theorem Vec.ldres_of_not_legal {v : Vec} {f : VArgs} {x : XRegs} (m : Src) (hl : v.resLegal f = false) :
    v.ldres f x m = { vec := v.illegal } := by
  simp [Vec.ldres, hl]

theorem Vec.stres_of_not_legal {v : Vec} {f : VArgs} {x : XRegs} (hl : v.resLegal f = false) :
    v.stres f x = { vec := v.illegal } := by
  simp [Vec.stres, hl]

theorem claim_illegalVectorOps : Claim.IllegalVectorOps := by
  refine ⟨?_, vectorOk_isSome, ?_⟩
  · intro i a rs op ok s hrow hok hwait k hv
    refine ⟨_, exec_of_vectorRow hrow s, ?_⟩
    rw [State.vecOp_of_ready hwait]
    refine ⟨OnlyCluster.onCl .., ?_⟩
    rw [State.onCl_self, Cluster.issued_of_illegal (illegal_of_vectorOk hrow hok hv)]
    exact TurnedAway.retire _
  · intro a s hwait k fmt
    refine ⟨?_, ?_⟩
    · intro i store hi hu hl
      simp only [List.mem_cons, List.not_mem_nil, or_false, Prod.mk.injEq] at hi
      obtain ⟨rfl, rfl⟩ | ⟨rfl, rfl⟩ := hi
      · exact accessRes_illegal (fun v x m => v.ld a s.desc x m) hwait (Vec.ld_of_not_legal _ hu hl) rfl
      · exact accessRes_illegal (fun v x _ => v.st a s.desc x) hwait (Vec.st_of_not_legal hu hl) rfl
    · intro i hi hl
      simp only [List.mem_cons, List.not_mem_nil, or_false] at hi
      obtain rfl | rfl := hi
      · exact accessRes_illegal (fun v x m => v.ldres a x m) hwait (Vec.ldres_of_not_legal _ hl) rfl
      · exact accessRes_illegal (fun v x _ => v.stres a x) hwait (Vec.stres_of_not_legal hl) rfl

theorem State.onCl_of_eq {s : State} {c : Cl} {f : Cluster → Cluster} (h : f (s.cl c) = s.cl c) : s.onCl c f = s := by
  have hset : s.cls.set c (f (s.cl c)) = s.cls := by
    rw [h]
    exact Vector.set_getElem_self _
  rw [State.onCl, show s.cls[c] = s.cl c from rfl, hset]

theorem claim_summaryDelivery : Claim.SummaryDelivery := by
  refine ⟨fun c s h => ?_, fun c s x rest h => ⟨_, rfl, OnlyCluster.onCl .., ?_⟩⟩
  · have hone : (s.cl c).tahr.deliverOne = (s.cl c).tahr := by rw [Tahr.deliverOne, h]
    have hcl : s.onCl c (fun k => { k with tahr := k.tahr.deliverOne }) = s := State.onCl_of_eq (by rw [hone])
    exact congrArg Host.Outcome.next hcl
  · have hone : (s.cl c).tahr.deliverOne = { (s.cl c).tahr with summaries := rest }.set x.rd x.value := by rw [Tahr.deliverOne, h]
    rw [State.onCl_self, hone]
    exact ⟨rfl, by rw [Tahr.set_eq], fun r => Tahr.get_set ..⟩

/-- Settles O11, part by part. -/
theorem illegalOpsAndDelivery : Obligations.IllegalOpsAndDelivery :=
  ⟨claim_vectorWords, claim_illegalVectorOps, claim_summaryDelivery⟩

end Sys2Proof.Machine
end

section
/-! Proofs. Tahr: fetch and issue, the instructions of the base set (R215, R216), loads and stores (R245, R632), its control and status
registers (R219, R636), and how a kernel drives the array, the slots and the guards (R220 to R224). -/
namespace Sys2Proof.Machine

/-! ### Fetch and issue -/

@[simp] theorem State.onCl_onCl (s : State) (c : Cl) (f g : Cluster → Cluster) :
    (s.onCl c f).onCl c g = s.onCl c fun k => g (f k) := by
  simp [State.onCl]

theorem fetchParcel_eq (t : Tahr) (fill : Nat → BitVec 512) (a : Nat) :
    (fetchParcel t fill a).1 = { t with icache := (fetchParcel t fill a).1.icache, fetches := (fetchParcel t fill a).1.fetches } := by
  unfold fetchParcel
  dsimp only
  split
  · split <;> rfl
  · rfl

/-- A fetch changes the instruction cache and the count of fetches, and nothing else. -/
theorem Tahr.fetch_eq (t : Tahr) (fill : Nat → BitVec 512) :
    (t.fetch fill).1 = { t with icache := (t.fetch fill).1.icache, fetches := (t.fetch fill).1.fetches } := by
  have h1 := fetchParcel_eq t fill t.pc.toNat
  have h2 := fetchParcel_eq (fetchParcel t fill t.pc.toNat).1 fill (t.pc.toNat + 2)
  unfold Tahr.fetch
  dsimp only
  split
  · rfl
  · split
    · exact h1
    · split
      · exact h1
      · rw [h1] at h2
        rw [h1]
        exact h2

theorem Cluster.tahrReady_iff {k : Cluster} : k.tahrReady = true ↔ k.tahr.kernel.isSome = true ∧ k.tahr.wait = none := by
  simp [Cluster.tahrReady]

/-- The cluster at the issue of an instruction: fetched, and its registers awaited. -/
def Cluster.fetched (k : Cluster) (u : Tahr) (i : Rv) : Cluster := ({ k with tahr := u }).awaited i.regs

theorem Cluster.fetched_units {k : Cluster} {u : Tahr} {fill : Nat → BitVec 512} {r : Option (BitVec 32 × Nat)}
    (h : k.tahr.fetch fill = (u, r)) (i : Rv) :
    SameUnits k (k.fetched u i) ∧ (k.fetched u i).tahr.wait = k.tahr.wait ∧ (k.fetched u i).tahr.kernel = k.tahr.kernel ∧
      (k.fetched u i).firings = k.firings := by
  have hu : u = { k.tahr with icache := u.icache, fetches := u.fetches } := by
    have := Tahr.fetch_eq k.tahr fill
    rwa [h] at this
  refine ⟨⟨rfl, rfl, rfl, rfl, rfl, rfl, rfl, rfl, rfl, rfl, rfl, rfl⟩, ?_, ?_, rfl⟩
  · rw [Cluster.fetched, Cluster.awaited_eq, Tahr.await_wait, hu]
  · rw [Cluster.fetched, Cluster.awaited_eq, Tahr.await_kernel, hu]

/-- What TAHR_BASE_INSTRUCTION comes to, once the instruction is fetched. -/
theorem exec_base_of_fetch {c : Cl} {s : State} {u : Tahr} {w : BitVec 32} {len : Nat} (hready : (s.cl c).tahrReady = true)
    (hfetch : (s.cl c).tahr.fetch (s.tileLine c) = (u, some (w, len))) :
    exec (.tahrBaseInstruction c) s = .next ((s.onCl c fun _ => (s.cl c).fetched u (rvOf w)).rvExec c (rvOf w) len) := by
  change execTahrBaseInstruction c s = _
  simp only [execTahrBaseInstruction, hready, Bool.not_true, Bool.false_eq_true, if_false, hfetch, State.onCl_onCl]
  rfl

theorem exec_base_of_fetch_none {c : Cl} {s : State} {u : Tahr} (hready : (s.cl c).tahrReady = true)
    (hfetch : (s.cl c).tahr.fetch (s.tileLine c) = (u, none)) :
    exec (.tahrBaseInstruction c) s = .next ((s.onCl c fun k => { k with tahr := u }).tahrFault c 2) := by
  change execTahrBaseInstruction c s = _
  simp only [execTahrBaseInstruction, hready, Bool.not_true, Bool.false_eq_true, if_false, hfetch]

/-! ### Results -/

/-- What an instruction of Tahr that retires leaves of its cluster: a value in a register, the next pc. -/
structure Computed (k u : Cluster) (rd : BitVec 5) (v pc : Word) : Prop where
  units : SameUnits k u
  pc : u.tahr.pc = pc
  wait : u.tahr.wait = k.tahr.wait
  get : ∀ r : BitVec 5, u.tahr.get r = if r = rd ∧ r ≠ 0 then v else k.tahr.get r
  kernel : u.tahr.kernel = k.tahr.kernel.map fun x => { x with retired := x.retired + 1 }

theorem SameUnits.refl (k : Cluster) : SameUnits k k := ⟨rfl, rfl, rfl, rfl, rfl, rfl, rfl, rfl, rfl, rfl, rfl, rfl⟩

theorem SameUnits.trans {k u w : Cluster} (h : SameUnits k u) (g : SameUnits u w) : SameUnits k w := by
  unfold SameUnits at *
  simp only [g, h, and_self]

theorem SameUnits.retire (k : Cluster) (n : Nat) : SameUnits k (k.retire n) := by
  rw [Cluster.retire_eq]
  exact SameUnits.refl k

theorem Cluster.retire_pc {k : Cluster} (h : k.tahr.kernel.isSome = true) (n : Nat) : (k.retire n).tahr.pc = k.tahr.pc + BitVec.ofNat 64 n := by
  rw [Cluster.retire_eq]
  exact if_pos h

@[simp] theorem Cluster.retire_wait (k : Cluster) (n : Nat) : (k.retire n).tahr.wait = k.tahr.wait := by rw [Cluster.retire_eq]
@[simp] theorem Cluster.retire_x (k : Cluster) (n : Nat) : (k.retire n).tahr.x = k.tahr.x := by rw [Cluster.retire_eq]

theorem Cluster.retire_kernel (k : Cluster) (n : Nat) :
    (k.retire n).tahr.kernel = k.tahr.kernel.map fun x => { x with retired := x.retired + 1 } := by rw [Cluster.retire_eq]

theorem Tahr.get_of_x {t u : Tahr} (h : t.x = u.x) (r : BitVec 5) : t.get r = u.get r := by rw [Tahr.get, Tahr.get, h]

@[simp] theorem Cluster.retire_get (k : Cluster) (n : Nat) (r : BitVec 5) : (k.retire n).tahr.get r = k.tahr.get r :=
  Tahr.get_of_x (k.retire_x n) r

theorem Computed.set_retire {k : Cluster} (h : k.tahr.kernel.isSome = true) (rd : BitVec 5) (v : Word) (n : Nat) :
    Computed k ({ k with tahr := k.tahr.set rd v }.retire n) rd v (k.tahr.pc + BitVec.ofNat 64 n) where
  units := SameUnits.retire { k with tahr := k.tahr.set rd v } n
  pc := by rw [Cluster.retire_pc (by simpa using h)]; simp
  wait := by simp
  get r := by rw [Cluster.retire_get, Tahr.get_set]
  kernel := by rw [Cluster.retire_kernel]; simp

theorem Computed.set_retireTo (k : Cluster) (rd : BitVec 5) (v pc : Word) :
    Computed k ({ k with tahr := k.tahr.set rd v }.retireTo pc) rd v pc where
  units := SameUnits.retire { k with tahr := k.tahr.set rd v } 0
  pc := rfl
  wait := by simp [Cluster.retireTo]
  get r := (Cluster.retire_get { k with tahr := k.tahr.set rd v } 0 r).trans (Tahr.get_set ..)
  kernel := by simp [Cluster.retireTo, Cluster.retire_kernel]

/-- An instruction of the base set that touches no memory does what its row says. -/
theorem rvExec_of_result {s : State} {c : Cl} {i : Rv} {len : Nat} {rd : BitVec 5} {v pc : Word}
    (hk : (s.cl c).tahr.kernel.isSome = true)
    (h : rvResult i (s.cl c).tahr.pc ((s.cl c).tahr.pc + BitVec.ofNat 64 len) (s.cl c).tahr.get = some (rd, v, pc)) :
    ∃ f : Cluster → Cluster, s.rvExec c i len = s.onCl c f ∧ Computed (s.cl c) (f (s.cl c)) rd v pc := by
  have setReg (rd : BitVec 5) (v : Word) : ∃ f : Cluster → Cluster, s.tahrSet c rd v len = s.onCl c f ∧
      Computed (s.cl c) (f (s.cl c)) rd v ((s.cl c).tahr.pc + BitVec.ofNat 64 len) := ⟨_, rfl, Computed.set_retire hk rd v len⟩
  have jump (rd : BitVec 5) (v pc : Word) : ∃ f : Cluster → Cluster,
      (s.onCl c fun k => { k with tahr := k.tahr.set rd v }.retireTo pc) = s.onCl c f ∧ Computed (s.cl c) (f (s.cl c)) rd v pc :=
    ⟨_, rfl, Computed.set_retireTo ..⟩
  cases i
  case lui | auipc | opImm | opImmW | op | opW => cases h; exact setReg ..
  case jal | jalr => cases h; exact jump ..
  case branch f3 rs1 rs2 off =>
    cases h
    exact ⟨fun k => k.retireTo _, rfl, Computed.set_retireTo (s.cl c) 0 0 _⟩
  all_goals cases h

/-- Settles O12: each instruction of the base set writes a register and a pc, and then retires. -/
theorem tahrComputes : Obligations.TahrComputes := by
  unfold Obligations.TahrComputes
  intro c s u w len hready hfetch k rd v pc hres
  obtain ⟨hunits, hwait, hkernel, -⟩ := Cluster.fetched_units hfetch (rvOf w)
  obtain ⟨hk, hw⟩ := Cluster.tahrReady_iff.mp hready
  obtain ⟨f, hf, hc⟩ := rvExec_of_result (s := s.onCl c fun _ => (s.cl c).fetched u (rvOf w)) (c := c) (i := rvOf w) (len := len)
    (rd := rd) (v := v) (pc := pc) (by rw [State.onCl_self, hkernel]; exact hk) (by rw [State.onCl_self]; exact hres)
  rw [State.onCl_self] at hc
  refine ⟨_, exec_base_of_fetch hready hfetch, ?_⟩
  rw [hf, State.onCl_onCl]
  refine ⟨OnlyCluster.onCl .., ?_⟩
  rw [State.onCl_self]
  exact ⟨SameUnits.trans hunits hc.units, hc.pc, by rw [hc.wait, hwait, hw], hc.get, by rw [hc.kernel, hkernel]⟩

/-! ### Bytes written read back -/

theorem writesAt_cons (a : Nat) (b : Byte) (bs : List Byte) : writesAt a (b :: bs) = { addr := a, data := b } :: writesAt (a + 1) bs := by
  simp only [writesAt, List.zipIdx_cons, List.map_cons, Nat.add_zero]
  rw [List.zipIdx_succ]
  simp [List.map_map, Function.comp_def, Nat.add_assoc, Nat.add_comm 1]

theorem addr_of_mem_writesAt {a : Nat} {bs : List Byte} {w : WByte} (h : w ∈ writesAt a bs) : a ≤ w.addr ∧ w.addr < a + bs.length := by
  simp only [writesAt, List.mem_map] at h
  obtain ⟨⟨b, i⟩, hi, rfl⟩ := h
  have := List.snd_lt_of_mem_zipIdx hi
  simp only at this ⊢
  omega

theorem WByte.apply_whole (a : Nat) (b old : Byte) : ({ addr := a, data := b } : WByte).apply old = b := by
  have hmask : b &&& 255#8 = b := by simpa using BitVec.and_allOnes (x := b)
  simp [WByte.apply, hmask]

theorem Memory.get_writesAt {m : Memory} (h : m.wf = true) (a : Nat) (bs : List Byte) {j : Nat} (hj : j < bs.length) :
    (m.write (writesAt a bs)).get (a + j) = bs[j] := by
  induction bs generalizing m a j with
  | nil => exact absurd hj (Nat.not_lt_zero j)
  | cons b bs ih =>
    rw [writesAt_cons]
    have hset : (m.set a b).wf = true := Memory.set_wf _ _ h
    change ((m.set a (({ addr := a, data := b } : WByte).apply (m.get a))).write (writesAt (a + 1) bs)).get (a + j) = _
    rw [WByte.apply_whole]
    cases j with
    | zero =>
      rw [Memory.get_write_other hset _ _ fun w hw => by have := addr_of_mem_writesAt hw; omega, Memory.get_set h]
      simp
    | succ j =>
      have hj' : j < bs.length := by simpa using hj
      have := ih hset (a + 1) hj'
      rw [show a + (j + 1) = a + 1 + j by omega, this]
      rfl

theorem shift_writesAt (b a : Nat) (bs : List Byte) : ((writesAt a bs).map fun w => { w with addr := b + w.addr }) = writesAt (b + a) bs := by
  simp [writesAt, List.map_map, Function.comp_def, Nat.add_assoc]

@[simp] theorem length_bytesOf (n v : Nat) : (bytesOf n v).length = n := by
  induction n generalizing v with
  | zero => rfl
  | succ n ih => simp [bytesOf, ih]

theorem getElem_bytesOf (n v j : Nat) (h : j < (bytesOf n v).length) : (bytesOf n v)[j] = BitVec.ofNat 8 (v / 256 ^ j) := by
  induction n generalizing v j with
  | zero => simp at h
  | succ n ih =>
    cases j with
    | zero => simp [bytesOf]
    | succ j =>
      simp only [bytesOf, List.getElem_cons_succ]
      rw [ih, Nat.div_div_eq_div_mul, Nat.pow_succ, Nat.mul_comm]

/-! ### Loads and stores -/

theorem Cluster.fetched_kernelFiring {k : Cluster} {u : Tahr} {fill : Nat → BitVec 512} {r : Option (BitVec 32 × Nat)}
    (h : k.tahr.fetch fill = (u, r)) (i : Rv) : (k.fetched u i).kernelFiring = k.kernelFiring := by
  obtain ⟨-, -, hkernel, hfirings⟩ := Cluster.fetched_units h i
  simp only [Cluster.kernelFiring, Cluster.firing, hkernel, hfirings]

/-- A kernel reads tile memory as before while its firing is the same. -/
theorem State.kernelTile_onCl {s : State} {c : Cl} {k : Cluster} (h : k.kernelFiring = (s.cl c).kernelFiring) :
    (s.onCl c fun _ => k).kernelTile c = s.kernelTile c := by
  simp only [State.kernelTile, State.onCl_self, h]
  rfl

/-- The registers of a cluster's block show nothing of Tahr. -/
theorem State.clusterReg_tahr (s : State) (c : Cl) (t : Tahr) (off : Nat) :
    (s.onCl c fun _ => { s.cl c with tahr := t }).clusterReg c off = s.clusterReg c off := by
  simp only [State.clusterReg, State.onCl_self]
  rfl

theorem accessFault_tile {a n : Nat} (h : a < 0x600000) : accessFault a n = if a % n ≠ 0 then 3 else 0 := if_pos h

theorem accessFault_block {a n : Nat} (hlo : 0x1000000 ≤ a) (hhi : a < 0x1010000) :
    accessFault a n = if n < 8 then 2 else if a % 8 ≠ 0 then 3 else 0 := by
  rw [accessFault, if_neg (by omega), if_pos ⟨hlo, hhi⟩]

theorem accessFault_outside {a n : Nat} (hlo : 0x600000 ≤ a) (hout : a < 0x1000000 ∨ 0x1010000 ≤ a) : accessFault a n = 2 := by
  rw [accessFault, if_neg (by omega), if_neg (by simp only [tahrRegs]; omega)]

theorem accessFault_register {n : Nat} (h : n < 8192) : accessFault (0x1000000 + 8 * n) 8 = 0 := by
  rw [accessFault_block (by omega) (by omega)]
  simp

theorem State.tahrLoad_tile (s : State) (c : Cl) {f3 : BitVec 3} {a : Nat} (rd : BitVec 5) (len : Nat) (ha : a < 0x600000)
    (hal : a % loadLen f3 = 0) : s.tahrLoad c f3 rd a len = s.tahrSet c rd (extend f3 (leBytes (s.kernelTile c) a (loadLen f3))) len := by
  simp only [State.tahrLoad, accessFault_tile ha, hal, ha, ne_eq, not_true_eq_false, if_false, if_true]

theorem State.tahrLoad_register (s : State) (c : Cl) {f3 : BitVec 3} {n : Nat} (rd : BitVec 5) (len : Nat) (hlen : loadLen f3 = 8)
    (hn : n < 8192) : s.tahrLoad c f3 rd (0x1000000 + 8 * n) len = s.tahrSet c rd ((s.clusterReg c (8 * n)).getD 0) len := by
  simp only [State.tahrLoad, hlen, accessFault_register hn]
  rw [if_neg (by simp), if_neg (by omega), show 0x1000000 + 8 * n - tahrRegs = 8 * n by simp [tahrRegs]]

theorem State.tahrStore_register (s : State) (c : Cl) {f3 : BitVec 3} {n : Nat} (v : Word) (len : Nat) (hlen : loadLen f3 = 8)
    (hn : n < 8192) : s.tahrStore c f3 v (0x1000000 + 8 * n) len = s.onCl c fun k => (k.writeReg (8 * n) v).retire len := by
  simp only [State.tahrStore, hlen, accessFault_register hn]
  rw [if_neg (by simp), if_neg (by omega), show 0x1000000 + 8 * n - tahrRegs = 8 * n by simp [tahrRegs]]

/-- A kernel stores what it may write. -/
theorem State.tahrStore_tile {s : State} {c : Cl} {f3 : BitVec 3} {v : Word} {a : Nat} (len : Nat) (ha : a < 0x600000)
    (hal : a % loadLen f3 = 0) (hmay : MayWrite (s.cl c) (writesAt a (bytesOf (loadLen f3) v.toNat))) :
    s.tahrStore c f3 v a len = (s.onCl c (·.retire len)).tileWrite c (writesAt a (bytesOf (loadLen f3) v.toNat)) := by
  simp only [State.tahrStore, accessFault_tile ha, hal, ha, ne_eq, not_true_eq_false, if_false, if_true]
  refine State.firingWrite_of_mayWrite ?_
  rw [State.onCl_self]
  exact hmay.retire (Cluster.retire_kernelFiring ..) (by rw [Cluster.retire_eq])

theorem State.rvExec_load (s : State) (c : Cl) (f3 : BitVec 3) (rd rs1 : BitVec 5) (off : Word) (len : Nat) :
    s.rvExec c (.load f3 rd rs1 off) len = s.tahrLoad c f3 rd ((s.cl c).tahr.get rs1 + off).toNat len := rfl

theorem State.rvExec_store (s : State) (c : Cl) (f3 : BitVec 3) (rs1 rs2 : BitVec 5) (off : Word) (len : Nat) :
    s.rvExec c (.store f3 rs1 rs2 off) len = s.tahrStore c f3 ((s.cl c).tahr.get rs2) ((s.cl c).tahr.get rs1 + off).toNat len := rfl

/-- Bytes that a cluster's own units have written to tile memory read back, and every other byte reads as before. -/
theorem State.get_tileWrite {s : State} {c : Cl} (hwf : s.mem.wf = true) (a : Nat) (bs : List Byte) :
    (∀ j, (h : j < bs.length) → (s.tileWrite c (writesAt a bs)).tile c (a + j) = bs[j]) ∧
      ∀ b, b < tileBase c.val + a ∨ tileBase c.val + a + bs.length ≤ b → (s.tileWrite c (writesAt a bs)).mem.get b = s.mem.get b := by
  have hmem : (s.tileWrite c (writesAt a bs)).mem = s.mem.write (writesAt (tileBase c.val + a) bs) := by
    rw [← shift_writesAt]
    rfl
  refine ⟨fun j hj => ?_, fun b hb => ?_⟩
  · rw [State.tile, hmem, ← Nat.add_assoc, Memory.get_writesAt hwf]
  · rw [hmem]
    refine Memory.get_write_other hwf _ b fun x hx => ?_
    have := addr_of_mem_writesAt hx
    omega

/-- Settles O13: where the address is in reach and aligned, an access is its register result or its bytes. -/
theorem tahrLoadsStores : Obligations.TahrLoadsStores := by
  unfold Obligations.TahrLoadsStores
  intro c s u w len hready hfetch k
  obtain ⟨hunits, hwait, hkernel, -⟩ := Cluster.fetched_units hfetch (rvOf w)
  have hfiring := Cluster.fetched_kernelFiring hfetch (rvOf w)
  have hk := (Cluster.tahrReady_iff.mp hready).1
  have hexec := exec_base_of_fetch hready hfetch
  have hreg (off : Nat) := s.clusterReg_tahr c (u.await (rvOf w).regs) off
  change ∀ off, (s.onCl c fun _ => k).clusterReg c off = s.clusterReg c off at hreg
  rw [← hkernel] at hk
  change SameUnits (s.cl c) k at hunits
  change k.tahr.kernel.isSome = true at hk
  change k.kernelFiring = (s.cl c).kernelFiring at hfiring
  change _ = Host.Outcome.next ((s.onCl c fun _ => k).rvExec c (rvOf w) len) at hexec
  clear_value k
  have loaded (rd : BitVec 5) (v : Word) (h : (s.onCl c fun _ => k).rvExec c (rvOf w) len = (s.onCl c fun _ => k).tahrSet c rd v len) :
      Answers (.tahrBaseInstruction c) s fun t =>
        OnlyCluster c s t ∧ SameUnits (s.cl c) (t.cl c) ∧ (t.cl c).tahr.pc = k.tahr.pc + BitVec.ofNat 64 len ∧
          ∀ r : BitVec 5, (t.cl c).tahr.get r = if r = rd ∧ r ≠ 0 then v else k.tahr.get r := by
    have hc := Computed.set_retire hk rd v len
    refine ⟨_, hexec, ?_⟩
    rw [h, State.tahrSet, State.onCl_onCl]
    refine ⟨OnlyCluster.onCl .., ?_⟩
    rw [State.onCl_self]
    exact ⟨SameUnits.trans hunits hc.units, hc.pc, hc.get⟩
  refine ⟨?_, ?_, ?_, ?_⟩
  · intro f3 rd rs1 off hi a ha hal
    refine loaded rd _ ?_
    rw [hi, State.rvExec_load, State.onCl_self, State.tahrLoad_tile _ c rd len ha hal, State.kernelTile_onCl hfiring]
  · intro f3 rd rs1 off n hi hlen hn ha
    refine loaded rd _ ?_
    rw [hi, State.rvExec_load, State.onCl_self, ha, State.tahrLoad_register _ c rd len hlen hn, hreg]
  · intro f3 rs1 rs2 off n hi hlen hn ha
    refine ⟨_, hexec, ?_⟩
    rw [hi, State.rvExec_store, State.onCl_self, ha, State.tahrStore_register _ c _ len hlen hn, State.onCl_onCl]
    exact ⟨OnlyCluster.onCl .., State.onCl_self ..⟩
  · intro f3 rs1 rs2 off hi a ha hal hmay hwf
    refine ⟨_, hexec, ?_⟩
    rw [hi, State.rvExec_store, State.onCl_self, State.tahrStore_tile len ha hal (by rw [State.onCl_self]; exact hmay), State.onCl_onCl]
    obtain ⟨hread, hother⟩ := State.get_tileWrite (s := s.onCl c fun _ => k.retire len) (c := c) hwf a (bytesOf (loadLen f3) (k.tahr.get rs2).toNat)
    have hcl (ws : List WByte) : ((s.onCl c fun _ => k.retire len).tileWrite c ws).cl c = k.retire len :=
      State.onCl_self s c fun _ => k.retire len
    refine ⟨rfl, fun d hd => State.onCl_other s (fun _ => k.retire len) hd, ?_, ?_, fun r => ?_, fun j hj => ?_, fun b hb => ?_⟩
    · rw [hcl]; exact SameUnits.trans hunits (SameUnits.retire k len)
    · rw [hcl]; exact Cluster.retire_pc hk len
    · rw [hcl]; exact Cluster.retire_get ..
    · rw [hread j (by simpa using hj), getElem_bytesOf]
    · exact hother b (by simpa using hb)

/-! ### Control and status registers -/

theorem Cluster.tahr_ready_wait {k : Cluster} (h : k.tahrReady = true) : k.tahr.wait = none := (Cluster.tahrReady_iff.mp h).2

/-- A register number as a literal. -/
theorem csr_cases (num : BitVec 12) :
    num ∈ [0x800#12, 0x801#12, 0x802#12, 0x803#12, 0xCC0#12, 0xCC1#12, 0xC00#12, 0xC01#12, 0xC02#12] ∨
      num.toNat ∉ [0x800, 0x801, 0x802, 0x803, 0xCC0, 0xCC1, 0xC00, 0xC01, 0xC02] := by
  by_cases h : num.toNat ∈ [0x800, 0x801, 0x802, 0x803, 0xCC0, 0xCC1, 0xC00, 0xC01, 0xC02]
  · left
    simp only [List.mem_cons, List.not_mem_nil, or_false] at h ⊢
    bv_omega
  · exact .inr h

theorem State.csrRead_eq (s : State) (c : Cl) (k : Cluster) (num : BitVec 12) :
    (({ s with nonce := s.nonce + 1 } : State).onCl c fun _ => k).csrRead c num s.nonce = csrValue s c k num := by
  rcases csr_cases num with h | h
  · simp only [State.csrRead, State.onCl_self]
    simp only [List.mem_cons, List.not_mem_nil, or_false] at h
    obtain rfl | rfl | rfl | rfl | rfl | rfl | rfl | rfl | rfl := h <;> rfl
  · have hnone : csrValue s c k num = none := by
      unfold csrValue
      split
      case h_10 => rfl
      all_goals exact absurd (by decide) h
    rw [hnone]
    simp only [State.csrRead, State.onCl_self]
    split
    case h_10 => rfl
    all_goals
      rename_i he
      rw [he] at h
      exact absurd (by decide) h

theorem csrReadOnly_iff (num : BitVec 12) : csrReadOnly num = true ↔ num ∈ [0xCC0#12, 0xCC1#12, 0xC00#12, 0xC01#12, 0xC02#12] := by
  simp only [csrReadOnly, Bool.or_eq_true, Bool.and_eq_true, decide_eq_true_eq, List.mem_cons, List.not_mem_nil, or_false]
  bv_omega

theorem Cluster.csrWrite_eq (k : Cluster) (num : BitVec 12) (w : Word) : k.csrWrite num w = { k with vec := csrWritten k.vec num w } := by
  by_cases h0 : num = 0x800
  · subst h0; rfl
  by_cases h1 : num = 0x801
  · subst h1; rfl
  by_cases h2 : num = 0x802
  · subst h2; rfl
  by_cases h3 : num = 0x803
  · subst h3; rfl
  rw [csrWritten, if_neg h0, if_neg h1, if_neg h2, if_neg h3, Cluster.csrWrite]
  split
  case h_5 => rfl
  all_goals
    rename_i he
    bv_omega

/-- What CSR_INSTRUCTION comes to once its registers are awaited. -/
theorem exec_csr {c : Cl} {s : State} (f3 : BitVec 3) (rd rs1 : BitVec 5) (num : BitVec 12) (hready : (s.cl c).tahrReady = true) :
    let k := (s.cl c).awaited (if f3.toNat < 4 then [rd, rs1] else [rd])
    let t := ({ s with nonce := s.nonce + 1 } : State).onCl c fun _ => k
    let writes : Bool := f3.toNat % 4 = 1 || rs1 != 0
    let x := if 4 ≤ f3.toNat then rs1.zeroExtend 64 else k.tahr.get rs1
    exec (.csrInstruction c f3 rd rs1 num) s = match csrValue s c k num with
      | none => .next (t.tahrFault c 1)
      | some old =>
        if f3.toNat % 4 = 0 ∨ (writes = true ∧ csrReadOnly num = true) then .next (t.tahrFault c 1)
        else
          let new := match f3.toNat % 4 with
            | 1 => x
            | 2 => old ||| x
            | _ => old &&& ~~~x
          .next ((if writes then t.onCl c (·.csrWrite num new) else t).tahrSet c rd old 4) := by
  intro k t writes x
  have hv : t.csrRead c num s.nonce = csrValue s c k num := s.csrRead_eq c k num
  rw [← hv]
  change execCsrInstruction c f3 rd rs1 num s = _
  simp only [execCsrInstruction, hready, Bool.not_true, Bool.false_eq_true, if_false]
  have ht : s.draw.2.onCl c (·.awaited (if f3.toNat < 4 then [rd, rs1] else [rd])) = t := rfl
  have hk : t.cl c = k := State.onCl_self ..
  simp only [ht, hk]
  rfl

theorem csrWord_eq (op : Nat) (old x : Word) :
    (match op with
      | 1 => x
      | 2 => old ||| x
      | _ => old &&& ~~~x) = if op = 1 then x else if op = 2 then old ||| x else old &&& ~~~x := by
  split
  · rfl
  · rfl
  · next h1 h2 => rw [if_neg h1, if_neg h2]

/-- What reads and writes a control and status register leaves. -/
theorem Computed.csr {k : Cluster} (hk : k.tahr.kernel.isSome = true) (v : Vec) (rd : BitVec 5) (old : Word) :
    Computed { k with vec := v } ({ k with vec := v, tahr := k.tahr.set rd old }.retire 4) rd old (k.tahr.pc + 4) :=
  Computed.set_retire (k := { k with vec := v }) hk rd old 4

/-- Settles O14: the value read goes to the register, and the write is a write of the vector engine's registers. -/
theorem csrAccess : Obligations.CsrAccess := by
  unfold Obligations.CsrAccess
  intro c s f3 rd rs1 num hready k op x writes ro
  have hexec := exec_csr f3 rd rs1 num hready
  have hw : ((f3.toNat % 4 = 1 || rs1 != 0) = true) ↔ writes := by simp [writes, op]
  have hro : csrReadOnly num = true ↔ ro := csrReadOnly_iff num
  simp only [hw, hro] at hexec
  refine ⟨fun old hold hop hlegal => ?_, fun hbad => ?_⟩
  · intro w
    have hwait : k.tahr.wait = none := (Tahr.await_wait ..).trans (Cluster.tahr_ready_wait hready)
    have hkernel : k.tahr.kernel.isSome = true := by
      rw [show k.tahr.kernel = (s.cl c).tahr.kernel from Tahr.await_kernel ..]
      exact (Cluster.tahrReady_iff.mp hready).1
    change exec (.csrInstruction c f3 rd rs1 num) s = match csrValue s c k num with | none => _ | some old => _ at hexec
    rw [hold] at hexec
    dsimp only at hexec
    rw [if_neg (not_or.mpr ⟨hop, hlegal⟩), csrWord_eq] at hexec
    have result (v : Vec) : ∀ t, t = (({ s with nonce := s.nonce + 1 } : State).onCl c fun _ => { k with vec := v }).tahrSet c rd old 4 →
        t = { s with cls := t.cls, nonce := s.nonce + 1 } ∧ (∀ d, d ≠ c → t.cl d = s.cl d) ∧
          SameUnits { s.cl c with vec := (t.cl c).vec } (t.cl c) ∧ (t.cl c).vec = v ∧ (t.cl c).tahr.pc = k.tahr.pc + 4 ∧
          (t.cl c).tahr.wait = none ∧ ∀ r : BitVec 5, (t.cl c).tahr.get r = if r = rd ∧ r ≠ 0 then old else k.tahr.get r := by
      rintro _ rfl
      have hc := Computed.csr hkernel v rd old
      rw [State.tahrSet, State.onCl_onCl]
      refine ⟨rfl, fun d hd => State.onCl_other _ _ hd, ?_⟩
      rw [State.onCl_self]
      obtain ⟨hvec, hrest⟩ := hc.units
      exact ⟨⟨rfl, hrest⟩, hvec, hc.pc, hc.wait.trans hwait, hc.get⟩
    have hstate : (if writes then (({ s with nonce := s.nonce + 1 } : State).onCl c fun _ => k).onCl c (·.csrWrite num w)
        else ({ s with nonce := s.nonce + 1 } : State).onCl c fun _ => k) =
          ({ s with nonce := s.nonce + 1 } : State).onCl c fun _ => { k with vec := if writes then csrWritten k.vec num w else k.vec } := by
      split
      · rw [State.onCl_onCl]
        simp only [Cluster.csrWrite_eq]
      · rfl
    obtain ⟨hframe, hother, hunits, hvec, hpc, hwait, hget⟩ := result (if writes then csrWritten k.vec num w else k.vec) _ rfl
    rw [← hstate] at hframe hother hunits hvec hpc hwait hget
    exact ⟨_, hexec, hframe, hother, hunits, fun h => hvec.trans (if_pos h), fun h => hvec.trans (if_neg h), hpc, hwait, hget⟩
  · change exec (.csrInstruction c f3 rd rs1 num) s = match csrValue s c k num with | none => _ | some old => _ at hexec
    rw [hexec]
    split
    · rfl
    · next old hold =>
      refine if_pos (hbad.resolve_left ?_)
      rw [hold]
      exact Option.some_ne_none old

/-! ### A task entry past the table -/

/-- A vector firing whose entry is none of the 128 of the task table. -/
def strayFiring : Firing := { entry := 128, order := 0, unit := .vector }

/-- The reset state, but for a kernel on cluster 0 that the stray firing runs. -/
def strayState : State :=
  State.reset.onCl 0 fun k => { k with tahr := { k.tahr with kernel := some { entry := 128, start := 0 } }, firings := [strayFiring] }

theorem strayState_kernelFiring : (strayState.cl 0).kernelFiring = some strayFiring := by
  rw [strayState, State.onCl_self]
  rfl

theorem Cluster.entry_128 (k : Cluster) : k.entry 128 = {} := dif_neg (by decide)

/-- Refutes O15 at its first part: the state after the fault of a firing whose entry is past the task table. Such a firing has no entry
that could become FAULTED, and the statement does not ask that its entry is below 128. -/
theorem not_tahrFaultsAndFences : ¬ Obligations.TahrFaultsAndFences := by
  unfold Obligations.TahrFaultsAndFences Claim.TahrFaults
  rintro ⟨⟨hfault, -⟩, -⟩
  have h := ((hfault 0 strayState strayFiring 4 strayState_kernelFiring).2 rfl rfl rfl).1
  rw [show strayFiring.entry = 128 from rfl, Cluster.entry_128] at h
  exact absurd h (by decide)

/-! ### TEND, TGUARD and the cycle budget -/

theorem State.tahrFault_of_firing {s : State} {c : Cl} {f : Firing} (h : (s.cl c).kernelFiring = some f) (cause : Nat) :
    s.tahrFault c cause = s.faultFiring c f cause := by
  rw [State.tahrFault, h]

theorem Cluster.awaited_kernelFiring (k : Cluster) (rs : List (BitVec 5)) : (k.awaited rs).kernelFiring = k.kernelFiring := by
  simp only [Cluster.kernelFiring, Cluster.awaited_eq, Tahr.await_kernel]
  rfl

theorem Cluster.awaited_units (k : Cluster) (rs : List (BitVec 5)) : SameUnits k (k.awaited rs) :=
  ⟨rfl, rfl, rfl, rfl, rfl, rfl, rfl, rfl, rfl, rfl, rfl, rfl⟩

/-- The firing of a kernel after an instruction has retired: the same but for its tally. -/
theorem Cluster.retire_kernelFiring_eq {k : Cluster} {f : Firing} (h : k.kernelFiring = some f) (n : Nat) :
    ∃ g, (k.retire n).kernelFiring = some g ∧ g.untallied = f.untallied := by
  have := k.retire_kernelFiring n
  rw [h, Option.map_some] at this
  exact Option.map_eq_some_iff.mp this

theorem Firing.held_of_untallied {f g : Firing} (h : g.untallied = f.untallied) : g.held = f.held := by
  have : g.untallied.held = f.untallied.held := by rw [h]
  exact this

/-- What a held item says of its firing. -/
theorem State.holdItem_of_room {s : State} {c : Cl} {f g : Firing} (item : HItem) (h : g.untallied = f.untallied)
    (hroom : (s.rg (rgOf c)).held.length < 512) :
    s.holdItem c g item = s.onRg (rgOf c) fun r => { r with held := r.held ++
      [{ item := item, cl := c, entry := f.entry, order := f.order, guards := f.guards }] } := by
  have hentry : g.untallied.entry = f.untallied.entry := by rw [h]
  have horder : g.untallied.order = f.untallied.order := by rw [h]
  have hguards : g.untallied.guards = f.untallied.guards := by rw [h]
  simp only [Firing.untallied] at hentry horder hguards
  rw [State.holdItem, if_neg (by omega), hentry, horder, hguards]

theorem State.holdItem_of_full {s : State} {c : Cl} (g : Firing) (item : HItem) (hfull : 512 ≤ (s.rg (rgOf c)).held.length) :
    s.holdItem c g item = s.squash c g 1 := if_pos hfull

/-- What TGUARD comes to once its registers are awaited. -/
theorem exec_tguard {c : Cl} {s : State} (rs1 rs2 : BitVec 5) (hready : (s.cl c).tahrReady = true) {x : Firing}
    (hx : (((s.cl c).awaited [rs1, rs2]).retire 4).kernelFiring = some x) :
    let k := (s.cl c).awaited [rs1, rs2]
    let g := fld (k.tahr.get rs1) 0 6
    let v := k.tahr.get rs2 != 0
    let u := (s.onCl c fun _ => k).onCl c (·.retire 4)
    exec (.tguard c rs1 rs2) s = .next (if x.held then u.holdItem c x (.guard g v) else u.resolve guardDepth (rgOf c) g v) := by
  intro k g v u
  change execTguard c rs1 rs2 s = _
  have hu : (s.onCl c (·.awaited [rs1, rs2])).onCl c (·.retire 4) = u := rfl
  have hk : (s.onCl c (·.awaited [rs1, rs2])).cl c = k := State.onCl_self ..
  have hf : (u.cl c).kernelFiring = some x := by
    simp only [u, State.onCl_self]
    exact hx
  simp only [execTguard, hready, Bool.not_true, Bool.false_eq_true, if_false, hu, hk, hf]
  rfl

theorem Cluster.firing_of_firings {k u : Cluster} (h : k.firings = u.firings) (i : Nat) : k.firing i = u.firing i := by
  rw [Cluster.firing, Cluster.firing, h]

/-- What TEND makes of its cluster. -/
def Cluster.tended (k : Cluster) (rs1 : BitVec 5) : Cluster :=
  let k := (k.awaited [rs1]).retire 4
  let r : BitVec 32 := (k.tahr.get rs1).truncate 32
  let i := (k.tahr.kernel.map (·.entry)).getD 0
  { k.onFiring i fun f => { f with ended := true, result := r } with tahr := { k.tahr with kernel := none } }

theorem exec_tend {c : Cl} {s : State} (rs1 : BitVec 5) (hready : (s.cl c).tahrReady = true) :
    exec (.tend c rs1) s = .next (s.onCl c (·.tended rs1)) := by
  change execTend c rs1 s = _
  simp only [execTend, hready, Bool.not_true, Bool.false_eq_true, if_false]
  rfl

/-- The firing that a change of its own entry's firings leaves. -/
theorem Cluster.firing_onFiring {k : Cluster} {i : Nat} {f : Firing → Firing} (hf : ∀ x, (f x).entry = x.entry) :
    (k.onFiring i f).firing i = (k.firing i).map f := by
  unfold Cluster.firing Cluster.onFiring
  rw [List.find?_map]
  have hkey : ((fun x : Firing => x.entry == i) ∘ fun x => if x.entry = i then f x else x) = fun x => x.entry == i := by
    funext x
    simp only [Function.comp]
    split
    · rw [hf]
    · rfl
  rw [hkey]
  cases h : k.firings.find? fun x => x.entry == i with
  | none => rfl
  | some x =>
    have hx : x.entry = i := by simpa using List.find?_some h
    simp [hx]

theorem Cluster.kernelFiring_entry {k : Cluster} {f : Firing} (h : k.kernelFiring = some f) :
    k.tahr.kernel.map (·.entry) = some f.entry ∧ k.firing f.entry = some f := by
  unfold Cluster.kernelFiring at h
  split at h
  next x hx =>
    have he : f.entry = x.entry := by simpa using List.find?_some h
    rw [hx, he]
    exact ⟨rfl, h⟩
  next => cases h

/-- Settles O17: a retired instruction leaves the firing as it was but for its tally, so what was held stays held. -/
theorem tahrGuardsAndEnds : Obligations.TahrGuardsAndEnds := by
  unfold Obligations.TahrGuardsAndEnds
  intro c s f hf
  refine ⟨fun rs1 rs2 hready => ?_, fun rs1 hready => ?_, fun x hx => ⟨fun hb => ?_, fun hb => ?_⟩⟩
  · intro k g v u
    obtain ⟨x, hx, hxf⟩ := Cluster.retire_kernelFiring_eq ((Cluster.awaited_kernelFiring _ [rs1, rs2]).trans hf) 4
    have hexec := exec_tguard rs1 rs2 hready hx
    rw [Firing.held_of_untallied hxf] at hexec
    change exec (.tguard c rs1 rs2) s = Host.Outcome.next
      (if f.held = true then u.holdItem c x (.guard g v) else u.resolve guardDepth (rgOf c) g v) at hexec
    refine ⟨fun hfree => hexec.trans (by rw [if_neg (by simp [hfree])]), fun hh hroom => ⟨_, hexec, ?_⟩, fun y hh hfull hy => ?_⟩
    · rw [if_pos hh, State.holdItem_of_room (s := u) _ hxf hroom]
      refine ⟨rfl, fun q hq => State.onRg_other _ _ hq, State.onRg_self ..⟩
    · rw [hexec, if_pos hh, State.holdItem_of_full (s := u) _ _ hfull, Option.some.inj (hx.symm.trans hy)]
  · intro k
    obtain ⟨x, hx, hxf⟩ := Cluster.retire_kernelFiring_eq ((Cluster.awaited_kernelFiring _ [rs1]).trans hf) 4
    obtain ⟨hkernel, hfiring⟩ := Cluster.kernelFiring_entry hx
    have hentry : x.untallied.entry = f.untallied.entry := by rw [hxf]
    change x.entry = f.entry at hentry
    refine ⟨_, exec_tend rs1 hready, OnlyCluster.onCl .., ?_⟩
    rw [State.onCl_self]
    refine ⟨rfl, SameUnits.trans (Cluster.awaited_units ..) (SameUnits.retire k 4), Cluster.retire_x k 4, ?_⟩
    have hended : ((s.cl c).tended rs1).firing f.entry =
        some { x with ended := true, result := ((k.retire 4).tahr.get rs1).truncate 32 } := by
      have h := Cluster.firing_onFiring (k := k.retire 4) (i := f.entry)
        (f := fun y => { y with ended := true, result := ((k.retire 4).tahr.get rs1).truncate 32 }) fun _ => rfl
      rw [← hentry, hfiring, hentry] at h
      simp only [Cluster.tended]
      rw [show ((k.retire 4).tahr.kernel.map (·.entry)).getD 0 = f.entry by rw [hkernel]; exact hentry]
      exact h
    rw [Cluster.retire_get] at hended
    exact ⟨_, hended, rfl, rfl⟩
  · have := State.tahrFault_of_firing hf 4
    change execCycleBudgetExceeded c s = _
    simp only [execCycleBudgetExceeded, hx, if_neg hb, this]
  · change execCycleBudgetExceeded c s = _
    simp only [execCycleBudgetExceeded, hx, if_pos hb]

/-! ### TARR and TARRSYNC -/

/-- What TARR comes to once its register is awaited. -/
theorem exec_tarr {c : Cl} {s : State} (rs1 : BitVec 5) (hready : (s.cl c).tahrReady = true) :
    let k := (s.cl c).awaited [rs1]
    let e := k.entry ((k.tahr.kernel.map (·.entry)).getD 0)
    let a := (k.tahr.get rs1).toNat
    let t := s.onCl c fun _ => k
    exec (.tarr c rs1) s =
      if !e.usesArray then .next (t.tahrFault c 1)
      else if 0x600000 < a + 32 then .next (t.tahrFault c 2)
      else if a % 32 ≠ 0 then .next (t.tahrFault c 3)
      else if 16 ≤ k.arr.queue.length then .next t
      else .next (t.onCl c fun k => { k with arr := { k.arr with queue := k.arr.queue ++
        [({ word := BitVec.ofNat 256 (leBytes (s.kernelTile c) a 32), taskStrict := e.strict } : ArrCmd)] } }.retire 4) := by
  intro k e a t
  change execTarr c rs1 s = _
  have ht : s.onCl c (·.awaited [rs1]) = t := rfl
  have hk : t.cl c = k := State.onCl_self ..
  have htile : t.kernelTile c = s.kernelTile c := State.kernelTile_onCl (Cluster.awaited_kernelFiring ..)
  simp only [execTarr, hready, Bool.not_true, Bool.false_eq_true, if_false, ht, hk, htile]
  rfl

theorem Cluster.awaited_ready {k : Cluster} (h : k.tahrReady = true) (rs : List (BitVec 5)) : (k.awaited rs).tahr.kernel.isSome = true := by
  rw [Cluster.awaited_eq, Tahr.await_kernel]
  exact (Cluster.tahrReady_iff.mp h).1

/-- What TARRSYNC_RESUME makes of its cluster. -/
theorem exec_tarrsyncResume {c : Cl} {s : State} {rd : BitVec 5} (hwait : (s.cl c).tahr.wait = some (.sync rd))
    (hidle : (s.cl c).ownArrayIdle = true) :
    exec (.tarrsyncResume c) s = .next ((s.onCl c fun k => { k with tahr := { k.tahr with wait := none } }.awaited [rd]).tahrSet c rd
      ((s.cl c).arr.stat.zeroExtend 64) 4) := by
  change execTarrsyncResume c s = _
  simp only [execTarrsyncResume, hwait, hidle, if_true]

theorem exec_tarrsyncResume_of_waits {c : Cl} {s : State}
    (h : (∀ rd, (s.cl c).tahr.wait ≠ some (.sync rd)) ∨ (s.cl c).ownArrayIdle = false) : exec (.tarrsyncResume c) s = .next s := by
  change execTarrsyncResume c s = _
  unfold execTarrsyncResume
  dsimp only
  split
  next rd hrd => rw [if_neg (by simp [h.resolve_left fun hn => hn rd hrd])]
  next => rfl

/-- Waiting for registers does not see what Tahr waits for. -/
theorem Tahr.await_of_wait (t : Tahr) (w : Option TWait) (rs : List (BitVec 5)) :
    ({ t with wait := w } : Tahr).await rs = { t.await rs with wait := w } := by
  have key : ∀ (l : List Summary) (t : Tahr), l.foldl (fun t s => t.set s.rd s.value) { t with wait := w } =
      { l.foldl (fun t s => t.set s.rd s.value) t with wait := w } := by
    intro l
    induction l with
    | nil => intro t; rfl
    | cons a l ih =>
      intro t
      have hset : ({ t with wait := w } : Tahr).set a.rd a.value = { t.set a.rd a.value with wait := w } := by
        unfold Tahr.set
        split <;> rfl
      rw [List.foldl_cons, List.foldl_cons, hset, ih]
  unfold Tahr.await
  split
  · exact key _ { t with summaries := [] }
  · rfl

theorem claim_tahrDrivesArray : Claim.TahrDrivesArray := by
  intro c s
  refine ⟨fun rs1 hready => ?_, fun rd hready => ?_, fun rd hwait hidle => ?_, exec_tarrsyncResume_of_waits⟩
  · intro k e a
    have hexec := exec_tarr rs1 hready
    change exec (.tarr c rs1) s = if !e.usesArray then .next ((s.onCl c fun _ => k).tahrFault c 1)
      else if 0x600000 < a + 32 then .next ((s.onCl c fun _ => k).tahrFault c 2)
      else if a % 32 ≠ 0 then .next ((s.onCl c fun _ => k).tahrFault c 3)
      else if 16 ≤ k.arr.queue.length then .next (s.onCl c fun _ => k)
      else .next ((s.onCl c fun _ => k).onCl c fun k => { k with arr := { k.arr with queue := k.arr.queue ++
        [({ word := BitVec.ofNat 256 (leBytes (s.kernelTile c) a 32), taskStrict := e.strict } : ArrCmd)] } }.retire 4) at hexec
    have hkernel : k.tahr.kernel.isSome = true := Cluster.awaited_ready hready [rs1]
    clear_value e k a
    refine ⟨fun hu => ?_, fun hu ha => ?_, fun hu ha hal => ?_, fun hu ha hal hq => ?_, fun hu ha hal hq => ?_⟩
    · rw [hexec, if_pos (by simp [hu])]
    · rw [hexec, if_neg (by simp [hu]), if_pos ha]
    · rw [hexec, if_neg (by simp [hu]), if_neg (by omega), if_pos hal]
    · rw [hexec, if_neg (by simp [hu]), if_neg (by omega), if_neg (not_not.mpr hal), if_pos hq]
    · rw [if_neg (by simp [hu]), if_neg (by omega), if_neg (not_not.mpr hal), if_neg (by omega), State.onCl_onCl] at hexec
      refine ⟨_, hexec, OnlyCluster.onCl .., ?_⟩
      rw [State.onCl_self]
      refine ⟨Cluster.retire_pc ?_ 4, Cluster.retire_x .., ?_, by rw [Cluster.retire_eq]⟩
      · exact hkernel
      rw [Cluster.retire_eq]
      exact SameUnits.refl _
  · change execTarrsync c rd s = _
    simp only [execTarrsync, hready, Bool.not_true, Bool.false_eq_true, if_false]
  · intro k
    have haw : ({ s.cl c with tahr := { (s.cl c).tahr with wait := none } } : Cluster).awaited [rd] =
        { k with tahr := { k.tahr with wait := none } } := by
      rw [Cluster.awaited_eq, Tahr.await_of_wait]
      rfl
    refine ⟨_, exec_tarrsyncResume hwait hidle, ?_⟩
    rw [State.tahrSet, State.onCl_onCl]
    refine ⟨OnlyCluster.onCl .., ?_⟩
    rw [State.onCl_self, haw]
    refine ⟨?_, ?_, ?_, fun r => ?_⟩
    · simp
    · rw [Cluster.retire_eq]; exact SameUnits.refl (s.cl c)
    · rw [Cluster.retire_eq]; simp
    · rw [Cluster.retire_get, Tahr.get_set]; rfl

/-! ### TPROD and TWAITS -/

/-- What TPROD comes to once its registers are awaited. -/
theorem exec_tprod {c : Cl} {s : State} (rs1 rs2 : BitVec 5) (hready : (s.cl c).tahrReady = true) :
    let k := (s.cl c).awaited [rs1, rs2]
    let n := fld (k.tahr.get rs1) 0 9
    let amount := fld (k.tahr.get rs2) 0 8
    let u := (s.onCl c fun _ => k).onCl c (·.retire 4)
    exec (.tprod c rs1 rs2) s =
      if 384 ≤ n ∧ n < 511 then .next ((s.onCl c fun _ => k).tahrFault c 2)
      else .next (if amount = 0 then u else u.kernelSignal c (if n = 511 then c.val else n) (fld (k.tahr.get rs1) 9 8) amount) := by
  intro k n amount u
  change execTprod c rs1 rs2 s = _
  have ht : s.onCl c (·.awaited [rs1, rs2]) = s.onCl c fun _ => k := rfl
  have hk : (s.onCl c fun _ => k).cl c = k := State.onCl_self ..
  simp only [execTprod, hready, Bool.not_true, Bool.false_eq_true, if_false, ht, hk]
  rfl

theorem clOf_val (d : Cl) : clOf d.val = some d := by simp [clOf]

theorem State.kernelSignal_of_firing {s : State} {c : Cl} {f : Firing} (h : (s.cl c).kernelFiring = some f) (target slot amount : Nat) :
    s.kernelSignal c target slot amount =
      if f.held then s.holdItem c f (.signal target slot amount) else s.signal c target slot amount := by
  rw [State.kernelSignal, h]

theorem State.signal_self (s : State) (c : Cl) (slot amount : Nat) : s.signal c c.val slot amount = s.onCl c (·.addSlot slot amount) :=
  if_pos rfl

theorem State.signal_other (s : State) {c d : Cl} (h : d ≠ c) (slot amount : Nat) :
    s.signal c d.val slot amount =
      { s with flights := s.flights ++ [{ cl := d, slot := BitVec.ofNat 8 slot, amount := BitVec.ofNat 8 amount }] } := by
  rw [State.signal, if_neg fun e => h (Fin.ext e), clOf_val]

theorem Cluster.slot_lt (k : Cluster) (n : Nat) : k.slot n < 65536 := by
  unfold Cluster.slot
  split
  · exact BitVec.isLt _
  · decide

theorem Cluster.subSlot_of_covered {k : Cluster} {n amount : Nat} (h : amount ≤ k.slot n) :
    k.subSlot n amount = { k with slots := (k.subSlot n amount).slots } ∧
      ∀ m, n < 256 → (k.subSlot n amount).slot m = if m = n then k.slot n - amount else k.slot m := by
  have hlt := k.slot_lt n
  rw [Cluster.subSlot, if_neg (by omega)]
  refine ⟨Cluster.setSlot_eq .., fun m hn => ?_⟩
  rw [Cluster.slot_setSlot _ _ _ _ (by omega)]
  simp [hn]

theorem exec_twaitsResume {c : Cl} {s : State} {n amount : Byte} (hwait : (s.cl c).tahr.wait = some (.slot n amount)) :
    exec (.twaitsResume c) s = if amount.toNat ≤ (s.cl c).slot n.toNat then
        .next (s.onCl c fun k => ({ k with tahr := { k.tahr with wait := none } }.subSlot n.toNat amount.toNat).retire 4)
      else .next s := by
  change execTwaitsResume c s = _
  simp only [execTwaitsResume, hwait]

theorem claim_tahrSignals : Claim.TahrSignals := by
  intro c s
  refine ⟨fun rs1 rs2 hready => ?_, fun rs1 rs2 hready => ?_, fun n amount hwait => ⟨fun hshort => ?_, fun hcover => ?_⟩⟩
  · intro k n slot amount
    have hexec := exec_tprod rs1 rs2 hready
    change exec (.tprod c rs1 rs2) s = if 384 ≤ n ∧ n < 511 then .next ((s.onCl c fun _ => k).tahrFault c 2)
      else .next (if amount = 0 then (s.onCl c fun _ => k).onCl c (·.retire 4) else
        ((s.onCl c fun _ => k).onCl c (·.retire 4)).kernelSignal c (if n = 511 then c.val else n) slot amount) at hexec
    have hfiring : k.kernelFiring = (s.cl c).kernelFiring := Cluster.awaited_kernelFiring ..
    have hkernel : k.tahr.kernel.isSome = true := Cluster.awaited_ready hready _
    have hslots : k.slots = (s.cl c).slots := rfl
    clear_value k n slot amount
    refine ⟨fun hlo hhi => by rw [hexec, if_pos ⟨hlo, hhi⟩], fun hn hz => by rw [hexec, if_neg (by omega), if_pos hz], fun f hf hz => ?_⟩
    obtain ⟨g, hg, hgf⟩ := Cluster.retire_kernelFiring_eq (hfiring.trans hf) 4
    have hheld := Firing.held_of_untallied hgf
    have hu : (((s.onCl c fun _ => k).onCl c (·.retire 4)).cl c).kernelFiring = some g := by simpa using hg
    rw [State.kernelSignal_of_firing hu, hheld, if_neg hz] at hexec
    refine ⟨fun hfree hn => ?_, fun d hfree hn hd => ?_, fun hh hn hroom => ?_, fun x hh hn hfull hx => ?_⟩
    · have htarget : (if n = 511 then c.val else n) = c.val := by split <;> omega
      rw [hexec, if_neg (by omega), if_neg (by simp [hfree]), htarget, State.signal_self]
    · have hdlt := d.isLt
      have htarget : (if n = 511 then c.val else n) = d.val := by rw [if_neg (by omega), hn]
      rw [if_neg (by omega), if_neg (by simp [hfree]), htarget, State.signal_other _ hd, State.onCl_onCl] at hexec
      exact ⟨_, hexec, rfl, fun x hx => State.onCl_other s (fun _ => k.retire 4) hx, State.onCl_self s c fun _ => k.retire 4⟩
    · rw [if_neg (by omega), if_pos hh, State.onCl_onCl, State.holdItem_of_room (s := s.onCl c fun _ => k.retire 4) _ hgf hroom] at hexec
      refine ⟨_, hexec, rfl, fun q hq => State.onRg_other _ _ hq, fun x hx => State.onCl_other s (fun _ => k.retire 4) hx, ?_, ?_, State.onRg_self ..⟩
      · exact (congrArg (·.tahr.pc) (State.onCl_self s c fun _ => k.retire 4)).trans (Cluster.retire_pc hkernel 4)
      · refine (congrArg (·.slots) (State.onCl_self s c fun _ => k.retire 4)).trans ?_
        rw [Cluster.retire_eq, hslots]
    · rw [hexec, if_neg (by omega), if_pos hh, State.holdItem_of_full (s := (s.onCl c fun _ => k).onCl c (·.retire 4)) _ _ hfull,
        Option.some.inj (hg.symm.trans hx)]
  · change execTwaits c rs1 rs2 s = _
    simp only [execTwaits, hready, Bool.not_true, Bool.false_eq_true, if_false]
    rfl
  · rw [exec_twaitsResume hwait, if_neg (by omega)]
  · have hexec := exec_twaitsResume hwait
    rw [if_pos hcover] at hexec
    refine ⟨_, hexec, OnlyCluster.onCl .., ?_⟩
    rw [State.onCl_self]
    obtain ⟨hsub, hslot⟩ := Cluster.subSlot_of_covered (k := { s.cl c with tahr := { (s.cl c).tahr with wait := none } }) hcover
    generalize ({ s.cl c with tahr := { (s.cl c).tahr with wait := none } } : Cluster).subSlot n.toNat amount.toNat = u at hsub hslot
    have hret (m : Nat) : (u.retire 4).slot m = u.slot m := by rw [Cluster.retire_eq]; rfl
    have hn : n.toNat < 256 := n.isLt
    refine ⟨?_, ?_, ?_, ?_, fun m hm => ?_⟩
    · rw [Cluster.retire_wait, hsub]
    · rw [Cluster.retire_eq, hsub]
      exact ⟨rfl, rfl, rfl, rfl, rfl, rfl, rfl, rfl, rfl, rfl, rfl, rfl⟩
    · rw [Cluster.retire_x, hsub]
    · rw [hret, hslot _ hn, if_pos rfl]
      rfl
    · rw [hret, hslot _ hn, if_neg hm]
      rfl

/-- Settles O16, TARR and TARRSYNC apart from TPROD and TWAITS. -/
theorem tahrDrivesUnits : Obligations.TahrDrivesUnits := ⟨claim_tahrDrivesArray, claim_tahrSignals⟩

end Sys2Proof.Machine
end

section
/-! Proofs. The matrix array: issuing the head of its queue (R137, R140), its progress (R135, R144), and sums that an accumulator holds exactly (R72, R73). -/
namespace Sys2Proof.Machine

/-! ### Issuing the head of the array's queue -/

/-- The array that a command gave, the rows that it changed recorded, and the passes counted that it entered. -/
def Cluster.withArr (k : Cluster) (b : Arr) (n : Nat) : Cluster :=
  let u := { k with arr := { b with touched := (b.touched ++ changedRows k.arr b).eraseDups } }
  if n = 0 then u else u.work k.arrayFiring 0 n

/-- The passes that are counted for the head of the queue, where it went and was not refused. -/
def State.passesOf (s : State) (c : Cl) (op : Nat) (b : Arr) (work : Arr → ArrCmd → (Nat → Byte) → Nat) : Nat :=
  match (s.cl c).arr.queue with
  | x :: _ =>
    if (s.cl c).arr.headOp = some op ∧ b.queue.length < (s.cl c).arr.queue.length ∧
        b.stat.getLsbD 6 = (s.cl c).arr.stat.getLsbD 6 ∧ b.streams.length ≠ (s.cl c).arr.streams.length then
      work (s.cl c).arr x (s.tileAs c (s.cl c).arrayFiring) else 0
  | [] => 0

theorem State.arrIssue_eq {s : State} {c : Cl} {op : Nat} {fn : Arr → ArrCmd → (Nat → Byte) → Issue} {b : Arr} {ws : List WByte}
    (work : Arr → ArrCmd → (Nat → Byte) → Nat)
    (h : ((s.cl c).arr.issue op fun a x => fn a x (s.tileAs c (s.cl c).arrayFiring)) = (b, ws)) :
    s.arrIssue c op fn work = (s.onCl c fun _ => (s.cl c).withArr b (s.passesOf c op b work)).firingWrite c
      ((s.cl c).withArr b (s.passesOf c op b work)).arrayFiring ws := by
  have hissue : s.arrIssue c op fn work = (s.onCl c fun _ => (s.cl c).withArr b (s.passesOf c op b work)).firingWrite c
      ((s.onCl c fun _ => (s.cl c).withArr b (s.passesOf c op b work)).cl c).arrayFiring ws := by
    unfold State.arrIssue
    simp only [h]
    rfl
  rw [hissue, State.onCl_self]

theorem Arr.headOp_of_cons {a : Arr} {x : ArrCmd} {rest : List ArrCmd} (h : a.queue = x :: rest) : a.headOp = some (cw x.word 0 0 4) := by
  rw [Arr.headOp, h]
  rfl

theorem State.passesOf_of_other {s : State} {c : Cl} {op : Nat} {b : Arr} (work : Arr → ArrCmd → (Nat → Byte) → Nat)
    (h : (s.cl c).arr.headOp ≠ some op ∨ (s.cl c).arr.queue.length ≤ b.queue.length) : s.passesOf c op b work = 0 := by
  unfold State.passesOf
  split
  · exact if_neg fun ⟨hop, hlen, _⟩ => h.elim (fun hn => hn hop) fun hl => by omega
  · rfl

/-- A head that waits, or that is none of this row's, stays; only the record of changed rows may differ. -/
theorem State.arrIssue_of_stays {s : State} {c : Cl} {op : Nat} {fn : Arr → ArrCmd → (Nat → Byte) → Issue} {b : Arr}
    (work : Arr → ArrCmd → (Nat → Byte) → Nat)
    (h : ((s.cl c).arr.issue op fun a x => fn a x (s.tileAs c (s.cl c).arrayFiring)) = (b, []))
    (hother : (s.cl c).arr.headOp ≠ some op ∨ (s.cl c).arr.queue.length ≤ b.queue.length) :
    s.arrIssue c op fn work =
      s.onCl c fun k => { k with arr := { b with touched := (b.touched ++ changedRows (s.cl c).arr b).eraseDups } } := by
  rw [State.arrIssue_eq work h, State.firingWrite_nil, State.passesOf_of_other work hother]
  rfl

theorem Arr.issue_of_other {a : Arr} {x : ArrCmd} {rest : List ArrCmd} {op : Nat} (fn : Arr → ArrCmd → Issue) (hq : a.queue = x :: rest)
    (hne : cw x.word 0 0 4 ≠ op) (hlo : 1 ≤ cw x.word 0 0 4) (hhi : cw x.word 0 0 4 ≤ 6) : a.issue op fn = (a, []) := by
  simp only [Arr.issue, hq]
  rw [if_neg (by simp; omega), if_pos hne]

theorem Arr.issue_of_reserved {a : Arr} {x : ArrCmd} {rest : List ArrCmd} (op : Nat) (fn : Arr → ArrCmd → Issue) (hq : a.queue = x :: rest)
    (h : cw x.word 0 0 4 = 0 ∨ 6 < cw x.word 0 0 4) : a.issue op fn = (({ a with queue := rest } : Arr).refuse (cw x.word 0 0 4) 1, []) := by
  simp only [Arr.issue, hq]
  rw [if_pos (by simpa using h)]

theorem Arr.issue_of_waits {a : Arr} {x : ArrCmd} {rest : List ArrCmd} {op : Nat} {fn : Arr → ArrCmd → Issue} (hq : a.queue = x :: rest)
    (hop : cw x.word 0 0 4 = op) (hpos : 0 < op) (hle : op ≤ 6) (hw : fn { a with queue := rest } x = .waits) : a.issue op fn = (a, []) := by
  simp only [Arr.issue, hq]
  rw [if_neg (by simp; omega), if_neg (not_not.mpr hop), hw]

theorem Arr.issue_of_empty {a : Arr} (op : Nat) (fn : Arr → ArrCmd → Issue) (hq : a.queue = []) : a.issue op fn = (a, []) := by
  simp only [Arr.issue, hq]

/-- The rows of the array commands: the opcodes 1 to 6. -/
theorem exec_of_arrayRow {i : Instr} {c : Cl} {op : Nat} {f : Arr → ArrCmd → (Nat → Byte) → Issue} (h : arrayRow i = some (c, op, f)) :
    (1 ≤ op ∧ op ≤ 6) ∧ ∃ work, ∀ s, exec i s = .next (s.arrIssue c op f work) := by
  cases i
  case arrMode | arrClear | arrLoadShadow | arrSwap | arrStream | arrDrain =>
    cases h
    exact ⟨by decide, _, fun _ => rfl⟩
  all_goals cases h

/-- The firing that the array works for, by its table and its firings apart from their tallies. -/
theorem Cluster.arrayFiring_untallied {k u : Cluster} (hf : u.firings.map Firing.untallied = k.firings.map Firing.untallied)
    (ht : u.table = k.table) : u.arrayFiring.map Firing.untallied = k.arrayFiring.map Firing.untallied := by
  have key (w : Cluster) (hw : w.table = k.table) : w.arrayFiring.map Firing.untallied =
      (w.firings.map Firing.untallied).find? fun f => !f.final && match f.unit with
        | .array => true
        | .vector => (k.entry f.entry).usesArray
        | _ => false := by
    rw [List.find?_map, Cluster.arrayFiring]
    congr 2
    funext f
    simp only [Function.comp, Firing.untallied, Cluster.entry, hw]
    rfl
  rw [key u ht, key k rfl, hf]

/-- A unit's writes that its firing may make. -/
theorem State.firingWrite_of_claimed {s : State} {c : Cl} {f : Option Firing} {ws : List WByte}
    (h : ∀ g, f = some g → g.held = true → ∀ w ∈ ws, (s.cl c).inClaim g.entry w.addr = true) : s.firingWrite c f ws = s.tileWrite c ws := by
  unfold State.firingWrite
  split
  next g =>
    split
    next hheld =>
      have hall := List.filter_eq_self.mpr (h g rfl hheld)
      have hnone : (ws.filter (not ∘ fun w => (s.cl c).inClaim g.entry w.addr)) = [] :=
        List.filter_eq_nil_iff.mpr fun w hw => by simp [h g rfl hheld w hw]
      rw [List.partition_eq_filter_filter]
      simp only [hall, hnone]
      rfl
    next => rfl
  next => rfl

theorem Cluster.withArr_eq (k : Cluster) (b : Arr) (n : Nat) :
    k.withArr b n = { k with
      arr := { b with touched := (b.touched ++ changedRows k.arr b).eraseDups }
      firings := (k.withArr b n).firings, stl := (k.withArr b n).stl } := by
  unfold Cluster.withArr
  dsimp only
  split
  · rfl
  · exact Cluster.work_eq ..

theorem Cluster.withArr_arrayFiring (k : Cluster) (b : Arr) (n : Nat) :
    (k.withArr b n).arrayFiring.map Firing.untallied = k.arrayFiring.map Firing.untallied := by
  refine Cluster.arrayFiring_untallied ?_ (by rw [Cluster.withArr_eq])
  unfold Cluster.withArr
  dsimp only
  split
  · rfl
  · exact Cluster.charge_firings ..

/-! ### What waits -/

theorem Arr.loaderIdle_eq_false_iff (a : Arr) : a.loaderIdle = false ↔ a.loading.isSome = true ∨ ∃ r ∈ a.streams, r.loads = true := by
  simp only [Arr.loaderIdle, Bool.and_eq_false_iff, Bool.not_eq_false', List.any_eq_true, Option.isNone_eq_false_iff]

theorem Arr.mode_waits_iff (a : Arr) (x : ArrCmd) : a.mode x = .waits ↔ a.loading.isSome = true ∨ a.streams ≠ [] ∨ a.drains ≠ [] := by
  unfold Arr.mode
  dsimp only
  split
  next h =>
    refine iff_of_true rfl ?_
    simpa [or_assoc] using h
  next h =>
    refine iff_of_false ?_ ?_
    · split
      · exact Issue.noConfusion
      · split <;> exact Issue.noConfusion
    · simpa [or_assoc] using h

theorem Arr.swap_waits_iff (a : Arr) (x : ArrCmd) : a.swap x = .waits ↔ a.loading.isSome = true ∨ ∃ r ∈ a.streams, r.loads = true := by
  rw [← Arr.loaderIdle_eq_false_iff, Arr.swap]
  split
  next h => simpa using h
  next h =>
    refine iff_of_false ?_ (by simpa using h)
    split <;> exact Issue.noConfusion

theorem Arr.load_of_busy {a : Arr} (x : ArrCmd) (rd : Nat → Byte) (h : a.loaderIdle = false) :
    a.load x rd = .waits ∨ ∃ n, a.load x rd = .done (a.refuse 3 n) [] := by
  unfold Arr.load
  dsimp only
  split
  next r _ => exact .inr ⟨r, rfl⟩
  next => exact .inl (if_pos (by simp [h]))

/-- Settles O18: a head that goes leaves the array that its row gives, any other the array as it was. -/
theorem arrayCommandsIssue : Obligations.ArrayCommandsIssue := by
  unfold Obligations.ArrayCommandsIssue
  refine ⟨fun i c op f s x rest hrow hq => ?_, fun i c op f s hrow hq => ?_, fun a x rd => ⟨a.mode_waits_iff x, a.swap_waits_iff x,
    fun h => Arr.load_of_busy x rd (a.loaderIdle_eq_false_iff.mpr h)⟩⟩
  · obtain ⟨⟨hlo, hhi⟩, work, hexec⟩ := exec_of_arrayRow hrow
    have hhead := Arr.headOp_of_cons hq
    intro k went head
    refine ⟨fun hne h1 h6 => ?_, fun hres => ?_, fun hop hw => ?_, fun b ws hop hw hwf hclaim => ?_⟩
    · refine ⟨_, hexec s, ?_⟩
      rw [State.arrIssue_of_stays work (Arr.issue_of_other _ hq hne h1 h6) (.inr le_rfl)]
      exact ⟨OnlyCluster.onCl .., by rw [State.onCl_self]⟩
    · refine ⟨_, hexec s, ?_⟩
      rw [State.arrIssue_of_stays work (Arr.issue_of_reserved _ _ hq hres) (.inl fun h => by
        have : head = op := Option.some.inj (hhead.symm.trans h)
        omega)]
      refine ⟨OnlyCluster.onCl .., ?_⟩
      rw [State.onCl_self]
      exact ⟨rfl, Arr.refuse_stat _ head 1, rfl, rfl, fun h => Arr.refuse_err (a := { k.arr with queue := rest }) head 1 h⟩
    · refine ⟨_, hexec s, ?_⟩
      rw [State.arrIssue_of_stays work (Arr.issue_of_waits hq hop hlo hhi hw) (.inr le_rfl)]
      exact ⟨OnlyCluster.onCl .., by rw [State.onCl_self]⟩
    · refine ⟨_, hexec s, ?_⟩
      rw [State.arrIssue_eq work (Arr.issue_done hq hop hlo hhi hw)]
      generalize s.passesOf c op b work = n
      have hwrite : (s.onCl c fun _ => k.withArr b n).firingWrite c (k.withArr b n).arrayFiring ws =
          (s.onCl c fun _ => k.withArr b n).tileWrite c ws := by
        refine State.firingWrite_of_claimed fun g hg hheld w hw => ?_
        have hold := Cluster.withArr_arrayFiring k b n
        rw [hg, Option.map_some] at hold
        obtain ⟨g', hg', hgg⟩ := Option.map_eq_some_iff.mp hold.symm
        have hentry : g'.untallied.entry = g.untallied.entry := by rw [hgg]
        have := hclaim g' hg' (by rw [← Firing.held_of_untallied hgg.symm]; exact hheld) w hw
        change g'.entry = g.entry at hentry
        rw [hentry] at this
        rw [State.onCl_self, Cluster.withArr_eq]
        exact this
      rw [hwrite]
      have hcl : ((s.onCl c fun _ => k.withArr b n).tileWrite c ws).cl c = k.withArr b n := State.onCl_self s c fun _ => k.withArr b n
      rw [hcl]
      have hfields : (k.withArr b n).arr = { b with touched := (k.withArr b n).arr.touched } ∧ (k.withArr b n).vec = k.vec ∧
          (k.withArr b n).tahr = k.tahr ∧ (k.withArr b n).table = k.table ∧ (k.withArr b n).slots = k.slots ∧
          (k.withArr b n).bufs = k.bufs ∧ (k.withArr b n).cvt = k.cvt := by
        rw [Cluster.withArr_eq]
        exact ⟨rfl, rfl, rfl, rfl, rfl, rfl, rfl⟩
      obtain ⟨harr, hvec, htahr, htable, hslots, hbufs, hcvt⟩ := hfields
      refine ⟨rfl, fun d hd => State.onCl_other s (fun _ => k.withArr b n) hd, harr, hvec, htahr, htable, hslots, hbufs, hcvt, rfl,
        fun a ha => Memory.get_write_other hwf _ a ?_⟩
      simpa using ha
  · obtain ⟨-, work, hexec⟩ := exec_of_arrayRow hrow
    refine ⟨_, hexec s, ?_⟩
    rw [State.arrIssue_of_stays work (Arr.issue_of_empty _ _ hq) (.inr le_rfl)]
    exact ⟨OnlyCluster.onCl .., by rw [State.onCl_self]⟩

/-! ### Progress of the array (R135, R137, R144) -/

theorem State.onCl_congr {s : State} {c : Cl} {f g : Cluster → Cluster} (h : f (s.cl c) = g (s.cl c)) : s.onCl c f = s.onCl c g := by
  have h : f s.cls[c] = g s.cls[c] := h
  rw [State.onCl, State.onCl, h]

/-- Byte i of a little-endian number. -/
theorem leBytes_byte (rd : Nat → Byte) (a n i : Nat) (h : i < n) : leBytes rd a n / 256 ^ i % 256 = (rd (a + i)).toNat := by
  induction n generalizing a i with
  | zero => omega
  | succ n ih =>
    have hb := (rd a).isLt
    rw [leBytes]
    cases i with
    | zero => simp only [pow_zero, Nat.div_one, Nat.add_zero]; omega
    | succ i =>
      rw [pow_succ', ← Nat.div_div_eq_div_mul, show ((rd a).toNat + 256 * leBytes rd (a + 1) n) / 256 = leBytes rd (a + 1) n by omega,
        ih (a + 1) i (by omega), show a + 1 + i = a + (i + 1) by omega]

theorem extract_ofNat_leBytes (rd : Nat → Byte) (a i : Nat) (h : i < 32) :
    (BitVec.ofNat 256 (leBytes rd a 32)).extractLsb' (8 * i) 8 = rd (a + i) := by
  refine BitVec.eq_of_toNat_eq ?_
  rw [← leBytes_byte rd a 32 i h, BitVec.extractLsb'_toNat, BitVec.toNat_ofNat, Nat.shiftRight_eq_div_pow, pow_mul]
  generalize leBytes rd a 32 = x
  have h256 : (2 : Nat) ^ 256 = (2 ^ 8) ^ i * (2 ^ 8) ^ (32 - i) := by rw [← pow_add, ← pow_mul]; congr 1; omega
  rw [h256, Nat.mod_mul_right_div_self, Nat.mod_mod_of_dvd _ (dvd_pow_self _ (by omega))]
  norm_num

/-- What ARRAY_COMMAND_FETCH makes of a task with commands left. -/
theorem exec_arrayCommandFetch {c : Cl} {s : State} {k : ArrTask} (htask : (s.cl c).arr.task = some k) (hleft : 0 < k.left)
    (hroom : (s.cl c).arr.queue.length < 16) :
    ∃ rd : Nat → Byte, (∀ o, o < 0x600000 → rd o = s.tileAs c (s.cl c).arrayFiring o) ∧
      exec (.arrayCommandFetch c) s = .next (({ s with nonce := s.nonce + 1 } : State).onCl c fun x =>
        { x with arr := { x.arr with
          queue := x.arr.queue ++ [({ word := BitVec.ofNat 256 (leBytes rd k.addr 32), taskStrict := k.strict } : ArrCmd)]
          task := some { k with addr := k.addr + 32, left := k.left - 1 } } }) := by
  refine ⟨fun o => if o < tileEnd then s.tileAs c (s.cl c).arrayFiring o else (Config.freeWord s.nonce o).truncate 8,
    fun o ho => if_pos ho, ?_⟩
  change execArrayCommandFetch c s = _
  simp only [execArrayCommandFetch, htask]
  rw [if_neg (by omega)]
  rfl

theorem exec_arrayCommandFetch_of_waits {c : Cl} {s : State}
    (h : ∀ k, (s.cl c).arr.task = some k → k.left = 0 ∨ 16 ≤ (s.cl c).arr.queue.length) : exec (.arrayCommandFetch c) s = .next s := by
  change execArrayCommandFetch c s = _
  unfold execArrayCommandFetch
  dsimp only
  split
  next k hk => exact if_pos (h k hk)
  next => rfl

theorem releaseLoader_append {before : List ArrRun} {r : ArrRun} (after : List ArrRun) (h : ∀ x ∈ before, x.loads = false)
    (hr : r.loads = true) : releaseLoader (before ++ r :: after) = before ++ { r with loads := false } :: after := by
  induction before with
  | nil => simp [releaseLoader, hr]
  | cons x xs ih =>
    have hx : x.loads = false := h x (List.mem_cons_self)
    simp only [List.cons_append, releaseLoader, hx, Bool.false_eq_true, if_false]
    rw [ih fun y hy => h y (List.mem_cons_of_mem x hy)]

/-- Settles O20: each event by its own case, with the byte of a fetched word from `leBytes_byte`. -/
theorem arrayProgress : Obligations.ArrayProgress := by
  unfold Obligations.ArrayProgress
  intro c s a
  refine ⟨fun k htask hleft hroom => ?_, exec_arrayCommandFetch_of_waits, fun hidle before r after hs hb hr => ?_, fun l hl => ?_, ?_, ?_⟩
  · obtain ⟨rd, hrd, hexec⟩ := exec_arrayCommandFetch htask hleft hroom
    refine ⟨_, hexec, rfl, fun d hd => State.onCl_other _ _ hd, _, State.onCl_self .., fun i hi hlt => ?_⟩
    rw [extract_ofNat_leBytes _ _ _ hi, hrd _ hlt]
  · change execShadowLoadDone c s = _
    have hidle : (s.cl c).arr.loading = none := hidle
    have hs : (s.cl c).arr.streams = before ++ r :: after := hs
    simp only [execShadowLoadDone, hidle]
    exact congrArg Host.Outcome.next (State.onCl_congr (by rw [hs, releaseLoader_append after hb hr]))
  · change execShadowLoadDone c s = _
    have hl : (s.cl c).arr.loading = some l := hl
    simp only [execShadowLoadDone, hl]
  · exact congrArg Host.Outcome.next (State.onCl_congr (by rw [List.drop_one]))
  · exact congrArg Host.Outcome.next (State.onCl_congr (by rw [List.drop_one]))

/-! ### Sums that an accumulator holds (R72, R73) -/

theorem shiftFloor_of_nonneg (x : Int) {k : Int} (h : 0 ≤ k) : shiftFloor x k = (x * 2 ^ k.toNat, false) := by
  rw [shiftFloor, if_pos h, pow2]
  push_cast
  rfl

theorem fastFit_of_fits (n : Nat) {a s p : Int} (h : (a + s).natAbs ≤ 2 ^ 127 - 1) : fastFit (n + 1) a s p false = (a + s, p, false) := by
  rw [fastFit, if_neg (by omega)]

/-- The anchor of an entry that takes a sum with product bound p. -/
def Acc.anchorWith (e : Acc) (p : Int) : Int :=
  match e.anchor with
  | none => p
  | some a => max a p

theorem Acc.addFast_of_fits {e : Acc} {v lsb p q : Int} (hp : ∀ a, e.anchor = some a → p ≤ a) (hq : e.anchorWith p = q) (hlsb : q - 112 ≤ lsb)
    (hfits : (e.value + v * 2 ^ (lsb - (q - 112)).toNat).natAbs ≤ 2 ^ 127 - 1) :
    e.addFast v lsb p = ({ e with value := e.value + v * 2 ^ (lsb - (q - 112)).toNat, anchor := some q }, 0) := by
  unfold Acc.addFast
  unfold Acc.anchorWith at hq
  cases ha : e.anchor with
  | none =>
    simp only [ha] at hq
    subst hq
    simp only [shiftFloor_of_nonneg v (sub_nonneg.mpr hlsb), fastFit_of_fits 23 hfits]
    rfl
  | some a =>
    simp only [ha, max_eq_left (hp a ha)] at hq
    subst hq
    simp only [not_lt.mpr (hp a ha), if_false, shiftFloor_of_nonneg v (sub_nonneg.mpr hlsb), fastFit_of_fits 23 hfits]
    rfl

theorem Acc.addStrict_of_fits {e : Acc} {v lsb p q : Int} (hp : ∀ a, e.anchor = some a → p ≤ a) (hq : e.anchorWith p = q) (hlsb : q - 288 ≤ lsb)
    (hcount : e.count < 2 ^ 31) (hfits : (e.value + v * 2 ^ (lsb - (q - 288)).toNat).natAbs ≤ 2 ^ 319 - 1) :
    e.addStrict v lsb p =
      ({ e with value := e.value + v * 2 ^ (lsb - (q - 288)).toNat, anchor := some q, count := e.count + 1 }, 0) := by
  unfold Acc.addStrict
  rw [if_neg (not_le.mpr hcount)]
  unfold Acc.anchorWith at hq
  cases ha : e.anchor with
  | none =>
    simp only [ha] at hq
    subst hq
    simp only [shiftFloor_of_nonneg v (sub_nonneg.mpr hlsb), gt_iff_lt, not_lt.mpr hfits, if_false]
    rfl
  | some a =>
    simp only [ha, max_eq_left (hp a ha)] at hq
    subst hq
    simp only [not_lt.mpr (hp a ha), gt_iff_lt, if_false, shiftFloor_of_nonneg v (sub_nonneg.mpr hlsb), not_lt.mpr hfits]
    rfl

/-- Settles O21: the anchor stays, the sum is shifted up, and neither loop slides. -/
theorem accumulateExactly : Obligations.AccumulateExactly := by
  unfold Obligations.AccumulateExactly
  intro e v lsb p _ q hp
  exact ⟨Acc.addFast_of_fits hp rfl, Acc.addStrict_of_fits hp rfl⟩

end Sys2Proof.Machine
end

section
/-! Proofs. Links, sectors, resets and boots, the debug window, the upkeep of memory; what tasks and quiesces leave alone. -/
namespace Sys2Proof.Machine

/-! ### Events (R527, R528) -/

section
variable (s : State) (src : Source) (code : Nat) (d : List Word) (st : Nat)

@[simp] theorem State.event_pending : (s.event src code d st).pending = s.pending := rfl
@[simp] theorem State.event_nonce : (s.event src code d st).nonce = s.nonce := rfl
@[simp] theorem State.event_glob : (s.event src code d st).glob = s.glob := rfl
@[simp] theorem State.event_parts : (s.event src code d st).parts = s.parts := rfl
@[simp] theorem State.event_reqs : (s.event src code d st).reqs = s.reqs := rfl
@[simp] theorem State.event_cls : (s.event src code d st).cls = s.cls := rfl
@[simp] theorem State.event_rgs : (s.event src code d st).rgs = s.rgs := rfl
@[simp] theorem State.event_flights : (s.event src code d st).flights = s.flights := rfl
@[simp] theorem State.event_run : (s.event src code d st).run = s.run := rfl
@[simp] theorem State.event_fab : (s.event src code d st).fab = s.fab := rfl
@[simp] theorem State.event_txn : (s.event src code d st).txn = s.txn := rfl
@[simp] theorem State.event_sec : (s.event src code d st).sec = s.sec := rfl
@[simp] theorem State.event_pwr : (s.event src code d st).pwr = s.pwr := rfl
@[simp] theorem State.event_perf : (s.event src code d st).perf = s.perf := rfl
@[simp] theorem State.event_fenced : (s.event src code d st).fenced = s.fenced := rfl
@[simp] theorem State.event_erasures : (s.event src code d st).erasures = s.erasures := rfl
@[simp] theorem State.event_debugAddr : (s.event src code d st).debugAddr = s.debugAddr := rfl
@[simp] theorem State.event_debugReply : (s.event src code d st).debugReply = s.debugReply := rfl
@[simp] theorem State.event_evtSeq : (s.event src code d st).evtSeq = s.evtSeq + 1 := rfl
theorem State.event_ports : (s.event src code d st).ports = s.ports.map (·.notice code) := rfl
theorem State.event_hlt : (s.event src code d st).hlt = s.hlt.counts code := rfl
@[simp] theorem State.event_cl (c : Cl) : (s.event src code d st).cl c = s.cl c := rfl
@[simp] theorem State.event_rg (r : Rg) : (s.event src code d st).rg r = s.rg r := rfl
@[simp] theorem State.event_part (p : Pt) : (s.event src code d st).part p = s.part p := rfl
@[simp] theorem State.event_link (p : FPort) : (s.event src code d st).link p = s.link p := rfl

/-- The record that an event enters is the newest. -/
theorem State.event_events : ∃ e, (s.event src code d st).events = e :: s.events.take 4095 ∧ e.seq = s.evtSeq ∧
    e.code = BitVec.ofNat 16 code ∧ [e.d1, e.d2, e.d3, e.d4, e.d5] = (List.range 5).map fun k => d.getD k 0 := ⟨_, rfl, rfl, rfl, rfl⟩

theorem State.event_logged : Logged s (s.event src code d st) code d := by
  obtain ⟨e, he, hseq, hcode, hd⟩ := s.event_events src code d st
  exact ⟨rfl, e, _, he, hseq, hcode, hd⟩

end

/-- Whether an event has been logged depends on the log alone. -/
theorem Logged.congr {s s' t t' : State} {code : Nat} {ws : List Word} (h : Logged s' t' code ws) (h0 : s.evtSeq = s'.evtSeq)
    (h1 : t.evtSeq = t'.evtSeq) (h2 : t.events = t'.events) : Logged s t code ws := by
  obtain ⟨hn, e, rest, he, hseq, hrest⟩ := h
  exact ⟨by rw [h0, h1, hn], e, rest, by rw [h2, he], by rw [h0, hseq], hrest⟩

/-! ### Ports of the fabric -/

@[simp] theorem Fabric.onLink_self (f : Fabric) (p : FPort) (g : Port → Port) : (f.onLink p g).ports[p] = g f.ports[p] := by
  simp [Fabric.onLink]

theorem Fabric.onLink_other (f : Fabric) {p q : FPort} (g : Port → Port) (h : q ≠ p) : (f.onLink p g).ports[q] = f.ports[q] := by
  simp only [Fabric.onLink, Fin.getElem_fin]
  exact Vector.getElem_set_ne _ _ fun e => h (Fin.ext e.symm)

@[simp] theorem State.link_onFab (s : State) (f : Fabric → Fabric) (p : FPort) : (s.onFab f).link p = (f s.fab).ports[p] := rfl

/-! ### Sectors, banks of firmware, and the reset state (R411, R550) -/

theorem nodup_eraseDups {α : Type} [BEq α] [LawfulBEq α] (l : List α) : l.eraseDups.Nodup := by
  induction h : l.length using Nat.strong_induction_on generalizing l with
  | _ n ih =>
    cases l with
    | nil => simp
    | cons a as =>
      rw [List.eraseDups_cons, List.nodup_cons]
      refine ⟨by simp [List.mem_eraseDups], ih (as.filter fun b => !b == a).length ?_ _ rfl⟩
      rw [← h, List.length_cons]
      exact Nat.lt_succ_of_le (List.length_filter_le _ _)

theorem length_eraseDups {α : Type} [DecidableEq α] (l : List α) : l.eraseDups.length = l.toFinset.card := by
  rw [← List.toFinset_card_of_nodup (nodup_eraseDups l)]
  congr 1
  ext x
  simp [List.mem_eraseDups]

/-- Settles O35: the symbols that count are the wrong ones outside the erasures, each once. -/
theorem sectorCorrection : Obligations.SectorCorrection := by
  unfold Obligations.SectorCorrection
  intro e errors n
  have hn : n = (errors.filter fun k => !e.symbols.contains k).eraseDups.length := (length_eraseDups _).symm
  clear_value n
  subst hn
  unfold checkSector
  refine ⟨fun h => if_pos h, fun h h0 => ?_, fun h h0 => ?_⟩
  · rw [if_neg (by omega), if_pos (by rw [List.isEmpty_iff_length_eq_zero]; exact h0)]
  · refine ⟨_, by rw [if_neg (by omega), if_neg (by rw [List.isEmpty_iff_length_eq_zero]; omega)], rfl, fun k => ?_⟩
    simp [List.mem_eraseDups]

/-- Settles O57: one case for each bank that the ROM can take. -/
theorem bankSelection : Obligations.BankSelection := by
  unfold Obligations.BankSelection
  intro x
  refine ⟨fun b hb => ?_, fun b hn hu hb => ?_, fun hn h0 h1 => ?_⟩
  · simp [Security.romSelect, hb]
  · unfold Security.romSelect
    rw [hn]
    dsimp only
    rcases hb with rfl | hp
    · rw [if_pos hu]
    · have hb : b = !x.preferred := by
        rcases b.eq_or_eq_not x.preferred with rfl | h
        · rw [hp] at hu
          cases hu
        · exact h
      rw [if_neg (by simp [hp]), ← hb, if_pos hu]
  · have hu : ∀ b, x.usable b = false := fun b => by cases b <;> assumption
    simp [Security.romSelect, hn, hu]

/-- Settles O60: the reset state as it is written, and memory without a cell or a fill. -/
theorem resetValues : Obligations.ResetValues := by
  unfold Obligations.ResetValues
  refine ⟨fun p => ?_, rfl, rfl, rfl, rfl, rfl, rfl, rfl, rfl, rfl, rfl, rfl, rfl, rfl, rfl, fun c => ?_, fun a _ => rfl⟩
  · simp [State.reset, State.port]
  · simp [State.reset, State.cl]

/-! ### Routers: what taking, delivering and dropping a packet leave of the links (R427, R435, R438, R445) -/

/-- A router's own work: of the ports only their counts of free buffers change, flags stay set, and a packet that waits now has waited
before or goes to a port that is UP. -/
structure Fabric.Routes (f g : Fabric) : Prop where
  ports : ∀ q : FPort, g.ports[q] = { f.ports[q] with freed := g.ports[q].freed }
  stat : ∀ b, f.stat.getLsbD b = true → g.stat.getLsbD b = true
  waiting : ∀ w ∈ g.waiting, w ∈ f.waiting ∨ f.up w.output = true

namespace Fabric.Routes

theorem refl (f : Fabric) : f.Routes f := ⟨fun _ => rfl, fun _ h => h, fun _ h => .inl h⟩

variable {f g h : Fabric}

theorem link (r : f.Routes g) (q : FPort) : g.ports[q].link = f.ports[q].link := by rw [r.ports q]

theorem up (r : f.Routes g) (q : FPort) : g.up q = f.up q := by rw [Fabric.up, Fabric.up, r.link]

theorem trans (r : f.Routes g) (k : g.Routes h) : f.Routes h where
  ports q := by rw [k.ports q, r.ports q]
  stat b hb := k.stat b (r.stat b hb)
  waiting w hw := by
    rcases k.waiting w hw with hg | hu
    · exact r.waiting w hg
    · exact .inr (by rw [← r.up]; exact hu)

/-- Updates of what links and waiting packets do not stand in. -/
theorem of_eq (r : f.Routes g) (hp : h.ports = g.ports) (hs : ∀ b, g.stat.getLsbD b = true → h.stat.getLsbD b = true)
    (hw : ∀ w ∈ h.waiting, w ∈ g.waiting) : f.Routes h :=
  r.trans ⟨fun q => by rw [hp], hs, fun w m => .inl (hw w m)⟩

theorem flag (r : f.Routes g) (bit : Nat) : f.Routes (g.flag bit) :=
  r.of_eq rfl (fun b hb => by simp [Fabric.flag, hb]) fun _ h => h

theorem noRoute (r : f.Routes g) : f.Routes g.noRoute := (r.flag 0).of_eq rfl (fun _ h => h) fun _ h => h

theorem freeBuffer (r : f.Routes g) (input : Nat) (p : Packet) : f.Routes (g.freeBuffer input p) := by
  unfold Fabric.freeBuffer
  split
  · next hi =>
    refine r.trans ⟨fun q => ?_, fun _ h => h, fun _ h => .inl h⟩
    by_cases hq : q = ⟨input, hi⟩
    · subst hq
      rw [Fabric.onLink_self]
    · rw [Fabric.onLink_other _ _ hq]
  · exact r

theorem leave (r : f.Routes g) (input slot : Nat) (p : Packet) : f.Routes (g.leave input slot p) := by
  unfold Fabric.leave
  split
  · exact r
  · exact r.freeBuffer input p

theorem into (r : f.Routes g) (p : Packet) : f.Routes (g.into p) := r.of_eq rfl (fun _ h => h) fun _ h => h

theorem deliver (r : f.Routes g) (input slot : Nat) (p : Packet) : f.Routes (g.deliver input slot p).1 := by
  unfold Fabric.deliver
  dsimp only
  split
  · exact r.leave input slot p
  · split
    · exact ((r.leave input slot p).flag 1).of_eq rfl (fun _ h => h) fun _ h => h
    · split
      · exact r.leave input slot p
      · split
        · exact (r.leave input slot p).of_eq rfl (fun _ h => h) fun _ h => h
        · exact r.of_eq rfl (fun _ h => h) fun _ h => h

/-- A packet that comes to wait for a port that is UP. -/
theorem wait (r : f.Routes g) {w : Waiting} (hu : g.up w.output = true) : f.Routes { g with waiting := g.waiting ++ [w] } := by
  refine r.trans ⟨fun _ => rfl, fun _ h => h, fun x hx => ?_⟩
  rcases List.mem_append.mp hx with hx | hx
  · exact .inl hx
  · rw [List.mem_singleton.mp hx]
    exact .inr hu

end Fabric.Routes

/-- A way out leads to a port that is UP. -/
theorem Fabric.up_of_way {f : Fabric} {input : Nat} {p : Packet} {q : FPort} (h : f.way input p = .out q) : f.up q = true := by
  unfold Fabric.way at h
  dsimp only at h
  split at h
  · cases h
  · cases h
  · split at h
    · next hu =>
      cases h
      exact hu
    · cases h

theorem Fabric.Routes.accept {f g : Fabric} (r : f.Routes g) (again input : Nat) (p : Packet) : f.Routes (g.accept again input p) := by
  induction again generalizing g input p with
  | zero => exact r
  | succ again ih =>
    have hi := r.into p
    rw [Fabric.accept]
    dsimp only
    split
    · next q hq => exact hi.wait (Fabric.up_of_way hq)
    · split
      · exact hi.noRoute.freeBuffer input p
      · exact ih (hi.noRoute.freeBuffer input p) _ _
    · have hd := hi.deliver input g.accepted p
      split
      · exact ih hd _ _
      · exact hd

theorem Fabric.Routes.dropped {f g : Fabric} (r : f.Routes g) (ws : List Waiting) : f.Routes (ws.foldl (fun f w =>
    let f := (f.noRoute).leave w.input w.slot w.packet
    if w.packet.mc then (f.flag 2).accept 2 8 (cutPacket f w.packet)
    else if w.packet.vc = 1 then f else f.accept 2 8 (nackPacket f w.packet 1)) g) := by
  refine foldl_keeps (q := f.Routes) (fun k w r => ?_) ws r
  have hl := r.noRoute.leave w.input w.slot w.packet
  dsimp only
  split
  · exact (hl.flag 2).accept _ _ _
  · split
    · exact hl
    · exact hl.accept _ _ _

/-- Nothing waits any more for a port that is not UP once its packets have been dropped. -/
theorem Fabric.dropWaiting_routes (f : Fabric) (p : FPort) :
    f.Routes (f.dropWaiting p) ∧ (f.up p = false → ∀ w ∈ (f.dropWaiting p).waiting, w.output ≠ p) := by
  unfold Fabric.dropWaiting
  rw [List.partition_eq_filter_filter]
  dsimp only
  have r0 : f.Routes { f with waiting := f.waiting.filter (not ∘ fun w => w.output == p) } :=
    (Routes.refl f).of_eq rfl (fun _ h => h) fun w h => (List.mem_filter.mp h).1
  refine ⟨r0.dropped _, fun hp w hw e => ?_⟩
  rcases ((Routes.refl _).dropped _).waiting w hw with hm | hu
  · have := (List.mem_filter.mp hm).2
    simp [e] at this
  · have hu : f.up w.output = true := hu
    rw [e, hp] at hu
    cases hu

/-! ### The states of a link (R429) -/

/-- A port as its link goes DOWN. -/
def Port.lowered (q : Port) : Port := { q.fresh .down with down := q.down + 1 }

@[simp] theorem Fabric.flag_ports (f : Fabric) (bit : Nat) : (f.flag bit).ports = f.ports := rfl

/-- A link goes DOWN, whatever state it was in before. -/
theorem State.linkDown_of_ne {s : State} {p : FPort} (h : (s.link p).link ≠ .down) :
    ∃ g : Fabric, s.linkDown p = ({ s with fab := g } : State).event (fromLink p) 0x20 [BitVec.ofNat 64 p.val] ∧
      ((s.fab.onLink p Port.lowered).flag 11).Routes g ∧ ∀ w ∈ g.waiting, w.output ≠ p := by
  obtain ⟨hr, hw⟩ := ((s.fab.onLink p Port.lowered).flag 11).dropWaiting_routes p
  refine ⟨_, if_neg h, hr, hw ?_⟩
  rw [Fabric.up, Fabric.flag_ports, Fabric.onLink_self]
  rfl

/-- Settles O37: the four events of a link by its state, and what is left of a link that goes DOWN. -/
theorem linkStates : Obligations.LinkStates := by
  unfold Obligations.LinkStates
  intro p s
  refine ⟨?_, fun h => if_pos h, fun h => if_neg h, ?_⟩
  · intro may
    have hmay : may ↔ (s.link p).link = .down ∧ !(s.link p).cageCut ∧ !s.pwr.fabOff.getLsbD p.val ∧ !s.pwr.off := by
      simp only [may, Bool.not_eq_true']
    exact ⟨fun h => if_pos (hmay.mp h), fun h => if_neg fun k => h (hmay.mpr k)⟩
  · intro goesDown
    have down (h : (s.link p).link ≠ .down) : goesDown (s.linkDown p) := by
      obtain ⟨g, ht, hr, hw⟩ := State.linkDown_of_ne h
      rw [ht]
      have hp := hr.ports p
      rw [Fabric.flag_ports, Fabric.onLink_self] at hp
      refine ⟨?_, ?_, ?_, ?_, (State.event_logged ..).congr rfl rfl rfl, hw, fun q hq => ?_, rfl⟩
      · change g.ports[p].link = _
        rw [hp]
        rfl
      · change g.ports[p].replay = _
        rw [hp]
        rfl
      · change g.ports[p].down = _
        rw [hp]
        rfl
      · exact hr.stat 11 (by simp [Fabric.flag])
      · refine (hr.link q).trans ?_
        rw [Fabric.flag_ports, Fabric.onLink_other _ _ hq]
        rfl
    have hlive (h : (s.link p).live = true) : (s.link p).link ≠ .down := by
      intro e
      simp [Port.live, e] at h
    refine ⟨fun h => ?_, fun h => ⟨_, rfl, down h⟩, fun h => ?_, fun hl hr => ⟨_, ?_, down (hlive hl)⟩⟩
    · change Host.Outcome.next (s.linkDown p) = _
      rw [State.linkDown, if_pos h]
    · refine if_neg ?_
      rcases h with h | h <;> simp [h]
    · refine if_pos ?_
      simp [hl, hr]

/-- The supplies, whatever change of state is under way. -/
def Power.unmoved (p : Power) : Power := { p with transition := none }

/-- What tasks, steps and quiesces do not reach: the security state, transactions, the fault record, the debug window, the global memory
registers, the supplies. -/
structure Apart (s t : State) : Prop where
  pending : t.pending = s.pending
  glob : t.glob = s.glob
  txn : t.txn = s.txn
  sec : t.sec = s.sec
  pwr : t.pwr.unmoved = s.pwr.unmoved
  fenced : t.fenced = s.fenced
  erasures : t.erasures = s.erasures
  debugAddr : t.debugAddr = s.debugAddr
  debugReply : t.debugReply = s.debugReply

@[simp] theorem Apart.refl (s : State) : Apart s s := ⟨rfl, rfl, rfl, rfl, rfl, rfl, rfl, rfl, rfl⟩

theorem Apart.trans {s t u : State} (h : Apart s t) (k : Apart t u) : Apart s u where
  pending := k.pending.trans h.pending
  glob := k.glob.trans h.glob
  txn := k.txn.trans h.txn
  sec := k.sec.trans h.sec
  pwr := k.pwr.trans h.pwr
  fenced := k.fenced.trans h.fenced
  erasures := k.erasures.trans h.erasures
  debugAddr := k.debugAddr.trans h.debugAddr
  debugReply := k.debugReply.trans h.debugReply

section
variable {s t : State} (h : Apart s t)
include h

@[simp] theorem Apart.update {n m ps rq cs rs fl ru fa hl po ev es pw pe} (hp : pw.unmoved = t.pwr.unmoved) :
    Apart s ⟨t.pending, n, m, t.glob, ps, rq, cs, rs, fl, ru, fa, hl, po, t.txn, ev, es, t.sec, pw, pe, t.fenced, t.erasures, t.debugAddr,
      t.debugReply⟩ :=
  ⟨h.pending, h.glob, h.txn, h.sec, hp.trans h.pwr, h.fenced, h.erasures, h.debugAddr, h.debugReply⟩

@[simp] theorem Apart.ite {u : State} {c : Prop} [Decidable c] (hu : Apart s u) : Apart s (if c then t else u) := by
  split
  · exact h
  · exact hu

@[simp] theorem Apart.foldl {α : Type} {f : State → α → State} {xs : List α} (hf : ∀ t a, Apart t (f t a)) : Apart s (xs.foldl f t) :=
  foldl_keeps (q := Apart s) (fun b a hb => hb.trans (hf b a)) xs h

@[simp] theorem Apart.draw : Apart s t.draw.2 := by simp [State.draw, h]

theorem Apart.of_draw {n : Nat} {u : State} (hd : t.draw = (n, u)) : Apart s u := by
  have := h.draw
  rwa [hd] at this


/-! ### The fields of the state -/

@[simp] theorem Apart.onCl {c f} : Apart s (t.onCl c f) := by simp [State.onCl, h]

@[simp] theorem Apart.onRg {r f} : Apart s (t.onRg r f) := by simp [State.onRg, h]

@[simp] theorem Apart.onPart {p f} : Apart s (t.onPart p f) := by simp [State.onPart, h]

@[simp] theorem Apart.onPort {p f} : Apart s (t.onPort p f) := by simp [State.onPort, h]

@[simp] theorem Apart.onFab {f} : Apart s (t.onFab f) := by simp [State.onFab, h]

@[simp] theorem Apart.onHlt {f} : Apart s (t.onHlt f) := by simp [State.onHlt, h]

@[simp] theorem Apart.onRun {f} : Apart s (t.onRun f) := by simp [State.onRun, h]

@[simp] theorem Apart.onPorts {f} : Apart s (t.onPorts f) := by simp [State.onPorts, h]

/-! ### Events and completions -/

@[simp] theorem Apart.event {src code d status} : Apart s (t.event src code d status) := by simp [State.event, h]

@[simp] theorem Apart.notify {p asked ws} : Apart s (t.notify p asked ws) := by simp [State.notify, h]

@[simp] theorem Apart.finish {p id r flags} : Apart s (t.finish p id r flags) := by
  unfold State.finish
  split <;> simp [h]

@[simp] theorem Apart.interim {p id} : Apart s (t.interim p id) := by
  unfold State.interim
  split <;> simp [h]

@[simp] theorem Apart.mbxStat {p bit} : Apart s (t.mbxStat p bit) := by simp [State.mbxStat, h]

/-! ### Accesses of agents without region tags -/

@[simp] theorem Apart.chargeLine {cls l} : Apart s (t.chargeLine cls l) := by
  unfold State.chargeLine
  split <;> simp [h]

@[simp] theorem Apart.charged {cls ls} : Apart s (t.charged cls ls) := by simp [State.charged, h]

@[simp] theorem Apart.markSector {p o sector fresh} : Apart s (t.markSector p o sector fresh) := by
  unfold State.markSector
  refine Apart.event ?_
  dsimp only
  split
  · exact h.onPart.onHlt.update rfl
  · exact h.onPart.onHlt

@[simp] theorem Apart.ueReads {a len} : Apart s (t.ueReads a len) := by
  unfold State.ueReads
  exact h.foldl fun t a => by split <;> simp

@[simp] theorem Apart.dropWrite {sector} : Apart s (t.dropWrite sector) := by
  unfold State.dropWrite
  split <;> simp [h]

@[simp] theorem Apart.writeSector {sector ws} : Apart s (t.writeSector sector ws) := by
  unfold State.writeSector
  exact .ite (.ite (h.update rfl) h.ueReads.dropWrite) (h.update rfl)

@[simp] theorem Apart.busRead {cls a len} : Apart s (t.busRead cls a len) := by simp [State.busRead, h]

@[simp] theorem Apart.rewrote {ws} : Apart s (t.rewrote ws) := by simp [State.rewrote, h]

@[simp] theorem Apart.busWrite {cls ws} : Apart s (t.busWrite cls ws) := by
  unfold State.busWrite
  have hu : Apart s ((t.charged cls (writeLines ws)).rewrote ws) := h.charged.rewrote
  exact .ite (hu.update rfl) (hu.foldl fun t n => (Apart.refl t).writeSector)

/-! ### Packets and links -/

@[simp] theorem Apart.epochReply {dest id gen code} : Apart s (t.epochReply dest id gen code) := by simp [State.epochReply, h]

@[simp] theorem Apart.switchBank {src id} : Apart s (t.switchBank src id) := by simp [State.switchBank, h]

@[simp] theorem Apart.serveSwitch : Apart s t.serveSwitch := by
  unfold State.serveSwitch
  split <;> simp [h]

/-! ### Tasks, signals and commits -/

@[simp] theorem Apart.signal {c target slot amount} : Apart s (t.signal c target slot amount) := by
  unfold State.signal
  repeat' split
  all_goals simp [h]

@[simp] theorem Apart.tileWrite {c ws} : Apart s (t.tileWrite c ws) := by simp [State.tileWrite, h]

@[simp] theorem Apart.addTally {c w} : Apart s (t.addTally c w) := by simp [State.addTally, h]

@[simp] theorem Apart.record {c ws} : Apart s (t.record c ws) := by
  unfold State.record
  dsimp only
  split <;> simp [h]

@[simp] theorem Apart.onClusters {r f} : Apart s (t.onClusters r f) := by simp [State.onClusters, h]

@[simp] theorem Apart.unresolve {r g} : Apart s (t.unresolve r g) := by simp [State.unresolve, h]

@[simp] theorem Apart.settle {c i} : Apart s (t.settle c i) := by
  unfold State.settle
  exact .ite h (.ite h.onCl.onRg.unresolve h.onCl.onRg)

@[simp] theorem Apart.cutWaits {ws} : Apart s (t.cutWaits ws) := by simp [State.cutWaits, h]

@[simp] theorem Apart.cutSteps : Apart s t.cutSteps := by simp [State.cutSteps, h]

@[simp] theorem Apart.restoreRequired : Apart s t.restoreRequired := by
  unfold State.restoreRequired
  exact h.onHlt.onFab.cutSteps

@[simp] theorem Apart.dropRoots : Apart s t.dropRoots := by simp [State.dropRoots, h]

@[simp] theorem Apart.freshGuards : Apart s t.freshGuards := by simp [State.freshGuards, h]

@[simp] theorem Apart.installProblem {slot pr} : Apart s (t.installProblem slot pr) := by
  unfold State.installProblem
  split <;> simp [h]

@[simp] theorem Apart.installLoads : Apart s t.installLoads := by
  unfold State.installLoads
  exact h.onRun.foldl fun t l => (Apart.refl t).installProblem.finish

@[simp] theorem Apart.clearContext {ctx} : Apart s (t.clearContext ctx) := by simp [State.clearContext, h]

@[simp] theorem Apart.clearContexts : Apart s t.clearContexts := by
  unfold State.clearContexts
  exact h.onRun.foldl fun t l => (Apart.refl t).clearContext.finish

@[simp] theorem Apart.quietDone : Apart s t.quietDone := by
  unfold State.quietDone
  split
  · exact h
  · extract_lets n ws t1 w q t2 t3 t4
    have h1 : Apart s t1 := h.onRun
    have h2 : Apart s t2 := h1.update rfl
    have h3 : Apart s t3 := h2.restoreRequired.ite h2
    exact h3.dropRoots.freshGuards.installLoads.clearContexts.serveSwitch.foldl fun t w => (Apart.refl t).finish

@[simp] theorem Apart.stopUnit {c f} : Apart s (t.stopUnit c f) := by
  unfold State.stopUnit
  dsimp only
  repeat' split
  all_goals simp [h]

@[simp] theorem Apart.addStatistics {c i p pl k} : Apart s (t.addStatistics c i p pl k) := by
  unfold State.addStatistics
  dsimp only
  split
  · exact h
  · refine h.foldl fun t x => ?_
    split
    · split
      · exact (Apart.refl t).busRead.busWrite
      · exact .refl t
    · exact .refl t

@[simp] theorem Apart.updateFactors {cls p pl k} : Apart s (t.updateFactors cls p pl k) := by
  unfold State.updateFactors
  split
  · exact h
  · exact h.foldl fun t x => .ite (Apart.refl t).busRead.busRead.busWrite (.refl t)

@[simp] theorem Apart.formStatistics {c f} : Apart s (t.formStatistics c f) := by
  unfold State.formStatistics
  split
  · refine h.foldl fun t k => ?_
    split
    · exact (Apart.refl t).addStatistics
    · exact .ite (.ite (Apart.refl t).onRun.updateFactors.onRun (Apart.refl t).onRun) (.refl t)
    · exact .refl t
  · exact h

@[simp] theorem Apart.optimised : Apart s t.optimised := by simp [State.optimised, h]

@[simp] theorem Apart.report {c f} : Apart s (t.report c f) := by
  unfold State.report
  extract_lets e u t1 t2
  have h1 : Apart s t1 := .ite h.formStatistics.onRun h.formStatistics
  have h2 : Apart s t2 := .ite h1.onRun h1
  split
  · exact .ite h2.onRg (.ite h2.optimised h2)
  · exact h2

@[simp] theorem Apart.endFiring {c f outcome cause signals} : Apart s (t.endFiring c f outcome cause signals) := by
  unfold State.endFiring
  extract_lets k e f'
  split
  next n u hd =>
  extract_lets cycles t1 t2 a b t3 t4
  have h2 : Apart s t2 := (h.of_draw hd).record.onCl
  have h3 : Apart s t3 := by
    refine Apart.ite (.report (Apart.ite h2 ?_)) h2
    refine Apart.foldl (h2.foldl fun t p => (Apart.refl t).onCl) fun t p => ?_
    split
    · exact (Apart.refl t).update rfl
    · exact .refl t
  have h4 : Apart s t4 := .ite h3.onCl.event (.ite h3.onCl h3)
  exact .quietDone (.ite h4.settle h4)

@[simp] theorem Apart.dropFiring {c f outcome cause} : Apart s (t.dropFiring c f outcome cause) := by
  unfold State.dropFiring
  extract_lets t1 t2
  have h1 : Apart s t1 := h.stopUnit.onRg
  have h2 : Apart s t2 := .ite (h1.foldl fun t w => (Apart.refl t).addTally) h1
  split
  next n u e => exact ((h2.of_draw e).foldl fun t p => (Apart.refl t).update rfl).endFiring

@[simp] theorem Apart.squash {c f cause} : Apart s (t.squash c f cause) := by simp [State.squash, h]

@[simp] theorem Apart.faultFiring {c f cause} : Apart s (t.faultFiring c f cause) := by
  unfold State.faultFiring
  exact .ite h.squash h.stopUnit.onRg.endFiring

@[simp] theorem Apart.firingWrite {c f ws} : Apart s (t.firingWrite c f ws) := by
  unfold State.firingWrite
  repeat' split
  all_goals simp [h]

@[simp] theorem Apart.holdItem {c f item} : Apart s (t.holdItem c f item) := by simp [State.holdItem, h]

@[simp] theorem Apart.prod {c target slot amount} : Apart s (t.prod c target slot amount) := by simp [State.prod, h]

@[simp] theorem Apart.commitEffects {c i} : Apart s (t.commitEffects c i) := by
  unfold State.commitEffects
  extract_lets k t1 items t2 t3 t4
  have h1 : Apart s t1 := h.foldl fun t w => (Apart.refl t).onCl
  have h2 : Apart s t2 := h1.foldl fun t x => by
    split
    · exact (Apart.refl t).prod
    · exact .refl t
  split
  · exact h
  · exact (h2.onRg.onRg.foldl fun t w => (Apart.refl t).addTally).onCl

@[simp] theorem Apart.commitEnd {c i} : Apart s (t.commitEnd c i) := by
  unfold State.commitEnd
  split <;> simp [h]

@[simp] theorem Apart.skipBound {r g v} : Apart s (t.skipBound r g v) := by
  unfold State.skipBound
  exact h.foldl fun t c => (Apart.refl t).foldl fun t i => .ite (Apart.refl t).endFiring (.refl t)

omit h in
/-- A resolution keeps both, however deep those that follow from it go. -/
theorem State.resolve_apart (fuel : Nat) : ∀ (t : State) (r : Rg) (g : Nat) (v : Bool), Apart t (State.resolve fuel t r g v) := by
  induction fuel with
  | zero => exact fun t _ _ _ => .refl t
  | succ fuel ih =>
    intro t r g v
    rw [State.resolve]
    refine .ite (Apart.refl t).onRun (.ite (Apart.refl t).onRg ?_)
    extract_lets t1 against t2 t3 mine t4 t5 t6 t7 y
    have h2 : Apart t t2 := (Apart.refl t).onRg.foldl fun t p => (Apart.refl t).dropFiring
    have h6 : Apart t t6 := h2.onRg.onClusters.onRg.foldl fun t p => by
      dsimp only
      split
      · exact .commitEnd ((Apart.refl t).commitEffects.foldl fun t (x : Nat × Bool) => ih t r x.1 x.2)
      · exact ((Apart.refl t).update rfl).onCl
    exact .ite h6.skipBound.unresolve h6.skipBound

@[simp] theorem Apart.resolve {fuel r g v} : Apart s (State.resolve fuel t r g v) := h.trans (State.resolve_apart fuel t r g v)

@[simp] theorem Apart.quiesceNow : Apart s t.quiesceNow := by
  unfold State.quiesceNow
  exact ((h.onRun.foldl fun t p => (Apart.refl t).dropFiring).update rfl).freshGuards.quietDone



end

/-! ### Resets and boots (R546 to R551, R592, R614) -/

/-- Closing every scope changes what tasks reach, and no more of the security state. -/
theorem State.closeScopes_apart (s : State) : Apart (s.onSec fun x => { x with debugOpen := 0 }) s.closeScopes := by
  unfold State.closeScopes
  refine .ite ((Apart.refl _).foldl fun t c => .ite ?_ (.refl t)) (.refl _)
  split
  · exact (Apart.refl t).faultFiring
  · exact .refl t

theorem State.anyReset_banks (s : State) : s.anyReset.sec.banks = s.sec.banks ∧ s.anyReset.sec.svn = s.sec.svn ∧
    s.anyReset.sec.revoked = s.sec.revoked ∧ s.anyReset.fenced = s.fenced ∧ s.anyReset.pending = s.pending := by
  have h := s.closeScopes_apart
  have hs : s.closeScopes.sec = _ := h.sec
  refine ⟨?_, ?_, ?_, h.fenced, h.pending⟩
  all_goals
    rw [State.anyReset, State.onSec_sec, hs]
    rfl

/-- An attempt that is cut off leaves a record, and changes the boot log alone. -/
theorem State.cutAttempt_eq (s : State) (reason : Option Nat) : ∃ (n k : Nat) (l : List BootRec),
    s.cutAttempt reason = { s with nonce := n, sec := { s.sec with bootCount := k, bootLog := l, trying := none } } := by
  unfold State.cutAttempt
  split
  · next h => exact ⟨s.nonce, s.sec.bootCount, s.sec.bootLog, by rw [← h]⟩
  · exact ⟨_, _, _, rfl⟩

/-- The ROM chooses a bank to load, or none. -/
theorem Security.romSelect_eq (x : Security) : ∃ c o t b, x.romSelect = { x with cnt := c, oneShot := o, trying := t, boot := b } ∧
    (b = .load ∨ b = .recovery) := by
  unfold Security.romSelect
  dsimp only
  split
  · exact ⟨_, _, _, _, rfl, .inl rfl⟩
  · split
    · exact ⟨_, _, _, _, rfl, .inl rfl⟩
    · split
      · exact ⟨_, _, _, _, rfl, .inl rfl⟩
      · exact ⟨_, _, _, _, rfl, .inr rfl⟩

@[simp] theorem State.cold_island (s : State) (cause : Nat) (strap : Byte) (n : Fin 100) :
    (s.cold cause strap).pwr.islands[n].powered = decide (96 ≤ n.val) := by
  change (Vector.ofFn fun i : Fin 100 => ({ running := decide (96 ≤ i.val), powered := decide (96 ≤ i.val) } : Island))[n].powered = _
  simp

theorem State.cold_port (s : State) (cause : Nat) (strap : Byte) (p : HPort) : (s.cold cause strap).port p =
    { fired := (s.port p).fired, perst := (s.port p).perst, fullRate := false } := by
  change (s.ports.map _)[p] = _
  simp [State.port]

/-- What a reset that runs the boot leaves of a module. -/
def Rebooted (s : State) (cause : Nat) (strap : Byte) (t : State) : Prop :=
  t.pwr.off = false ∧ t.pwr.rstCause = BitVec.ofNat 3 cause ∧ t.hlt.strap = strap ∧ t.run = {} ∧ t.txn = none ∧ t.reqs = [] ∧
    t.flights = [] ∧ t.glob = {} ∧ t.perf = {} ∧ t.debugAddr = 0 ∧ t.events = [] ∧ t.evtSeq = 1 ∧ t.mem.cells = [] ∧
    (∀ p, (t.port p).outstanding = [] ∧ (t.port p).fifo = [] ∧ (t.port p).out = []) ∧
    (∀ n : Fin 100, t.pwr.islands[n].powered = decide (96 ≤ n.val)) ∧ t.pwr.domains = 0 ∧ t.sec.bank = none ∧
    t.sec.banks = s.sec.banks ∧ t.sec.svn = s.sec.svn ∧ t.sec.revoked = s.sec.revoked ∧ t.sec.debugOpen = 0 ∧ t.fenced = s.fenced ∧
    (t.sec.boot = .load ∨ t.sec.boot = .recovery) ∧ t.pending = s.pending

theorem State.reboot_leaves (s : State) (cause : Nat) (strap : Byte) (reason : Option Nat) :
    Rebooted s cause strap (s.reboot cause strap reason) := by
  obtain ⟨n, k, l, hcut⟩ := s.cutAttempt_eq reason
  obtain ⟨hbanks, hsvn, hrev, hfenced, hpending⟩ := (s.cutAttempt reason).anyReset_banks
  obtain ⟨c, o, r, b, hrom, hb⟩ := ((s.cutAttempt reason).anyReset.cold cause strap).sec.romSelect_eq
  have hsec : (s.reboot cause strap reason).sec = _ := hrom
  refine ⟨rfl, rfl, rfl, rfl, rfl, rfl, rfl, rfl, rfl, rfl, rfl, rfl, rfl, fun p => ?_, State.cold_island _ cause strap, rfl, ?_⟩
  · have hp : (s.reboot cause strap reason).port p = _ := State.cold_port (s.cutAttempt reason).anyReset cause strap p
    rw [hp]
    exact ⟨rfl, rfl, rfl⟩
  · rw [hsec]
    refine ⟨rfl, hbanks.trans ?_, hsvn.trans ?_, hrev.trans ?_, rfl, hfenced.trans ?_, hb, hpending.trans ?_⟩
    all_goals rw [hcut]

/-- Settles O56: each of the four commands reboots the module where it is due, and does nothing elsewhere. -/
theorem resetsReboot : Obligations.ResetsReboot := by
  unfold Obligations.ResetsReboot
  intro s i cause strap due h
  have key (reason : Option Nat) (he : exec i s = .next (if due then s.reboot cause strap reason else s)) :
      (due = false → exec i s = .next s) ∧ (due = true → Answers i s (Rebooted s cause strap)) :=
    ⟨fun hd => by rw [he, hd]; rfl, fun hd => ⟨_, by rw [he, if_pos hd], s.reboot_leaves cause strap reason⟩⟩
  rcases h with ⟨rfl, rfl, rfl⟩ | ⟨rfl, rfl, rfl⟩ | ⟨rfl | rfl, rfl, rfl⟩
  · exact key (some 11) rfl
  · exact key none rfl
  · exact key (some 9) rfl
  · exact key (some 10) rfl

/-! ### Boots, power loss and the external reset (R546 to R551, R570, R614, R625, R626) -/

theorem cellGet_of_no_cell {unl : Nat → Byte} {cells : List Host.Cell} {a : Nat} (h : ∀ c ∈ cells, c.1 ≠ a) :
    cellGet unl cells a = unl a := by
  induction cells with
  | nil => rfl
  | cons c cells ih =>
    obtain ⟨b, v⟩ := c
    rw [cellGet, if_neg (h _ List.mem_cons_self).symm]
    split
    · rfl
    · exact ih fun c hc => h c (List.mem_cons_of_mem _ hc)

/-- A stretch filled with zeros reads as zero. -/
theorem Memory.get_fill_zero (m : Memory) {base len a : Nat} (h : base ≤ a) (h' : a < base + len) : (m.fill base len none).get a = 0 := by
  rw [Memory.get, cellGet_of_no_cell]
  · simp only [Memory.fill]
    split
    · rfl
    · simp [unlisted, fillAt, h, h']
  · intro c hc e
    have := (List.mem_filter.mp hc).2
    rw [e] at this
    simp only [Bool.or_eq_true, decide_eq_true_eq] at this
    omega

/-- The codes of the newest events. -/
theorem State.event_codes (s : State) (src : Source) (code : Nat) (d : List Word) (st : Nat) {n : Nat} (h : n < 4096) :
    ((s.event src code d st).events.take (n + 1)).map (·.code) = BitVec.ofNat 16 code :: (s.events.take n).map (·.code) := by
  obtain ⟨e, he, -, hc, -⟩ := s.event_events src code d st
  rw [he, List.take_succ_cons, List.map_cons, hc, List.take_take, Nat.min_eq_left (by omega)]

theorem exec_bootLoadDone (s : State) : exec .bootLoadDone s = execBootLoadDone s := rfl
theorem exec_bootReady (s : State) : exec .bootReady s = execBootReady s := rfl

/-- The security state as the end of INIT leaves it, before any event: the bank runs, and its attempt is recorded. -/
def Security.bootedFrom (x : Security) (b : Bool) : Security :=
  { x with
    boot := .ready, bank := some b, trying := none, cnt := x.cnt.set (bankIx b) 0, bootCount := x.bootCount + 1
    bootLog := (({
      number := x.bootCount + 1, state := Boot.ready.code, bank := bankCode (some b), kind := 0, reason := 0, status := 0
      cnt := x.cnt[bankIx b].toNat } : BootRec) :: x.bootLog).take 2048 }

/-- The end of INIT with BOOT_RESULT and, where the bank is another one than before, BANK_FALLBACK. -/
def State.bootedFrom (s : State) (b : Bool) : State :=
  let t := (s.onSec (·.bootedFrom b)).event fromMarkhor 0xC0 [packBits [(bankCode (some b), 0), ((s.sec.bootCount + 1) % 256, 8)]]
  if b = s.sec.preferred then t
  else (t.onSec fun x => { x with preferred := b }).event fromMarkhor 0xC1 [packBits [(bankCode (some b), 0), (bankCode (some s.sec.preferred), 2)]]

theorem exec_bootReady_of_init {s : State} {b : Bool} (ht : s.sec.trying = some b) (ho : s.pwr.off = false) (he : s.sec.extHeld = false)
    (hi : s.sec.boot = .init) : exec .bootReady s = .next ((s.bootedFrom b).advanceSvn b) := by
  have hin : s.inInit = true := by simp [State.inInit, ho, he, hi]
  rw [exec_bootReady, execBootReady, ht]
  dsimp only
  rw [if_neg (by simp [hin])]
  rfl

/-- What a module that has booted keeps of what decides an advance of the security version. -/
theorem State.bootedFrom_sec (s : State) (b : Bool) :
    (s.bootedFrom b).sec = { s.sec.bootedFrom b with preferred := b } := by
  unfold State.bootedFrom
  dsimp only
  split
  · next h =>
    subst h
    rfl
  · rfl

/-- The codes of the events that the end of INIT enters before an advance, and their number. -/
theorem State.bootedFrom_events (s : State) (b : Bool) :
    let codes := [0xC0] ++ (if b = s.sec.preferred then [] else [0xC1])
    (s.bootedFrom b).evtSeq = s.evtSeq + BitVec.ofNat 64 codes.length ∧
      ((s.bootedFrom b).events.take codes.length).map (·.code) = codes.reverse.map (BitVec.ofNat 16) ∧
      (codes.length = 1 → Logged s (s.bootedFrom b) 0xC0 [packBits [(bankCode (some b), 0), ((s.sec.bootCount + 1) % 256, 8)]]) := by
  unfold State.bootedFrom
  dsimp only
  split
  · refine ⟨rfl, ?_, fun _ => (State.event_logged ..).congr rfl rfl rfl⟩
    exact State.event_codes _ _ _ _ _ (n := 0) (by decide)
  · refine ⟨?_, ?_, fun h => by cases h⟩
    · simp only [State.event_evtSeq, State.onSec_evtSeq]
      rw [BitVec.add_assoc]
      rfl
    · refine (State.event_codes _ _ _ _ _ (n := 1) (by decide)).trans ?_
      rw [State.onSec_events, State.event_codes _ _ _ _ _ (n := 0) (by decide)]
      rfl

/-- An advance of the security version: one event, and the other bank retired where its version is below. -/
theorem State.advanceSvn_eq (s : State) (b : Bool) (h : s.sec.pendingSvn[bankIx b] = true) :
    let x := s.sec.bankAt b
    let svn := max s.sec.svn (min 64 (x.manifest 0 1))
    ∃ d, s.advanceSvn b = (s.event fromMarkhor 0xC3 d).onSec fun y => { y with
      svn := svn, revoked := y.revoked ||| BitVec.ofNat 6 (x.manifest 4 2 % 64), pendingSvn := y.pendingSvn.set (bankIx b) false
      bootable := if (s.sec.bankAt (!b)).manifest 0 1 < svn then y.bootable.set (bankIx (!b)) false else y.bootable } := by
  unfold State.advanceSvn
  rw [if_neg (by simp [h])]
  refine ⟨[packBits [(max s.sec.svn (min 64 ((s.sec.bankAt b).manifest 0 1)), 0), ((s.sec.bankAt b).manifest 4 2 % 64, 8)]], ?_⟩
  dsimp only
  split <;> rfl

theorem bankIx_not_ne (b : Bool) : (bankIx b).val ≠ (bankIx (!b)).val := by cases b <;> decide

theorem set_bank_self {α : Type} (v : Vector α 2) (b : Bool) (x : α) : (v.set (bankIx b) x)[bankIx b] = x := by simp

theorem set_bank_other {α : Type} (v : Vector α 2) (b : Bool) (x : α) : (v.set (bankIx b) x)[bankIx (!b)] = v[bankIx (!b)] := by
  simp only [Fin.getElem_fin]
  exact Vector.getElem_set_ne _ _ (bankIx_not_ne b)

@[simp] theorem State.supply_mem (s : State) (st : PState) (r : BitVec 24) : (s.supply st r).mem = s.mem := by
  rw [State.supply, State.onPwr_mem]
@[simp] theorem State.supply_sec (s : State) (st : PState) (r : BitVec 24) : (s.supply st r).sec = s.sec := by
  rw [State.supply, State.onPwr_sec]

/-- INIT once the dies are powered. -/
def State.initialised (t : State) (b : Bank) : State :=
  let t := t.onSec fun x => { x with boot := .init, keySvn := x.svn, featureLevel := BitVec.ofNat 16 b.feature }
  let t := t.onFab fun f => { f with ports := f.ports.map fun q => q.fresh .training }
  { t with
    mem := t.mem.fill 0 (576 * gib) none
    parts := Vector.ofFn fun p => { t.parts[p] with initBusy := decide (p.val < 12) }
    glob := { t.glob with custom := Vector.ofFn fun i => b.format i.val }
    ports := t.ports.map fun q => { q with fullRate := true } }

theorem State.initialised_mem (t : State) (b : Bank) : (t.initialised b).mem = t.mem.fill 0 (576 * gib) none := rfl
theorem State.initialised_sec (t : State) (b : Bank) :
    (t.initialised b).sec = { t.sec with boot := .init, keySvn := t.sec.svn, featureLevel := BitVec.ofNat 16 b.feature } := rfl

theorem State.enterInit_eq (s : State) (b : Bank) : s.enterInit b = (s.supply .a0 allRegions).initialised b := rfl

theorem State.enterInit_mem (s : State) (b : Bank) : (s.enterInit b).mem = s.mem.fill 0 (576 * gib) none := by
  rw [State.enterInit_eq, State.initialised_mem, State.supply_mem]

theorem State.enterInit_sec (s : State) (b : Bank) :
    (s.enterInit b).sec = { s.sec with boot := .init, keySvn := s.sec.svn, featureLevel := BitVec.ofNat 16 b.feature } := by
  rw [State.enterInit_eq, State.initialised_sec, State.supply_sec]

theorem State.enterInit_part (s : State) (b : Bank) (p : Pt) : ((s.enterInit b).part p).initBusy = decide (p.val < 12) := by
  rw [State.enterInit_eq]
  simp only [State.initialised, State.part, Fin.getElem_fin, Vector.getElem_ofFn]
theorem bootProceeds : Claim.BootProceeds := by
  unfold Claim.BootProceeds
  intro s
  refine ⟨fun h => ?_, fun h => ?_, fun h => ?_, fun b hb ho he => ⟨fun hl hi => ?_, fun reason kind hl hi => ?_, fun hi => ?_⟩⟩
  · have hno : s.sec.trying = none ∨ s.inInit = false ∧ (s.pwr.off || s.sec.extHeld) = true := by
      rcases h with h | h | h
      · exact .inl h
      · exact .inr ⟨by simp [State.inInit, h], by simp [h]⟩
      · exact .inr ⟨by simp [State.inInit, h], by simp [h]⟩
    rw [exec_bootLoadDone, exec_bootReady, execBootLoadDone, execBootReady]
    rcases hno with h | ⟨hi, ho⟩
    · rw [h]
      exact ⟨by cases s.sec.boot <;> rfl, rfl⟩
    · refine ⟨?_, ?_⟩
      · split
        · rw [if_pos ho]
        · rfl
      · split
        · rw [if_pos (by simp [hi])]
        · rfl
  · rw [exec_bootLoadDone, execBootLoadDone]
    split
    · next h' _ => exact absurd h' h
    · rfl
  · rw [exec_bootReady, execBootReady]
    split
    · rw [if_pos (by simp [State.inInit, h])]
    · rfl
  · refine ⟨s.enterInit (s.sec.bankAt b), ?_, ?_, ?_, ?_, s.enterInit_part _, fun a ha => ?_⟩
    · rw [exec_bootLoadDone, execBootLoadDone, hl, hb]
      dsimp only
      rw [if_neg (by rw [ho, he]; decide), hi]
    · rw [State.enterInit_sec]
    · rw [State.enterInit_sec]
      exact hb
    · rw [State.enterInit_sec]
    · rw [State.enterInit_mem]
      exact Memory.get_fill_zero _ (Nat.zero_le a) (by unfold gib; omega)
  · refine ⟨(s.bootRecord b kind reason (reasonStatus reason)).onSec fun x => { x with boot := .recovery }, ?_, rfl, rfl, rfl, ?_⟩
    · rw [exec_bootLoadDone, execBootLoadDone, hl, hb]
      dsimp only
      rw [if_neg (by rw [ho, he]; decide), hi]
    · refine ⟨_, s.sec.bootLog.take 2047, rfl, rfl, rfl, rfl, rfl⟩
  · refine ⟨_, exec_bootReady_of_init hb ho he hi, ?_⟩
    have hsec := s.bootedFrom_sec b
    obtain ⟨hseq, hcodes, hlog⟩ := s.bootedFrom_events b
    have hbank (d : Bool) : (s.bootedFrom b).sec.bankAt d = s.sec.bankAt d := by rw [hsec]; rfl
    cases hp : s.sec.pendingSvn[bankIx b] with
    | false =>
      have hadv : (s.bootedFrom b).advanceSvn b = s.bootedFrom b := by
        rw [State.advanceSvn, hsec]
        exact if_pos (by simpa [Security.bootedFrom] using hp)
      dsimp only
      rw [hadv, hsec]
      refine ⟨rfl, rfl, set_bank_self .., rfl, rfl, rfl, rfl, rfl, hp, ?_, ?_, ?_, ?_⟩
      · simp [Security.bootedFrom]
      · simpa using hseq
      · simpa using hcodes
      · simpa using hlog
    | true =>
      obtain ⟨d, hadv⟩ := (s.bootedFrom b).advanceSvn_eq b (by rw [hsec]; exact hp)
      have hsvn : (s.bootedFrom b).sec.svn = s.sec.svn := by rw [hsec]; rfl
      simp only [hbank, hsvn] at hadv
      dsimp only
      rw [hadv]
      simp only [State.onSec_sec, State.event_sec, hsec, State.onSec_evtSeq, State.event_evtSeq, State.onSec_events, if_true]
      refine ⟨rfl, rfl, set_bank_self .., rfl, trivial, trivial, rfl, rfl, set_bank_self .., ?_, ?_, ?_, fun h => ?_⟩
      · rw [Bool.true_and]
        split
        · next h => simp [h]
        · next h => simp [h, Security.bootedFrom]
      · rw [hseq, List.length_append (bs := [0xC3]), BitVec.add_assoc, BitVec.ofNat_add]
        rfl
      · rw [List.length_append (bs := [0xC3]), List.reverse_append, List.map_append, ← hcodes]
        exact State.event_codes _ _ _ _ _ (by split <;> decide)
      · rw [List.length_append (bs := [0xC3])] at h
        simp at h

theorem powerLostAndHeld : Claim.PowerLostAndHeld := by
  unfold Claim.PowerLostAndHeld
  intro s
  refine ⟨fun mv high => ⟨fun h => if_pos h, fun h => ?_⟩, fun h => ?_, fun ho he => ?_, fun strap => ⟨fun h => ?_, fun ho he => ?_⟩⟩
  · have hex : exec (.powerInputLost mv high) s = execPowerInputLost mv high s := rfl
    rw [Answers, hex, execPowerInputLost, if_neg (by rw [h]; decide)]
    dsimp only
    split
    · next hb =>
      refine ⟨_, rfl, rfl, rfl, rfl, fun n => ?_, rfl, fun _ => (State.event_logged ..).congr rfl rfl rfl, fun h => absurd hb h⟩
      change (Vector.replicate 100 _ : Vector Island 100)[n].powered = _
      simp
    · next hb =>
      refine ⟨_, rfl, rfl, rfl, rfl, fun n => ?_, rfl, fun h => absurd h hb, fun _ => rfl⟩
      change (Vector.replicate 100 _ : Vector Island 100)[n].powered = _
      simp
  · have hex : exec .extRstAssert s = execExtRstAssert s := rfl
    rw [hex, execExtRstAssert, if_pos (by rcases h with h | h <;> simp [h])]
  · have hex : exec .extRstAssert s = execExtRstAssert s := rfl
    obtain ⟨n, k, l, hcut⟩ := s.cutAttempt_eq none
    rw [Answers, hex, execExtRstAssert, if_neg (by simp [ho, he])]
    refine ⟨_, rfl, rfl, ?_, rfl, ?_, State.cold_island (s.cutAttempt none) s.pwr.rstCause.toNat s.hlt.strap⟩
    · change (s.cutAttempt none).sec.banks = _
      rw [hcut]
    · change (s.cutAttempt none).sec.oneShot = _
      rw [hcut]
  · have hex : exec (.extRstRelease strap) s = execExtRstRelease strap s := rfl
    rw [hex, execExtRstRelease, if_neg (by rcases h with h | h <;> simp [h])]
  · refine ⟨s.reboot 3 strap none, ?_, ?_⟩
    · have hex : exec (.extRstRelease strap) s = execExtRstRelease strap s := rfl
      rw [hex, execExtRstRelease, if_pos (by simp [ho, he])]
    · obtain ⟨c, o, r, b, hrom, hb⟩ := ((s.cutAttempt none).anyReset.cold 3 strap).sec.romSelect_eq
      have hsec : (s.reboot 3 strap none).sec = _ := hrom
      rw [hsec]
      exact ⟨rfl, rfl, rfl, rfl, hb⟩

/-- Settles O58: the end of the load and of INIT by what the bank is, and the two ways in which a module stops. -/
theorem bootAndHolds : Obligations.BootAndHolds := ⟨bootProceeds, powerLostAndHeld⟩

/-! ### The debug window (R563, R627, R629) -/

/-- Bytes read back as the number that they were taken from. -/
theorem leBytes_of_bytes {rd : Nat → Byte} {a n v : Nat} (h : ∀ i, i < n → rd (a + i) = BitVec.ofNat 8 (v / 256 ^ i)) :
    leBytes rd a n = v % 256 ^ n := by
  induction n generalizing a v with
  | zero => simp [leBytes, Nat.mod_one]
  | succ n ih =>
    have h0 : rd a = BitVec.ofNat 8 v := by simpa using h 0 (by omega)
    have hs := ih (a := a + 1) (v := v / 256) fun i hi => by
      rw [show a + 1 + i = a + (i + 1) by omega, h (i + 1) (by omega), Nat.div_div_eq_div_mul, ← pow_succ']
    rw [leBytes, h0, hs, BitVec.toNat_ofNat, pow_succ' 256, Nat.mod_mul]

/-- A word written reads back. -/
theorem Memory.word_write {m : Memory} (h : m.wf = true) (a : Nat) (w : Word) : (m.write (writesAt a (bytesOf 8 w.toNat))).word a = w := by
  have hb : ∀ i, i < 8 → (m.write (writesAt a (bytesOf 8 w.toNat))).get (a + i) = BitVec.ofNat 8 (w.toNat / 256 ^ i) := fun i hi => by
    have hl : i < (bytesOf 8 w.toNat).length := by rw [length_bytesOf]; exact hi
    rw [Memory.get_writesAt h a _ hl, getElem_bytesOf]
  rw [Memory.word, leBytes_of_bytes hb, Nat.mod_eq_of_lt (show w.toNat < 256 ^ 8 from w.isLt), BitVec.ofNat_toNat, BitVec.setWidth_eq]

@[simp] theorem State.clearReg_debugAddr {s t : State} {a : Nat} {w : Word} (h : s.clearReg a w = some t) : t.debugAddr = s.debugAddr := by
  unfold State.clearReg at h
  split at h
  · obtain ⟨k, -, rfl⟩ := Option.map_eq_some_iff.mp h
    rfl
  · obtain ⟨k, -, rfl⟩ := Option.map_eq_some_iff.mp h
    rfl
  · obtain ⟨-, h⟩ := Option.ite_none_right_eq_some.mp h
    cases h
    rfl
  · obtain ⟨-, h⟩ := Option.ite_none_right_eq_some.mp h
    cases h
    rfl
  · obtain ⟨-, h⟩ := Option.ite_none_right_eq_some.mp h
    cases h
    rfl
  · obtain ⟨-, h⟩ := Option.ite_none_right_eq_some.mp h
    cases h
    rfl
  · cases h

@[simp] theorem State.writeReg_debugAddr (s : State) (a : Nat) (w : Word) : (s.writeReg a w).debugAddr = s.debugAddr := by
  unfold State.writeReg
  split
  · next t h => exact State.clearReg_debugAddr h
  · split <;> rfl

/-- An address that leads to a cluster's registers or its tile memory belongs to a cluster that EBREAK has halted. -/
theorem State.debugAt_halted {s : State} {a : Nat} {c : Cl} {off : Nat}
    (h : s.debugAt a = .register c ∨ (s.debugAt a = .tile ∧ rangeOf a = .tile off ∧ clOf off = some c)) : s.halted c = true := by
  unfold State.debugAt at h
  dsimp only at h
  split at h
  · rcases h with h | ⟨h, -⟩ <;> cases h
  · split at h
    · rcases h with h | ⟨h, -⟩ <;> cases h
    · generalize ho : (if (Config.debugDir.any fun e => debugRange e s.sec.debugOpen a) = true then DebugAt.range else .closed) = other at h
      have hother : other ≠ .register c ∧ other ≠ .tile := by
        subst ho
        split <;> exact ⟨nofun, nofun⟩
      split at h
      · rcases h with h | ⟨h, -⟩
        · exact absurd h hother.1
        · exact absurd h hother.2
      · split at h
        · split at h
          · next hh =>
            rcases h with h | ⟨h, -⟩
            · cases h
              exact hh
            · cases h
          · rcases h with h | ⟨h, -⟩
            · exact absurd h hother.1
            · exact absurd h hother.2
        · next n hr _ =>
          split at h
          · next d hd =>
            split at h
            · next hh =>
              rcases h with h | ⟨-, hr', hc⟩
              · cases h
              · rw [hr'] at hr
                cases hr
                rw [hd] at hc
                cases hc
                exact hh
            · rcases h with h | ⟨h, -⟩
              · exact absurd h hother.1
              · exact absurd h hother.2
          · rcases h with h | ⟨h, -⟩
            · exact absurd h hother.1
            · exact absurd h hother.2
        · rcases h with h | ⟨h, -⟩
          · exact absurd h hother.1
          · exact absurd h hother.2

/-- What a write of a word of tile memory through the window leaves. -/
theorem State.debugTile_write {s : State} (h : s.mem.wf = true) (a : Nat) (w : Word) :
    let m := s.mem.write (writesAt a (bytesOf 8 w.toNat))
    m.word a = w ∧ ∀ d, d < a ∨ a + 8 ≤ d → m.get d = s.mem.get d := by
  refine ⟨Memory.word_write h a w, fun d hd => Memory.get_write_other h _ d fun b hb e => ?_⟩
  obtain ⟨h1, h2⟩ := addr_of_mem_writesAt hb
  rw [length_bytesOf] at h2
  omega

/-- Settles O59: each place that an address of the window leads to, read and written. -/
theorem debugWindow : Obligations.DebugWindow := by
  unfold Obligations.DebugWindow
  intro s a moved
  have hex (w : Option Word) : exec (.debugDataAccess w) s = execDebugDataAccess w s := rfl
  have ha : s.debugAddr.toNat = a := rfl
  refine ⟨fun h w => ?_, fun h => ?_, fun ho he hr => ?_, fun c off h0 h => ?_⟩
  · rw [hex]
    by_cases hc : (s.pwr.off || s.sec.extHeld || s.sec.boot != .ready) = true
    · exact if_pos hc
    · have hcl : s.debugAt a = .closed := by
        rcases h with h | h | h | h
        · simp [h] at hc
        · simp [h] at hc
        · simp [h] at hc
        · exact h
      cases w <;> simp only [execDebugDataAccess, hc, ha, hcl, Bool.false_eq_true, if_false]
  · unfold State.debugAt
    exact if_pos h.symm
  · have hup : (s.pwr.off || s.sec.extHeld || s.sec.boot != .ready) = false := by simp [ho, he, hr]
    refine ⟨fun i hd => ⟨?_, fun w => ?_⟩, fun c hd => ⟨?_, fun w => ?_⟩, fun hd => ⟨⟨Config.freeWord s.nonce 0, ?_⟩, fun w => ?_⟩,
      fun hd => ⟨?_, fun w hw => ?_⟩⟩
    · simp only [hex, execDebugDataAccess, hup, ha, hd]
      rfl
    · simp only [hex, execDebugDataAccess, hup, ha, hd]
      rfl
    · simp only [hex, execDebugDataAccess, hup, ha, hd]
      rfl
    · simp only [hex, execDebugDataAccess, hup, ha, hd, State.debugMoved, State.writeReg_debugAddr]
      rfl
    · simp only [hex, execDebugDataAccess, hup, ha, hd]
      rfl
    · simp only [hex, execDebugDataAccess, hup, ha, hd]
      rfl
    · simp only [hex, execDebugDataAccess, hup, ha, hd]
      rfl
    · refine ⟨moved { s with mem := s.mem.write (writesAt a (bytesOf 8 w.toNat)) } w, ?_, rfl, State.debugTile_write hw a w⟩
      simp only [hex, execDebugDataAccess, hup, ha, hd]
      rfl
  · have hh : s.halted c = true := State.debugAt_halted h
    simpa [State.halted] using hh

/-! ### Watchdog, regulators, scrub and the end of the zero fill (R402, R405, R416, R418) -/

theorem State.onPort_of_eq {s : State} {p : HPort} {f : HostPort → HostPort} (h : f (s.port p) = s.port p) : s.onPort p f = s := by
  have h : f s.ports[p] = s.ports[p] := h
  rw [State.onPort, h, Fin.getElem_fin, Vector.set_getElem_self]

/-- The marks of a line, as bits. -/
theorem getLsbD_marks (f : Fin 8 → Bool) (k : Fin 8) :
    (BitVec.ofNat 8 ((List.finRange 8).foldl (fun m k => if f k then m + 2 ^ k.val else m) 0)).getLsbD k.val = f k := by
  have key : ∀ a0 a1 a2 a3 a4 a5 a6 a7 : Bool, ∀ k : Fin 8,
      let f := fun k : Fin 8 => [a0, a1, a2, a3, a4, a5, a6, a7].getD k.val false
      (BitVec.ofNat 8 ((List.finRange 8).foldl (fun m k => if f k then m + 2 ^ k.val else m) 0)).getLsbD k.val = f k := by decide
  have hf : f = fun k : Fin 8 => [f 0, f 1, f 2, f 3, f 4, f 5, f 6, f 7].getD k.val false := by
    funext k
    fin_cases k <;> rfl
  rw [hf]
  exact key (f 0) (f 1) (f 2) (f 3) (f 4) (f 5) (f 6) (f 7) k

theorem exec_watchdogPromotion (p : Pt) (s : State) : exec (.watchdogPromotion p) s = execWatchdogPromotion p s := rfl
theorem exec_scrubRead (p : Pt) (e : MemError) (s : State) : exec (.scrubRead p e) s = execScrubRead p e s := rfl

/-- Whether a request bars the scrub read, as the scheduler judges it. -/
def State.barsScrub (s : State) (p : Pt) (q : MReq) : Bool :=
  if (s.part p).scrubPromoted then s.beforeScrub p q else s.bankOf q == some (p, s.scrubBank p) && s.eligible p q

theorem State.barsScrub_iff (s : State) (p : Pt) (q : MReq) : s.barsScrub p q = true ↔
    (s.bankOf q = some (p, s.scrubBank p) ∧ s.eligible p q = true) ∧ ((s.part p).scrubPromoted = true →
      q.promoted = true ∧ ∀ n, (s.part p).scrubSince = some n → q.since ≤ n) := by
  unfold State.barsScrub State.beforeScrub
  split
  · next h => simp [h, Option.all_eq_true, and_assoc]
  · next h => simp [h]

/-- Settles O36: each step of the upkeep of memory by the conditions under which it acts. -/
theorem memoryUpkeep : Obligations.MemoryUpkeep := by
  unfold Obligations.MemoryUpkeep
  intro p s old late
  have hlate : (!(s.part p).scrubPromoted && (s.part p).scrubSince.any fun n => decide (6400 < s.partTicks p - n)) = true ↔ late := by
    simp only [late, Bool.and_eq_true, Bool.not_eq_true', Option.any_eq_true, decide_eq_true_eq]
  have hold : s.reqs.findIdx? _ = old := rfl
  refine ⟨fun i h => ?_, fun h hl => ?_, fun h hl => ?_, ?_, fun e => ?_, ?_⟩
  · rw [exec_watchdogPromotion, execWatchdogPromotion]
    rw [hold, h]
    rfl
  · rw [exec_watchdogPromotion, execWatchdogPromotion]
    rw [hold, h]
    exact if_pos (hlate.mpr hl)
  · rw [exec_watchdogPromotion, execWatchdogPromotion]
    rw [hold, h]
    exact if_neg fun k => hl (hlate.mp k)
  · change Host.Outcome.next _ = _
    congr 3
    funext x
    congr 2
    funext i
    have hstall (b : Bool) (n : BitVec 48) : (if b = true then n + 1 else n) = n + if b = true then 1 else 0 := by
      cases b <;> simp
    rw [hstall]
    split <;> rfl
  · intro line here barred
    have hbar : s.reqs.any (s.barsScrub p) = true ↔ barred := by
      rw [List.any_eq_true]
      exact exists_congr fun q => and_congr_right fun _ => s.barsScrub_iff p q
    refine ⟨fun h => ?_, fun hp hen ha => ⟨fun hb => ?_, fun hb => ?_⟩⟩
    · exact if_pos h
    · have hc : ¬ (12 ≤ p.val ∨ (s.part p).scrubEn = false ∨ (s.part p).awake = false) := by simp [hp, hen, ha]
      exact (if_neg hc).trans (if_pos (hbar.mpr hb))
    · have hc : ¬ (12 ≤ p.val ∨ (s.part p).scrubEn = false ∨ (s.part p).awake = false) := by simp [hp, hen, ha]
      refine ⟨_, getLsbD_marks (s.ueAt line), (if_neg hc).trans (if_neg fun k => hb (hbar.mp k))⟩
  · intro v
    refine ⟨rfl, fun h => ?_, fun q w rest h => ?_⟩
    · have hv (q : HPort) : v.windowResume q = v := by
        have hq : (v.port q).winWaits = [] := h q
        rw [State.windowResume, hq, List.foldl_nil]
        exact State.onPort_of_eq (by rw [← hq])
      change Host.Outcome.next ((v.windowResume 0).windowResume 1) = _
      rw [hv, hv]
    · rw [State.windowResume, h, List.foldl_cons]

end Sys2Proof.Machine
end

section
/-! Proofs. Routing and route epochs, pairing, fills and snapshots, health samples, mailboxes and the window. -/
namespace Sys2Proof.Machine

/-! ### Routing and route epochs (R435 to R447) -/

/-- A response to a module whose route entry is not VALID. -/
def strayResponse : Packet := { header := headerOf 4 1 false (addrOf 0 1 0 0 0) 0, txn := 0, payload := 0, crc := 0 }

/-- Refutes O39: an unreachable packet is counted as accepted too, which the statement leaves out. A response to another module, at a
router whose tables are empty, is dropped with one more packet accepted. -/
theorem not_dimensionOrder : ¬ Obligations.DimensionOrder := by
  intro h
  obtain ⟨-, -, -, hlost, -⟩ := h {} 0 strayResponse
  have hk : (Fabric.accept 1 {} 0 strayResponse).accepted = 0 :=
    congrArg Fabric.accepted ((hlost 0 (by decide)).trans (if_pos (by decide)))
  exact absurd hk (by decide)

theorem epochAtModule : Claim.EpochAtModule := by
  unfold Claim.EpochAtModule
  intro s u
  have hp : exec .epochPrepare s = execEpochPrepare s := rfl
  have hs : exec .epochSwitch s = execEpochSwitch s := rfl
  have hq : exec .epochPoll s = execEpochPoll s := rfl
  have hr : exec .epochRelease s = execEpochRelease s := rfl
  have ha : exec .epochAbort s = execEpochAbort s := rfl
  rw [hp, hs, hq, hr, ha, execEpochPrepare, execEpochSwitch, execEpochPoll, execEpochRelease, execEpochAbort]
  refine ⟨fun h => by rw [h], fun h => by rw [h], fun h => by rw [h], fun h => by rw [h], fun h => by rw [h], fun k => ?_⟩
  intro g promised
  refine ⟨fun h => ?_, fun h => ?_, fun h => ?_, fun h => ?_, fun h => ?_⟩
  · rw [h]
    intro busy loaded
    have hb : u.fab.readyFor.any (· != g) = true ↔ busy := by simp [busy, Option.any_eq_true]
    have hl : (u.fab.standbyLoaded && u.fab.standbyGen == g) = true ↔ loaded := by simp [loaded]
    exact ⟨fun b => if_pos (hb.mpr b), fun b l => (if_neg fun x => b (hb.mp x)).trans (if_pos (hl.mpr l)),
      fun b l => (if_neg fun x => b (hb.mp x)).trans (if_neg fun x => l (hl.mp x))⟩
  · rw [h]
    have hc : (u.fab.readyFor != some g || u.fab.epochState != 1) = true ↔ ¬ promised ∨ u.fab.epochState ≠ 1 := by simp [promised]
    have hno (p : promised) (e : u.fab.epochState = 1) : ¬ (u.fab.readyFor != some g || u.fab.epochState != 1) = true := fun x =>
      (hc.mp x).elim (fun n => n p) fun n => n e
    exact ⟨fun p e n => (if_neg (hno p e)).trans (if_pos (by rw [n]; rfl)),
      fun p e n => (if_neg (hno p e)).trans (if_neg (by rw [Option.isNone_eq_false_iff.mpr n]; decide)), fun x => if_pos (hc.mpr x)⟩
  · rw [h]
    cases hc : u.fab.cur <;> simp [hc]
  · rw [h]
    exact ⟨fun p e => if_pos ⟨p, e⟩, fun x => if_neg fun y => x.elim (fun n => n y.1) fun n => n y.2⟩
  · rw [h]
    refine ⟨fun p e => ?_, fun x => ?_⟩
    · simp only [State.onFab, if_pos (⟨p, e⟩ : u.fab.readyFor = some (genOf k) ∧ u.fab.epochState = 1)]
    · have hn : ¬ (u.fab.readyFor = some (genOf k) ∧ u.fab.epochState = 1) := fun y => x.elim (fun n => n y.1) fun n => n y.2
      simp only [State.onFab, if_neg hn]

/-- An answer that does not fit the phase changes nothing. -/
theorem State.epochAnswer_of_not_due {s : State} {e : EpochRun} {src : BitVec 24} {code : Nat}
    (h : ¬ ((e.phase = .prepare ∧ code ≤ 2) ∨ (e.phase = .switching ∧ code = 3) ∨ (e.phase = .releasing ∧ code = 4))) :
    s.epochAnswer e src code = s := by
  unfold State.epochAnswer
  dsimp only
  split
  · next hp => exact absurd (.inl ⟨hp, by decide⟩) h
  · next hp => exact absurd (.inl ⟨hp, by decide⟩) h
  · next hp => exact absurd (.inl ⟨hp, by decide⟩) h
  · next hp => exact absurd (.inr (.inl ⟨hp, rfl⟩)) h
  · next hp => exact absurd (.inr (.inr ⟨hp, rfl⟩)) h
  · rfl

theorem State.epochResult_logged (s : State) (gen : BitVec 16) (status : Nat) :
    Logged s (s.epochResult gen status) 0x21 [gen.zeroExtend 64] :=
  ((s.onFab fun f => { f with epoch := none }).event_logged fromSloe 0x21 [gen.zeroExtend 64] status).congr rfl rfl rfl

theorem epochAtInitiator : Claim.EpochAtInitiator := by
  unfold Claim.EpochAtInitiator
  intro s u
  have hr : exec .epochReply s = execEpochReply s := rfl
  have hp : exec .epochPollReply s = execEpochPollReply s := rfl
  have ht : exec .epochPrepareTimeout s = execEpochPrepareTimeout s := rfl
  have hq : exec .epochPollRound s = execEpochPollRound s := rfl
  have hd : exec .drainTimeout s = execDrainTimeout s := rfl
  rw [hr, hp, ht, hq, hd, execEpochReply, execEpochPollReply, execEpochPrepareTimeout, execEpochPollRound, execDrainTimeout]
  refine ⟨fun h => by rw [h], fun h => by rw [h], fun h => by rw [h]; exact ⟨rfl, rfl, rfl⟩, fun k hu => ⟨fun h => ?_, fun h => ?_⟩,
    fun k e hu => ?_, fun e he => ?_⟩
  · rw [h]
    dsimp only
    rw [hu]
  · rw [h]
    dsimp only
    rw [hu]
  · intro heard set ends code due
    refine ⟨fun h => ?_, fun h => ?_⟩
    · rw [h]
      dsimp only
      rw [hu]
      dsimp only
      refine ⟨fun x => ?_, fun hg => ?_⟩
      · by_cases hg : genOf k = e.gen
        · have hdue : ¬ due := x.resolve_left fun n => n hg
          rw [if_pos hg, State.epochAnswer_of_not_due hdue]
        · rw [if_neg hg]
      · rw [if_pos hg]
        refine ⟨fun hph hc => ?_, fun hph hc => ?_, fun hdue hc hall => ?_, fun hph hc hall => ?_, fun hph hc hall => ?_, fun hph hc hall => ?_⟩
        · simp only [State.epochAnswer, hph, show k.pf 2 1 = 1 from hc]
          rfl
        · simp only [State.epochAnswer, hph, show k.pf 2 1 = 2 from hc]
          rfl
        · have hall : ¬ u.fab.allIn (if e.answered.contains k.src then e.answered else e.answered ++ [k.src]) = true := by
            rw [show u.fab.allIn _ = false from hall]
            decide
          rcases hdue with ⟨hph, hle⟩ | ⟨hph, hc3⟩ | ⟨hph, hc4⟩
          · have h0 : k.pf 2 1 = 0 := by
              have hle : k.pf 2 1 ≤ 2 := hle
              have hc : k.pf 2 1 = 0 ∨ k.pf 2 1 = 3 ∨ k.pf 2 1 = 4 := hc
              omega
            simp only [State.epochAnswer, hph, h0]
            exact congrArg _ (if_neg hall)
          · simp only [State.epochAnswer, hph, show k.pf 2 1 = 3 from hc3]
            exact congrArg _ (if_neg hall)
          · simp only [State.epochAnswer, hph, show k.pf 2 1 = 4 from hc4]
            exact congrArg _ (if_neg hall)
        · simp only [State.epochAnswer, hph, show k.pf 2 1 = 0 from hc]
          exact congrArg _ (if_pos hall)
        · simp only [State.epochAnswer, hph, show k.pf 2 1 = 3 from hc]
          exact congrArg _ (if_pos hall)
        · simp only [State.epochAnswer, hph, show k.pf 2 1 = 4 from hc]
          exact congrArg _ (if_pos hall)
    · rw [h]
      dsimp only
      rw [hu]
      dsimp only
      refine ⟨fun x => ?_, fun hph hg hrd => ?_⟩
      · rw [if_neg]
        rintro ⟨h1, h2, h3⟩
        rcases x with x | x | x
        · exact x h1
        · exact x h2
        · exact x h3
      · rw [if_pos ⟨hph, hg, hrd⟩, State.pollHeard]
        exact ⟨fun hx => congrArg _ (if_neg (by rw [hx]; decide)), fun hx => congrArg _ (if_pos hx)⟩
  · simp only [he]
    refine ⟨fun hph => ⟨s.abortSwitch e 0x12, ?_, rfl, State.epochResult_logged _ _ _⟩, fun hph => ?_, fun hph => ?_,
      fun hph => ?_, fun hph ht' => ?_, fun h => ?_⟩
    · rw [ht, execEpochPrepareTimeout, he]
      exact congrArg _ (if_pos hph)
    · rw [if_neg hph]
    · rw [if_pos hph]
    · rw [if_neg hph]
    · refine ⟨({ s with fab := { s.fab with epoch := some { e with timedOut := true }, stat := s.fab.stat ||| 512#12 } } : State).event
        fromSloe 0x22 [e.gen.zeroExtend 64], ?_, rfl, (State.event_logged ..).congr rfl rfl rfl⟩
      rw [hd, execDrainTimeout, he]
      exact if_pos ⟨hph, by rw [ht']; rfl⟩
    · refine if_neg ?_
      rintro ⟨h1, h2⟩
      rcases h with ⟨hp, hs⟩ | h
      · exact h1.elim hp hs
      · rw [h] at h2
        cases h2

/-- Settles O41: each message and each timeout of a switch by the phase that it meets. -/
theorem routeEpochs : Obligations.RouteEpochs := ⟨epochAtModule, epochAtInitiator⟩

/-! ### Events, completions and accesses: what they leave -/

/-- Of the state only ports, the log of events and what the health monitor counts may differ. -/
structure Reports (s t : State) : Prop where
  eq : t = { s with ports := t.ports, events := t.events, evtSeq := t.evtSeq, hlt := { s.hlt with rise := t.hlt.rise } }

namespace Reports

theorem refl (s : State) : Reports s s := ⟨rfl⟩

theorem trans {s t u : State} (h : Reports s t) (k : Reports t u) : Reports s u := by
  have hk := k.eq
  rw [h.eq] at hk
  exact ⟨hk⟩

theorem ite {s t u : State} {c : Prop} [Decidable c] (h : Reports s t) (k : Reports s u) : Reports s (if c then t else u) := by
  split
  · exact h
  · exact k

theorem foldl {α : Type} {s t : State} {f : State → α → State} {xs : List α} (h : Reports s t) (hf : ∀ t a, Reports t (f t a)) :
    Reports s (xs.foldl f t) :=
  foldl_keeps (q := Reports s) (fun b a hb => hb.trans (hf b a)) xs h

variable {s t : State} (h : Reports s t)
include h

theorem onPort (p : HPort) (f : HostPort → HostPort) : Reports s (t.onPort p f) := h.trans ⟨rfl⟩

theorem onPorts (f : HostPort → HostPort) : Reports s (t.onPorts f) := h.trans ⟨rfl⟩

theorem event (src : Source) (code : Nat) (d : List Word) (st : Nat) : Reports s (t.event src code d st) := by
  refine h.trans ⟨?_⟩
  unfold State.event Health.counts
  dsimp only
  split
  · rfl
  · split <;> rfl

theorem finish (p : HPort) (id : BitVec 16) (r : Reply) (flags : Nat) : Reports s (t.finish p id r flags) := by
  unfold State.finish
  split
  · exact .ite ((h.onPort _ _).event _ _ _ _) (h.onPort _ _)
  · exact h.onPort _ _

theorem interim (p : HPort) (id : BitVec 16) : Reports s (t.interim p id) := by
  unfold State.interim
  split
  · exact h.onPort _ _
  · exact h

theorem mbxStat (p : HPort) (bit : Nat) : Reports s (t.mbxStat p bit) := h.onPort _ _

theorem pending : t.pending = s.pending := by rw [h.eq]
theorem nonce : t.nonce = s.nonce := by rw [h.eq]
theorem mem : t.mem = s.mem := by rw [h.eq]
theorem glob : t.glob = s.glob := by rw [h.eq]
theorem parts : t.parts = s.parts := by rw [h.eq]
theorem reqs : t.reqs = s.reqs := by rw [h.eq]
theorem cls : t.cls = s.cls := by rw [h.eq]
theorem rgs : t.rgs = s.rgs := by rw [h.eq]
theorem flights : t.flights = s.flights := by rw [h.eq]
theorem run : t.run = s.run := by rw [h.eq]
theorem fab : t.fab = s.fab := by rw [h.eq]
theorem hlt : t.hlt = { s.hlt with rise := t.hlt.rise } := congrArg State.hlt h.eq
theorem txn : t.txn = s.txn := by rw [h.eq]
theorem sec : t.sec = s.sec := by rw [h.eq]
theorem pwr : t.pwr = s.pwr := by rw [h.eq]
theorem perf : t.perf = s.perf := by rw [h.eq]
theorem fenced : t.fenced = s.fenced := by rw [h.eq]

end Reports

theorem State.finish_reports (s : State) (p : HPort) (id : BitVec 16) (r : Reply) (flags : Nat) : Reports s (s.finish p id r flags) :=
  (Reports.refl s).finish p id r flags

theorem State.event_reports (s : State) (src : Source) (code : Nat) (d : List Word) (st : Nat) : Reports s (s.event src code d st) :=
  (Reports.refl s).event src code d st

/-- An access by an agent without region tags may also change memory, its registers and what pending requests know. -/
structure Accesses (s t : State) : Prop where
  eq : t = { s with mem := t.mem, glob := t.glob, parts := t.parts, reqs := t.reqs, ports := t.ports, events := t.events
                    evtSeq := t.evtSeq, hlt := { s.hlt with rise := t.hlt.rise } }

namespace Accesses

theorem refl (s : State) : Accesses s s := ⟨rfl⟩

theorem of_reports {s t : State} (h : Reports s t) : Accesses s t := by
  constructor
  rw [h.eq]

theorem trans {s t u : State} (h : Accesses s t) (k : Accesses t u) : Accesses s u := by
  have hk := k.eq
  rw [h.eq] at hk
  exact ⟨hk⟩

theorem ite {s t u : State} {c : Prop} [Decidable c] (h : Accesses s t) (k : Accesses s u) : Accesses s (if c then t else u) := by
  split
  · exact h
  · exact k

theorem foldl {α : Type} {s t : State} {f : State → α → State} {xs : List α} (h : Accesses s t) (hf : ∀ t a, Accesses t (f t a)) :
    Accesses s (xs.foldl f t) :=
  foldl_keeps (q := Accesses s) (fun b a hb => hb.trans (hf b a)) xs h

variable {s t : State} (h : Accesses s t)
include h

theorem event (src : Source) (code : Nat) (d : List Word) (st : Nat) : Accesses s (t.event src code d st) :=
  h.trans (.of_reports (t.event_reports src code d st))

theorem onPart (p : Pt) (f : Part → Part) : Accesses s (t.onPart p f) := h.trans ⟨rfl⟩

theorem charged (cls : Nat → Nat) (ls : List (Nat × Nat)) : Accesses s (t.charged cls ls) := h.trans ⟨rfl⟩

theorem markSector (p : Pt) (o n : Nat) (fresh : Bool) : Accesses s (t.markSector p o n fresh) := by
  unfold State.markSector
  refine Accesses.event ?_ _ _ _ _
  dsimp only
  split
  · exact h.trans ⟨rfl⟩
  · exact h.trans ⟨rfl⟩

theorem ueReads (a len : Nat) : Accesses s (t.ueReads a len) := by
  unfold State.ueReads
  refine h.foldl fun t n => ?_
  split
  · exact (refl t).markSector _ _ _ _
  · exact refl t

theorem dropWrite (n : Nat) : Accesses s (t.dropWrite n) := by
  unfold State.dropWrite
  split
  · exact (h.onPart _ _).event _ _ _ _
  · exact h

theorem writeSector (n : Nat) (ws : List WByte) : Accesses s (t.writeSector n ws) := by
  unfold State.writeSector
  exact .ite (.ite (h.trans ⟨rfl⟩) ((h.ueReads _ _).dropWrite _)) (h.trans ⟨rfl⟩)

theorem busRead (cls : Nat → Nat) (a len : Nat) : Accesses s (t.busRead cls a len) := (h.charged _ _).ueReads _ _

theorem rewrote (ws : List WByte) : Accesses s (t.rewrote ws) := by
  unfold State.rewrote
  exact .ite h (h.trans ⟨rfl⟩)

theorem busWrite (cls : Nat → Nat) (ws : List WByte) : Accesses s (t.busWrite cls ws) := by
  have hu : Accesses s ((t.charged cls (writeLines ws)).rewrote ws) := (h.charged _ _).rewrote _
  unfold State.busWrite
  exact .ite (hu.trans ⟨rfl⟩) (hu.foldl fun t n => (refl t).writeSector _ _)

theorem noTarget (a : Nat) : Accesses s (t.noTarget a) := by
  unfold State.noTarget
  exact .ite h (h.trans ⟨rfl⟩)

theorem svcWrite (ws : List WByte) : Accesses s (t.svcWrite ws) := by
  unfold State.svcWrite
  dsimp only
  exact (h.trans ⟨rfl⟩).busWrite _ _

theorem svcRead (a len : Nat) : Accesses s (t.svcRead a len) := by
  unfold State.svcRead
  exact h.foldl fun t g => .ite ((refl t).busRead _ _ _) ((refl t).noTarget _)

theorem pending : t.pending = s.pending := by rw [h.eq]
theorem nonce : t.nonce = s.nonce := by rw [h.eq]
theorem cls : t.cls = s.cls := by rw [h.eq]
theorem rgs : t.rgs = s.rgs := by rw [h.eq]
theorem flights : t.flights = s.flights := by rw [h.eq]
theorem run : t.run = s.run := by rw [h.eq]
theorem fab : t.fab = s.fab := by rw [h.eq]
theorem hlt : t.hlt = { s.hlt with rise := t.hlt.rise } := congrArg State.hlt h.eq
theorem txn : t.txn = s.txn := by rw [h.eq]
theorem sec : t.sec = s.sec := by rw [h.eq]
theorem pwr : t.pwr = s.pwr := by rw [h.eq]
theorem perf : t.perf = s.perf := by rw [h.eq]
theorem fenced : t.fenced = s.fenced := by rw [h.eq]

end Accesses

/-! ### The partner: heartbeats and verification (R462 to R487) -/

/-- The heartbeat of the partner as the module records it. -/
def State.heartbeatTaken (s : State) (k : Packet) : State :=
  (s.onHlt fun h => { h with
    peerFeed := BitVec.ofNat 48 (k.pf 0 8), peerRisk := BitVec.ofNat 8 (k.pf 8 1), peerState := BitVec.ofNat 3 (k.pf 9 1) }).onFab
    fun f => { f with partnerLost := false }

theorem exec_heartbeat {s u : State} {k : Packet} (h : s.takeMsg 0x10 = some (k, u)) :
    exec .heartbeat s = .next (if coordsAt (BitVec.ofNat 24 (k.pf 32 3)) != coordsAt (u.fab.partnerAddr 0) then
        u.event fromSloe 0x25 [(BitVec.ofNat 24 (k.pf 32 3)).zeroExtend 64]
      else if u.pairs && decide (1 ≤ k.pf 9 1 ∧ k.pf 9 1 ≤ 4) then (u.heartbeatTaken k).enterPair (u.heartbeatTaken k).hlt.pairKind
      else u.heartbeatTaken k) := by
  have he : exec .heartbeat s = execHeartbeat s := rfl
  rw [he, execHeartbeat, h]
  dsimp only
  split <;> rfl

/-- A kind of pairing is one of two. -/
theorem Health.pairKind_eq (h : Health) :
    h.pairKind = if h.feedId ≠ 0 ∧ h.peerFeed ≠ 0 ∧ h.feedId ≠ h.peerFeed then 2 else 3 := by
  unfold Health.pairKind
  simp [and_assoc]

/-- Entry into PAIRED or PAIRED_SHARED. -/
theorem State.enterPair_of_ne {s : State} {n : BitVec 3} (h : s.hlt.pairState ≠ n) (hn : n = 2 ∨ n = 3) :
    s.enterPair n = (s.onHlt fun h => { h with pairState := n, fresh := true }).event fromMarkhor 0x30
      [n.zeroExtend 64, s.hlt.feedId.zeroExtend 64, s.hlt.peerFeed.zeroExtend 64] (if n = 2 then 0 else 0x41) := by
  rcases hn with rfl | rfl
  · rw [State.enterPair, if_neg h]
    rfl
  · rw [State.enterPair, if_neg h]
    rfl

/-- Entry into LOST. -/
theorem State.enterPair_lost {s : State} (h : s.hlt.pairState ≠ 4) :
    s.enterPair 4 = (s.onHlt fun h => { h with pairState := 4 }).event fromMarkhor 0x30
      [4, s.hlt.feedId.zeroExtend 64, s.hlt.peerFeed.zeroExtend 64] 0x40 := by
  rw [State.enterPair, if_neg h]
  rfl

/-- A packet put on each port of a list that is UP. -/
def Fabric.beat (k : Packet) (f : Fabric) (p : FPort) : Fabric :=
  if f.up p then { f.into k with waiting := f.waiting ++ [{ input := 8, output := p, packet := k, slot := f.accepted }] } else f

theorem Fabric.foldl_beat (k : Packet) (f : Fabric) (ps : List FPort) :
    let up := ps.filter fun p => f.ports[p].link = .up
    ∃ n, ps.foldl (Fabric.beat k) f = { f with passed := n, accepted := f.accepted + up.length, waiting := f.waiting ++
      (up.zipIdx.map fun p => { input := 8, output := p.1, packet := k, slot := f.accepted + p.2 }) } := by
  induction ps generalizing f with
  | nil => exact ⟨f.passed, by simp⟩
  | cons p ps ih =>
    rw [List.foldl_cons]
    by_cases hp : f.ports[p].link = .up
    · have hf : f.beat k p = { f.into k with waiting := f.waiting ++ [{ input := 8, output := p, packet := k, slot := f.accepted }] } :=
        if_pos (decide_eq_true hp)
      obtain ⟨n, hn⟩ := ih (f.beat k p)
      refine ⟨n, hn.trans ?_⟩
      rw [hf, List.filter_cons_of_pos (by simpa using hp), List.zipIdx_cons']
      simp [Fabric.into, Fabric.pass, Nat.add_assoc, Nat.add_comm 1, Function.comp_def]
    · have hf : f.beat k p = f := if_neg (by simpa [Fabric.up] using hp)
      rw [hf, List.filter_cons_of_neg (by simpa using hp)]
      exact ih f

theorem partnerHeartbeats : Claim.PartnerHeartbeats := by
  unfold Claim.PartnerHeartbeats
  intro s
  have hsend : exec .partnerHeartbeatSend s = execPartnerHeartbeatSend s := rfl
  have hlost : exec .partnerLost s = execPartnerLost s := rfl
  refine ⟨fun h => ?_, fun k u h => ?_, fun hm hv => ?_, fun h => ?_, fun h => ?_, fun hm hl => ?_⟩
  · have he : exec .heartbeat s = execHeartbeat s := rfl
    rw [he, execHeartbeat, h]
  · rw [exec_heartbeat h]
    intro sender its feed t live n
    have hsender : (coordsAt sender != coordsAt (u.fab.partnerAddr 0)) = true ↔ ¬ its := by simp [its]
    have hlive : (u.pairs && decide (1 ≤ k.pf 9 1 ∧ k.pf 9 1 ≤ 4)) = true ↔ live := by simp [live]
    have ht : u.heartbeatTaken k = t := rfl
    have hkind : (u.heartbeatTaken k).hlt.pairKind = n := Health.pairKind_eq _
    have hn : n = 2 ∨ n = 3 := by
      simp only [n]
      split
      · exact .inl rfl
      · exact .inr rfl
    rw [hkind, ht]
    refine ⟨fun hi => congrArg _ (if_pos (hsender.mpr hi)), fun hi hx => ?_, fun hi hx hp => ?_, fun hi hx hp => ?_⟩
    · rw [if_neg fun x => hsender.mp x hi, if_neg fun x => hx (hlive.mp x)]
    · rw [if_neg fun x => hsender.mp x hi, if_pos (hlive.mpr hx), State.enterPair, if_pos]
      exact hp
    · rw [if_neg fun x => hsender.mp x hi, if_pos (hlive.mpr hx), State.enterPair_of_ne (s := t) hp hn]
      rfl
  · rw [Answers, hsend, execPartnerHeartbeatSend, if_neg (by rw [hm, hv]; decide)]
    obtain ⟨n, hn⟩ := s.fab.foldl_beat (s.fab.message 0 (s.fab.partnerAddr 0) 0x10 0 s.heartbeatBytes) [6, 7]
    refine ⟨_, congrArg (fun f => Host.Outcome.next { s with fab := f }) hn, rfl⟩
  · rw [hsend, execPartnerHeartbeatSend, if_pos (by rcases h with h | h <;> simp [h])]
  · rw [hlost, execPartnerLost, if_pos (by rcases h with h | h <;> simp [h])]
  · rw [hlost, execPartnerLost, if_neg (by rw [hm, hl]; decide)]
    intro t mine v w
    refine ⟨fun hp => ?_, fun hp => ?_⟩
    · exact if_pos (by rw [hp]; rfl)
    · have hne : t.hlt.pairState ≠ 4 := fun e => by
        have e' : s.hlt.pairState = 4 := e
        rw [Health.paired, e'] at hp
        exact absurd hp (by decide)
      have hv : (t.enterPair 4).abandonSnapshot = v := congrArg State.abandonSnapshot (State.enterPair_lost hne)
      simp only [t] at hv
      rw [if_neg (by rw [hp]; decide), hv]

theorem verification : Claim.Verification := by
  unfold Claim.Verification
  intro s u
  have hd : exec .verifyDigest s = execVerifyDigest s := rfl
  have hr : exec .verifyResult s = execVerifyResult s := rfl
  have hc : exec .chunkDigestDone s = execChunkDigestDone s := rfl
  rw [hd, hr, hc]
  refine ⟨fun h => ?_, fun h => ?_, fun k hm h => ?_, fun v hv ha => ?_, fun v => ?_, fun v d hv ha hch hs hm => ?_, fun h => ?_, fun k h => ⟨fun hv => ?_, fun v hv => ?_⟩⟩
  · rw [execVerifyDigest]
    rcases h with h | h
    · rw [if_pos h]
    · rw [h, ite_self]
  · rw [execVerifyResult, h]
  · rw [execVerifyDigest, if_neg (by rw [hm]; decide), h]
    rfl
  · rw [execChunkDigestDone, hv]
    exact if_pos (by rw [ha]; rfl)
  · simp [State.after, and_assoc]
  · rw [execChunkDigestDone, hv]
    dsimp only
    rw [if_neg (by rw [ha]; decide), hch]
    exact if_pos ⟨hs, by rw [hm]; rfl⟩
  · rw [execChunkDigestDone]
    rcases h with h | ⟨v, hv, ha, h⟩
    · rw [h]
    · rw [hv]
      dsimp only
      rw [if_neg (by rw [ha]; decide)]
      split
      · next d hd =>
        refine if_neg ?_
        rintro ⟨h1, h2⟩
        rcases h with h | h | h
        · rw [h] at hd
          cases hd
        · omega
        · rw [h] at h2
          cases h2
      · rfl
  · rw [execVerifyResult, h]
    dsimp only
    rw [hv]
  · rw [execVerifyResult, h]
    dsimp only
    rw [hv]
    dsimp only
    refine ⟨fun hne => if_pos (by simpa using hne), fun he => ?_⟩
    rw [if_neg (by simp [he])]
    refine ⟨fun hlt => ?_, fun hle => ?_⟩
    · rw [if_neg (by omega)]
    · rw [if_pos hle]
      generalize hmiss : (if k.pf 8 8 = 2 ^ 64 - 1 then v.mismatch else some (min (k.pf 8 8) (v.mismatch.getD (k.pf 8 8)))) = miss
      cases miss <;> rfl

/-- Settles O42: heartbeats by their sender and the state of pairing, and each side of a verification. -/
theorem pairingMessages : Obligations.PairingMessages := ⟨partnerHeartbeats, verification⟩

/-! ### Fills and snapshots (R481 to R491) -/

theorem State.imageGood_onHlt (s : State) (f : Health → Health) : (s.onHlt f).imageGood = s.imageGood := rfl

/-- Filling stretches with undefined bytes changes memory and the count of free values alone. -/
theorem State.foldl_undefine (s : State) (xs : List (Nat × Nat × Nat)) (n : Option Nat) :
    ∃ m, xs.foldl (fun (t : State) x => { t with mem := t.mem.fill x.1 x.2.2 n }) s = { s with mem := m } := by
  induction xs generalizing s with
  | nil => exact ⟨s.mem, rfl⟩
  | cons x xs ih =>
    obtain ⟨m, hm⟩ := ih { s with mem := s.mem.fill x.1 x.2.2 n }
    exact ⟨m, hm⟩

/-- What a fill that stops does to memory. -/
def State.undefineFill (s : State) : State :=
  let t := match s.placed with
    | some (p, pl) =>
      ((List.range p.tensors.length).filter fun i => (p.tensor i).persist && s.hlt.filled.any (·.1 == i)).foldl (fun (s : State) i =>
        (tensorSpans p pl i).foldl (fun (t : State) (x : Nat × Nat × Nat) => { t with mem := t.mem.fill x.1 x.2.2 (some s.nonce) }) s.draw.2) s
    | none => s
  { t.draw.2 with mem := t.mem.fill (t.glob.quarter 3) t.glob.quarterBytes (some t.nonce) }

theorem State.undefineFill_eq (s : State) : ∃ n m, s.undefineFill = { s with nonce := n, mem := m } := by
  unfold State.undefineFill
  have key : ∃ n m, (match s.placed with
      | some (p, pl) =>
        ((List.range p.tensors.length).filter fun i => (p.tensor i).persist && s.hlt.filled.any (·.1 == i)).foldl (fun (s : State) i =>
          (tensorSpans p pl i).foldl (fun (t : State) (x : Nat × Nat × Nat) => { t with mem := t.mem.fill x.1 x.2.2 (some s.nonce) }) s.draw.2) s
      | none => s) = { s with nonce := n, mem := m } := by
    split
    · refine foldl_keeps (q := fun t => ∃ n m, t = { s with nonce := n, mem := m }) (fun t i h => ?_) _ ⟨s.nonce, s.mem, rfl⟩
      obtain ⟨n, m, rfl⟩ := h
      obtain ⟨m', hm⟩ := State.foldl_undefine ({ s with nonce := n, mem := m } : State).draw.2 (tensorSpans _ _ i) (some n)
      exact ⟨n + 1, m', hm⟩
    · exact ⟨s.nonce, s.mem, rfl⟩
  obtain ⟨n, m, h⟩ := key
  rw [h]
  exact ⟨_, _, rfl⟩

/-- A fill that stops: its streams go, and a host's image that was being read is answered. -/
theorem State.stopFill_eq (s : State) : s.stopFill =
    (((match s.hlt.privateHost with
      | some (port, tag, _) => (s.undefineFill.onFab fun f => { f with rx := f.rx.filter fun r => !r.isFill }).finish port tag { status := 0x40 }
      | none => s.undefineFill.onFab fun f => { f with rx := f.rx.filter fun r => !r.isFill }).invalid 0x40).onHlt fun h =>
        { h with privateHost := none, fillAbortCnt := h.fillAbortCnt + 1 }) := rfl

theorem fillsEnd : Claim.FillsEnd := by
  unfold Claim.FillsEnd
  intro s data a whole
  have hp : exec (.privateFillDone data) s = execPrivateFillDone data s := rfl
  have hf : exec .fillStallTimeout s = .next (if s.filling then s.stopFill else s) := rfl
  refine ⟨fun h => ?_, fun hr hm hh hw => ?_, fun port tag len hr hm hh => ?_, fun h => ?_, fun h => ?_⟩
  · rw [hp, execPrivateFillDone]
    by_cases hc : s.hlt.rcv ≠ 1 ∨ s.memBusy = true
    · exact if_pos hc
    · obtain ⟨hh, hw⟩ := (h.resolve_left fun x => hc (.inl x)).resolve_left fun x => hc (.inr x)
      dsimp only
      rw [if_neg hc, hh]
      exact congrArg _ (if_neg hw)
  · rw [hp, execPrivateFillDone]
    dsimp only
    rw [if_neg (by rw [hr, hm]; decide), hh]
    exact congrArg _ (if_pos hw)
  · rw [hp, execPrivateFillDone]
    dsimp only
    rw [if_neg (by rw [hr, hm]; decide), hh]
    rfl
  · rw [hf, h]
    rfl
  · obtain ⟨n, m, hu⟩ := s.undefineFill_eq
    refine ⟨s.stopFill, by rw [hf, h]; rfl, ?_⟩
    rw [State.stopFill_eq]
    generalize ht : (s.undefineFill.onFab fun f => { f with rx := f.rx.filter fun r => !r.isFill }) = v
    have hv : v.hlt = s.hlt ∧ v.cls = s.cls ∧ v.ports = s.ports ∧ ∀ r ∈ v.fab.rx, r.isFill = false := by
      rw [← ht, hu]
      exact ⟨rfl, rfl, rfl, fun r hr => by simpa using (List.mem_filter.mp hr).2⟩
    obtain ⟨hhlt, hcls, hports, hrx⟩ := hv
    split
    · next port tag len hh =>
      have hr := v.finish_reports port tag { status := 0x40 } 0
      refine ⟨rfl, rfl, rfl, rfl, rfl, rfl, rfl, rfl, ?_, ?_, hr.cls.trans hcls, fun port' tag' len' hh' => ⟨v, ?_, hports⟩⟩
      · change (v.finish port tag { status := 0x40 }).hlt.fillAbortCnt + 1 = _
        rw [hr.hlt, ← hhlt]
      · change ∀ r ∈ (v.finish port tag { status := 0x40 }).fab.rx, _
        rw [hr.fab]
        exact hrx
      · rw [hh] at hh'
        cases hh'
        rfl
    · next hh =>
      refine ⟨rfl, rfl, rfl, rfl, rfl, rfl, rfl, rfl, ?_, hrx, hcls, fun port' tag' len' hh' => ?_⟩
      · change v.hlt.fillAbortCnt + 1 = _
        rw [hhlt]
      · rw [hh] at hh'
        cases hh'

/-- A snapshot that is committed: what the commit sets, and completions. -/
theorem State.commitSnapshot_reports (s : State) (k : Snap) : ∃ l, Reports (s.onHlt fun h => { h with
    lastStep := BitVec.ofNat 48 k.step, lastValid := true, committed := BitVec.ofNat 32 k.seq, snapCnt := h.snapCnt + 1
    fresh := false, snapNow := l }) (s.commitSnapshot k) := by
  unfold State.commitSnapshot
  rw [List.partition_eq_filter_filter]
  exact ⟨_, (Reports.refl _).foldl fun t x => t.finish_reports _ _ _ _⟩

/-- The mirrors written, before the snapshot ends. -/
def State.mirrored (s : State) (k : Snap) : State :=
  s.mirrorTargets.foldl (fun t b => t.snapEvent 1 k.seq k.step b.addr.toNat)
    (s.onHlt fun h => { h with mirrored := BitVec.ofNat 32 k.seq, mirrorCnt := h.mirrorCnt + 1 })

theorem State.mirrored_reports (s : State) (k : Snap) :
    Reports (s.onHlt fun h => { h with mirrored := BitVec.ofNat 32 k.seq, mirrorCnt := h.mirrorCnt + 1 }) (s.mirrored k) :=
  (Reports.refl _).foldl fun t _ => t.event_reports _ _ _ _

/-- What aborting a snapshot leaves of the health registers. -/
theorem State.abortSnapshot_keeps (s : State) :
    s.abortSnapshot.run = s.run ∧ s.abortSnapshot.glob = s.glob ∧ s.abortSnapshot.hlt.seq = s.hlt.seq ∧
      s.abortSnapshot.hlt.privBytes = s.hlt.privBytes ∧ (s.hlt.phase ≠ .freeze → s.abortSnapshot.hlt.phase ≠ .freeze) := by
  unfold State.abortSnapshot
  split
  · exact ⟨rfl, rfl, rfl, rfl, id⟩
  · next k hk =>
    dsimp only
    split
    · have hr : Reports ((s.dropRuns RunKind.isSnapshot).onHlt (·.snapFlag 0)) (s.mirrorTargets.foldl
          (fun t b => t.snapEvent 4 k.seq k.step b.addr.toNat) ((s.dropRuns RunKind.isSnapshot).onHlt (·.snapFlag 0))) :=
        (Reports.refl _).foldl fun t _ => t.event_reports _ _ _ _
      refine ⟨hr.run, hr.glob, ?_, ?_, fun _ h => by cases h⟩
      · exact (congrArg Health.seq hr.hlt :)
      · exact (congrArg Health.privBytes hr.hlt :)
    · exact ⟨rfl, rfl, rfl, rfl, fun _ h => by cases h⟩

/-- A freeze that begins: staging is written, and the snapshot stands. -/
theorem State.startFreeze_of_fits {s : State} {p : Package} {pl : Placement} (mid : Bool) (hp : s.placed = some (p, pl))
    (h : s.hlt.privBytes.toNat ≤ s.glob.quarterBytes) :
    (s.startFreeze mid).hlt.freeze3 = s.hlt.freeze3 ∧ (s.startFreeze mid).hlt.phase = .freeze ∧
      ∃ k, (s.startFreeze mid).hlt.snap = some k ∧ k.midstep = mid ∧ (mid = true → k.mirror = true) ∧
        k.seq = s.hlt.seq + 1 ∧ k.step = s.lastStep := by
  unfold State.startFreeze
  rw [hp]
  dsimp only
  rw [if_neg (by omega)]
  refine ⟨?_, rfl, _, rfl, rfl, fun hm => by rw [hm]; simp, rfl, rfl⟩
  exact (congrArg Health.freeze3 ((Accesses.refl s).svcWrite _).hlt :)

/-- A freeze without a placed graph, or of an image that exceeds a quarter, does not begin. -/
theorem State.startFreeze_phase {s : State} (mid : Bool) (h : s.placed = none ∨ s.glob.quarterBytes < s.hlt.privBytes.toNat) :
    (s.startFreeze mid).hlt.phase = s.hlt.phase := by
  unfold State.startFreeze
  split
  · rfl
  · next p pl hp =>
    rw [if_pos (h.resolve_left (by rw [hp]; nofun))]
    exact (congrArg Health.phase (State.event_reports ..).hlt :)

theorem snapshotPhases : Claim.SnapshotPhases := by
  unfold Claim.SnapshotPhases
  intro s
  have hf : exec .snapshotFreezeDone s = execSnapshotFreezeDone s := rfl
  have hm : exec .snapshotMirrorDone s = execSnapshotMirrorDone s := rfl
  have hl : exec .level3Freeze s = execLevel3Freeze s := rfl
  refine ⟨fun h => ?_, fun k hk hp => ?_, fun h => ?_, fun k hk hp => ?_, ?_⟩
  · rw [hf, execSnapshotFreezeDone]
    split
    · next hk hp => exact absurd h (by simp [hk, hp])
    · rfl
  · intro t
    rw [hf, execSnapshotFreezeDone, hk, hp]
    refine ⟨fun hpair => if_pos hpair, fun hpair hpo => ?_, fun hpair hpo => ?_⟩
    · exact (if_neg (by rw [show (if k.midstep then _ else _ : State).hlt.paired = false from hpair]; decide)).trans (if_pos hpo)
    · exact (if_neg (by rw [show (if k.midstep then _ else _ : State).hlt.paired = false from hpair]; decide)).trans
        (if_neg (by rw [hpo]; decide))
  · rw [hm, execSnapshotMirrorDone]
    split
    · next hk hp => exact absurd h (by simp [hk, hp])
    · rfl
  · have hex : exec .snapshotMirrorDone s = .next (if s.mirrorTargets.isEmpty then s.startMirror k else
        (if s.mirrorCommits k then (s.mirrored k).commitSnapshot k else s.mirrored k).endSnapshot) := by
      rw [hm, execSnapshotMirrorDone, hk, hp]
      dsimp only
      split <;> rfl
    by_cases hn : s.mirrorTargets = []
    · refine ⟨s.startMirror k, by rw [hex, hn]; rfl, ?_⟩
      rw [State.startMirror, if_pos (by rw [hn]; rfl)]
      refine ⟨rfl, rfl, fun _ => ⟨?_, rfl, rfl⟩, fun h => absurd hn h⟩
      change (s.hlt.snapStat ||| (1#5 <<< 2)).getLsbD 2 = true
      simp
    · refine ⟨_, hex.trans (congrArg _ (if_neg (by simpa using hn))), rfl, rfl, fun h => absurd h hn, fun _ => ?_⟩
      have hr := (s.mirrored_reports k).hlt
      cases hc : s.mirrorCommits k with
      | false =>
        rw [if_neg (by decide)]
        change (s.mirrored k).hlt.mirrored = _ ∧ (s.mirrored k).hlt.mirrorCnt = _ ∧ (_ → (s.mirrored k).hlt.committed = _ ∧
          (s.mirrored k).hlt.snapCnt = _) ∧ _
        rw [hr]
        exact ⟨rfl, rfl, fun _ => ⟨rfl, rfl⟩, fun h => by cases h⟩
      | true =>
        obtain ⟨l, hl⟩ := (s.mirrored k).commitSnapshot_reports k
        rw [if_pos rfl]
        change ((s.mirrored k).commitSnapshot k).hlt.mirrored = _ ∧ ((s.mirrored k).commitSnapshot k).hlt.mirrorCnt = _ ∧ _ ∧
          (_ → ((s.mirrored k).commitSnapshot k).hlt.committed = _ ∧ ((s.mirrored k).commitSnapshot k).hlt.snapCnt = _)
        rw [hl.hlt]
        change (s.mirrored k).hlt.mirrored = _ ∧ (s.mirrored k).hlt.mirrorCnt = _ ∧ _ ∧ (_ → _ = _ ∧ (s.mirrored k).hlt.snapCnt + 1 = _)
        rw [hr]
        exact ⟨rfl, rfl, fun h => (by cases h), fun _ => ⟨rfl, rfl⟩⟩
  · intro due
    have hdue : (s.hlt.freeze3 && s.taskBoundary && s.hlt.phase != .freeze) = true ↔ due := by simp [due, and_assoc]
    obtain ⟨hrun, hglob, hseq, hpriv, hphase⟩ := s.abortSnapshot_keeps
    have hplaced : (s.abortSnapshot.onHlt fun h => { h with freeze3 := false }).placed = s.placed := by
      change State.placed { run := s.abortSnapshot.run } = State.placed { run := s.run }
      rw [hrun]
    rw [hl, execLevel3Freeze]
    refine ⟨fun hd => if_neg fun h => hd (hdue.mp h), fun hd hp hq => ?_, fun hd hq => ?_⟩
    · obtain ⟨⟨p, pl⟩, hp⟩ := Option.isSome_iff_exists.mp hp
      obtain ⟨h3, hph, k, hk, hmid, hmir, hkseq, hstep⟩ := State.startFreeze_of_fits
        (s := s.abortSnapshot.onHlt fun h => { h with freeze3 := false }) true (hplaced.trans hp) (by
          change s.abortSnapshot.hlt.privBytes.toNat ≤ s.abortSnapshot.glob.quarterBytes
          rw [hpriv, hglob]
          exact hq)
      refine ⟨(s.abortSnapshot.onHlt fun h => { h with freeze3 := false }).startFreeze true, ?_, h3, hph, k, hk, hmid, hmir rfl,
        hkseq.trans (congrArg (· + 1) hseq), hstep.trans ?_⟩
      · rw [hl, execLevel3Freeze]
        dsimp only
        rw [if_pos (hdue.mpr hd), if_pos hph]
      · change s.abortSnapshot.run.crvStep.toNat - 1 = s.run.crvStep.toNat - 1
        rw [hrun]
    · dsimp only
      rw [if_pos (hdue.mpr hd), if_neg]
      rw [State.startFreeze_phase true (by
        rw [hplaced]
        refine hq.imp id fun h => ?_
        change s.abortSnapshot.glob.quarterBytes < s.abortSnapshot.hlt.privBytes.toNat
        rw [hpriv, hglob]
        exact h)]
      exact hphase hd.2.2

/-- Settles O43: the end of a fill, and a snapshot from phase to phase. -/
theorem fillsAndSnapshots : Obligations.FillsAndSnapshots := ⟨fillsEnd, snapshotPhases⟩

/-! ### The health sample (R478, R479, R596, R621) -/

theorem State.thermal_reports (s : State) (x : Sensors) (kind : Nat) : Reports s (s.thermal x kind) := s.event_reports _ _ _ _

/-- Throttling sets the level, counts and reports. -/
theorem State.throttle_reports (s : State) (x : Sensors) (status : Nat) : ∃ since thr, Reports (s.onPwr fun p =>
    { p with level := BitVec.ofNat 4 (s.pwr.nextLevel x status), sinceRise := since, thrCnt := thr }) (s.throttle x status) := by
  refine ⟨if s.pwr.level.toNat < s.pwr.nextLevel x status then 0 else min 10 (s.pwr.sinceRise + 1),
    if s.pwr.nextLevel x status = 0 then s.pwr.thrCnt else s.pwr.thrCnt + 1, ?_⟩
  have h1 : ∀ {s t : State}, Reports s t → Reports s (if 105 ≤ x.junction.toNat ∨ 2 ≤ status then t.thermal x 1 else t) := fun {s t} h =>
    .ite (h.trans (t.thermal_reports x 1)) h
  have h0 : ∀ {s t : State}, Reports s t → Reports s (if 100 ≤ x.junction.toNat then t.thermal x 0 else t) := fun {s t} h =>
    .ite (h.trans (t.thermal_reports x 0)) h
  exact h0 (h1 (.ite (.refl _) ((Reports.refl _).event _ _ _ _)))

/-- The droops of the last millisecond are reported and start again from 0. -/
theorem State.droopRecords_reports (s : State) :
    Reports (s.onPwr fun p => { p with droops := Vector.replicate 24 0 }) s.droopRecords := by
  have h : Reports s ((List.finRange 24).foldl (fun (t : State) (r : Fin 24) =>
      if s.pwr.droops[r] = 0 then t else t.event { kind := 2, index := r.val, island := ⟨r.val, by omega⟩ } 0x73
        [packBits [(r.val, 0), (s.pwr.droops[r] % 65536, 16)]]) s) :=
    (Reports.refl _).foldl fun t r => .ite (.refl t) (t.event_reports _ _ _ _)
  constructor
  unfold State.droopRecords
  dsimp only
  rw [h.eq]
  rfl

/-- What a step of a sample keeps: the erasures, and the health registers but what the open millisecond counts. -/
def State.SameHealth (s t : State) : Prop := t.erasures = s.erasures ∧ t.hlt = { s.hlt with rise := t.hlt.rise }

theorem State.SameHealth.trans {s t u : State} (h : s.SameHealth t) (k : t.SameHealth u) : s.SameHealth u := by
  refine ⟨k.1.trans h.1, ?_⟩
  rw [k.2, h.2]

theorem Reports.sameHealth {s t : State} (h : Reports s t) : s.SameHealth t := ⟨by rw [h.eq], h.hlt⟩

theorem State.farErrors_keeps (s : State) (es : List (Fin 4 × Nat)) : s.SameHealth (s.farErrors es) ∧ (s.farErrors es).pwr = s.pwr := by
  unfold State.farErrors
  refine foldl_keeps (q := fun t => s.SameHealth t ∧ t.pwr = s.pwr) (fun t e h => ?_) es ⟨⟨rfl, rfl⟩, rfl⟩
  exact ⟨h.1.trans ⟨rfl, rfl⟩, h.2⟩

/-- What a sample of a module in service has read before it forms the score. -/
def State.measured (s : State) (x : Sensors) (status : Nat) : State := ((s.throttle x status).droopRecords.farErrors x.farErrors).fecSample

theorem State.measured_spec (s : State) (x : Sensors) (status : Nat) : s.SameHealth (s.measured x status) ∧ ∃ since thr,
    (s.measured x status).pwr = { s.pwr with
      level := BitVec.ofNat 4 (s.pwr.nextLevel x status), sinceRise := since, thrCnt := thr, droops := Vector.replicate 24 0 } := by
  obtain ⟨since, thr, ht⟩ := s.throttle_reports x status
  have hd := (s.throttle x status).droopRecords_reports
  obtain ⟨hf, hp⟩ := (s.throttle x status).droopRecords.farErrors_keeps x.farErrors
  have h1 : s.SameHealth (s.throttle x status) := ht.sameHealth
  have h2 : (s.throttle x status).SameHealth (s.throttle x status).droopRecords := hd.sameHealth
  refine ⟨(h1.trans h2).trans hf, since, thr, ?_⟩
  calc (s.measured x status).pwr = (s.throttle x status).droopRecords.pwr := hp
    _ = { (s.throttle x status).pwr with droops := Vector.replicate 24 0 } := hd.pwr
    _ = _ := by rw [ht.pwr]; rfl

/-- A level 3 action changes no sample, no score and nothing of the supply, and keeps the newest event. -/
theorem State.level3_keeps (s : State) : s.level3.hlt = { s.hlt with rise := s.level3.hlt.rise, freeze3 := s.level3.hlt.freeze3 } ∧ s.level3.pwr = s.pwr ∧
    s.level3.fab = s.fab ∧ ∀ e, s.events.head? = some e → e ∈ s.level3.events := by
  have hr : Reports s (s.snapEvent 5 (s.hlt.seq + 1) s.lastStep 0) := s.event_reports _ _ _ _
  have he : ∀ e, s.events.head? = some e → e ∈ (s.snapEvent 5 (s.hlt.seq + 1) s.lastStep 0).events := by
    intro e he
    obtain ⟨x, hx, -⟩ := s.event_events fromSloe 0x32
      [BitVec.ofNat 64 5, BitVec.ofNat 64 (s.hlt.seq + 1), BitVec.ofNat 64 s.lastStep, BitVec.ofNat 64 0] 0
    obtain ⟨rest, hrest⟩ := List.head?_eq_some_iff.mp he
    rw [State.snapEvent, hx, hrest]
    simp
  unfold State.level3
  dsimp only
  split
  · exact ⟨congrArg (fun h : Health => { h with freeze3 := true }) hr.hlt, hr.pwr, hr.fab, he⟩
  · refine ⟨?_, hr.pwr, hr.fab, he⟩
    rw [hr.hlt]

/-- The report of a change of level, and the level 3 action. -/
def State.reportLevel (s : State) (same act : Bool) (d : List Word) : State :=
  let t := if same then s else s.event fromMarkhor 0x31 d
  if act then t.level3 else t

theorem State.reportLevel_keeps (s : State) (same act : Bool) (d : List Word) :
    (s.reportLevel same act d).hlt = { s.hlt with
      rise := (s.reportLevel same act d).hlt.rise, freeze3 := (s.reportLevel same act d).hlt.freeze3 } ∧
    (s.reportLevel same act d).pwr = s.pwr ∧ (s.reportLevel same act d).fab = s.fab ∧
    (same = false → ∃ e ∈ (s.reportLevel same act d).events, e.code = 0x31 ∧ e.d1 = d.getD 0 0 ∧ e.d2 = d.getD 1 0) := by
  have hr : Reports s (if same then s else s.event fromMarkhor 0x31 d) := .ite (.refl s) (s.event_reports _ _ _ _)
  have he : same = false → ∃ e, (if same then s else s.event fromMarkhor 0x31 d).events.head? = some e ∧ e.code = 0x31 ∧
      e.d1 = d.getD 0 0 ∧ e.d2 = d.getD 1 0 := fun h => ⟨_, by rw [h]; rfl, rfl, rfl, rfl⟩
  unfold State.reportLevel
  dsimp only
  revert hr he
  generalize (if same then s else s.event fromMarkhor 0x31 d) = t
  intro hr he
  obtain ⟨hh, hp, hf, hev⟩ := t.level3_keeps
  cases act with
  | true =>
    refine ⟨?_, hp.trans hr.pwr, hf.trans hr.fab, fun h => ?_⟩
    · rw [if_pos rfl, hh, hr.hlt]
    · obtain ⟨e, hm, hd⟩ := he h
      exact ⟨e, hev e hm, hd⟩
  | false =>
    refine ⟨?_, hr.pwr, hr.fab, fun h => ?_⟩
    · rw [if_neg (by decide), hr.hlt]
    · obtain ⟨e, hm, hd⟩ := he h
      exact ⟨e, List.mem_of_mem_head? hm, hd⟩

theorem Power.anyOn_iff (p : Power) (first n : Nat) : p.anyOn first n = true ↔ ∃ i < n, p.domains.getLsbD (first + i) = true := by
  simp [Power.anyOn]

/-- A component whose blocks are on, or none. -/
theorem ite_anyOn (p : Power) (first n points : Nat) [Decidable (∃ i < n, p.domains.getLsbD (first + i) = true)] :
    (if p.anyOn first n then points else 0) = if ∃ i < n, p.domains.getLsbD (first + i) = true then points else 0 :=
  if_congr (p.anyOn_iff first n) rfl rfl

/-- No component exceeds a byte. -/
theorem State.riskPoints_lt (s : State) (window : List Sample) (status : Nat) : ∀ p ∈ s.riskPoints window status, p < 256 := by
  have hon : ∀ (b : Bool) (c n : Nat), c < 256 → (if b then min c n else 0) < 256 := fun b c n h => by split <;> omega
  have hmin : ∀ (c n : Nat), c < 256 → min c n < 256 := fun c n h => by omega
  have hcool : [0, 64, 192, 255].getD status 255 < 256 := by
    match status with
    | 0 | 1 | 2 | 3 => decide
    | _ + 4 => exact (by decide : 255 < 256)
  have hpeer : (if s.hlt.pairState = 3 then s.hlt.peerRisk.toNat / 2 else 0) < 256 := by
    have := s.hlt.peerRisk.isLt
    split <;> omega
  unfold State.riskPoints
  simp only [List.forall_mem_cons, List.not_mem_nil, false_imp_iff, implies_true, and_true]
  exact ⟨hon _ _ _ (by decide), hmin _ _ (by decide), hon _ _ _ (by decide), hon _ _ _ (by decide), hon _ _ _ (by decide),
    hmin _ _ (by decide), hmin _ _ (by decide), hmin _ _ (by decide), hcool, hpeer⟩

theorem State.length_riskPoints (s : State) (window : List Sample) (status : Nat) : (s.riskPoints window status).length = 10 := rfl

/-- Ten numbers of a byte each, kept as bytes, are what they were. -/
theorem toNat_bytes_of_lt {ps : List Nat} (hl : ps.length = 10) (h : ∀ p ∈ ps, p < 256) :
    (Vector.ofFn fun k : Fin 10 => BitVec.ofNat 8 (ps.getD k.val 0)).toList.map (·.toNat) = ps := by
  refine List.ext_getElem (by simp [hl]) fun i hi hj => ?_
  have := h ps[i] (List.getElem_mem hj)
  simp only [List.getElem_map, Vector.getElem_toList, Vector.getElem_ofFn, BitVec.toNat_ofNat, List.getD_eq_getElem _ _ hj]
  omega

/-- The sample enters the ring, and its score and level stand. -/
def State.formScore (s : State) (ps : List Nat) (score : Nat) : State :=
  s.onHlt fun h => { h with
    window := (s.hlt.rise :: s.hlt.window).take 1024, samples := h.samples + 1, rise := {}, score := BitVec.ofNat 8 score
    level := BitVec.ofNat 2 (s.hlt.levelOf score), points := Vector.ofFn fun k => BitVec.ofNat 8 (ps.getD k.val 0)
    log := if s.hlt.levelOf score = s.hlt.level.toNat then h.log
      else ({ level := BitVec.ofNat 2 (s.hlt.levelOf score), score := BitVec.ofNat 8 score, sample := h.samples + 1 } :: h.log).take 256
    pending2 := h.pending2 || (decide (s.hlt.levelOf score = 2 ∧ s.hlt.level.toNat < 2) && s.hlt.armed2)
    armed2 := (h.armed2 && !(decide (s.hlt.levelOf score = 2 ∧ s.hlt.level.toNat < 2) && s.hlt.armed2)) || decide (score + 16 ≤ h.t2.toNat)
    armed3 := (h.armed3 && !(decide (s.hlt.levelOf score = 3 ∧ s.hlt.level.toNat < 3) && s.hlt.armed3)) ||
      decide (score + 16 ≤ h.t3.toNat) }

theorem State.riskSample_eq (s : State) (status : Nat) :
    let ps := s.riskPoints ((s.hlt.rise :: s.hlt.window).take 1024) status
    let score := min 255 (ps.foldl (· + ·) 0)
    s.riskSample status = (s.formScore ps score).reportLevel (decide (s.hlt.levelOf score = s.hlt.level.toNat))
      (decide (s.hlt.levelOf score = 3 ∧ s.hlt.level.toNat < 3) && s.hlt.armed3)
      [packBits [(score, 0), (s.hlt.levelOf score, 8)], BitVec.ofNat 64 (s.hlt.samples + 1)] := by
  unfold State.reportLevel
  simp only [decide_eq_true_eq]
  rfl

/-- The score of a sample, and its level. -/
theorem State.riskSample_spec (s : State) (status : Nat) :
    let t := s.riskSample status
    let ps := s.riskPoints t.hlt.window status
    let score := min 255 (ps.foldl (· + ·) 0)
    t.pwr = s.pwr ∧ t.fab = s.fab ∧ t.hlt.samples = s.hlt.samples + 1 ∧ t.hlt.window = (s.hlt.rise :: s.hlt.window).take 1024 ∧
      t.hlt.points = (Vector.ofFn fun k => BitVec.ofNat 8 (ps.getD k.val 0)) ∧ t.hlt.score = BitVec.ofNat 8 score ∧
      t.hlt.level = BitVec.ofNat 2 (s.hlt.levelOf score) ∧ (s.hlt.levelOf score ≠ s.hlt.level.toNat → ∃ e ∈ t.events, e.code = 0x31 ∧
        e.d1 = packBits [(score, 0), (s.hlt.levelOf score, 8)] ∧ e.d2 = BitVec.ofNat 64 (s.hlt.samples + 1)) := by
  have heq := s.riskSample_eq status
  dsimp only at heq ⊢
  rw [heq]
  clear heq
  generalize hps : s.riskPoints ((s.hlt.rise :: s.hlt.window).take 1024) status = ps
  generalize hscore : min 255 (ps.foldl (· + ·) 0) = score
  obtain ⟨hh, hp, hf, he⟩ := (s.formScore ps score).reportLevel_keeps (decide (s.hlt.levelOf score = s.hlt.level.toNat))
    (decide (s.hlt.levelOf score = 3 ∧ s.hlt.level.toNat < 3) && s.hlt.armed3)
    [packBits [(score, 0), (s.hlt.levelOf score, 8)], BitVec.ofNat 64 (s.hlt.samples + 1)]
  revert hh hp hf he
  generalize State.reportLevel _ _ _ _ = t
  intro hh hp hf he
  have hw : t.hlt.window = (s.hlt.rise :: s.hlt.window).take 1024 := by rw [hh]; rfl
  rw [hw, hps, hscore]
  refine ⟨hp, hf, by rw [hh]; rfl, rfl, by rw [hh]; rfl, by rw [hh]; rfl, by rw [hh]; rfl, fun hne => ?_⟩
  exact he (decide_eq_false hne)

/-- Ten components, as the ring's bytes and as a vector. -/
theorem ofFn_getD_ten (a b c d e f g h i j : Nat) :
    (Vector.ofFn fun k : Fin 10 => BitVec.ofNat 8 ([a, b, c, d, e, f, g, h, i, j].getD k.val 0)) =
      (#v[a, b, c, d, e, f, g, h, i, j] : Vector Nat 10).map (BitVec.ofNat 8) := by
  refine Vector.ext fun k hk => ?_
  rw [Vector.getElem_ofFn, Vector.getElem_map]
  interval_cases k <;> rfl

/-- A sample of a module in READY: it is measured, scored, and checked for a trip. -/
theorem exec_healthSample_ready {s : State} {x : Sensors} (hoff : s.pwr.off = false) (hheld : s.sec.extHeld = false)
    (hboot : s.sec.boot = .ready) : exec (.healthSample x) s = .next ((((s.sense x).measured x
      (coolantStatus x (s.pwr.leakAfter x.leak))).riskSample (coolantStatus x (s.pwr.leakAfter x.leak))).tripCheck x (x.leak && !s.pwr.leak)) := by
  have hex : exec (.healthSample x) s = execHealthSample x s := rfl
  rw [hex, execHealthSample, hoff, hheld]
  exact congrArg _ (if_neg (not_not_intro hboot))

/-- Settles O44: a health sample is measured, scored and checked for a trip. -/
theorem healthSampled : Obligations.HealthSampled := by
  unfold Obligations.HealthSampled
  intro s x
  have hex : exec (.healthSample x) s = execHealthSample x s := rfl
  refine ⟨fun h => ?_, fun hoff hheld hboot => ?_, fun hoff hheld hboot => ?_⟩
  · rw [hex, execHealthSample]
    exact congrArg _ (if_pos (by simpa using h))
  · rw [hex, execHealthSample, hoff, hheld]
    exact congrArg _ (if_pos hboot)
  intro leak status
  obtain ⟨⟨herr, hhlt⟩, since, thr, hpwr⟩ := (s.sense x).measured_spec x status
  generalize hw : (s.sense x).measured x status = w at herr hhlt hpwr
  obtain ⟨hp, hf, hn, hwin, hpts, hsc, hlv, hev⟩ := w.riskSample_spec status
  have hlt := w.riskPoints_lt (w.riskSample status).hlt.window status
  have hpts' : (w.riskSample status).hlt.points.toList.map (·.toNat) = w.riskPoints (w.riskSample status).hlt.window status := by
    rw [hpts]
    exact toNat_bytes_of_lt (w.length_riskPoints _ _) hlt
  have hscore : (w.riskSample status).hlt.score.toNat = min 255 ((w.riskPoints (w.riskSample status).hlt.window status).foldl (· + ·) 0) := by
    rw [hsc]
    exact Nat.mod_eq_of_lt (by omega)
  rw [← hscore, hhlt] at hev hlv
  have hexr := exec_healthSample_ready (x := x) hoff hheld hboot
  rw [show (s.sense x).measured x (coolantStatus x (s.pwr.leakAfter x.leak)) = w from hw] at hexr
  rw [show coolantStatus x (s.pwr.leakAfter x.leak) = status from rfl] at hexr
  have hleak : (w.riskSample status).pwr.leak = leak := by rw [hp, hpwr]; rfl
  refine ⟨w.riskSample status, ?_, ?_, ?_, ?_, hleak, ?_, ?_, ⟨?_, ?_⟩, ?_, ?_, ?_⟩
  · rw [hexr, State.tripCheck, hleak]
    simp only [Bool.and_eq_true, beq_iff_eq, Option.isNone_iff_eq_none, Bool.not_eq_true', Bool.or_eq_true, decide_eq_true_eq]
  · rw [hp, hpwr]; rfl
  · rw [hp, hpwr]; rfl
  · rw [hp, hpwr]; rfl
  · rw [hn, hhlt]; rfl
  · rw [hp, hpwr]; rfl
  · rw [hwin, hhlt]; rfl
  · rw [hpts, State.riskPoints, herr, hhlt, hpwr, hf]
    simp only [ite_anyOn]
    exact ofFn_getD_ten ..
  · rw [hpts', hscore]
  · exact hlv
  · exact hev

/-! ### What completions, events and interrupts leave of a port (R500, R509) -/

/-- A port after completions and interrupts: only its outbound stream, its outstanding commands and its interrupts differ. -/
structure HostPort.Posts (p q : HostPort) : Prop where
  eq : q = { p with
    out := q.out, held := q.held, outstanding := q.outstanding, orphans := q.orphans, armed := q.armed, eventSince := q.eventSince
    fired := q.fired, pba := q.pba }

namespace HostPort.Posts

theorem refl (p : HostPort) : p.Posts p := ⟨rfl⟩

theorem trans {p q r : HostPort} (h : p.Posts q) (k : q.Posts r) : p.Posts r := by
  have hk := k.eq
  rw [h.eq] at hk
  exact ⟨hk⟩

theorem ite {p q r : HostPort} {c : Prop} [Decidable c] (h : p.Posts q) (k : p.Posts r) : p.Posts (if c then q else r) := by
  split
  · exact h
  · exact k

variable {p q : HostPort} (h : p.Posts q)
include h

theorem fire (v : Fin 4) : p.Posts (q.fire v) := h.trans (.ite ⟨rfl⟩ ⟨rfl⟩)

theorem poll : p.Posts q.poll := by
  have h0 : p.Posts (if q.armed.getLsbD 0 && !q.out.isEmpty then q.fire 0 else q) := .ite (h.fire 0) h
  have h1 : ∀ a : HostPort, p.Posts a → p.Posts (if a.armed.getLsbD 1 && a.eventSince then { a.fire 1 with eventSince := false } else a) :=
    fun a ha => .ite ((ha.fire 1).trans ⟨rfl⟩) ha
  have h2 : ∀ b : HostPort, p.Posts b → p.Posts (if b.armed.getLsbD 2 && b.stat != 0 then b.fire 2 else b) :=
    fun b hb => .ite (hb.fire 2) hb
  exact h2 _ (h1 _ h0)

theorem notice (code : Nat) : p.Posts (q.notice code) := .ite ((h.trans ⟨rfl⟩).poll) h

theorem freed (id : Option (BitVec 16)) : p.Posts (q.freed id) := by
  cases id with
  | none => exact h
  | some i => exact h.trans ⟨rfl⟩

theorem post (id : Option (BitVec 16)) (ws : List Word) : p.Posts (q.post id ws) :=
  .ite ((h.trans (p := p) (r := { q with out := q.out ++ ws }) ⟨rfl⟩).freed id).poll (h.trans ⟨rfl⟩)

theorem fifo : q.fifo = p.fifo := by rw [h.eq]
theorem frame : q.frame = p.frame := by rw [h.eq]
theorem ready : q.ready = p.ready := by rw [h.eq]
theorem stat : q.stat = p.stat := by rw [h.eq]
theorem host : q.host = p.host := by rw [h.eq]
theorem copies : q.copies = p.copies := by rw [h.eq]
theorem perst : q.perst = p.perst := by rw [h.eq]
theorem reply : q.reply = p.reply := by rw [h.eq]
theorem winBase : q.winBase = p.winBase := by rw [h.eq]
theorem winWaits : q.winWaits = p.winWaits := by rw [h.eq]

end HostPort.Posts

/-- Every port after completions and events. -/
def State.Posts (s t : State) : Prop := ∀ p, (s.port p).Posts (t.port p)

namespace State.Posts

theorem refl (s : State) : s.Posts s := fun p => .refl (s.port p)

theorem trans {s t u : State} (h : s.Posts t) (k : t.Posts u) : s.Posts u := fun p => (h p).trans (k p)

theorem ite {s t u : State} {c : Prop} [Decidable c] (h : s.Posts t) (k : s.Posts u) : s.Posts (if c then t else u) := by
  split
  · exact h
  · exact k

variable {s t : State} (h : s.Posts t)
include h

theorem onPort (p : HPort) {f : HostPort → HostPort} (hf : ∀ q, HostPort.Posts q (f q)) : s.Posts (t.onPort p f) := by
  intro q
  by_cases e : q = p
  · rw [e, State.onPort_self]
    exact (h p).trans (hf _)
  · rw [State.onPort_other (f := f) (h := e)]
    exact h q

theorem event (src : Source) (code : Nat) (d : List Word) (st : Nat) : s.Posts (t.event src code d st) := by
  intro q
  have e : (t.event src code d st).port q = (t.port q).notice code := by
    rw [State.port, State.event_ports, Fin.getElem_fin, Vector.getElem_map]
    rfl
  rw [e]
  exact (h q).notice code

theorem notify (p : HPort) (asked : Bool) (ws : List Word) : s.Posts (t.notify p asked ws) := .ite (h.event _ _ _ _) h

theorem finish (p : HPort) (id : BitVec 16) (r : Reply) (flags : Nat) : s.Posts (t.finish p id r flags) := by
  unfold State.finish
  split
  · exact (h.onPort p fun q => (HostPort.Posts.refl q).post _ _).notify _ _ _
  · exact h.onPort p fun q => ⟨rfl⟩

theorem interim (p : HPort) (id : BitVec 16) : s.Posts (t.interim p id) := by
  unfold State.interim
  split
  · exact h.onPort p fun q => (HostPort.Posts.refl q).post _ _
  · exact h

end State.Posts

/-! ### Framing leaves the inbound FIFO (R505) -/

theorem State.onPort_fifo (s : State) (p : HPort) {f : HostPort → HostPort} (hf : ∀ q, (f q).fifo = q.fifo) (q : HPort) :
    ((s.onPort p f).port q).fifo = (s.port q).fifo := by
  by_cases e : q = p
  · rw [e, State.onPort_self, hf]
  · rw [State.onPort_other (f := f) (h := e)]

theorem State.mbxStat_fifo (s : State) (p : HPort) (bit : Nat) (q : HPort) : ((s.mbxStat p bit).port q).fifo = (s.port q).fifo :=
  s.onPort_fifo p (fun x => ((HostPort.Posts.refl { x with stat := x.stat ||| (1#6 <<< bit) }).poll).fifo) q

theorem State.refuse_posts (s : State) (p : HPort) (w : Word) (flags : Nat) : s.Posts (s.refuse p w flags) :=
  ((Posts.refl s).onPort p fun q => (HostPort.Posts.refl q).post _ _).notify _ _ _

theorem State.header_fifo (s : State) (p : HPort) (w : Word) (q : HPort) : ((s.header p w).1.port q).fifo = (s.port q).fifo := by
  unfold State.header
  dsimp only
  split
  · exact (State.mbxStat_fifo _ p 1 q).trans (s.refuse_posts p w 4 q).fifo
  · split
    · exact (s.refuse_posts p w 0 q).fifo
    · exact s.onPort_fifo p (by exact fun _ => rfl) q

theorem State.received_fifo (s : State) (p : HPort) (id : BitVec 16) (w : Word) (ws : List Word) (q : HPort) :
    ((s.received p id w ws).port q).fifo = (s.port q).fifo := by
  unfold State.received
  split
  · exact ((Posts.refl s).finish p id _ 0 q).fifo
  · exact s.onPort_fifo p (by exact fun _ => rfl) q

theorem State.gather_fifo (s : State) (p : HPort) (w : Word) (id : Option (BitVec 16)) (got : List Word) (q : HPort) :
    ((s.gather p w id got).port q).fifo = (s.port q).fifo := by
  have h := s.onPort_fifo p (f := fun q => { q with frame := .header }) (fun _ => rfl) q
  unfold State.gather
  split
  · exact s.onPort_fifo p (by exact fun _ => rfl) q
  · dsimp only
    split
    · exact (State.received_fifo _ p _ w got q).trans h
    · exact h

theorem State.frameWord_fifo (s : State) (p : HPort) (w : Word) (q : HPort) : ((s.frameWord p w).port q).fifo = (s.port q).fifo := by
  unfold State.frameWord
  split
  · exact (State.gather_fifo _ p w _ [] q).trans (s.header_fifo p w q)
  · exact s.gather_fifo p _ _ _ q
  · rfl

/-- Framing empties the FIFO. -/
theorem State.frameAll_fifo (s : State) (p : HPort) : ((s.frameAll p).port p).fifo = [] :=
  foldl_keeps (q := fun t : State => (t.port p).fifo = []) (fun t w h => (t.frameWord_fifo p w p).trans h) (s.port p).fifo (by
    rw [State.onPort_self])

theorem State.cutShort_posts (s : State) (p : HPort) : s.Posts (s.cutShort p) := by
  unfold State.cutShort
  split
  · exact (Posts.refl s).finish _ _ _ _
  · exact Posts.refl s

/-! ### The mailbox and its doorbells (R499 to R506, R518, R534) -/

theorem mailboxWords : Claim.MailboxWords := by
  unfold Claim.MailboxWords
  intro p s w
  have hin : ∀ take, exec (.mbxInWrite p w take) s = execMbxInWrite p w take s := fun _ => rfl
  have hout : exec (.mbxOutRead p) s = execMbxOutRead p s := rfl
  have hre : exec (.resync p) s = execResync p s := rfl
  refine ⟨fun h => ⟨fun take => ?_, ?_, ?_⟩, fun h => ⟨⟨s.wordIn p w, ?_, ?_, ?_, ?_, ?_⟩, ?_, ?_⟩, fun h id got hf => ?_, fun hf => ?_⟩
  · rw [hin, execMbxInWrite, h]
    rfl
  · rw [hout, execMbxOutRead, h]
    rfl
  · rw [hre, execResync, h]
    rfl
  · rw [hin, execMbxInWrite, h]
    rfl
  · rw [hin, execMbxInWrite, h]
    rfl
  · exact fun hd => if_pos hd
  · exact fun hd hl => (if_neg hd).trans (if_neg (Nat.not_le.mpr hl))
  · intro hd hl
    have e : s.wordIn p w = (((s.frameAll p).cutShort p).onPort p fun q => { q with frame := .dropping }).mbxStat p 0 :=
      (if_neg hd).trans (if_pos hl)
    have hx : (s.wordIn p w).port p = ({ ((s.frameAll p).cutShort p).port p with
        frame := .dropping, stat := (((s.frameAll p).cutShort p).port p).stat ||| 1#6 } : HostPort).poll := by
      rw [e, State.mbxStat, State.onPort_self, State.onPort_self]
      rfl
    rw [hx]
    refine ⟨e, (HostPort.Posts.refl _).poll.frame, ?_, (HostPort.Posts.refl _).poll.fifo.trans ?_⟩
    · rw [(HostPort.Posts.refl _).poll.stat]
      simp
    · exact ((s.frameAll p).cutShort_posts p p).fifo.trans (s.frameAll_fifo p)
  · rw [hout, execMbxOutRead, h]
    rfl
  · refine ⟨s.resync p, by rw [hre, execResync, h]; rfl, rfl, ?_, ?_⟩
    · rw [State.resync, State.onPort_self]
    · rw [State.resync, State.onPort_self]
      exact ((s.frameAll p).cutShort_posts p p).fifo.trans (s.frameAll_fifo p)
  · rw [State.cutShort, hf]
    rfl
  · rw [State.cutShort]
    split
    · next hx => exact absurd hx (hf _ _ _)
    · rfl

theorem doorbells : Claim.Doorbells := by
  unfold Claim.Doorbells
  intro p s n bits
  have hh : exec (.mbxDbHeartbeat p) s = .next (if s.portUp p then s.setHost p .present else s) := rfl
  have hs : exec (.mbxDbStep p n) s = execMbxDbStep p n s := rfl
  have hi : exec (.mbxDbIrq p bits) s = .next (if s.portUp p then s.onPort p fun q => { q with armed := q.armed ||| bits }.poll else s) := rfl
  refine ⟨fun h => ⟨?_, ?_, ?_⟩, ?_, fun h => ⟨fun hp => ?_, fun hp => ?_, fun hn hpl hr hst => ?_, fun hn hx => ?_, ?_⟩⟩
  · rw [hh, h]
    rfl
  · rw [hs, execMbxDbStep, h]
    rfl
  · rw [hi, h]
    rfl
  · change execMbxDbStep p 0 s = _
    exact if_pos (by simp)
  · rw [hh, h]
    exact congrArg _ (if_pos hp)
  · rw [hh, h]
    exact congrArg _ (if_neg hp)
  · refine ⟨s.onRun fun r => { r with budget := satAdd r.budget n.toNat }, ?_, rfl, ?_⟩
    · rw [hs, execMbxDbStep, h, if_neg (by simpa using hn), if_neg (by rw [hr, hst]; simp [Option.isSome_iff_ne_none.mp hpl, rcvNormal])]
    · exact Nat.mod_eq_of_lt (by omega)
  · rw [hs, execMbxDbStep, h, if_neg (by simpa using hn), if_pos (by
      rcases hx with hx | hx | hx
      · simp [hx]
      · simp [rcvNormal, show ¬ s.hlt.rcv = 5#3 from hx]
      · simp [hx])]
    rfl
  · rw [hi, h]
    rfl

/-- Settles O45: the mailbox words and the doorbells, each from the definition of its row. -/
theorem mailboxAndDoorbells : Obligations.MailboxAndDoorbells := ⟨mailboxWords, doorbells⟩

/-! ### The memory window (R501 to R503) -/

/-- A stretch within one 4 KiB page is one piece. -/
theorem pagesOf_of_one {a n : Nat} (hn : 1 ≤ n) (h : a % 4096 + n ≤ 4096) : pagesOf a n = [(a, 0, n)] := by
  have hfirst : (max a ((a / 4096 + 0) * 4096), max a ((a / 4096 + 0) * 4096) - a,
      min (a + n) ((a / 4096 + 0 + 1) * 4096) - max a ((a / 4096 + 0) * 4096)) = (a, 0, n) := by
    simp only [Prod.mk.injEq]
    omega
  rw [pagesOf, List.range_succ_eq_map, List.map_cons, hfirst, List.filter_cons_of_pos (by simp; omega)]
  refine congrArg _ (List.filter_eq_nil_iff.mpr fun x hx => ?_)
  obtain ⟨k, hk, rfl⟩ := List.mem_map.mp hx
  obtain ⟨j, -, rfl⟩ := List.mem_map.mp hk
  simp only [bne_iff_ne, ne_eq, Decidable.not_not]
  omega

/-- Charging credits changes nothing but credits. -/
theorem State.charged_spec (s : State) (cls : Nat → Nat) (ls : List (Nat × Nat)) :
    ∀ k, (s.charged cls ls).part k = { s.part k with classes := ((s.charged cls ls).part k).classes } := by
  refine foldl_keeps (q := fun t : State => ∀ k, t.part k = { s.part k with classes := (t.part k).classes }) (fun t l h => ?_) ls
    fun k => rfl
  have hcharge : ∀ (x : Part) c n, x.charge c n = { x with classes := (x.charge c n).classes } := fun x c n => by
    unfold Part.charge
    split <;> rfl
  unfold State.chargeLine
  split
  · next p o _ =>
    dsimp only
    split
    · intro k
      by_cases e : k = p
      · rw [e, State.onPart_self, hcharge]
        rw [h p]
      · rw [State.onPart_other (h := e)]
        exact h k
    · exact h
  · exact h

/-- A read where no sector is uncorrectable only charges credits. -/
theorem State.busRead_of_clean {s : State} (h : s.mem.ue = []) (cls : Nat → Nat) (a n : Nat) :
    s.busRead cls a n = s.charged cls (stretchLines a n) :=
  (s.charged cls (stretchLines a n)).ueReads_of_clean h a n

/-- A write where no sector is uncorrectable: memory, credits, and what pending reads know. -/
theorem State.busWrite_of_clean {s : State} (h : s.mem.ue = []) (cls : Nat → Nat) (ws : List WByte) :
    (s.busWrite cls ws).mem = s.mem.write ws ∧
      s.busWrite cls ws = { s with mem := (s.busWrite cls ws).mem, parts := (s.busWrite cls ws).parts, reqs := (s.busWrite cls ws).reqs } ∧
      ∀ k, (s.busWrite cls ws).part k = { s.part k with classes := ((s.busWrite cls ws).part k).classes } := by
  obtain ⟨rq, hr⟩ : ∃ rq, (s.charged cls (writeLines ws)).rewrote ws = { s.charged cls (writeLines ws) with reqs := rq } := by
    unfold State.rewrote
    split
    · exact ⟨_, rfl⟩
    · exact ⟨_, rfl⟩
  have e : s.busWrite cls ws = { s.charged cls (writeLines ws) with reqs := rq, mem := s.mem.write ws } := by
    unfold State.busWrite
    dsimp only
    rw [hr]
    exact if_pos (by rw [show (s.charged cls (writeLines ws)).mem = s.mem from rfl, h]; rfl)
  rw [e]
  exact ⟨rfl, rfl, s.charged_spec cls (writeLines ws)⟩

/-- A whole byte that is written once reads as written. -/
theorem Memory.get_write_unique {m : Memory} (h : m.wf = true) {ws : List WByte} {w : WByte} (hw : w ∈ ws) (hm : w.mask = 0xFF)
    (hu : ∀ x ∈ ws, x.addr = w.addr → x = w) : (m.write ws).get w.addr = w.data := by
  induction ws generalizing m with
  | nil => cases hw
  | cons x xs ih =>
    change ((m.set x.addr (x.apply (m.get x.addr))).write xs).get w.addr = _
    by_cases hx : w ∈ xs
    · exact ih (Memory.set_wf _ _ h) hx fun y hy => hu y (List.mem_cons_of_mem x hy)
    · obtain rfl := (List.mem_cons.mp hw).resolve_right hx
      rw [Memory.get_write_other (Memory.set_wf _ _ h) _ _ fun y hy e => hx (hu y (List.mem_cons_of_mem w hy) e ▸ hy), Memory.get_set h,
        if_pos rfl]
      obtain ⟨a, mask, b⟩ := w
      obtain rfl : mask = 0xFF := hm
      exact WByte.apply_whole a b _

/-- The enabled bytes of a window write. -/
def enabledBytes (a : Nat) (data : List (Option Byte)) : List WByte :=
  data.zipIdx.filterMap fun b => b.1.map fun v => { addr := a + b.2, data := v }

theorem mem_enabledBytes {a : Nat} {data : List (Option Byte)} {w : WByte} :
    w ∈ enabledBytes a data ↔ ∃ i v, data[i]? = some (some v) ∧ w = { addr := a + i, data := v } := by
  simp only [enabledBytes, List.mem_filterMap, Option.map_eq_some_iff, Prod.exists, List.mem_zipIdx_iff_getElem?]
  constructor
  · rintro ⟨_, i, hi, v, rfl, rfl⟩
    exact ⟨i, v, hi, rfl⟩
  · rintro ⟨i, v, hi, rfl⟩
    exact ⟨some v, i, hi, v, rfl, rfl⟩

theorem Memory.get_write_enabledBytes {m : Memory} (h : m.wf = true) (a : Nat) {data : List (Option Byte)} {i : Nat} {v : Byte}
    (hi : data[i]? = some (some v)) : (m.write (enabledBytes a data)).get (a + i) = v := by
  refine Memory.get_write_unique (w := { addr := a + i, data := v }) h (mem_enabledBytes.mpr ⟨i, v, hi, rfl⟩) rfl fun x hx e => ?_
  obtain ⟨j, u, hj, rfl⟩ := mem_enabledBytes.mp hx
  obtain rfl : j = i := by simpa using e
  rw [hi] at hj
  cases hj
  rfl

theorem State.windowWaits_iff (s : State) (w : WinReq) : s.windowWaits w = true ↔ ∃ g ∈ pagesOf w.addr w.len, s.reach g.1 = .waits := by
  simp [State.windowWaits]

/-- An access to a port that is up waits, or takes place. -/
theorem State.windowAccess_cases {s : State} {p : HPort} (hup : s.portUp p = true) (w : WinReq) :
    let waits := (∃ g ∈ pagesOf w.addr w.len, s.reach g.1 = .waits) ∨ (s.port p).winWaits ≠ []
    (waits → s.windowAccess p w = s.onPort p fun q => { q with winWaits := q.winWaits ++ [w] }) ∧
      (¬ waits → s.windowAccess p w = s.windowServe p w) := by
  intro waits
  have hw : (s.windowWaits w || !(s.port p).winWaits.isEmpty) = true ↔ waits := by
    rw [Bool.or_eq_true, s.windowWaits_iff]
    simp [waits]
  have e : s.windowAccess p w = if s.windowWaits w || !(s.port p).winWaits.isEmpty then s.onPort p fun q => { q with winWaits := q.winWaits ++ [w] }
      else s.windowServe p w := if_neg (by simp [hup])
  exact ⟨fun h => e.trans (if_pos (hw.mpr h)), fun h => e.trans (if_neg fun x => h (hw.mp x))⟩

theorem State.windowAccess_down {s : State} {p : HPort} (h : s.portUp p = false) (w : WinReq) : s.windowAccess p w = s :=
  if_pos (by simp [h])

/-- A read within one page. -/
theorem State.windowServe_read_one (s : State) (p : HPort) {a n : Nat} (hn : 1 ≤ n) (h : a % 4096 + n ≤ 4096) :
    s.windowServe p (.read a n) = (s.windowReadPage p {} a n).1.onPort p fun q =>
      { q with reply := if (s.windowReadPage p {} a n).2.unsupported then { unsupported := true } else (s.windowReadPage p {} a n).2 } := by
  unfold State.windowServe
  rw [show pagesOf (WinReq.read a n).addr (WinReq.read a n).len = [(a, 0, n)] from pagesOf_of_one hn h]
  rfl

/-- A write within one page. -/
theorem State.windowServe_write_one (s : State) (p : HPort) {a : Nat} {bs : List (Option Byte)} (hn : 1 ≤ bs.length)
    (h : a % 4096 + bs.length ≤ 4096) : s.windowServe p (.write a bs) = s.windowWritePage p a bs := by
  unfold State.windowServe
  rw [show pagesOf (WinReq.write a bs).addr (WinReq.write a bs).len = [(a, 0, bs.length)] from pagesOf_of_one hn h]
  change s.windowWritePage p a ((bs.drop 0).take bs.length) = _
  rw [List.drop_zero, List.take_length]

/-- Settles O46: what an access to the window does, waiting or served, in each reach of its page. -/
theorem windows : Obligations.Windows := by
  unfold Obligations.Windows
  intro p off s a waits host
  have hr : ∀ len, exec (.windowRead p off len) s = .next (s.windowAccess p (.read a (min len (2 ^ 36 - off.toNat)))) := fun _ => rfl
  have hw : ∀ data, exec (.windowWrite p off data) s = .next (s.windowAccess p (.write a (data.take (barBytes off data.length)))) :=
    fun _ => rfl
  refine ⟨fun h len data => ⟨?_, ?_⟩, fun h len => ?_, fun h given => ?_⟩
  · rw [hr, State.windowAccess_down h]
  · rw [hw, State.windowAccess_down h]
  · intro n
    refine ⟨fun hwt => ?_, fun hwt => ?_, fun hwt hn hpage => ⟨fun hre => ?_, fun hue => ?_, fun hre => ?_, fun hre => ?_⟩⟩
    · rw [hr]
      exact congrArg _ ((State.windowAccess_cases h (.read a n)).1 hwt)
    · rw [hr]
      exact congrArg _ ((State.windowAccess_cases h (.read a n)).2 hwt)
    · rw [hr, (State.windowAccess_cases h (.read a n)).2 hwt, State.windowServe_read_one s p hn hpage, State.windowReadPage, hre]
      rfl
    · exact ⟨_, rfl, by rw [State.busRead_of_clean hue]; rfl, fun k => by rw [State.busRead_of_clean hue]; exact s.charged_spec _ _ k⟩
    · rw [hr, (State.windowAccess_cases h (.read a n)).2 hwt, State.windowServe_read_one s p hn hpage, State.windowReadPage, hre]
      rfl
    · rw [hr, (State.windowAccess_cases h (.read a n)).2 hwt, State.windowServe_read_one s p hn hpage, State.windowReadPage, hre]
      rfl
  intro data n
  have hdata : given.take (barBytes off given.length) = data := by
    rw [barBytes, ← List.take_take]
    exact List.take_of_length_le (List.length_take_le' _ _)
  have hx : exec (.windowWrite p off given) s = .next (s.windowAccess p (.write a data)) := by rw [hw, hdata]
  have hserve : ¬ waits n → 1 ≤ n → a % 4096 + n ≤ 4096 → exec (.windowWrite p off given) s = .next (s.windowWritePage p a data) :=
    fun hwt hn hpage => by rw [hx, (State.windowAccess_cases h (.write a data)).2 hwt, State.windowServe_write_one s p hn hpage]
  refine ⟨fun hwt => ?_, fun hwt => ?_, fun hwt hn hpage => ⟨fun hre => ?_, fun hre => ?_, fun hre => ?_, fun hre hue hwf => ?_⟩⟩
  · rw [hx]
    exact congrArg _ ((State.windowAccess_cases h (.write a data)).1 hwt)
  · rw [hx]
    exact congrArg _ ((State.windowAccess_cases h (.write a data)).2 hwt)
  · rw [hserve hwt hn hpage, State.windowWritePage, hre]
  · rw [hserve hwt hn hpage, State.windowWritePage, hre]
  · rw [hserve hwt hn hpage, State.windowWritePage, hre]
    rfl
  · obtain ⟨hmem, hframe, hparts⟩ := State.busWrite_of_clean hue hostClass (enabledBytes a data)
    refine ⟨s.busWrite hostClass (enabledBytes a data), ?_, hframe, hparts, fun i v hi => ?_, fun b hb => ?_⟩
    · rw [hserve hwt hn hpage, State.windowWritePage, hre]
      rfl
    · rw [hmem]
      exact Memory.get_write_enabledBytes hwf a hi
    · rw [hmem]
      refine Memory.get_write_other hwf _ _ fun w hw => ?_
      obtain ⟨i, v, hi, rfl⟩ := mem_enabledBytes.mp hw
      exact hb i v hi

end Sys2Proof.Machine
end

section
/-! Proofs. Host commands: how they start and end, registers, copies, transactions, graphs, solver, survival, events, security, power. -/
namespace Sys2Proof.Machine

/-! ### The rows of the host's command set (R507 to R514) -/

/-- What the command of a class and opcode does once it starts. -/
def hostBody : Nat → State → HPort → BitVec 16 → List Word → State
  | 0x101 => fun s p id _ => s.cfgBegin p id
  | 0x102 => fun s p id ws => s.cfgSet p id ws
  | 0x103 => fun s p id _ => s.cfgCommit p id
  | 0x104 => fun s p id _ => s.cfgRollback p id
  | 0x105 => fun s p id _ => s.cfgStatus p id
  | 0x110 => State.regRead
  | 0x111 => State.statClear
  | 0x201 => fun s p id ws => s.graphLoad p id (fld (arg ws 1) 0 48) (fld (arg ws 2) 0 48)
  | 0x202 => fun s p id _ => s.graphUnload p id
  | 0x203 => State.placeReportCmd
  | 0x210 => State.stepRunCmd
  | 0x211 => fun s p id _ => s.haltSteps.finish p id done
  | 0x212 => State.quiesceCmd
  | 0x401 => fun s p id ws => s.slvProblemLoad p id (fld (arg ws 1) 0 6) ws.tail
  | 0x402 => fun s p id ws => s.slvProblemInfo p id (fld (arg ws 1) 0 6)
  | 0x403 => fun s p id ws => s.slvContextClear p id (fld (arg ws 1) 0 6)
  | 0x501 => fun s p id ws => s.cursorSet p id ws
  | 0x502 => fun s p id _ => s.snapNowCmd p id
  | 0x503 => fun s p id ws => s.snapMirrorBuf p id (arg ws 1) (arg ws 2)
  | 0x510 => fun s p id _ => s.restoreBegin p id
  | 0x511 => fun s p id ws => s.fillSend p id (arg ws 1)
  | 0x512 => fun s p id ws => s.restorePrivateHost p id (arg ws 2)
  | 0x513 => fun s p id _ => s.restoreCommit p id
  | 0x514 => fun s p id ws => s.verifyStart p id (arg ws 1)
  | 0x601 => State.evtRead
  | 0x602 => State.evtMaskCmd
  | 0x701 => fun s p id ws => s.cntRead p id (arg ws 1)
  | 0x702 => fun s p id ws => s.cntClear p id (arg ws 1)
  | 0xE04 => fun s p id _ => s.debugLock p id
  | 0xE02 => fun s p id _ => s.unlockChallenge p id
  | 0xE03 => State.unlockToken
  | 0xF01 => fun s p id _ => s.finish p id { words := s.identWords }
  | 0xF02 => fun s p id _ => s.finish p id { words := s.fuseWords }
  | 0xE01 => State.attest
  | 0xF10 => State.fwBegin
  | 0xF11 => State.fwWrite
  | 0xF12 => State.fwCommit
  | 0xF13 => fun s p id _ => s.fwAbort p id
  | 0xF20 => State.logRead
  | 0xF30 => State.moduleResetCmd
  | 0x301 => State.dmaCopyCmd
  | 0x801 => State.pwrStateCmd
  | 0x802 => fun s p id _ => s.computeResetCmd p id
  | _ => fun s _ _ _ => s

/-- Every row of the command set is its body under the rules of the mailbox. -/
theorem exec_of_hostKey {i : Instr} {key : Nat} {c : HostCmd} (h : hostKey i = some (key, c)) (s : State) :
    exec i s = hostCmd key c (hostBody key) s := by
  cases i <;> cases h <;> rfl

/-- A key of the command set has 16 bits, and its LENGTH is known. -/
theorem hostKey_known {i : Instr} {key : Nat} {c : HostCmd} (h : hostKey i = some (key, c)) :
    key < 65536 ∧ ∀ ws, (lengthOk key ws).isSome = true := by
  cases i <;> cases h <;> exact ⟨by decide, fun _ => rfl⟩

/-! ### The header of a command (R507) -/

theorem toNat_cmdHeader (key : Nat) (c : HostCmd) :
    (cmdHeader key c).toNat = (key * 2 ^ 48 + c.words.length * 2 ^ 32 + c.tag.toNat * 2 ^ 16 + c.flags.toNat) % 2 ^ 64 := by
  simp [cmdHeader, packBits]

theorem headTag_cmdHeader (key : Nat) (c : HostCmd) : headTag (cmdHeader key c) = c.tag := by
  have ht := c.tag.isLt
  have hf := c.flags.isLt
  apply BitVec.eq_of_toNat_eq
  rw [headTag, BitVec.extractLsb'_toNat, toNat_cmdHeader, Nat.shiftRight_eq_div_pow]
  omega

theorem headKey_cmdHeader {key : Nat} {c : HostCmd} (hk : key < 65536) (hc : c.wf = true) : headKey (cmdHeader key c) = key := by
  have ht := c.tag.isLt
  have hf := c.flags.isLt
  have hl : c.words.length < 65536 := by simpa [HostCmd.wf] using hc
  rw [headKey, fld, toNat_cmdHeader]
  omega

theorem HostCmd.take_words {c : HostCmd} (hc : c.wf = true) : { c with words := c.words.take 65535 } = c := by
  have hl : c.words.length < 65536 := by simpa [HostCmd.wf] using hc
  rw [List.take_of_length_le (by omega)]

/-- A row of the command set runs on its own words. -/
theorem exec_row {i : Instr} {key : Nat} {c : HostCmd} (h : hostKey i = some (key, c)) (hc : c.wf = true) (s : State) :
    exec i s = .next (s.hostRow key c (hostBody key)) := by
  rw [exec_of_hostKey h, hostCmd, HostCmd.take_words hc]

/-! ### A command arrives, waits and starts (R508, R511) -/

theorem State.header_again {s : State} {key : Nat} {c : HostCmd} (h : (s.port c.port).outstanding.any (·.tag == c.tag) = true) :
    s.header c.port (cmdHeader key c) = ((s.refuse c.port (cmdHeader key c) 4).mbxStat c.port 1, none) := by
  rw [State.header, headTag_cmdHeader]
  exact if_pos h

theorem State.header_full {s : State} {key : Nat} {c : HostCmd} (h : (s.port c.port).outstanding.any (·.tag == c.tag) = false)
    (hl : 256 ≤ (s.port c.port).outstanding.length) : s.header c.port (cmdHeader key c) = (s.refuse c.port (cmdHeader key c) 0, none) := by
  rw [State.header, headTag_cmdHeader]
  exact (if_neg (by rw [h]; decide)).trans (if_pos hl)

theorem State.header_started {s : State} {key : Nat} {c : HostCmd} (h : (s.port c.port).outstanding.any (·.tag == c.tag) = false)
    (hl : (s.port c.port).outstanding.length < 256) :
    s.header c.port (cmdHeader key c) = (s.started key c, some (startedId s key c)) := by
  rw [State.header, headTag_cmdHeader]
  exact (if_neg (by rw [h]; decide)).trans (if_neg (Nat.not_le.mpr hl))

/-- The oldest command that waits is the one that a row names. -/
theorem State.hostRow_first {s : State} {key : Nat} {c : HostCmd} {a : Arrived} (body : State → HPort → BitVec 16 → List Word → State)
    (hup : s.portUp c.port = true) (ha : (s.port c.port).ready.head? = some a) (hn : a.names key c = true) :
    s.hostRow key c body = (s.unqueued c.port).startCmd c.port a.id key a.words body := by
  obtain ⟨rest, hr⟩ := List.head?_eq_some_iff.mp ha
  have hq : s.unqueued c.port = s.onPort c.port fun q => { q with ready := rest } :=
    congrArg (fun q => ({ s with ports := s.ports.set c.port q } : State)) (by
      change { s.port c.port with ready := (s.port c.port).ready.tail } = _
      rw [hr]
      rfl)
  rw [State.hostRow]
  rw [if_neg (by rw [hup]; decide), hr, hq]
  exact if_pos hn

/-- A command that does not wait yet arrives behind those that do. -/
theorem State.hostRow_arrives {s : State} {key : Nat} {c : HostCmd} (body : State → HPort → BitVec 16 → List Word → State)
    (hup : s.portUp c.port = true) (ha : ∀ a, (s.port c.port).ready.head? = some a → a.names key c = false) :
    s.hostRow key c body = match s.header c.port (cmdHeader key c) with
      | (t, some id) => if (s.port c.port).ready = [] then t.startCmd c.port id key c.words body
        else t.received c.port id (cmdHeader key c) c.words
      | (t, none) => t := by
  rw [State.hostRow]
  rw [if_neg (by rw [hup]; decide)]
  cases hr : (s.port c.port).ready with
  | nil =>
    dsimp only
    generalize s.header c.port (cmdHeader key c) = x
    obtain ⟨t, _ | id⟩ := x <;> rfl
  | cons a rest =>
    dsimp only
    rw [if_neg (by rw [ha a (by rw [hr]; rfl)]; decide)]
    generalize s.header c.port (cmdHeader key c) = x
    obtain ⟨t, _ | id⟩ := x <;> rfl

theorem State.startCmd_of_none {s : State} {p : HPort} {id : BitVec 16} {key : Nat} {ws : List Word}
    {body : State → HPort → BitVec 16 → List Word → State} (h : s.refusal key ws = none) :
    s.startCmd p id key ws body = (body s p id ws).interim p id := by rw [State.startCmd, h]

theorem State.startCmd_of_some {s : State} {p : HPort} {id : BitVec 16} {key : Nat} {ws : List Word} {r : Reply}
    {body : State → HPort → BitVec 16 → List Word → State} (h : s.refusal key ws = some r) :
    s.startCmd p id key ws body = s.finish p id r := by rw [State.startCmd, h]

theorem Arrived.words_of_names {a : Arrived} {key : Nat} {c : HostCmd} (h : a.names key c = true) : a.words = c.words := by
  simp only [Arrived.names, Bool.and_eq_true, beq_iff_eq] at h
  exact h.2

/-- A command has been taken: only the lists of outstanding and of waiting commands have changed. -/
structure State.Takes (s u : State) : Prop where
  eq : u = { s with ports := u.ports }
  port : ∀ p, u.port p = { s.port p with outstanding := (u.port p).outstanding, ready := (u.port p).ready }

theorem State.takes_onPort (s : State) (p : HPort) {f : HostPort → HostPort}
    (hf : ∀ q, f q = { q with outstanding := (f q).outstanding, ready := (f q).ready }) : s.Takes (s.onPort p f) := by
  refine ⟨rfl, fun q => ?_⟩
  by_cases e : q = p
  · rw [e, State.onPort_self]
    exact hf _
  · rw [State.onPort_other (h := e)]

theorem State.takes_started (s : State) (key : Nat) (c : HostCmd) : s.Takes (s.started key c) :=
  s.takes_onPort c.port (by exact fun _ => rfl)

theorem State.takes_unqueued (s : State) (p : HPort) : s.Takes (s.unqueued p) := s.takes_onPort p (by exact fun _ => rfl)

/-- A row's effect is its body, on the state in which the command has been taken. -/
theorem completes_of {i : Instr} {key : Nat} {c : HostCmd} {s : State} {effect : State → HPort → BitVec 16 → State}
    (hi : hostKey i = some (key, c)) (he : ∀ u id, s.Takes u → hostBody key u c.port id c.words = effect u c.port id) :
    Completes i key c s effect := by
  intro hc
  refine ⟨fun ⟨hup, hr, ht, hl, hrf⟩ => ?_, fun a ⟨hup, ha, hn, hrf⟩ => ?_⟩
  · rw [exec_row hi hc, State.hostRow_arrives _ hup (by rw [hr]; nofun), State.header_started ht hl]
    dsimp only
    rw [if_pos hr, State.startCmd_of_none hrf, he _ _ (s.takes_started key c)]
  · rw [exec_row hi hc, State.hostRow_first _ hup ha hn, State.startCmd_of_none hrf, Arrived.words_of_names hn,
      he _ _ (s.takes_unqueued c.port)]

/-! ### What posts a completion and what turns a command away (R507 to R514) -/

/-- A port after interrupts. -/
structure HostPort.Polls (p q : HostPort) : Prop where
  eq : q = { p with armed := q.armed, eventSince := q.eventSince, fired := q.fired, pba := q.pba }

namespace HostPort.Polls

theorem refl (p : HostPort) : p.Polls p := ⟨rfl⟩

theorem trans {p q r : HostPort} (h : p.Polls q) (k : q.Polls r) : p.Polls r := by
  have hk := k.eq
  rw [h.eq] at hk
  exact ⟨hk⟩

theorem ite {p q r : HostPort} {c : Prop} [Decidable c] (h : p.Polls q) (k : p.Polls r) : p.Polls (if c then q else r) := by
  split
  · exact h
  · exact k

theorem fire (p : HostPort) (v : Fin 4) : p.Polls (p.fire v) := .ite ⟨rfl⟩ ⟨rfl⟩

theorem poll (p : HostPort) : p.Polls p.poll := by
  have h0 : p.Polls (if p.armed.getLsbD 0 && !p.out.isEmpty then p.fire 0 else p) := .ite (fire p 0) (refl p)
  have h1 : ∀ a : HostPort, a.Polls (if a.armed.getLsbD 1 && a.eventSince then { a.fire 1 with eventSince := false } else a) :=
    fun a => .ite ((fire a 1).trans ⟨rfl⟩) (refl a)
  have h2 : ∀ b : HostPort, b.Polls (if b.armed.getLsbD 2 && b.stat != 0 then b.fire 2 else b) := fun b => .ite (fire b 2) (refl b)
  exact h0.trans ((h1 _).trans (h2 _))

theorem notice (p : HostPort) (code : Nat) : p.Polls (p.notice code) :=
  .ite ((HostPort.Polls.trans (q := { p with eventSince := true }) ⟨rfl⟩ (poll _))) (refl p)

end HostPort.Polls

theorem HostPort.Polls.openCmd {p q : HostPort} (h : p.Polls q) (id : BitVec 16) : q.openCmd id = p.openCmd id := by rw [h.eq]; rfl

theorem State.notify_openCmd (s : State) (p q : HPort) (asked : Bool) (ws : List Word) (id : BitVec 16) :
    ((s.notify p asked ws).port q).openCmd id = (s.port q).openCmd id := by
  unfold State.notify
  split
  · rw [State.port, State.event_ports, Fin.getElem_fin, Vector.getElem_map]
    exact (HostPort.Polls.notice _ _).openCmd id
  · rfl

/-- A final completion that has been posted or is held back leaves its command open no more. -/
theorem HostPort.openCmd_post (q : HostPort) (id : BitVec 16) (ws : List Word) : (q.post (some id) ws).openCmd id = none := by
  unfold HostPort.post
  split
  · rw [(HostPort.Polls.poll _).openCmd, HostPort.openCmd, List.find?_eq_none]
    intro o ho
    have := (List.mem_filter.mp ho).2
    simp_all
  · rw [HostPort.openCmd, List.find?_eq_none]
    simp

theorem State.openCmd_finish (s : State) (p : HPort) (id : BitVec 16) (r : Reply) (flags : Nat) :
    ((s.finish p id r flags).port p).openCmd id = none := by
  unfold State.finish
  split
  · rw [State.notify_openCmd, State.onPort_self, HostPort.openCmd_post]
  · next h =>
    rw [State.onPort_self]
    exact h

/-- No interim completion follows a final one. -/
theorem State.interim_finish (s : State) (p : HPort) (id : BitVec 16) (r : Reply) : (s.finish p id r).interim p id = s.finish p id r := by
  rw [State.interim, s.openCmd_finish p id r 0]

theorem State.onPort_congr (s : State) (p : HPort) {f g : HostPort → HostPort} (h : f (s.port p) = g (s.port p)) :
    s.onPort p f = s.onPort p g := congrArg (fun q => ({ s with ports := s.ports.set p q } : State)) h

theorem completionPosted : Claim.CompletionPosted := by
  unfold Claim.CompletionPosted
  intro s p id r
  refine ⟨fun h => ?_, s.interim_finish p id r, fun o h => ?_⟩
  · rw [State.finish, h]
  · intro header ws room t
    have hws : completion o.cls o.op o.tag 0 r = ws := rfl
    have ht : s.onPort p (·.post (some id) ws) = t := s.onPort_congr p (by
      have hroom : ((s.port p).held.isEmpty && decide ((s.port p).out.length + ws.length ≤ 16384)) = true ↔ room := by simp [room]
      exact if_congr hroom rfl rfl)
    rw [State.finish, h]
    dsimp only
    rw [hws, ht]
    rfl

theorem State.refusal_of_boot {s : State} {key : Nat} {ws : List Word} (hb : s.sec.boot ≠ .ready) (hk : key / 256 ≠ 0xF) :
    s.refusal key ws = some (rejected 0xF0) := if_pos ⟨hb, hk⟩

theorem State.refusal_of_known {s : State} {key : Nat} {ws : List Word} {ok : Bool} (hb : s.sec.boot = .ready ∨ key / 256 = 0xF)
    (hok : lengthOk key ws = some ok) : s.refusal key ws =
      if !s.pwr.judged.serves key && !s.pwr.servesQuiesce key ws then some (rejected 0xF1) else if !ok then some (rejected 0xF3) else none := by
  rw [State.refusal, if_neg (by rintro ⟨h1, h2⟩; exact hb.elim h1 h2), hok]

theorem commandsRefused : Claim.CommandsRefused := by
  unfold Claim.CommandsRefused
  intro i key c s hi w q again
  obtain ⟨hkey, hlen⟩ := hostKey_known hi
  refine ⟨fun j hj => ?_, fun hc hup => ?_, fun hc hup ha => ⟨fun ht => ?_, fun ht hl => ?_, fun ht hl => ⟨fun r hr => ?_, fun hr hq => ?_⟩⟩,
    fun a r hc hup ha hn hr => ?_, State.refusal_of_boot, fun hb => ⟨fun h1 h2 => ?_, fun h => ⟨fun hok => ?_, fun hok => ?_⟩⟩⟩
  · rw [exec_of_hostKey hi, exec_of_hostKey hj, hostCmd, hostCmd, List.take_take, Nat.min_self]
  · rw [exec_row hi hc, State.hostRow, hup]
    rfl
  · rw [exec_row hi hc, State.hostRow_arrives _ hup ha, State.header_again ht]
  · rw [exec_row hi hc, State.hostRow_arrives _ hup ha, State.header_full (by simpa [again] using ht) hl]
  · rw [exec_row hi hc, State.hostRow_arrives _ hup ha, State.header_started (by simpa [again] using ht) hl]
    dsimp only
    split
    · rw [State.startCmd_of_some hr]
    · rw [State.received, headKey_cmdHeader hkey hc, hr]
  · rw [exec_row hi hc, State.hostRow_arrives _ hup ha, State.header_started (by simpa [again] using ht) hl]
    dsimp only
    rw [if_neg hq, State.received, headKey_cmdHeader hkey hc, hr]
  · rw [exec_row hi hc, State.hostRow_first _ hup ha hn, State.startCmd_of_some hr]
  · obtain ⟨ok, hok⟩ := Option.isSome_iff_exists.mp (hlen c.words)
    rw [State.refusal_of_known hb hok, h1, h2]
    rfl
  · rw [State.refusal_of_known hb hok, if_neg (by rcases h with h | h <;> simp [h])]
    rfl
  · rw [State.refusal_of_known hb hok, if_neg (by rcases h with h | h <;> simp [h])]
    rfl

/-- Settles O49: how a completion is posted, and the refusals of a command in their order. -/
theorem commandsStartAndEnd : Obligations.CommandsStartAndEnd := ⟨completionPosted, commandsRefused⟩

/-! ### Configuration transactions (R521 to R525) -/

namespace State.Takes
variable {s u : State} (h : s.Takes u)
include h

theorem nonce : u.nonce = s.nonce := by rw [h.eq]
theorem mem : u.mem = s.mem := by rw [h.eq]
theorem glob : u.glob = s.glob := by rw [h.eq]
theorem parts : u.parts = s.parts := by rw [h.eq]
theorem cls : u.cls = s.cls := by rw [h.eq]
theorem rgs : u.rgs = s.rgs := by rw [h.eq]
theorem run : u.run = s.run := by rw [h.eq]
theorem fab : u.fab = s.fab := by rw [h.eq]
theorem hlt : u.hlt = s.hlt := by rw [h.eq]
theorem txn : u.txn = s.txn := by rw [h.eq]
theorem sec : u.sec = s.sec := by rw [h.eq]
theorem pwr : u.pwr = s.pwr := by rw [h.eq]
theorem perf : u.perf = s.perf := by rw [h.eq]
theorem events : u.events = s.events := by rw [h.eq]
theorem evtSeq : u.evtSeq = s.evtSeq := by rw [h.eq]

end State.Takes

theorem State.notMine_of_none {s : State} (p : HPort) (h : s.txn = none) : s.notMine p = some (rejected 5) := by rw [State.notMine, h]; rfl

theorem State.notMine_of_other {s : State} {p : HPort} {x : Txn} (h : s.txn = some x) (hp : x.owner ≠ p) :
    s.notMine p = some { status := 0x11 } := by
  rw [State.notMine, h]
  exact if_neg hp

theorem State.notMine_of_own {s : State} {p : HPort} {x : Txn} (h : s.txn = some x) (hp : x.owner = p) : s.notMine p = none := by
  rw [State.notMine, h]
  exact if_pos hp

/-- A set, a commit or a rollback of a port that is barred answers why. -/
theorem State.txn_barred {s : State} {p : HPort} {r : Reply} (h : s.notMine p = some r) (id : BitVec 16) (ws : List Word) :
    s.cfgSet p id ws = s.finish p id r ∧ s.cfgCommit p id = s.finish p id r ∧ s.cfgRollback p id = s.finish p id r := by
  refine ⟨?_, ?_, ?_⟩
  · rw [State.cfgSet, h]
  · rw [State.cfgCommit, h]
  · rw [State.cfgRollback, h]

/-- The three of them while the transaction commits. -/
theorem State.txn_committing {s : State} {p : HPort} {x : Txn} {b : BitVec 16} (h : s.txn = some x) (hp : x.owner = p) (hb : x.commit = some b)
    (id : BitVec 16) (ws : List Word) : s.cfgSet p id ws = s.finish p id (rejected 6) ∧ s.cfgCommit p id = s.finish p id (rejected 6) ∧
      s.cfgRollback p id = s.finish p id (rejected 6) := by
  refine ⟨?_, ?_, ?_⟩
  · have hd : s.setDetail x (ws.headD 0) ws.tail = 6 := if_pos (by rw [hb]; rfl)
    rw [State.cfgSet, State.notMine_of_own h hp, h]
    dsimp only
    rw [hd]
    rfl
  · rw [State.cfgCommit, State.notMine_of_own h hp, h]
    exact if_pos (by rw [hb]; rfl)
  · rw [State.cfgRollback, State.notMine_of_own h hp, h]
    exact if_pos (by rw [hb]; rfl)

theorem mem_stagedOf {a : Nat} {vs : List Word} {y : StagedWord} (h : y ∈ stagedOf a vs) : ∃ k, k < vs.length ∧ y.addr = a + 8 * k := by
  obtain ⟨⟨v, k⟩, hk, rfl⟩ := List.mem_map.mp h
  exact ⟨k, List.snd_lt_of_mem_zipIdx hk |>.trans_eq (by simp), rfl⟩

theorem stagedOf_mem {a : Nat} {vs : List Word} {k : Nat} (h : k < vs.length) : { addr := a + 8 * k, value := vs[k] } ∈ stagedOf a vs :=
  List.mem_map.mpr ⟨(vs[k], k), by simp [List.mem_zipIdx_iff_getElem?, h], rfl⟩

/-- The DETAIL of a word that may be set. -/
theorem State.wordDetail_of_settable {s t : State} {y : StagedWord} (h : settable y.addr = true) :
    s.wordDetail t y = if s.fieldBad t y.addr y.value then 2 else if s.stateBad y.addr y.value then 3 else 0 :=
  if_neg (by rw [h]; decide)

/-- Of words that may all be set, the DETAIL names a field that is bad before a state that is. -/
theorem State.worst_detail {s t : State} {ws : List StagedWord} (h : ∀ y ∈ ws, settable y.addr = true) :
    (if (ws.map (s.wordDetail t)).contains 2 then 2 else if (ws.map (s.wordDetail t)).contains 3 then 3 else 0) =
      if ∃ y ∈ ws, s.fieldBad t y.addr y.value = true then 2 else if ∃ y ∈ ws, s.stateBad y.addr y.value = true then 3 else 0 := by
  have h2 : (ws.map (s.wordDetail t)).contains 2 = true ↔ ∃ y ∈ ws, s.fieldBad t y.addr y.value = true := by
    simp only [List.contains_iff_mem, List.mem_map]
    refine exists_congr fun y => and_congr_right fun hy => ?_
    rw [State.wordDetail_of_settable (h y hy)]
    split
    · next hf => simp [hf]
    · next hf =>
      split <;> simp [hf]
  rw [if_congr h2 rfl rfl]
  by_cases hf : ∃ y ∈ ws, s.fieldBad t y.addr y.value = true
  · rw [if_pos hf, if_pos hf]
  · rw [if_neg hf, if_neg hf]
    have h3 : (ws.map (s.wordDetail t)).contains 3 = true ↔ ∃ y ∈ ws, s.stateBad y.addr y.value = true := by
      simp only [List.contains_iff_mem, List.mem_map]
      refine exists_congr fun y => and_congr_right fun hy => ?_
      rw [State.wordDetail_of_settable (h y hy), if_neg fun hb => hf ⟨y, hy, hb⟩]
      split <;> simp_all
    rw [if_congr h3 rfl rfl]

/-- What a CFG_SET into an open transaction answers. -/
theorem State.setDetail_open {s : State} {x : Txn} (hx : x.commit = none) (w : Word) (vs : List Word) :
    s.setDetail x w vs = if fld w 48 8 = 0 ∨ 32 < fld w 48 8 then 4 else if !settable (fld w 0 48) then 1
      else if (stagedOf (fld w 0 48) vs).any fun y => !settable y.addr then 4
      else if ((stagedOf (fld w 0 48) vs).map (s.wordDetail (s.withStaged (x.staged ++ stagedOf (fld w 0 48) vs)))).contains 2 then 2
      else if ((stagedOf (fld w 0 48) vs).map (s.wordDetail (s.withStaged (x.staged ++ stagedOf (fld w 0 48) vs)))).contains 3 then 3
      else 0 := if_neg (by rw [hx]; decide)

theorem configCommands : Claim.ConfigCommands := by
  unfold Claim.ConfigCommands
  intro c s w a n
  refine ⟨completes_of rfl fun u id hu => ?_, fun i key hi => ⟨fun hn => ?_, fun x hx hp => ?_, fun x b hx hp hb => ?_⟩,
    fun x hx hp hc => ⟨completes_of rfl fun u id hu => ?_, fun hn => ?_, fun h1 h2 hs => ?_, fun h1 h2 hs ⟨k, hk, hu⟩ => ?_,
      fun h1 h2 hs hall => ?_, completes_of rfl fun u id hu => ?_, completes_of rfl fun u id hu => ?_⟩, completes_of rfl fun u id hu => rfl⟩
  · change u.cfgBegin c.port id = _
    rw [State.cfgBegin]
    cases ht : u.txn <;> rfl
  · obtain ⟨rfl, rfl⟩ | ⟨rfl, rfl⟩ | ⟨rfl, rfl⟩ := hi <;> refine completes_of rfl fun u id hu => ?_
    · exact (State.txn_barred (State.notMine_of_none c.port (hu.txn.trans hn)) id c.words).1
    · exact (State.txn_barred (State.notMine_of_none c.port (hu.txn.trans hn)) id c.words).2.1
    · exact (State.txn_barred (State.notMine_of_none c.port (hu.txn.trans hn)) id c.words).2.2
  · obtain ⟨rfl, rfl⟩ | ⟨rfl, rfl⟩ | ⟨rfl, rfl⟩ := hi <;> refine completes_of rfl fun u id hu => ?_
    · exact (State.txn_barred (State.notMine_of_other (hu.txn.trans hx) hp) id c.words).1
    · exact (State.txn_barred (State.notMine_of_other (hu.txn.trans hx) hp) id c.words).2.1
    · exact (State.txn_barred (State.notMine_of_other (hu.txn.trans hx) hp) id c.words).2.2
  · obtain ⟨rfl, rfl⟩ | ⟨rfl, rfl⟩ | ⟨rfl, rfl⟩ := hi <;> refine completes_of rfl fun u id hu => ?_
    · exact (State.txn_committing (hu.txn.trans hx) hp hb id c.words).1
    · exact (State.txn_committing (hu.txn.trans hx) hp hb id c.words).2.1
    · exact (State.txn_committing (hu.txn.trans hx) hp hb id c.words).2.2
  · change u.cfgSet c.port id c.words = _
    rw [State.cfgSet, State.notMine_of_own (hu.txn.trans hx) hp, hu.txn.trans hx]
    exact (ite_not ..)
  · rw [State.setDetail_open hc]
    exact if_pos hn
  · rw [State.setDetail_open hc, if_neg (by change ¬ (n = 0 ∨ 32 < n); omega)]
    exact if_pos (by rw [show settable (fld w 0 48) = false from hs]; rfl)
  · rw [State.setDetail_open hc, if_neg (by change ¬ (n = 0 ∨ 32 < n); omega), if_neg (by rw [show settable (fld w 0 48) = true from hs]; decide)]
    refine if_pos (List.any_eq_true.mpr ⟨_, stagedOf_mem hk, ?_⟩)
    rw [show settable (fld w 0 48 + 8 * k) = false from hu]
    rfl
  · have hset : ∀ y ∈ stagedOf a c.words.tail, settable y.addr = true := fun y hy => by
      obtain ⟨k, hk, he⟩ := mem_stagedOf hy
      rw [he]
      exact hall k hk
    intro ws t
    rw [State.setDetail_open hc, if_neg (by change ¬ (n = 0 ∨ 32 < n); omega), if_neg (by rw [show settable (fld w 0 48) = true from hs]; decide),
      if_neg (by
        rw [List.any_eq_true]
        rintro ⟨y, hy, hb⟩
        rw [hset y hy] at hb
        exact absurd hb (by decide))]
    exact State.worst_detail hset
  · change u.cfgCommit c.port id = _
    rw [State.cfgCommit, State.notMine_of_own (hu.txn.trans hx) hp, hu.txn.trans hx]
    exact if_neg (by rw [hc]; decide)
  · change u.cfgRollback c.port id = _
    rw [State.cfgRollback, State.notMine_of_own (hu.txn.trans hx) hp, hu.txn.trans hx]
    exact if_neg (by rw [hc]; decide)

theorem transactionsEnd : Claim.TransactionsEnd := by
  unfold Claim.TransactionsEnd
  intro s
  have ha : exec .cfgApply s = .next (if s.canApply then s.applyLate else s) := rfl
  have ht : exec .cfgIdleTimeout s = .next (s.rollback 1) := rfl
  refine ⟨fun x => ⟨rfl, rfl⟩, fun h => ?_, fun h => ?_, fun x hx => ⟨fun id hid hcan => ?_, fun hc => ?_⟩⟩
  · rw [ha]
    obtain h | h | ⟨x, hx, hc⟩ := h
    · rw [h]
      rfl
    · rw [State.applyLate, h]
      exact congrArg _ (ite_self s)
    · rw [State.applyLate, hx]
      dsimp only
      rw [hc]
      exact congrArg _ (ite_self s)
  · rw [ht]
    obtain h | ⟨x, b, hx, hb⟩ := h
    · rw [State.rollback, h]
    · rw [State.rollback, hx]
      exact congrArg _ (if_pos (by rw [hb]; rfl))
  · intro q tag
    rw [ha, hcan, State.applyLate, hx]
    dsimp only
    rw [hid]
    rfl
  · have hr : s.rollback 1 = ({ s with txn := none } : State).event fromMarkhor 0x41 [packBits [(1, 0), (x.owner.val, 16)]] := by
      rw [State.rollback, hx]
      exact if_neg (by rw [hc]; decide)
    refine ⟨s.rollback 1, ht, ?_⟩
    rw [hr]
    exact ⟨rfl, (State.event_logged { s with txn := none } _ _ _ _).congr rfl rfl rfl, rfl, rfl, rfl⟩

/-- Settles O50: the commands on transactions, and how one ends. -/
theorem transactions : Obligations.Transactions := ⟨configCommands, transactionsEnd⟩

/-! ### DMA copies (R519) -/

theorem State.Takes.reach {s u : State} (h : s.Takes u) (a : Nat) : u.reach a = s.reach a := by
  rw [h.eq]
  rfl

/-- A range within one that has a target, reached where it is tile memory. -/
theorem copyTargets_iff {s : State} {dev hi : Nat} :
    (oneRange dev hi = true ∧ (match rangeOf dev with | .tile _ => s.reach dev == .reached | _ => true) = true) ↔
      oneRange dev hi = true ∧ ((rangeOf dev = .hbm ∨ rangeOf dev = .far) ∨ s.reach dev = .reached) := by
  refine and_congr_right fun h => ?_
  unfold oneRange at h
  cases hr : rangeOf dev <;> simp_all

theorem Memory.write_ue (m : Memory) (ws : List WByte) : (m.write ws).ue = m.ue :=
  foldl_keeps (q := fun n : Memory => n.ue = m.ue) (f := fun n (w : WByte) => n.set w.addr (w.apply (n.get w.addr))) (fun _ _ h => h) ws rfl

/-- Writing in pieces, where no sector is uncorrectable, keeps every byte outside the pieces. -/
def State.SameOutside (s t : State) (lo hi : Nat) : Prop :=
  t.ports = s.ports ∧ t.mem.ue = s.mem.ue ∧ t.mem.wf = true ∧ ∀ a, a < lo ∨ hi ≤ a → t.mem.get a = s.mem.get a

theorem State.SameOutside.refl {s : State} (h : s.mem.wf = true) (lo hi : Nat) : s.SameOutside s lo hi := ⟨rfl, rfl, h, fun _ _ => rfl⟩

theorem State.SameOutside.trans {s t u : State} {lo hi : Nat} (h : s.SameOutside t lo hi) (k : t.SameOutside u lo hi) : s.SameOutside u lo hi := by
  obtain ⟨hp, hu, -, hg⟩ := h
  obtain ⟨kp, ku, kw, kg⟩ := k
  exact ⟨kp.trans hp, ku.trans hu, kw, fun a ha => (kg a ha).trans (hg a ha)⟩

theorem State.SameOutside.mono {s t : State} {lo hi lo' hi' : Nat} (h : s.SameOutside t lo hi) (hlo : lo' ≤ lo) (hhi : hi ≤ hi') :
    s.SameOutside t lo' hi' := by
  obtain ⟨hp, hu, hw, hg⟩ := h
  exact ⟨hp, hu, hw, fun a ha => hg a (by omega)⟩

theorem State.sameOutside_busWrite {s : State} (hue : s.mem.ue = []) (hwf : s.mem.wf = true) (cls : Nat → Nat) {ws : List WByte} {lo hi : Nat}
    (h : ∀ w ∈ ws, lo ≤ w.addr ∧ w.addr < hi) : s.SameOutside (s.busWrite cls ws) lo hi := by
  obtain ⟨hm, hf, -⟩ := State.busWrite_of_clean hue cls ws
  refine ⟨by rw [hf], ?_, ?_, fun a ha => ?_⟩
  · rw [hm, Memory.write_ue]
  · rw [hm]
    exact Memory.write_wf ws hwf
  · rw [hm]
    exact Memory.get_write_other hwf _ _ fun w hw => by have := h w hw; omega

/-- The pieces of a stretch lie in it. -/
theorem mem_pagesOf {a n : Nat} {g : Nat × Nat × Nat} (h : g ∈ pagesOf a n) : a ≤ g.1 ∧ g.1 + g.2.2 ≤ a + n ∧ 1 ≤ g.2.2 := by
  obtain ⟨hg, hne⟩ := List.mem_filter.mp h
  obtain ⟨k, -, rfl⟩ := List.mem_map.mp hg
  simp only [bne_iff_ne, ne_eq] at hne ⊢
  omega

/-- A stretch of bytes that a copy brings, page by page as far as there is a target. -/
def State.putBytes (s : State) (a : Nat) (bs : List Byte) : State :=
  (pagesOf a bs.length).foldl (fun s g =>
    if s.reach g.1 = .reached then s.busWrite hostClass (writesAt g.1 ((bs.drop g.2.1).take g.2.2)) else s.noTarget g.1) s

theorem State.noTarget_ports (s : State) (a : Nat) : (s.noTarget a).ports = s.ports := by
  unfold State.noTarget
  split <;> rfl

theorem foldl_keeps_mem {α β : Type} {q : β → Prop} {f : β → α → β} {xs : List α} (h : ∀ b a, a ∈ xs → q b → q (f b a)) {b : β} (hb : q b) :
    q (xs.foldl f b) := by
  induction xs generalizing b with
  | nil => exact hb
  | cons x xs ih => exact ih (fun b a ha => h b a (List.mem_cons_of_mem x ha)) (h b x List.mem_cons_self hb)

theorem State.sameOutside_putBytes {s : State} (hue : s.mem.ue = []) (hwf : s.mem.wf = true) (a : Nat) (bs : List Byte) :
    s.SameOutside (s.putBytes a bs) a (a + bs.length) := by
  refine foldl_keeps_mem (q := fun t => s.SameOutside t a (a + bs.length)) (fun t g hg h => h.trans ?_) (.refl hwf _ _)
  obtain ⟨hlo, hhi, -⟩ := mem_pagesOf hg
  obtain ⟨-, hu, hw, -⟩ := h
  split
  · refine (State.sameOutside_busWrite (hu.trans hue) hw _ fun w hw => ?_)
    have := addr_of_mem_writesAt hw
    have := List.length_take_le g.2.2 (bs.drop g.2.1)
    omega
  · exact ⟨t.noTarget_ports _, by rw [State.noTarget_mem], by rw [State.noTarget_mem]; exact hw, fun b _ => by rw [State.noTarget_mem]⟩

/-- A copy from the host that has ended. -/
theorem State.copyIn_eq (s : State) (p : HPort) (c : Copy) (data : List Byte) :
    s.copyIn p c data none = (s.putBytes c.device (data.take c.len)).finish p c.tag { words := [BitVec.ofNat 64 c.len] } ∧
    ∀ o, s.copyIn p c data (some o) =
      ((s.putBytes c.device (data.take o)).putBytes (c.device + (o + (c.len - data.length))) (data.drop o)).finish p c.tag
        { status := 1, words := [BitVec.ofNat 64 data.length, BitVec.ofNat 64 (c.device + o)] } := ⟨rfl, fun _ => rfl⟩

/-- A running copy that ends. -/
theorem exec_dmaCopyDone {s : State} {p : HPort} {k : Fin 4} {x : Copy} (hx : ((s.port p).copies.take 4)[k.val]? = some x)
    (data : List Byte) (bad : Option Nat) : exec (.dmaCopyDone p k data bad) s = .next (
      if s.copyWaits x then s
      else if x.read then (s.onPort p (·.dropCopy x)).copyOut p x
      else match bad with
        | none => if data.length < x.len then s else (s.onPort p (·.dropCopy x)).copyIn p x data none
        | some o => if data.length < x.len ∧ o ≤ data.length then (s.onPort p (·.dropCopy x)).copyIn p x data (some o) else s) := by
  change execDmaCopyDone p k data bad s = _
  rw [execDmaCopyDone, hx] <;> rfl

/-- Settles O48: a copy is refused or waits for an engine, and what one that has ended leaves. -/
theorem dmaCopies : Obligations.DmaCopies := by
  unfold Obligations.DmaCopies
  intro host s
  refine ⟨fun c => ?_, fun p k data bad => ?_⟩
  · intro dev len targets
    have hbody : ∀ u id, s.Takes u → hostBody 0x301 u c.port id c.words = if ¬ targets then u.finish c.port id (rejected 1)
        else u.onPort c.port fun q => { q with
          copies := q.copies ++ [{ tag := id, host := arg c.words 1, device := dev, len := len, read := (arg c.words 3).getLsbD 63 }] } := by
      intro u id hu
      change u.dmaCopyCmd c.port id c.words = _
      rw [State.dmaCopyCmd]
      refine if_congr ?_ rfl rfl
      rw [hu.reach]
      have h := copyTargets_iff (s := s) (dev := dev) (hi := dev + len - 1)
      change _ ↔ ¬ (len ≠ 0 ∧ _ ∧ _)
      rw [← h, Bool.not_eq_true', Bool.not_eq_true', not_and_or, not_and_or, not_ne_iff, Bool.not_eq_true, Bool.not_eq_true] <;> rfl
    refine ⟨fun h => completes_of rfl fun u id hu => ?_, fun h => completes_of rfl fun u id hu => ?_⟩
    · rw [hbody u id hu, if_neg (not_not_intro h)]
    · rw [hbody u id hu, if_pos h]
  intro its
  refine ⟨fun h => ?_, fun x hx => ?_⟩
  · change execDmaCopyDone p k data bad s = _
    rw [execDmaCopyDone, show ((s.port p).copies.take 4)[k.val]? = none from h]
  intro t marked whole failed
  have hx' := exec_dmaCopyDone hx data bad
  have hwhole : s.copyWaits x = false → x.read = false → whole → exec (.dmaCopyDone p k data bad) s =
      .next ((t.putBytes x.device (data.take x.len)).finish p x.tag { words := [BitVec.ofNat 64 x.len] }) := by
    intro hw hr h
    obtain ⟨hb, hl⟩ : bad = none ∧ x.len ≤ data.length := h
    rw [hx', hw, hr, hb, ← (t.copyIn_eq p x data).1]
    exact congrArg _ (if_neg (Nat.not_lt.mpr hl))
  have hfailed : ∀ b, s.copyWaits x = false → x.read = false → failed → bad = some b → exec (.dmaCopyDone p k data bad) s =
      .next (((t.putBytes x.device (data.take b)).putBytes (x.device + (b + (x.len - data.length))) (data.drop b)).finish p x.tag
        { status := 1, words := [BitVec.ofNat 64 data.length, BitVec.ofNat 64 (x.device + b)] }) := by
    intro b hw hr h hb
    obtain ⟨b', hb', hl, hle⟩ : ∃ b, bad = some b ∧ data.length < x.len ∧ b ≤ data.length := h
    obtain rfl : b = b' := Option.some.inj (hb.symm.trans hb')
    rw [hx', hw, hr, hb, ← (t.copyIn_eq p x data).2]
    exact congrArg _ (if_pos (And.intro hl hle))
  have hout : s.copyWaits x = false → x.read = true → exec (.dmaCopyDone p k data bad) s = .next (t.copyOut p x) := by
    intro hw hr
    rw [hx', hw, hr]
    rfl
  refine ⟨fun h => ?_, fun hw hr => ?_, fun hw hr hwh hl hpage hre => ?_, fun hw hr hwf => ?_⟩
  · rw [hx']
    obtain h | ⟨hr, hnw, hnf⟩ := h
    · exact congrArg _ (if_pos h)
    · rw [hr]
      refine congrArg _ ((if_congr Iff.rfl rfl ?_).trans (ite_self s))
      cases hb : bad with
      | none => exact if_pos (Nat.not_le.mp fun hl => hnw ⟨hb, hl⟩)
      | some o => exact if_neg fun ho => hnf ⟨o, hb, ho⟩
  · intro v
    refine ⟨fun hm => ?_, fun b rest hm => ?_, fun hm b => ?_⟩
    · rw [hout hw hr, State.copyOut]
      split
      · rfl
      · next h => cases h.symm.trans hm
    · rw [hout hw hr, State.copyOut]
      split
      · next h => cases h.symm.trans hm
      · next h =>
        cases h.symm.trans hm
        rfl
    · refine foldl_keeps (q := fun v : State => ∀ b, v.mem.get b = s.mem.get b) (b := t) (fun v g h b => ?_) (pagesOf x.device x.len)
        (fun _ => rfl) b
      split
      · rw [State.busRead_get, h]
      · rw [State.noTarget_mem, h]
  · have hone : pagesOf x.device (data.take x.len).length = [(x.device, 0, (data.take x.len).length)] := by
      have : (data.take x.len).length = x.len := List.length_take_of_le hwh.2
      exact pagesOf_of_one (by omega) (by omega)
    rw [hwhole hw hr hwh, State.putBytes, hone]
    refine congrArg (fun v : State => Host.Outcome.next (v.finish p x.tag { words := [BitVec.ofNat 64 x.len] })) ((if_pos hre).trans ?_)
    dsimp only
    rw [List.drop_zero, List.take_length]
    rfl
  · by_cases hwh : whole
    · refine ⟨t.putBytes x.device (data.take x.len), hwhole hw hr, fun b hf hb => ?_, fun hue hmw => ?_⟩
      · rw [hwh.1] at hb
        cases hb
      · obtain ⟨hp, -, -, hg⟩ := t.sameOutside_putBytes hue hmw x.device (data.take x.len)
        have := List.length_take_le x.len data
        exact ⟨hp, fun a ha => hg a (by omega)⟩
    · obtain ⟨b, hb, hl, hle⟩ := hwf.resolve_left hwh
      refine ⟨(t.putBytes x.device (data.take b)).putBytes (x.device + (b + (x.len - data.length))) (data.drop b), fun h => absurd h hwh,
        fun b' hf hb' => ?_, fun hue hmw => ?_⟩
      · obtain rfl : b = b' := Option.some.inj (hb.symm.trans hb')
        exact hfailed b hw hr hf hb
      · have h1 := t.sameOutside_putBytes hue hmw x.device (data.take b)
        have h2 := (t.putBytes x.device (data.take b)).sameOutside_putBytes (h1.2.1.trans hue) h1.2.2.1
          (x.device + (b + (x.len - data.length))) (data.drop b)
        have := List.length_take_le b data
        have := List.length_drop (i := b) (l := data)
        obtain ⟨hp, -, -, hg⟩ := (h1.mono (lo' := x.device) (hi' := x.device + x.len) (by omega) (by omega)).trans
          (h2.mono (by omega) (by omega))
        exact ⟨hp, hg⟩

/-! ### Register writes from outside (R18, R21, R499, R629) -/

theorem msixMask_reserved {i : Nat} (h : i < 2 ∨ 97 ≤ i) : msixMask.getLsbD i = false := by
  have e : (2 ^ 97 - 4 : Nat) = (2 ^ 95 - 1) <<< 2 := by decide
  rw [msixMask, BitVec.getLsbD_ofNat, e, Nat.testBit_shiftLeft, Nat.testBit_two_pow_sub_one]
  rcases h with h | h
  · simp only [Bool.and_eq_false_imp]
    intro _
    simp
    omega
  · simp
    omega

/-- What a write to the MSI-X table leaves in it. -/
theorem HostPort.writeMsix_msix (q : HostPort) {k : Nat} {v : Fin 4} (w : Word) (h : k / 16 % 4 = v.val) :
    (q.writeMsix k w).msix = q.msix.set v (BitVec.ofNat 128 (setBits q.msix[v] (64 * (k / 8 % 2)) 64 w.toNat).toNat &&& msixMask) := by
  obtain rfl : v = ⟨k / 16 % 4, Nat.mod_lt _ (by decide)⟩ := Fin.ext h.symm
  rw [HostPort.writeMsix]
  dsimp only
  split <;> rfl

/-- A field that a word holds alone reads as itself. -/
theorem fld_pack_one {v lo n : Nat} (hv : v < 2 ^ n) (hn : lo + n ≤ 64) : fld (packBits [(v, lo)]) lo n = v := by
  have hlt : v * 2 ^ lo < 2 ^ 64 := calc
    v * 2 ^ lo < 2 ^ n * 2 ^ lo := Nat.mul_lt_mul_of_pos_right hv (Nat.two_pow_pos lo)
    _ = 2 ^ (lo + n) := by rw [← Nat.pow_add, Nat.add_comm]
    _ ≤ 2 ^ 64 := Nat.pow_le_pow_right (by decide) hn
  rw [fld, packBits, List.foldl_cons, List.foldl_nil, BitVec.toNat_ofNat, Nat.zero_add, Nat.mod_eq_of_lt hlt,
    Nat.mul_div_cancel _ (Nat.two_pow_pos lo), Nat.mod_eq_of_lt hv]

/-- The registers of BAR0 that hold what a port has. -/
theorem State.bar0Read_spec (s : State) (p : HPort) : s.bar0Read p 0x1008 = BitVec.ofNat 64 (s.port p).out.length ∧
    s.bar0Read p 0x1010 = BitVec.ofNat 64 (8192 - (s.port p).fifo.length) ∧ s.bar0Read p 0x1018 = (s.port p).stat.zeroExtend 64 ∧
    s.bar0Read p 0x1028 = packBits [((s.port p).winBase.toNat, 30)] ∧ s.bar0Read p 0x1038 = BitVec.ofNat 64 (s.port p).outstanding.length ∧
    s.bar0Read p 0x1040 = s.evtSeq - 1 ∧ s.bar0Read p 0x1020 = 0 := by
  simp [State.bar0Read, fifoWords]

/-- MBX_IN reads as zero. -/
theorem State.bar0Read_mbxIn (s : State) (p : HPort) {k : Nat} (h : k < 0x1000) : s.bar0Read p k = 0 := by
  rw [State.bar0Read, if_neg (by omega), if_neg (by omega), if_neg (by omega), if_neg (by omega), if_neg (by omega), if_neg (by omega),
    if_neg (by omega), if_neg (by omega), if_neg (by omega)]

theorem registerWrites : Claim.RegisterWrites := by
  unfold Claim.RegisterWrites
  intro p s w a more o sizeErr
  have hex : ∀ x, exec (.registerWrite x a w) s = execRegisterWrite x a w s := fun _ => rfl
  have hbar : s.portUp p = true → ∀ more, exec (.registerWrite (.bar0 p more) a w) s = .next (s.bar0Access p o (w :: more)) := fun h more => by
    rw [hex, execRegisterWrite]
    exact congrArg _ (if_neg (by rw [h]; decide))
  refine ⟨fun h => ⟨?_, ?_, ?_⟩, fun h => ?_, fun h hx => ?_, fun h ho hm hl => ?_, fun h ho => ?_, fun q k v hk => ⟨fun i hi => ?_, fun u hu => ?_⟩,
    ?_, rfl, ?_, fun h => ?_⟩
  · rw [hex, execRegisterWrite, h]
    rfl
  · rw [hex, execRegisterWrite, h]
    rfl
  · exact if_pos (by rw [h]; rfl)
  · rw [hex, execRegisterWrite, h]
    rfl
  · rw [hbar h]
    cases more with
    | nil => exact congrArg _ (if_neg (hx.resolve_right fun e => e.1 rfl))
    | cons y ys =>
      refine congrArg _ (if_neg fun ⟨h1, h2⟩ => ?_)
      obtain hx | ⟨-, hx⟩ := hx
      · exact hx h1
      · simp only [List.length_cons] at h2 hx
        omega
  · rw [hbar h]
    cases more with
    | nil => exact absurd rfl hm
    | cons y ys =>
      have hw : ∀ (t : State) x, t.bar0Write p o x = (t.wordIn p x).frameAll p := fun t x => if_pos (by
        simp only [List.length_cons] at hl
        omega)
      refine congrArg _ ((if_pos ⟨ho, hl⟩).trans ?_)
      simp only [hw]
  · rw [hbar h]
    exact congrArg _ (if_pos ho)
  · rw [q.writeMsix_msix w hk, Fin.getElem_fin, Vector.getElem_set_self, BitVec.getLsbD_and, msixMask_reserved hi, Bool.and_false]
  · rw [q.writeMsix_msix w hk]
    exact Vector.getElem_set_ne _ _ fun e => hu (Fin.ext e.symm)
  · obtain ⟨h1, h2, h3, h4, h5, h6, h7⟩ := s.bar0Read_spec p
    refine ⟨h1, h2, h3, ?_, h5, h6, h7, fun k hk => s.bar0Read_mbxIn p hk⟩
    rw [h4]
    exact fld_pack_one (s.port p).winBase.isLt (by decide)
  · rw [hex, execRegisterWrite]
  · have hm : exec (.bar0MissizedRead p) s = .next ((s.onPort p fun q => { q with reply := { data := List.replicate 8 0 } }).mbxStat p 2) :=
      if_neg (by rw [h]; decide)
    have hport : ((s.onPort p fun q => { q with reply := { data := List.replicate 8 0 } }).mbxStat p 2).port p =
        ({ s.port p with reply := { data := List.replicate 8 0 }, stat := (s.port p).stat ||| 4#6 } : HostPort).poll := by
      rw [State.mbxStat, State.onPort_self, State.onPort_self]
      rfl
    refine ⟨_, hm, ⟨rfl, fun q hq => ?_⟩, ?_, ?_⟩
    · rw [State.mbxStat, State.onPort_other (h := hq), State.onPort_other (h := hq)]
    · rw [hport]
      exact (HostPort.Posts.refl _).poll.stat
    · rw [hport]
      exact (HostPort.Posts.refl _).poll.reply

/-! ### Hosts lost and port resets (R534 to R537) -/

theorem State.setHost_of_ne {s : State} {p : HPort} {h : HostState} (hne : (s.port p).host ≠ h) :
    s.setHost p h = (s.onPort p fun q => { q with host := h }).event (fromPort p) 0x50 [packBits [(p.val, 0), (h.code, 1)]] := if_neg hne

theorem State.event_port (s : State) (src : Source) (code : Nat) (d : List Word) (st : Nat) (p : HPort) :
    (s.event src code d st).port p = (s.port p).notice code := by
  rw [State.port, State.event_ports, Fin.getElem_fin, Vector.getElem_map]
  rfl

/-- A host's state is set: the port is otherwise as it was, but for its interrupts. -/
theorem State.setHost_port (s : State) (p : HPort) (h : HostState) :
    HostPort.Polls { s.port p with host := h } ((s.setHost p h).port p) := by
  by_cases hh : (s.port p).host = h
  · have e : s.setHost p h = s := if_pos hh
    rw [e, ← hh]
    exact .refl _
  · rw [State.setHost_of_ne hh, State.event_port, State.onPort_self]
    exact .notice _ _

theorem State.setHost_reports (s : State) (p : HPort) (h : HostState) : Reports s (s.setHost p h) :=
  .ite (.refl s) (((Reports.refl s).onPort _ _).event _ _ _ _)

theorem State.rollbackOf_none {s : State} (h : s.txn = none) (p : HPort) (cause : Nat) : s.rollbackOf p cause = s := by
  rw [State.rollbackOf, h]
  rfl

/-- The end of a session changes the security registers alone. -/
theorem State.endSessionOf_eq (s : State) (p : HPort) : ∃ x, s.endSessionOf p = { s with sec := x } ∧ x.debugOpen = s.sec.debugOpen := by
  unfold State.endSessionOf
  split
  · exact ⟨_, rfl, rfl⟩
  · exact ⟨_, rfl, rfl⟩

theorem State.anyReset_of_closed {s : State} (h : s.sec.debugOpen = 0) : ∃ x, s.anyReset = { s with sec := x } := by
  have hc : s.closeScopes = s.onSec fun x => { x with debugOpen := 0 } := by
    rw [State.closeScopes]
    exact if_neg (by rw [h]; decide)
  rw [State.anyReset, hc]
  exact ⟨_, rfl⟩

theorem State.stopCopies_of_nil {s : State} {p : HPort} (h : (s.port p).copies = []) : s.stopCopies p = s := by
  rw [State.stopCopies, h]
  rfl

theorem hostsLost : Claim.HostsLost := by
  unfold Claim.HostsLost
  intro p s
  have hb : exec (.hostHeartbeatTimeout p) s = execHostHeartbeatTimeout p s := rfl
  have hlost : (s.port p).host = .present → s.setHost p .lost =
      (s.onPort p fun q => { q with host := .lost }).event (fromPort p) 0x50 [packBits [(p.val, 0), (2, 1)]] := fun h =>
    State.setHost_of_ne (by rw [h]; decide)
  have hr : ∀ perst, exec (.pciePortReset p perst) s = execPciePortReset p perst s := fun _ => rfl
  refine ⟨fun h => ?_, fun h => ?_, fun h hc ht => ?_, fun c => ?_, fun perst h => ?_, fun perst h => ?_, fun perst h hc ht hd => ?_, rfl⟩
  · rw [hb]
    exact if_neg h
  · intro t
    rw [hb, execHostHeartbeatTimeout, if_pos h, hlost h]
  · have hp := s.setHost_port p .lost
    have hx : exec (.hostHeartbeatTimeout p) s = .next ((s.setHost p .lost).endSessionOf p) := by
      rw [hb, execHostHeartbeatTimeout, if_pos h, State.rollbackOf_none ((s.setHost_reports p .lost).txn.trans ht)]
      dsimp only
      rw [hp.eq]
      dsimp only
      rw [hc]
      rfl
    obtain ⟨x, he, -⟩ := (s.setHost p .lost).endSessionOf_eq p
    refine ⟨_, hx, ?_⟩
    rw [he]
    refine ⟨(congrArg HostPort.host hp.eq :), ?_, (s.setHost_reports p .lost).mem, (s.setHost_reports p .lost).run⟩
    rw [hlost h]
    exact (State.event_logged (s.onPort p fun q => { q with host := .lost }) _ _ _ _).congr rfl rfl rfl
  · refine ⟨(Config.freeWord s.nonce 0).toNat % (c.len + 1), if c.read then s.draw.2.onPort p (·.dropCopy c) else
      { s.draw.2.onPort p (·.dropCopy c) with mem := s.mem.fill c.device ((Config.freeWord s.nonce 0).toNat % (c.len + 1)) (some s.nonce) },
      Nat.lt_succ_iff.mp (Nat.mod_lt _ (Nat.succ_pos _)), rfl, ?_, fun hr => ?_, ?_⟩
    · split <;> rfl
    · rw [hr]
      rfl
    · split <;> rfl
  · rw [hr]
    exact if_pos h
  · intro t
    rw [hr]
    exact if_neg (by rw [h]; decide)
  · have hreset : exec (.pciePortReset p perst) s = .next
        (((s.onPort p (·.resetTo (perst || (s.port p).perst))).setHost p .absent).endSessionOf p).anyReset := by
      rw [hr, execPciePortReset, h]
      dsimp only
      rw [State.stopCopies_of_nil (by rw [State.onPort_self]; exact hc),
        State.rollbackOf_none (((s.onPort p (·.resetTo (perst || (s.port p).perst))).setHost_reports p .absent).txn.trans ht)]
      rfl
    have hrep := (s.onPort p (·.resetTo (perst || (s.port p).perst))).setHost_reports p .absent
    have hp := (s.onPort p (·.resetTo (perst || (s.port p).perst))).setHost_port p .absent
    rw [State.onPort_self] at hp
    generalize hu : (s.onPort p (·.resetTo (perst || (s.port p).perst))).setHost p .absent = u at hreset hrep hp
    obtain ⟨x, he, hx⟩ := u.endSessionOf_eq p
    obtain ⟨y, hy⟩ := State.anyReset_of_closed (s := u.endSessionOf p) (by
      rw [he]
      exact hx.trans ((congrArg Security.debugOpen hrep.sec).trans hd))
    refine ⟨_, hreset, ?_⟩
    rw [hy, he]
    change (u.port p).host = _ ∧ (u.port p).fifo = _ ∧ (u.port p).out = _ ∧ (u.port p).held = _ ∧ (u.port p).ready = _ ∧
      (u.port p).outstanding = _ ∧ (u.port p).frame = _ ∧ (u.port p).stat = _ ∧ (u.port p).winBase = _ ∧ (u.port p).perst = _ ∧
      u.mem = _ ∧ u.run = _
    rw [hp.eq]
    exact ⟨rfl, rfl, rfl, rfl, rfl, rfl, rfl, rfl, rfl, rfl, hrep.mem, hrep.run⟩

/-- Settles O47: writes from outside by their access, and hosts that are lost or reset. -/
theorem registersAndHosts : Obligations.RegistersAndHosts := ⟨registerWrites, hostsLost⟩

/-! ### Commands on registers, graphs and steps (R516 to R520) -/

theorem filterMap_id_of_all {α : Type} {vs : List (Option α)} (h : none ∉ vs) (d : α) : vs.filterMap (fun v => v) = vs.map fun v => v.getD d := by
  induction vs with
  | nil => rfl
  | cons v vs ih =>
    obtain ⟨hv, hvs⟩ := not_or.mp (List.mem_cons.not.mp h)
    cases v with
    | none => exact absurd rfl hv
    | some x => rw [List.filterMap_cons, List.map_cons, ih hvs]; rfl

theorem any_isNone_iff {α : Type} {vs : List (Option α)} : vs.any Option.isNone = true ↔ none ∈ vs := by
  simp [List.any_eq_true, Option.isNone_iff_eq_none]

theorem registerCommands : Claim.RegisterCommands := by
  unfold Claim.RegisterCommands
  intro c s
  refine ⟨?_, ?_⟩
  · intro a n
    refine completes_of rfl fun u id hu => ?_
    change u.regRead c.port id c.words = _
    rw [State.regRead]
    refine if_congr Iff.rfl rfl ?_
    by_cases h : none ∈ (List.range n).map fun i => u.liveReg (a + 8 * i)
    · exact (if_pos (any_isNone_iff.mpr h)).trans (if_pos h).symm
    · refine ((if_neg (by rw [any_isNone_iff]; exact h)).trans ?_).trans (if_neg h).symm
      rw [filterMap_id_of_all h]
  · intro a
    refine completes_of rfl fun u id hu => ?_
    change u.statClear c.port id c.words = _
    rw [State.statClear]
    exact if_congr Option.isNone_iff_eq_none rfl rfl

/-- A completion is an event that the health monitor does not count. -/
theorem State.finish_hlt (s : State) (p : HPort) (id : BitVec 16) (r : Reply) (flags : Nat) : (s.finish p id r flags).hlt = s.hlt := by
  unfold State.finish State.notify
  split
  · dsimp only
    split <;> rfl
  · rfl

/-- Steps cut short: the budget is empty, and only completions go out. -/
theorem State.cutWaits_reports (s : State) (ws : List StepWait) : Reports { s with nonce := s.nonce + 1 } (s.cutWaits ws) ∧
    (s.cutWaits ws).hlt = s.hlt := by
  refine ⟨(Reports.refl _).foldl fun t w => t.finish_reports _ _ _ _, ?_⟩
  exact foldl_keeps (q := fun t : State => t.hlt = s.hlt) (fun t w h => (t.finish_hlt _ _ _ _).trans h) ws rfl

theorem State.unloadGraph_spec (u : State) : u.unloadGraph.run.graph = none ∧ u.unloadGraph.run.step = none ∧ u.unloadGraph.run.budget = 0 ∧
    u.unloadGraph.run.waits = [] ∧ u.unloadGraph.mem = u.mem ∧ u.unloadGraph.hlt = u.hlt := by
  obtain ⟨hr, hh⟩ := (u.onRun fun r => { r with budget := 0, waits := [] }).cutWaits_reports u.run.waits
  exact ⟨rfl, rfl, congrArg Run.budget hr.run, congrArg Run.waits hr.run, hr.mem, hh⟩

/-- What bars a graph command (R266, R526). -/
theorem State.graphBarred_spec (s : State) : let busy := (∃ p id a, s.run.placing = some (.load p id a)) ∨ (s.run.graph ≠ none ∧ s.quiesced = false)
    (s.txn ≠ none → s.graphBarred = some { status := 0x11 }) ∧ (s.txn = none → busy → s.graphBarred = some { status := 0x10 }) ∧
      (s.txn = none → ¬ busy → s.graphBarred = none) := by
  intro busy
  have hload : (match s.run.placing with | some (.load _ _ _) => true | _ => false) = true ↔ ∃ p id a, s.run.placing = some (.load p id a) := by
    split
    · next h => simp [h]
    · next h => simpa using h
  have hb : ((match s.run.placing with | some (.load _ _ _) => true | _ => false) || (s.run.graph.isSome && !s.quiesced)) = true ↔ busy := by
    rw [Bool.or_eq_true, hload, Bool.and_eq_true, Option.isSome_iff_ne_none, Bool.not_eq_true']
  refine ⟨fun h => if_pos (Option.isSome_iff_ne_none.mpr h), fun h hx => ?_, fun h hx => ?_⟩
  · exact (if_neg (by rw [h]; decide)).trans (if_pos (hb.mpr hx))
  · exact (if_neg (by rw [h]; decide)).trans (if_neg fun e => hx (hb.mp e))

theorem graphCommands : Claim.GraphCommands := by
  unfold Claim.GraphCommands
  intro c s
  refine ⟨s.graphBarred_spec, ?_, completes_of rfl fun u id hu => rfl, State.unloadGraph_spec, ?_⟩
  · intro addr
    refine completes_of rfl fun u id hu => ?_
    change u.graphLoad c.port id addr (fld (arg c.words 2) 0 48) = _
    rw [State.graphLoad]
    cases u.graphBarred with
    | some r => rfl
    | none => exact ite_not ..
  · intro first n
    refine completes_of rfl fun u id hu => ?_
    change u.placeReportCmd c.port id c.words = _
    rw [State.placeReportCmd, State.placed, State.placeReport]
    rcases hg : u.run.graph with _ | ⟨g, _ | pl⟩
    · exact if_neg (by simp)
    · exact if_neg (by simp)
    · exact if_congr (by simp; rfl) rfl rfl

theorem stepCommands : Claim.StepCommands := by
  unfold Claim.StepCommands
  intro c s n now
  refine ⟨completes_of rfl fun u id hu => ?_, completes_of rfl fun u id hu => rfl, fun hs hn => completes_of rfl fun u id hu => ?_,
    fun h => completes_of rfl fun u id hu => ?_, ?_⟩
  · change u.stepRunCmd c.port id c.words = _
    rw [State.stepRunCmd]
    exact if_congr (by simp) rfl rfl
  · change u.quiesceCmd c.port id c.words = _
    rw [State.quiesceCmd]
    exact if_neg (by rw [show (arg c.words 1).getLsbD 0 = false from hn, hu.run]; simpa using Option.isSome_iff_ne_none.mp hs)
  · change u.quiesceCmd c.port id c.words = _
    rw [State.quiesceCmd]
    refine if_pos ?_
    rw [hu.run, Bool.or_eq_true, Option.isNone_iff_eq_none]
    exact h.symm
  · intro stays ends
    refine ⟨if s.run.crvStep = 0 then Config.freeWord s.nonce 0 else (s.run.crvStep - 1).zeroExtend 64, fun h => if_neg h, rfl, rfl⟩

/-- Settles O51: the commands on registers, graphs and steps, each from the body of its row. -/
theorem registerGraphStepCommands : Obligations.RegisterGraphStepCommands := ⟨registerCommands, graphCommands, stepCommands⟩

/-! ### Commands on solver problems, snapshots and restores (R300 to R302, R327, R471 to R493) -/

theorem State.rg_clearContext (s : State) (k : Nat) (r : Rg) :
    ((s.clearContext k).rg r).nyala.ctxs = smErase (s.rg r).nyala.ctxs k := by
  simp [State.rg, State.clearContext]

theorem solverCommands : Claim.SolverCommands := by
  unfold Claim.SolverCommands
  intro c s slot image
  refine ⟨completes_of rfl fun u id hu => ?_, completes_of rfl fun u id hu => ?_, completes_of rfl fun u id hu => rfl,
    fun u k r => ⟨?_, fun j hj => ?_⟩⟩
  · change u.slvProblemLoad c.port id slot image = _
    rw [State.slvProblemLoad]
    exact if_congr (by simp) rfl rfl
  · change u.slvProblemInfo c.port id slot = _
    rw [State.slvProblemInfo]
    cases smFind u.run.problems slot <;> rfl
  · rw [State.rg_clearContext, smFind_smErase, if_pos rfl]
  · rw [State.rg_clearContext, smFind_smErase, if_neg hj]

namespace State.Takes
variable {s u : State} (h : s.Takes u)
include h

theorem placed : u.placed = s.placed := by rw [State.placed, State.placed, h.run]

theorem quiesced : u.quiesced = s.quiesced := by
  rw [h.eq]
  rfl

theorem lastStep : u.lastStep = s.lastStep := by rw [State.lastStep, State.lastStep, h.run]

theorem sharedImage (g : Package) (pl : Placement) : u.sharedImage g pl = s.sharedImage g pl := by
  rw [h.eq]
  rfl

end State.Takes

/-- VERIFY_START on a placed graph. -/
theorem State.verifyStart_placed {s : State} {g : Package} {pl : Placement} {p : HPort} (hp : s.placed = some (g, pl)) (id : BitVec 16)
    (w : Word) :
    (s.fab.verify.isSome = true → s.verifyStart p id w = s.finish p id rejectedBusy) ∧
    (s.fab.verify = none → s.run.step.isSome = true ∨ s.fab.valid = false → s.verifyStart p id w = s.finish p id (rejected 0)) ∧
    (s.fab.verify = none → s.run.step = none → s.fab.valid = true → s.verifyStart p id w =
      let v : Verify :=
        { port := p, tag := id
          peer := if w.extractLsb' 0 24 = 0 then s.fab.partnerAddr 0 else withEp (w.extractLsb' 0 24) 0
          step := s.lastStep, chunks := (chunksIn (s.sharedImage g pl).length).length }
      if (chunksIn (s.sharedImage g pl).length).length = 0 then s.endVerify v else s.onFab fun f => { f with verify := some v }) := by
  unfold State.verifyStart
  rw [hp]
  refine ⟨fun hv => if_pos hv, fun hv h => ?_, fun hv hs hf => ?_⟩
  · exact (if_neg (by rw [hv]; decide)).trans (if_pos (by rw [Bool.or_eq_true, Bool.not_eq_true']; exact h))
  · exact (if_neg (by rw [hv]; decide)).trans (if_neg (by rw [hs, hf]; decide))

theorem survivalCommands : Claim.SurvivalCommands := by
  unfold Claim.SurvivalCommands
  intro c s refuse w dest
  have hsend : ∀ (u : State) id, hostBody 0x511 u c.port id c.words = u.fillSend c.port id w := fun _ _ => rfl
  refine ⟨completes_of rfl fun u id hu => rfl, completes_of rfl fun u id hu => rfl, completes_of rfl fun u id hu => rfl,
    completes_of rfl fun u id hu => ?_, fun hv => completes_of rfl fun u id hu => ?_, fun hk hv => ⟨fun g pl hp hr hq =>
      completes_of rfl fun u id hu => ?_, fun h => completes_of rfl fun u id hu => ?_⟩, fun hk hv => ⟨fun b hb => ?_, fun h =>
      completes_of rfl fun u id hu => ?_⟩, fun hk => completes_of rfl fun u id hu => ?_, completes_of rfl fun u id hu => rfl,
    fun g pl hp hr hs hd => completes_of rfl fun u id hu => ?_, fun h => completes_of rfl fun u id hu => ?_,
    fun hp => completes_of rfl fun u id hu => ?_, fun g pl hp => ?_⟩
  · change u.restoreBegin c.port id = _
    rw [State.restoreBegin]
    exact if_congr (by simp) rfl rfl
  · rw [hsend, State.fillSend]
    exact if_pos (by rw [hu.fab, hv]; rfl)
  · rw [hsend, State.fillSend]
    dsimp only
    rw [if_neg (by rw [hu.fab, hv]; decide), if_pos hk, hu.placed, hp]
    exact if_pos ⟨by rw [hu.hlt]; exact hr, hu.quiesced.trans hq⟩
  · rw [hsend, State.fillSend]
    dsimp only
    rw [if_neg (by rw [hu.fab, hv]; decide), if_pos hk, hu.placed]
    cases hp : s.placed with
    | none => rfl
    | some x =>
      refine if_neg fun ⟨hr, hq⟩ => ?_
      rw [hu.hlt] at hr
      rw [hu.quiesced] at hq
      obtain h | h | h := h
      · rw [hp] at h
        cases h
      · exact h hr
      · rw [hq] at h
        cases h
  · intro base len d
    refine completes_of rfl fun u id hu => ?_
    rw [hsend, State.fillSend]
    dsimp only
    rw [if_neg (by rw [hu.fab, hv]; decide), if_neg (by rw [hk]; decide), if_pos hk, hu.hlt, hb, hu.glob, hu.mem]
  · rw [hsend, State.fillSend]
    dsimp only
    rw [if_neg (by rw [hu.fab, hv]; decide), if_neg (by rw [hk]; decide), if_pos hk, hu.hlt]
    have hb : s.hlt.bestSlot = none := if_pos (by rw [h.1, h.2]; rfl)
    rw [hb]
    rfl
  · rw [hsend, State.fillSend]
    refine (if_congr Iff.rfl rfl ?_).trans (ite_self _)
    exact (if_neg (by rcases hk with h | h <;> rw [h] <;> decide)).trans (if_neg (by rcases hk with h | h <;> rw [h] <;> decide))
  · change u.restoreCommit c.port id = _
    rw [State.restoreCommit, hu.placed, hp]
    dsimp only
    rw [if_pos (by rw [hu.hlt]; exact ⟨hr, hs, hd⟩), hu.hlt]
  · change u.restoreCommit c.port id = _
    rw [State.restoreCommit, hu.placed]
    cases hp : s.placed with
    | none => rfl
    | some x =>
      refine if_neg fun ⟨h1, h2, h3⟩ => ?_
      rw [hu.hlt] at h1 h2 h3
      rcases h with h | h | h | h <;> simp_all
  · change u.verifyStart c.port id w = _
    rw [State.verifyStart, hu.placed, hp]
    rfl
  · intro named n
    refine ⟨fun hv => completes_of rfl fun u id hu => ?_, fun hv h => completes_of rfl fun u id hu => ?_,
      fun hv hs hf => completes_of rfl fun u id hu => ?_⟩
    · exact (State.verifyStart_placed (hu.placed.trans hp) id w).1 (by rw [hu.fab]; exact hv)
    · exact (State.verifyStart_placed (hu.placed.trans hp) id w).2.1 (by rw [hu.fab]; exact hv) (by rw [hu.run, hu.fab]; exact h)
    · have hn : (chunksIn (u.sharedImage g pl).length).length = n := by rw [hu.sharedImage]
      rw [← hn]
      exact (State.verifyStart_placed (hu.placed.trans hp) id w).2.2 (by rw [hu.fab]; exact hv) (by rw [hu.run]; exact hs)
        (by rw [hu.fab]; exact hf)

/-- Settles O52: the commands on solver problems, snapshots and restores, each from the body of its row. -/
theorem solverAndSurvivalCommands : Obligations.SolverAndSurvivalCommands := ⟨solverCommands, survivalCommands⟩

/-! ### Events and counters (R530, R532, R608, R611, R612) -/

/-- Settles O53: the commands on events and counters, each from the body of its row. -/
theorem eventsAndCounters : Obligations.EventsAndCounters := by
  unfold Obligations.EventsAndCounters
  intro c s
  refine ⟨?_, completes_of rfl fun u id hu => rfl, ?_, completes_of rfl fun u id hu => rfl, fun ph on => ?_⟩
  · intro first n
    refine completes_of rfl fun u id hu => ?_
    change u.evtRead c.port id c.words = _
    rw [State.evtRead]
    refine if_congr Iff.rfl rfl ?_
    have hst : ∀ (log : List EventRec) (k : Nat), b2n (!log.isEmpty && decide (first < k)) = if log ≠ [] ∧ first < k then 1 else 0 :=
      fun log k => if_congr (by simp) rfl rfl
    rw [hst]
  · intro a n legal
    have hbad : (a % 8 ≠ 0 ∨ n = 0 ∨ 32 < n ∨ (wordsFrom a n).any (fun x => !(regAt x).isCounter) = true) ↔ ¬ legal := by
      have hany : (wordsFrom a n).any (fun x => !(regAt x).isCounter) = true ↔ ¬ ∀ i, i < n → (regAt (a + 8 * i)).isCounter = true := by
        simp [wordsFrom]
      rw [hany]
      simp only [legal, not_and_or, Nat.not_le, Nat.lt_one_iff]
    refine ⟨fun h => completes_of rfl fun u id hu => ?_, fun h hb => completes_of rfl fun u id hu => ?_,
      fun h hb => completes_of rfl fun u id hu => ?_⟩
    · exact if_pos (hbad.mpr h)
    · refine (if_neg fun e => hbad.mp e h).trans ((if_neg (by rw [hb]; decide)).trans ?_)
      rw [wordsFrom, List.map_map]
      rfl
    · refine (if_neg fun e => hbad.mp e h).trans ((if_pos hb).trans ?_)
      cases u.run.stepped with
      | false => rfl
      | true =>
        rcases u.perf.copy with _ | ⟨step, m⟩
        · rfl
        · dsimp only
          rw [wordsFrom, List.map_map]
          rfl
  · refine ⟨_, rfl, rfl, Vector.getElem_set_self _, fun q hq => Vector.getElem_set_ne ph.isLt q.isLt fun e => hq (Fin.ext e.symm)⟩

/-! ### Identity, attestation, debug unlock and firmware (R553 to R571) -/

/-- A fold in which only one element acts. -/
theorem foldl_only {α β : Type} {f : β → α → β} {xs : List α} {a : α} (hn : xs.Nodup) (ha : a ∈ xs) (hf : ∀ b x, x ≠ a → f b x = b) (b : β) :
    xs.foldl f b = f b a := by
  induction xs generalizing b with
  | nil => cases ha
  | cons x xs ih =>
    obtain ⟨hx, hn⟩ := List.nodup_cons.mp hn
    rw [List.foldl_cons]
    by_cases e : x = a
    · subst e
      exact foldl_keeps_mem (q := fun t => t = f b x) (fun t y hy h => (hf t y fun e => hx (e ▸ hy)).trans h) rfl
    · rw [hf b x e]
      exact ih hn ((List.mem_cons.mp ha).resolve_left fun h => e h.symm) b

theorem State.closeScopes_spec (u : State) :
    let shut := u.onSec fun x => { x with debugOpen := 0 }
    (u.sec.debugOpen.getLsbD 0 = false → u.closeScopes = shut) ∧ (u.closeScopes.sec.debugOpen = 0) ∧
    ∀ cl f, u.sec.debugOpen.getLsbD 0 = true → (u.cl cl).tahr.wait = some .debug → (u.cl cl).kernelFiring = some f →
      (∀ d, d ≠ cl → (u.cl d).tahr.wait ≠ some .debug) → u.closeScopes = shut.faultFiring cl f 1 := by
  intro shut
  refine ⟨fun h => if_neg (by rw [h]; decide), ?_, fun cl f ho hw hf hd => ?_⟩
  · have hs : u.closeScopes.sec = _ := u.closeScopes_apart.sec
    rw [hs]
    rfl
  · refine (if_pos ho).trans ((foldl_only (List.nodup_finRange 384) (List.mem_finRange cl) (fun t d e => if_neg (hd d e)) shut).trans ?_)
    rw [if_pos hw, hf]

theorem securityCommands : Claim.SecurityCommands := by
  unfold Claim.SecurityCommands
  intro c s
  refine ⟨completes_of rfl fun u id hu => rfl, completes_of rfl fun u id hu => rfl, completes_of rfl fun u id hu => ?_,
    completes_of rfl fun u id hu => rfl, completes_of rfl fun u id hu => ?_, completes_of rfl fun u id hu => rfl, State.closeScopes_spec⟩
  · change u.attest c.port id c.words = _
    rw [State.attest]
    exact if_congr (by rw [Bool.or_eq_true]) rfl rfl
  · change u.unlockToken c.port id c.words = _
    unfold State.unlockToken State.tokenFails
    dsimp only
    cases u.sec.challenge with
    | none => rfl
    | some x =>
      dsimp only
      simp only [Bool.not_eq_true']
      rfl

/-- A session's command that is served, or turned away. -/
def State.served (u : State) (p : HPort) (id : BitVec 16) (go : FwSession → State) : State :=
  if ¬ (u.sec.boot = .ready ∨ u.sec.boot = .recovery) then u.finish p id { status := 0x12, detail := 1 }
  else match u.sec.session with
    | none => u.finish p id { status := 0x12, detail := 5 }
    | some f => if f.owner = p then go f else u.finish p id { status := 0x10 }

theorem Security.updates_iff (x : Security) : x.updates = true ↔ x.boot = .ready ∨ x.boot = .recovery := by
  simp [Security.updates]

/-- A body that asks for the session first is served by it. -/
theorem State.served_eq {u t : State} {p : HPort} {id : BitVec 16} {go : FwSession → State}
    (hrefuse : ∀ r, u.noSession p = some r → t = u.finish p id r)
    (hgo : ∀ f, u.noSession p = none → u.sec.session = some f → t = go f) : t = u.served p id go := by
  unfold State.served
  by_cases hb : u.sec.boot = .ready ∨ u.sec.boot = .recovery
  · have hup := u.sec.updates_iff.mpr hb
    rw [if_neg (not_not_intro hb)]
    cases hs : u.sec.session with
    | none =>
      refine hrefuse _ ?_
      rw [State.noSession, hup, hs]
      rfl
    | some f =>
      dsimp only
      by_cases ho : f.owner = p
      · rw [if_pos ho]
        refine hgo f ?_ hs
        rw [State.noSession, hup, hs]
        exact if_pos ho
      · rw [if_neg ho]
        refine hrefuse _ ?_
        rw [State.noSession, hup, hs]
        exact if_neg ho
  · rw [if_pos hb]
    refine hrefuse _ (if_pos ?_)
    rw [Bool.not_eq_true', Bool.eq_false_iff]
    exact fun h => hb (u.sec.updates_iff.mp h)

theorem firmwareCommands : Claim.FirmwareCommands := by
  unfold Claim.FirmwareCommands
  intro c s served
  have hserved : served = State.served := rfl
  refine ⟨completes_of rfl fun u id hu => ?_, fun x r => ⟨fun h => ?_, fun h => ?_, rfl, rfl, rfl⟩, ?_, completes_of rfl fun u id hu => ?_,
    completes_of rfl fun u id hu => ?_, rfl, ?_, ?_⟩
  · change u.fwBegin c.port id c.words = _
    rw [State.fwBegin]
    refine if_congr ?_ rfl rfl
    rw [Bool.not_eq_true', Bool.eq_false_iff, Ne, Security.updates_iff]
  · change some (!(x.bank.getD x.preferred)) = _
    rw [h]
    rfl
  · change some (!(x.bank.getD x.preferred)) = _
    rw [h]
    rfl
  · intro kind off bs
    refine completes_of rfl fun u id hu => ?_
    refine State.served_eq (fun r hr => ?_) fun f hr hs => ?_
    · change u.fwWrite c.port id c.words = _
      rw [State.fwWrite, hr]
    · change u.fwWrite c.port id c.words = _
      rw [State.fwWrite, hr, hs]
      refine if_congr ?_ rfl rfl
      rw [Bool.not_eq_true', Bool.eq_false_iff, Ne, List.contains_iff_mem]
      rfl
  · refine State.served_eq (fun r hr => ?_) fun f hr hs => ?_
    · change u.fwCommit c.port id c.words = _
      rw [State.fwCommit, hr]
    · change u.fwCommit c.port id c.words = _
      have hi : (u.interim c.port id).sec = u.sec := ((Reports.refl u).interim c.port id).sec
      rw [State.fwCommit, hr, hs]
      dsimp only
      rw [hi]
      rfl
  · refine State.served_eq (fun r hr => ?_) fun f hr hs => ?_
    · change u.fwAbort c.port id = _
      rw [State.fwAbort, hr]
    · change u.fwAbort c.port id = _
      rw [State.fwAbort, hr]
      rfl
  · intro n
    refine completes_of rfl fun u id hu => ?_
    change u.logRead c.port id c.words = _
    rw [State.logRead]
    refine if_congr Iff.rfl rfl (if_congr Iff.rfl rfl ?_)
    dsimp only
    have hst : ∀ (log : List BootRec) (j k : Nat), b2n (!log.isEmpty && decide (j < k)) = if log ≠ [] ∧ j < k then 1 else 0 :=
      fun log j k => if_congr (by simp) rfl rfl
    rw [hst]
  · intro n
    refine completes_of rfl fun u id hu => ?_
    change u.moduleResetCmd c.port id c.words = _
    rw [State.moduleResetCmd]
    exact if_congr Iff.rfl rfl (if_congr (by rw [Bool.not_eq_true']) rfl rfl)

/-- Settles O54: the commands on identity, security and firmware, each from the body of its row. -/
theorem securityAndFirmware : Obligations.SecurityAndFirmware := ⟨securityCommands, firmwareCommands⟩

/-! ### Sleep while a partial write waits (R414, R420) -/

/-- A module that may enter A2, with a partial write accepted to a sector that has become uncorrectable since. -/
def sleepyWrite : State :=
  { Tests.sleepy with
    mem := { cells := [(0, 1)], ue := [0] }
    reqs := [{ rg := 0, who := .dma 0 0 0, line := 0, cls := 0, state := .sorted, writes := [{ sector := 0, mask := 1, data := 1 }] }] }

theorem sleepyWrite_enters : sleepyWrite.pwr.transition = some (Tests.toState .a2 false) ∧ sleepyWrite.run.step = none ∧
    sleepyWrite.run.stopping = false ∧ sleepyWrite.hlt.phase = .idle ∧ sleepyWrite.run.stopped = true ∧ sleepyWrite.quiet = true ∧
    sleepyWrite.txn = none ∧ sleepyWrite.pwr.state = .a0 ∧ sleepyWrite.pwr.regions = BitVec.allOnes 24 := by decide +kernel

/-- The write is dropped, and its byte gets back what it held before. -/
theorem sleepyWrite_drops : (Tests.after .powerStateEntry sleepyWrite).mem ≠ sleepyWrite.mem := by decide +kernel

/-- Refutes O55: entering A2 completes the writes that memory has accepted, and of these a partial one to an uncorrectable sector is
dropped, which changes memory. -/
theorem not_powerChanges : ¬ Obligations.PowerChanges := by
  rintro ⟨-, htransitions, -⟩
  obtain ⟨htr, hstep, hstopping, hphase, hstopped, hquiet, htxn, hstate, hregions⟩ := sleepyWrite_enters
  obtain ⟨-, hentry, -⟩ := htransitions sleepyWrite
  obtain ⟨-, -, -, -, -, hsleep, -⟩ := hentry _ htr
  obtain ⟨t, ht, -, -, -, -, hmem⟩ := hsleep rfl rfl ⟨hstep, hstopping, hphase⟩ hstopped hquiet htxn hstate hregions
  refine sleepyWrite_drops ?_
  rw [Tests.after, ht]
  exact hmem

end Sys2Proof.Machine
end

section
/-! Proofs. Tasks: dispatch, the end of firings, signals and commits; steps, fences and placements. -/
namespace Sys2Proof.Machine

/-! ### What is left of a cluster when entries settle and when a quiesce ends -/

theorem Cluster.entry_lt {k : Cluster} {i : Nat} (h : i < 128) : k.entry i = k.table[i] := dif_pos h

theorem Cluster.entry_of_le {k : Cluster} {i : Nat} (h : 128 ≤ i) : k.entry i = {} := dif_neg (by omega)

theorem Cluster.entry_onEntry_self {k : Cluster} {i : Nat} (h : i < 128) (f : TEntry → TEntry) : (k.onEntry i f).entry i = f (k.entry i) := by
  simp [Cluster.entry, Cluster.onEntry, h]

theorem Cluster.entry_onEntry_other {k : Cluster} {i j : Nat} (h : j ≠ i) (f : TEntry → TEntry) : (k.onEntry i f).entry j = k.entry j := by
  by_cases hi : i < 128
  · by_cases hj : j < 128
    · simp [Cluster.entry, Cluster.onEntry, hi, hj, Vector.getElem_set_ne, Ne.symm h]
    · simp [Cluster.entry, hj]
  · simp [Cluster.onEntry, hi]

theorem Cluster.onEntry_rest (k : Cluster) (i : Nat) (f : TEntry → TEntry) : k.onEntry i f = { k with table := (k.onEntry i f).table } := by
  unfold Cluster.onEntry
  split <;> rfl

/-- Two states of a cluster differ only in which of its entries have settled (R242). -/
structure Cluster.Settles (k u : Cluster) : Prop where
  rest : u = { k with table := u.table }
  entry : ∀ i, ∃ b, u.entry i = { k.entry i with settled := b }

namespace Cluster.Settles

theorem refl (k : Cluster) : k.Settles k := ⟨rfl, fun _ => ⟨_, rfl⟩⟩

theorem trans {k u w : Cluster} (h : k.Settles u) (h' : u.Settles w) : k.Settles w where
  rest := by
    have e := h'.rest
    rw [h.rest] at e
    exact e
  entry i := by
    obtain ⟨a, ha⟩ := h.entry i
    obtain ⟨b, hb⟩ := h'.entry i
    exact ⟨b, by rw [hb, ha]⟩

theorem onEntry (k : Cluster) (i : Nat) (b : Bool) : k.Settles (k.onEntry i fun e => { e with settled := b }) where
  rest := k.onEntry_rest i _
  entry j := by
    by_cases hj : j = i ∧ i < 128
    · obtain ⟨rfl, hi⟩ := hj
      exact ⟨b, Cluster.entry_onEntry_self hi _⟩
    · by_cases hi : i < 128
      · exact ⟨_, by rw [Cluster.entry_onEntry_other fun e => hj ⟨e, hi⟩]⟩
      · exact ⟨_, by rw [Cluster.onEntry, dif_neg hi]⟩

theorem map (k : Cluster) (f : TEntry → TEntry) (hf : ∀ e, ∃ b, f e = { e with settled := b }) :
    k.Settles { k with table := k.table.map f } where
  rest := rfl
  entry i := by
    by_cases hi : i < 128
    · obtain ⟨b, hb⟩ := hf k.table[i]
      exact ⟨b, by simp only [Cluster.entry, dif_pos hi, Vector.getElem_map, hb]⟩
    · exact ⟨_, by rw [Cluster.entry_of_le (by omega), Cluster.entry_of_le (by omega)]⟩

section
variable {k u : Cluster} (h : k.Settles u)
include h

theorem state (i : Nat) : (u.entry i).state = (k.entry i).state := by
  obtain ⟨b, hb⟩ := h.entry i
  rw [hb]

theorem desc (i : Nat) : (u.entry i).desc = (k.entry i).desc := by
  obtain ⟨b, hb⟩ := h.entry i
  rw [hb]

theorem firings : u.firings = k.firings := by rw [h.rest]
theorem vec : u.vec = k.vec := by rw [h.rest]
theorem tahr : u.tahr = k.tahr := by rw [h.rest]
theorem fenced : u.fenced = k.fenced := by rw [h.rest]
theorem slots : u.slots = k.slots := by rw [h.rest]
theorem bufs : u.bufs = k.bufs := by rw [h.rest]
theorem head : u.head = k.head := by rw [h.rest]
theorem tail : u.tail = k.tail := by rw [h.rest]

end
end Cluster.Settles

/-- Of clusters no more changes than which entries have settled; memory, the signals on their way, the fences that wait and whether
dispatch is stopped stay. -/
structure State.Calms (s t : State) : Prop where
  cl : ∀ d, (s.cl d).Settles (t.cl d)
  mem : t.mem = s.mem
  flights : t.flights = s.flights
  run : t.run.fences = s.run.fences ∧ t.run.stopped = s.run.stopped

namespace State.Calms

theorem refl (s : State) : s.Calms s := ⟨fun _ => .refl _, rfl, rfl, rfl, rfl⟩

theorem trans {s t u : State} (h : s.Calms t) (k : t.Calms u) : s.Calms u :=
  ⟨fun d => (h.cl d).trans (k.cl d), k.mem.trans h.mem, k.flights.trans h.flights, k.run.1.trans h.run.1, k.run.2.trans h.run.2⟩

theorem ite {s t u : State} {c : Prop} [Decidable c] (h : s.Calms t) (k : s.Calms u) : s.Calms (if c then t else u) := by
  split
  · exact h
  · exact k

theorem foldl {α : Type} {s t : State} {f : State → α → State} {xs : List α} (h : s.Calms t) (hf : ∀ (t : State) a, t.Calms (f t a)) :
    s.Calms (xs.foldl f t) := foldl_keeps (q := s.Calms) (fun b a hb => hb.trans (hf b a)) xs h

section
variable {s t : State} (h : s.Calms t)
include h

theorem of_eq {u : State} (hc : u.cls = t.cls) (hm : u.mem = t.mem) (hf : u.flights = t.flights)
    (hr : u.run.fences = t.run.fences ∧ u.run.stopped = t.run.stopped) : s.Calms u :=
  h.trans ⟨fun d => by rw [show u.cl d = t.cl d from congrArg (·[d]) hc]; exact .refl _, hm, hf, hr⟩

theorem reports {u : State} (k : Reports t u) : s.Calms u :=
  h.of_eq (by rw [k.eq]) (by rw [k.eq]) (by rw [k.eq]) (by rw [k.run]; exact ⟨rfl, rfl⟩)

theorem onCl {c : Cl} {f : Cluster → Cluster} (hf : (t.cl c).Settles (f (t.cl c))) : s.Calms (t.onCl c f) := by
  refine h.trans ⟨fun d => ?_, rfl, rfl, rfl, rfl⟩
  by_cases hd : d = c
  · subst hd
    rw [State.onCl_self]
    exact hf
  · rw [State.onCl_other _ _ hd]
    exact .refl _

theorem onClusters {r : Rg} {f : Cluster → Cluster} (hf : ∀ k : Cluster, k.Settles (f k)) : s.Calms (t.onClusters r f) :=
  h.foldl fun _ _ => (refl _).onCl (hf _)

theorem unresolve {r : Rg} {g : Nat} : s.Calms (t.unresolve r g) := by
  refine (h.of_eq (u := t.onRg r _) rfl rfl rfl ⟨rfl, rfl⟩).onClusters fun k => .map k _ fun e => ?_
  split
  · exact ⟨false, rfl⟩
  · exact ⟨_, rfl⟩

theorem settle {c : Cl} {i : Nat} : s.Calms (t.settle c i) := by
  have hs : s.Calms ((t.onCl c (·.onEntry i fun e => { e with settled := true })).onRg (rgOf c) fun x =>
      x.onGuard ((t.cl c).entry i).guardNo fun y => { y with settled := y.settled + 1 }) :=
    (h.onCl (f := (·.onEntry i fun e => { e with settled := true })) (.onEntry _ i true)).of_eq rfl rfl rfl ⟨rfl, rfl⟩
  unfold State.settle
  exact .ite h (.ite hs.unresolve hs)

theorem cutSteps : s.Calms t.cutSteps :=
  (h.of_eq (u := { t.onRun _ with nonce := (t.onRun _).nonce + 1 }) rfl rfl rfl ⟨rfl, rfl⟩).reports (State.cutWaits_reports (t.onRun _) _).1

theorem restoreRequired : s.Calms t.restoreRequired := by
  unfold State.restoreRequired
  exact (h.of_eq (u := (t.onHlt _).onFab _) rfl rfl rfl ⟨rfl, rfl⟩).cutSteps

theorem freshGuards : s.Calms t.freshGuards := by
  refine h.trans ⟨fun d => ?_, rfl, rfl, rfl, rfl⟩
  rw [show t.freshGuards.cl d = { t.cl d with table := (t.cl d).table.map fun e => { e with settled := false } } from by
    simp [State.freshGuards, State.cl]]
  exact .map _ _ fun e => ⟨false, rfl⟩

theorem finish {p : HPort} {id : BitVec 16} {r : Reply} : s.Calms (t.finish p id r) := h.reports (State.finish_reports ..)

theorem installLoads : s.Calms t.installLoads := by
  unfold State.installLoads
  refine (h.of_eq (u := t.onRun _) rfl rfl rfl ⟨rfl, rfl⟩).foldl fun u l => finish ?_
  unfold State.installProblem
  split <;> exact (refl u).of_eq rfl rfl rfl ⟨rfl, rfl⟩

theorem clearContexts : s.Calms t.clearContexts := by
  unfold State.clearContexts
  exact (h.of_eq (u := t.onRun _) rfl rfl rfl ⟨rfl, rfl⟩).foldl fun u l => ((refl u).of_eq (u := u.clearContext _) rfl rfl rfl ⟨rfl, rfl⟩).finish

theorem serveSwitch : s.Calms t.serveSwitch := by
  unfold State.serveSwitch
  split
  · exact h.of_eq rfl rfl rfl ⟨rfl, rfl⟩
  · exact h

theorem quietDone : s.Calms t.quietDone := by
  unfold State.quietDone
  refine .ite h ?_
  extract_lets n ws t1 w q t2 t3 t4
  have h2 : s.Calms t2 := h.of_eq rfl rfl rfl ⟨rfl, rfl⟩
  have h3 : s.Calms t3 := .ite h2.restoreRequired h2
  exact ((h3.of_eq (u := t3.dropRoots) rfl rfl rfl ⟨rfl, rfl⟩).freshGuards.installLoads.clearContexts.serveSwitch).foldl fun u w => (refl u).finish

end
end State.Calms

/-- A quiesce ends only while one is under way. -/
theorem State.quietDone_of_going {s : State} (h : s.run.stopping = false) : s.quietDone = s := by
  unfold State.quietDone
  exact if_pos (by simp [h])

/-! ### What a completed firing reports -/

/-- What a report changes: memory and its accounts, the regions, and of the run what the step has seen. -/
structure State.Notes (s t : State) : Prop where
  eq : t = { s with mem := t.mem, glob := t.glob, parts := t.parts, reqs := t.reqs, rgs := t.rgs, ports := t.ports, events := t.events
                    evtSeq := t.evtSeq, hlt := t.hlt, run := { s.run with step := t.run.step, triggered := t.run.triggered } }
  step : t.run.step.isSome = s.run.step.isSome

namespace State.Notes

theorem refl (s : State) : s.Notes s := ⟨rfl, rfl⟩

theorem trans {s t u : State} (h : s.Notes t) (k : t.Notes u) : s.Notes u where
  eq := by
    have e := k.eq
    rw [h.eq] at e
    exact e
  step := k.step.trans h.step

theorem ite {s t u : State} {c : Prop} [Decidable c] (h : s.Notes t) (k : s.Notes u) : s.Notes (if c then t else u) := by
  split
  · exact h
  · exact k

theorem foldl {α : Type} {s t : State} {f : State → α → State} {xs : List α} (h : s.Notes t) (hf : ∀ (t : State) a, t.Notes (f t a)) :
    s.Notes (xs.foldl f t) := foldl_keeps (q := s.Notes) (fun b a hb => hb.trans (hf b a)) xs h

section
variable {s t : State} (h : s.Notes t)
include h

theorem onStep (f : StepRun → StepRun) : s.Notes (t.onRun fun r => { r with step := r.step.map f }) :=
  h.trans ⟨rfl, by simp [State.onRun]⟩

theorem onRg (r : Rg) (f : Region → Region) : s.Notes (t.onRg r f) := h.trans ⟨rfl, rfl⟩

theorem accesses {u : State} (k : Accesses t u) : s.Notes u := by
  refine h.trans ⟨?_, ?_⟩ <;> rw [k.eq]

theorem addStatistics (c : Cl) (i : Nat) (p : Package) (pl : Placement) (k : Nat) : s.Notes (t.addStatistics c i p pl k) := by
  unfold State.addStatistics
  refine .ite h (h.foldl fun u x => ?_)
  dsimp only
  split
  · exact .ite ((refl u).accesses (((Accesses.refl u).busRead _ _ _).busWrite _ _)) (refl u)
  · exact refl u

theorem updateFactors (cls : Nat → Nat) (p : Package) (pl : Placement) (k : Nat) : s.Notes (t.updateFactors cls p pl k) := by
  unfold State.updateFactors
  split
  · exact h
  · exact h.foldl fun u x => .ite ((refl u).accesses ((((Accesses.refl u).busRead _ _ _).busRead _ _ _).busWrite _ _)) (refl u)

theorem formStatistics (c : Cl) (f : Firing) : s.Notes (t.formStatistics c f) := by
  unfold State.formStatistics
  split
  · refine h.foldl fun u k => ?_
    split
    · exact (refl u).addStatistics _ _ _ _ _
    · exact .ite (.ite ((((refl u).onStep _).updateFactors _ _ _ _).onStep _) ((refl u).onStep _)) (refl u)
    · exact refl u
  · exact h

theorem report (c : Cl) (f : Firing) : s.Notes (t.report c f) := by
  unfold State.report
  extract_lets e u t1 t2
  have h1 : s.Notes t1 := .ite ((h.formStatistics c f).trans ⟨rfl, rfl⟩) (h.formStatistics c f)
  have h2 : s.Notes t2 := .ite (h1.onStep _) h1
  split
  · exact .ite (h2.onRg _ _) (.ite (h2.onStep _) h2)
  · exact h2

theorem cls : t.cls = s.cls := by rw [h.eq]
theorem cl (c : Cl) : t.cl c = s.cl c := congrArg (·[c]) h.cls
theorem flights : t.flights = s.flights := by rw [h.eq]
theorem run : t.run = { s.run with step := t.run.step, triggered := t.run.triggered } := congrArg State.run h.eq

end
end State.Notes

/-- A task that is bound to no guard forms no statistics. -/
theorem State.formStatistics_of_free {s : State} {c : Cl} {f : Firing} (h : ((s.cl c).entry f.entry).guardEn = false) :
    s.formStatistics c f = s := by
  have hnil (p : Package) (key op r : Nat) : statsOf p key op r ((s.cl c).entry f.entry) = [] := by
    simp [statsOf, h]
  unfold State.formStatistics
  split
  · simp only [hnil, List.foldl_nil]
  · rfl

/-- A task that is bound to no guard reports without an access to memory. -/
theorem State.report_of_free {s : State} {c : Cl} {f : Firing} (h : ((s.cl c).entry f.entry).guardEn = false) :
    s.report c f = { s with run := (s.report c f).run, rgs := (s.report c f).rgs } := by
  unfold State.report
  rw [State.formStatistics_of_free h]
  extract_lets e u t1 t2
  have h1 : t1 = { s with run := t1.run, rgs := t1.rgs } := by
    simp only [t1]
    split <;> rfl
  have h2 : t2 = { s with run := t2.run, rgs := t2.rgs } := by
    simp only [t2]
    split
    · exact (congrArg (State.onRun · _) h1)
    · exact h1
  clear_value t2
  split
  · split
    · exact congrArg (State.onRg · _ _) h2
    · split
      · exact congrArg State.optimised h2
      · exact h2
  · exact h2

/-! ### The cluster and the signals of a firing that ends -/

theorem State.onCl_id (s : State) (c : Cl) : s.onCl c (fun k => k) = s := by
  have : s.cls.set c (s.cls[c]) = s.cls := Vector.set_getElem_self _
  simp only [State.onCl]
  exact congrArg (fun x => { s with cls := x }) this

theorem State.foldl_onCl {α : Type} (g : Cluster → α → Cluster) (c : Cl) (xs : List α) (s : State) :
    xs.foldl (fun t a => t.onCl c fun k => g k a) s = s.onCl c fun k => xs.foldl g k := by
  induction xs generalizing s with
  | nil => exact (s.onCl_id c).symm
  | cons a xs ih => rw [List.foldl_cons, ih, State.onCl_onCl]; rfl

/-- The signals to other clusters that an entry sends when it completes (R234). -/
def TEntry.sends (e : TEntry) : List Flight :=
  e.remotes.filterMap fun p => (clOf p.1).map fun d => { cl := d, slot := BitVec.ofNat 8 p.2.1, amount := BitVec.ofNat 8 p.2.2 }

theorem State.foldl_sends (ps : List (Nat × Nat × Nat)) (s : State) :
    ps.foldl (fun t p => match clOf p.1 with
      | some d => { t with flights := t.flights ++ [{ cl := d, slot := BitVec.ofNat 8 p.2.1, amount := BitVec.ofNat 8 p.2.2 }] }
      | none => t) s =
    { s with flights := s.flights ++ ps.filterMap fun p =>
        (clOf p.1).map fun d => { cl := d, slot := BitVec.ofNat 8 p.2.1, amount := BitVec.ofNat 8 p.2.2 } } := by
  induction ps generalizing s with
  | nil => simp
  | cons p ps ih =>
    rw [List.foldl_cons, ih]
    cases hp : clOf p.1 <;> simp [hp]

/-- The ring's registers once a record has entered it (R637). -/
def Cluster.recorded (k : Cluster) : Cluster :=
  if k.head - k.tail = 255 then { k with head := k.head + 1, tail := k.tail + 1 }.flag 4 else { k with head := k.head + 1 }

/-- A cluster whose firing ends: its record, its buffers, its entry, its own signals, its sticky bits (R234, R236, R241). -/
def Cluster.closed (k : Cluster) (i outcome : Nat) (prods : List (Nat × Nat)) : Cluster :=
  let u := (({ k.recorded with firings := k.recorded.firings.filter (·.entry != i) }).releaseBufs i).onEntry i (·.after outcome)
  let u := prods.foldl (fun k p => k.addSlot p.1 p.2) u
  if outcome = 4 then u.flag 8 else if outcome = 3 then u.flag 16 else u

theorem State.record_eq (s : State) (c : Cl) (ws : List Word) :
    s.record c ws = (s.tileWrite c (writesAt ((s.cl c).cringBase.toNat * 32 + (s.cl c).head.toNat * 32) (wordBytes ws))).onCl c Cluster.recorded := by
  have he : (s.tileWrite c (writesAt ((s.cl c).cringBase.toNat * 32 + (s.cl c).head.toNat * 32) (wordBytes ws))).cls[c] = s.cl c := rfl
  unfold State.record
  dsimp only
  split
  · next h => simp only [State.onCl, he, Cluster.recorded, if_pos h]
  · next h => simp only [State.onCl, he, Cluster.recorded, if_neg h]

/-- The record of a firing that ends (R236). -/
def endWords (s : State) (c : Cl) (f : Firing) (outcome cause cycles : Nat) : List Word :=
  recordWords ((s.cl c).entry f.entry) f.entry ((s.cl c).entry f.entry).kind outcome f.status.toNat cause cycles
    (if outcome = 0 then s.rootResult c f else f).result.toNat ((s.cl c).firingConds f)

theorem State.rootResult_spec (s : State) (c : Cl) (f : Firing) : ∃ r, s.rootResult c f = { f with result := r } := by
  unfold State.rootResult
  repeat' split
  all_goals exact ⟨_, rfl⟩

/-- What a firing that completes sends. -/
def TEntry.completing (e : TEntry) (outcome : Nat) (signals : Bool) : List (Nat × Nat) × List Flight :=
  if outcome = 0 ∧ signals = true then (e.prods, e.sends) else ([], [])

theorem Cluster.closed_entry {k : Cluster} {i outcome : Nat} {prods : List (Nat × Nat)} (j : Nat) :
    (k.closed i outcome prods).entry j = if j = i ∧ i < 128 then (k.entry i).after outcome else k.entry j := by
  have hadd : ∀ (k : Cluster) (n a : Nat), (k.addSlot n a).table = k.table := fun k n a => by
    unfold Cluster.addSlot Cluster.setSlot Cluster.flag
    repeat' split
    all_goals rfl
  have hfold : ∀ (ps : List (Nat × Nat)) (k : Cluster), (ps.foldl (fun k p => k.addSlot p.1 p.2) k).table = k.table := fun ps k =>
    foldl_keeps (q := fun u : Cluster => u.table = k.table) (fun b a hb => (hadd b _ _).trans hb) ps rfl
  have hrec : k.recorded.table = k.table := by
    unfold Cluster.recorded
    split <;> rfl
  have ht : (k.closed i outcome prods).table = (({ k with table := k.recorded.table } : Cluster).onEntry i (·.after outcome)).table := by
    unfold Cluster.closed
    dsimp only
    have e : (((({ k.recorded with firings := k.recorded.firings.filter (·.entry != i) }).releaseBufs i).onEntry i (·.after outcome))).table =
        (({ k with table := k.recorded.table } : Cluster).onEntry i (·.after outcome)).table := by
      unfold Cluster.onEntry Cluster.releaseBufs
      split <;> rfl
    repeat' split
    all_goals simp only [Cluster.flag, hfold, e]
  rw [hrec] at ht
  have he : (k.closed i outcome prods).entry j = (k.onEntry i (·.after outcome)).entry j := by
    unfold Cluster.entry
    split
    · rw [getElem_congr_coll ht]
    · rfl
  rw [he]
  by_cases hj : j = i ∧ i < 128
  · obtain ⟨rfl, hi⟩ := hj
    rw [if_pos ⟨rfl, hi⟩, Cluster.entry_onEntry_self hi]
  · rw [if_neg hj]
    by_cases hi : i < 128
    · exact Cluster.entry_onEntry_other (fun e => hj ⟨e, hi⟩) _
    · rw [Cluster.onEntry, dif_neg hi]

theorem TEntry.completing_other (e : TEntry) {outcome : Nat} {signals : Bool} (h : outcome ≠ 0) : e.completing outcome signals = ([], []) :=
  if_neg fun k => h k.1

/-- The cycles that a record of an end names: a free word of the state. -/
def endCycles (s : State) : Nat := (Config.freeWord s.nonce 0).toNat % 2 ^ 48

/-- The state once a firing that ends has its record, its entry and buffers are settled and its signals are sent. -/
def State.closeFiring (s : State) (c : Cl) (f : Firing) (outcome cause : Nat) (signals : Bool) : State :=
  let p := ((s.cl c).entry f.entry).completing outcome signals
  let t := (s.tileWrite c (writesAt ((s.cl c).cringBase.toNat * 32 + (s.cl c).head.toNat * 32)
    (wordBytes (endWords s c f outcome cause (endCycles s))))).onCl c fun k => k.closed f.entry outcome p.1
  { t with nonce := s.nonce + 1, flights := s.flights ++ p.2 }

theorem State.record_close (s : State) (c : Cl) (ws : List Word) (i outcome : Nat) :
    (s.draw.2.record c ws).onCl c (fun k => (({ k with firings := k.firings.filter (·.entry != i) }).releaseBufs i).onEntry i (·.after outcome)) =
    (s.draw.2.tileWrite c (writesAt ((s.cl c).cringBase.toNat * 32 + (s.cl c).head.toNat * 32) (wordBytes ws))).onCl c fun k =>
      (({ k.recorded with firings := k.recorded.firings.filter (·.entry != i) }).releaseBufs i).onEntry i (·.after outcome) := by
  rw [State.record_eq, State.onCl_onCl]
  rfl

theorem State.firingConds_rootResult (s : State) (k : Cluster) (c : Cl) (f : Firing) : k.firingConds (s.rootResult c f) = k.firingConds f := by
  obtain ⟨r, hr⟩ := s.rootResult_spec c f
  rw [hr]
  rfl

theorem TEntry.completing_silent (e : TEntry) : e.completing 0 false = ([], []) := if_neg fun k => absurd k.2 (by decide)

theorem State.closeFiring_silent (s : State) (c : Cl) (f : Firing) {outcome : Nat} (cause : Nat) {signals : Bool}
    (h : ((s.cl c).entry f.entry).completing outcome signals = ([], [])) : s.closeFiring c f outcome cause signals =
      (s.draw.2.tileWrite c (writesAt ((s.cl c).cringBase.toNat * 32 + (s.cl c).head.toNat * 32)
        (wordBytes (endWords s c f outcome cause (endCycles s))))).onCl c fun k => k.closed f.entry outcome [] := by
  unfold State.closeFiring
  rw [h]
  dsimp only
  rw [List.append_nil]
  rfl

theorem State.closeFiring_signals (s : State) (c : Cl) (f : Firing) (cause : Nat) (signals : Bool) :
    (if !signals then (s.draw.2.record c (endWords s c f 0 cause (endCycles s))).onCl c fun k =>
        (({ k with firings := k.firings.filter (·.entry != f.entry) }).releaseBufs f.entry).onEntry f.entry (·.after 0)
      else ((s.cl c).entry f.entry).remotes.foldl (fun t p => match clOf p.1 with
        | some d => { t with flights := t.flights ++ [{ cl := d, slot := BitVec.ofNat 8 p.2.1, amount := BitVec.ofNat 8 p.2.2 }] }
        | none => t) (((s.cl c).entry f.entry).prods.foldl (fun t p => t.onCl c (·.addSlot p.1 p.2))
          ((s.draw.2.record c (endWords s c f 0 cause (endCycles s))).onCl c fun k =>
            (({ k with firings := k.firings.filter (·.entry != f.entry) }).releaseBufs f.entry).onEntry f.entry (·.after 0)))) =
    s.closeFiring c f 0 cause signals := by
  rw [State.record_close]
  cases signals
  · exact (if_pos rfl).trans (s.closeFiring_silent c f (outcome := 0) cause (TEntry.completing_silent _)).symm
  · refine Eq.trans (if_neg (by simp)) ((State.foldl_sends _ _).trans ?_)
    refine (congrArg (fun t : State => { t with flights := t.flights ++ ((s.cl c).entry f.entry).sends })
      ((State.foldl_onCl (fun (k : Cluster) (p : Nat × Nat) => k.addSlot p.1 p.2) c _ _).trans (State.onCl_onCl ..))).trans ?_
    rfl

theorem State.endFiring_completes (s : State) (c : Cl) (f : Firing) (cause : Nat) (signals : Bool) :
    s.endFiring c f 0 cause signals =
      (((s.closeFiring c f 0 cause signals).report c (s.rootResult c f)).settle c f.entry).quietDone := by
  rw [← State.closeFiring_signals]
  obtain ⟨r, hr⟩ := s.rootResult_spec c f
  unfold State.endFiring endWords
  simp only [if_true, hr]
  rfl

theorem State.endFiring_ends (s : State) (c : Cl) (f : Firing) {outcome : Nat} (h : outcome = 1 ∨ outcome = 2 ∨ outcome = 5) (cause : Nat)
    (signals : Bool) : s.endFiring c f outcome cause signals = ((s.closeFiring c f outcome cause signals).settle c f.entry).quietDone := by
  have h0 : outcome ≠ 0 := by omega
  have hc : s.closeFiring c f outcome cause signals = (s.draw.2.record c (endWords s c f outcome cause (endCycles s))).onCl c (fun k =>
      (({ k with firings := k.firings.filter (·.entry != f.entry) }).releaseBufs f.entry).onEntry f.entry (·.after outcome)) := by
    rw [State.record_close]
    rw [State.closeFiring_silent _ _ _ _ (TEntry.completing_other _ h0)]
    rcases h with rfl | rfl | rfl <;> rfl
  rw [hc]
  rcases h with rfl | rfl | rfl <;> rfl

theorem State.endFiring_squashed (s : State) (c : Cl) (f : Firing) (cause : Nat) (signals : Bool) :
    s.endFiring c f 3 cause signals = (s.closeFiring c f 3 cause signals).quietDone := by
  have hc : s.closeFiring c f 3 cause signals = ((s.draw.2.record c (endWords s c f 3 cause (endCycles s))).onCl c (fun k =>
      (({ k with firings := k.firings.filter (·.entry != f.entry) }).releaseBufs f.entry).onEntry f.entry (·.after 3))).onCl c (·.flag 16) := by
    rw [State.record_close, State.onCl_onCl, State.closeFiring_silent _ _ _ _ (TEntry.completing_other _ (by decide))]
    rfl
  rw [hc]
  rfl

theorem State.endFiring_faulted (s : State) (c : Cl) (f : Firing) (cause : Nat) (signals : Bool) :
    s.endFiring c f 4 cause signals = ((s.closeFiring c f 4 cause signals).event (fromRegion (rgOf c)) 1
      [packBits [(c.val, 0), (f.entry, 9), (cause, 16), (((s.cl c).entry f.entry).tag, 32)]]).quietDone := by
  have hc : s.closeFiring c f 4 cause signals = ((s.draw.2.record c (endWords s c f 4 cause (endCycles s))).onCl c (fun k =>
      (({ k with firings := k.firings.filter (·.entry != f.entry) }).releaseBufs f.entry).onEntry f.entry (·.after 4))).onCl c (·.flag 8) := by
    rw [State.record_close, State.onCl_onCl, State.closeFiring_silent _ _ _ _ (TEntry.completing_other _ (by decide))]
    rfl
  rw [hc]
  rfl

/-- Where the record of a firing's end is written, and what it says. -/
def endRecord (s : State) (c : Cl) (f : Firing) (outcome cause : Nat) : List WByte :=
  writesAt ((s.cl c).cringBase.toNat * 32 + (s.cl c).head.toNat * 32) (wordBytes (endWords s c f outcome cause (endCycles s)))

/-- What an end of a firing leaves. -/
structure State.Ends (s : State) (c : Cl) (f : Firing) (outcome cause : Nat) (signals : Bool) (t : State) : Prop where
  own : ((s.cl c).closed f.entry outcome (((s.cl c).entry f.entry).completing outcome signals).1).Settles (t.cl c)
  other : ∀ d, d ≠ c → (s.cl d).Settles (t.cl d)
  flights : t.flights = s.flights ++ (((s.cl c).entry f.entry).completing outcome signals).2
  mem : outcome ≠ 0 ∨ ((s.cl c).entry f.entry).guardEn = false → t.mem = (s.tileWrite c (endRecord s c f outcome cause)).mem

theorem State.closeFiring_cls (s : State) (c : Cl) (f : Firing) (outcome cause : Nat) (signals : Bool) :
    (s.closeFiring c f outcome cause signals).cls =
      (s.onCl c fun k => k.closed f.entry outcome (((s.cl c).entry f.entry).completing outcome signals).1).cls := by
  simp only [State.closeFiring, State.onCl, State.tileWrite]

theorem State.closeFiring_ends (s : State) (c : Cl) (f : Firing) (outcome cause : Nat) (signals : Bool) :
    s.Ends c f outcome cause signals (s.closeFiring c f outcome cause signals) where
  own := by
    rw [show (s.closeFiring c f outcome cause signals).cl c = _ from
      (congrArg (·[c]) (s.closeFiring_cls c f outcome cause signals)).trans (State.onCl_self s _ _)]
    exact .refl _
  other d hd := by
    rw [show (s.closeFiring c f outcome cause signals).cl d = _ from
      (congrArg (·[d]) (s.closeFiring_cls c f outcome cause signals)).trans (State.onCl_other s _ hd)]
    exact .refl _
  flights := rfl
  mem _ := rfl

theorem State.Ends.calms {s t u : State} {c : Cl} {f : Firing} {outcome cause : Nat} {signals : Bool} (h : s.Ends c f outcome cause signals t)
    (k : t.Calms u) : s.Ends c f outcome cause signals u where
  own := h.own.trans (k.cl c)
  other d hd := (h.other d hd).trans (k.cl d)
  flights := k.flights.trans h.flights
  mem g := k.mem.trans (h.mem g)

theorem Cluster.closed_desc {k : Cluster} {i outcome : Nat} {prods : List (Nat × Nat)} (j : Nat) :
    ((k.closed i outcome prods).entry j).desc = (k.entry j).desc := by
  rw [Cluster.closed_entry]
  split
  · next h =>
    rw [h.1]
    unfold TEntry.after
    split <;> rfl
  · rfl

/-- How a firing ends with any outcome. -/
theorem State.endFiring_spec (s : State) (c : Cl) (f : Firing) {outcome : Nat} (h : outcome ≤ 5) (cause : Nat) (signals : Bool) :
    s.Ends c f outcome cause signals (s.endFiring c f outcome cause signals) := by
  have hc := s.closeFiring_ends c f outcome cause signals
  obtain rfl | he | rfl | rfl : outcome = 0 ∨ (outcome = 1 ∨ outcome = 2 ∨ outcome = 5) ∨ outcome = 3 ∨ outcome = 4 := by omega
  · rw [State.endFiring_completes]
    have hn := (State.Notes.refl (s.closeFiring c f 0 cause signals)).report c (s.rootResult c f)
    have hr : s.Ends c f 0 cause signals ((s.closeFiring c f 0 cause signals).report c (s.rootResult c f)) := by
      refine ⟨by rw [hn.cl]; exact hc.own, fun d hd => by rw [hn.cl]; exact hc.other d hd, hn.flights.trans hc.flights, fun hg => ?_⟩
      have hf : (((s.closeFiring c f 0 cause signals).cl c).entry (s.rootResult c f).entry).guardEn = false := by
        obtain ⟨r, hr⟩ := s.rootResult_spec c f
        rw [hr]
        rw [TEntry.guardEn, TEntry.f, hc.own.desc, Cluster.closed_desc]
        exact hg.resolve_left (· rfl)
      rw [State.report_of_free hf]
      exact hc.mem hg
    exact hr.calms ((State.Calms.refl _).settle.quietDone)
  · rw [State.endFiring_ends s c f he]
    exact hc.calms ((State.Calms.refl _).settle.quietDone)
  · rw [State.endFiring_squashed]
    exact hc.calms (State.Calms.refl _).quietDone
  · rw [State.endFiring_faulted]
    exact hc.calms ((State.Calms.refl _).reports (State.event_reports ..)).quietDone

/-! ### The parts of a cluster whose firing has ended -/

theorem Cluster.addSlot_rest (k : Cluster) (n a : Nat) : k.addSlot n a = { k with slots := (k.addSlot n a).slots, tstat := (k.addSlot n a).tstat } := by
  unfold Cluster.addSlot Cluster.setSlot Cluster.flag
  repeat' split
  all_goals rfl

theorem Cluster.addSlot_slots {k u : Cluster} (h : k.slots = u.slots) (n a : Nat) : (k.addSlot n a).slots = (u.addSlot n a).slots := by
  have hs : k.slot n = u.slot n := by simp only [Cluster.slot, h]
  unfold Cluster.addSlot
  rw [hs]
  unfold Cluster.setSlot Cluster.flag
  repeat' split
  all_goals simp only [h]

/-- Signals added to a cluster's slots change no more than slots and their sticky bit. -/
theorem Cluster.addSlots_rest (k : Cluster) (ps : List (Nat × Nat)) : ∃ sl st,
    ps.foldl (fun k p => k.addSlot p.1 p.2) k = { k with slots := sl, tstat := st } := by
  refine foldl_keeps (q := fun u : Cluster => ∃ sl st, u = { k with slots := sl, tstat := st }) (fun u p h => ?_) ps ⟨_, _, rfl⟩
  obtain ⟨sl, st, rfl⟩ := h
  rw [Cluster.addSlot_rest]
  exact ⟨_, _, rfl⟩

theorem Cluster.addSlots_slots {k u : Cluster} (h : k.slots = u.slots) (ps : List (Nat × Nat)) :
    (ps.foldl (fun k p => k.addSlot p.1 p.2) k).slots = (ps.foldl (fun k p => k.addSlot p.1 p.2) u).slots := by
  induction ps generalizing k u with
  | nil => exact h
  | cons p ps ih => exact ih (Cluster.addSlot_slots h _ _)

theorem Cluster.closed_rest (k : Cluster) (i outcome : Nat) (ps : List (Nat × Nat)) : ∃ st,
    k.closed i outcome ps = { k with
      table := (k.closed i outcome ps).table, tstat := st, firings := k.firings.filter (·.entry != i), head := k.head + 1,
      tail := if k.head - k.tail = 255 then k.tail + 1 else k.tail,
      slots := (ps.foldl (fun k p => k.addSlot p.1 p.2) k).slots
      bufs := k.bufs.map fun b => if b.claimed && b.owner.toNat == i then { b with claimed := false } else b } := by
  obtain ⟨st, hr⟩ : ∃ st, k.recorded = { k with tstat := st, head := k.head + 1, tail := if k.head - k.tail = 255 then k.tail + 1 else k.tail } := by
    unfold Cluster.recorded Cluster.flag
    split <;> exact ⟨_, rfl⟩
  have hflag : ∀ (u : Cluster) b, u.flag b = { u with tstat := u.tstat ||| b } := fun _ _ => rfl
  unfold Cluster.closed
  dsimp only
  generalize hw : (({ k.recorded with firings := k.recorded.firings.filter (·.entry != i) }).releaseBufs i).onEntry i (·.after outcome) = w
  have hwr : w = { k with
      table := w.table, tstat := st, firings := k.firings.filter (·.entry != i), head := k.head + 1,
      tail := if k.head - k.tail = 255 then k.tail + 1 else k.tail,
      bufs := k.bufs.map fun b => if b.claimed && b.owner.toNat == i then { b with claimed := false } else b } := by
    rw [← hw, Cluster.onEntry_rest, hr]
    rfl
  obtain ⟨sl, st', hf⟩ := w.addSlots_rest ps
  have hsl : sl = (ps.foldl (fun k p => k.addSlot p.1 p.2) k).slots := by
    rw [← Cluster.addSlots_slots (k := w) (u := k) (by rw [hwr]) ps, hf]
  rw [hf, ← hsl, hflag, hflag]
  split
  · refine ⟨st' ||| 8, ?_⟩
    rw [hwr]
  · split
    · refine ⟨st' ||| 16, ?_⟩
      rw [hwr]
    · refine ⟨st', ?_⟩
      rw [hwr]

section
variable {k : Cluster} {i outcome : Nat} {ps : List (Nat × Nat)}

theorem Cluster.closed_firings : (k.closed i outcome ps).firings = k.firings.filter (·.entry != i) := by
  obtain ⟨st, h⟩ := k.closed_rest i outcome ps
  rw [h]

theorem Cluster.closed_vec : (k.closed i outcome ps).vec = k.vec := by
  obtain ⟨st, h⟩ := k.closed_rest i outcome ps
  rw [h]

theorem Cluster.closed_tahr : (k.closed i outcome ps).tahr = k.tahr := by
  obtain ⟨st, h⟩ := k.closed_rest i outcome ps
  rw [h]

theorem Cluster.closed_fenced : (k.closed i outcome ps).fenced = k.fenced := by
  obtain ⟨st, h⟩ := k.closed_rest i outcome ps
  rw [h]

theorem Cluster.closed_head : (k.closed i outcome ps).head = k.head + 1 := by
  obtain ⟨st, h⟩ := k.closed_rest i outcome ps
  rw [h]

theorem Cluster.closed_tail : (k.closed i outcome ps).tail = if k.head - k.tail = 255 then k.tail + 1 else k.tail := by
  obtain ⟨st, h⟩ := k.closed_rest i outcome ps
  rw [h]

theorem Cluster.closed_slots : (k.closed i outcome ps).slots = (ps.foldl (fun k p => k.addSlot p.1 p.2) k).slots := by
  obtain ⟨st, h⟩ := k.closed_rest i outcome ps
  rw [h]

theorem Cluster.closed_bufs : (k.closed i outcome ps).bufs =
    k.bufs.map fun b => if b.claimed && b.owner.toNat == i then { b with claimed := false } else b := by
  obtain ⟨st, h⟩ := k.closed_rest i outcome ps
  rw [h]

end

/-- A firing that has ended is gone. -/
theorem Cluster.firing_closed (k : Cluster) (i outcome : Nat) (ps : List (Nat × Nat)) : (k.closed i outcome ps).firing i = none := by
  unfold Cluster.firing
  rw [Cluster.closed_firings, List.find?_eq_none]
  intro f hf
  have := (List.mem_filter.mp hf).2
  simpa using this

/-! ### Which entry is chosen (R232) -/

/-- What holds of no number and goes over to the next one holds after all numbers below a bound. -/
theorem foldl_range_induct {β : Type} {f : β → Nat → β} {P : Nat → β → Prop} (hs : ∀ n b, P n b → P (n + 1) (f b n)) {b : β} (h0 : P 0 b) (n : Nat) :
    P n ((List.range n).foldl f b) := by
  induction n with
  | zero => exact h0
  | succ n ih =>
    rw [List.range_succ, List.foldl_append]
    exact hs n _ ih

/-- Of the entries below a bound, `best` is the first ready one in the order of PRIO and index, where one is ready. -/
def FirstReady (s : State) (c : Cl) (n : Nat) : Option (Nat × GSet) → Prop
  | some b => b.1 < n ∧ s.ready c b.1 = .go b.2 ∧ ∀ j, j < n → (s.ready c j).isGo = true →
      ((s.cl c).entry j).prio ≤ ((s.cl c).entry b.1).prio ∧ (((s.cl c).entry j).prio = ((s.cl c).entry b.1).prio → b.1 ≤ j)
  | none => ∀ j, j < n → (s.ready c j).isGo = false

theorem FirstReady.skip {s : State} {c : Cl} {n : Nat} {best : Option (Nat × GSet)} (h : FirstReady s c n best) (hn : (s.ready c n).isGo = false) :
    FirstReady s c (n + 1) best := by
  cases best with
  | none => exact fun j hj => (Nat.lt_succ_iff_lt_or_eq.mp hj).elim (h j) fun e => e ▸ hn
  | some b =>
    obtain ⟨hb, hr, hf⟩ := h
    refine ⟨by omega, hr, fun j hj hg => (Nat.lt_succ_iff_lt_or_eq.mp hj).elim (fun h => hf j h hg) fun e => ?_⟩
    rw [e, hn] at hg
    exact absurd hg (by decide)

theorem FirstReady.keep {s : State} {c : Cl} {n : Nat} {b : Nat × GSet} (h : FirstReady s c n (some b))
    (hp : ¬ ((s.cl c).entry b.1).prio < ((s.cl c).entry n).prio) : FirstReady s c (n + 1) (some b) := by
  obtain ⟨hb, hr, hf⟩ := h
  refine ⟨by omega, hr, fun j hj hg => (Nat.lt_succ_iff_lt_or_eq.mp hj).elim (fun h => hf j h hg) fun e => ?_⟩
  subst e
  exact ⟨Nat.le_of_not_lt hp, fun _ => hb.le⟩

theorem FirstReady.take {s : State} {c : Cl} {n : Nat} {best : Option (Nat × GSet)} {gs : GSet} (h : FirstReady s c n best)
    (hn : s.ready c n = .go gs) (hp : ∀ b ∈ best, ((s.cl c).entry b.1).prio < ((s.cl c).entry n).prio) :
    FirstReady s c (n + 1) (some (n, gs)) := by
  refine ⟨Nat.lt_succ_self n, hn, fun j hj hg => (Nat.lt_succ_iff_lt_or_eq.mp hj).elim (fun hj => ?_) fun e => ?_⟩
  · cases best with
    | none => exact absurd hg (by rw [h j hj]; decide)
    | some b =>
      have := (h.2.2 j hj hg).1
      have := hp b rfl
      exact ⟨by dsimp only; omega, fun e => by dsimp only at e; omega⟩
  · subst e
    exact ⟨le_rfl, fun _ => le_rfl⟩

theorem State.chosen_first (s : State) (c : Cl) : FirstReady s c 128 (s.chosen c) := by
  unfold State.chosen
  refine foldl_range_induct (P := FirstReady s c) (fun n best h => ?_) (b := none)
    (fun j hj => absurd hj (Nat.not_lt_zero j)) 128
  cases hr : s.ready c n with
  | go gs =>
    cases best with
    | none => exact h.take hr fun b hb => absurd hb (by simp)
    | some b =>
      dsimp only
      split
      · next hp =>
        refine h.take hr fun x hx => ?_
        obtain rfl : b = x := Option.some.inj hx
        exact hp
      · next hp => exact h.keep hp
  | no => exact h.skip (by rw [hr]; rfl)
  | skip => exact h.skip (by rw [hr]; rfl)

theorem chosenIsFirst : Claim.ChosenIsFirst := by
  intro c s i gs h
  have hf := s.chosen_first c
  rw [h] at hf
  exact hf

/-! ### Entries that are skipped -/

theorem State.endFiring_two (s : State) (c : Cl) {j : Nat} (hj : j < 128) :
    let t := s.endFiring c { entry := j, order := 0, unit := .solver 0 0 } 2 0
    ((t.cl c).entry j).state = (if ((s.cl c).entry j).rearm then .waiting else .idle) ∧ (t.cl c).head = (s.cl c).head + 1 ∧
      (t.cl c).slots = (s.cl c).slots := by
  intro t
  have h := s.endFiring_spec c { entry := j, order := 0, unit := .solver 0 0 } (outcome := 2) (by decide) 0 true
  have ho := h.own
  rw [TEntry.completing_other _ (by decide)] at ho
  refine ⟨?_, ?_, ?_⟩
  · rw [ho.state, Cluster.closed_entry, if_pos ⟨rfl, hj⟩]
    rfl
  · rw [ho.head, Cluster.closed_head]
  · rw [ho.slots, Cluster.closed_slots]
    rfl

theorem State.skipAll_none {s : State} {c : Cl} (h : ∀ j, j < 128 → s.ready c j ≠ .skip) : s.skipAll c = s := by
  refine foldl_keeps_mem (q := fun t => t = s) (fun t i hi ht => ?_) (b := s) rfl
  subst ht
  split
  · next hr => exact absurd hr (h i (List.mem_range.mp hi))
  · rfl

/-- Tahr and the vector engine keep what they hold while entries are skipped. -/
theorem State.skipAll_units (s : State) (c : Cl) : ((s.skipAll c).cl c).vec = (s.cl c).vec ∧ ((s.skipAll c).cl c).tahr = (s.cl c).tahr := by
  refine foldl_keeps (q := fun t : State => (t.cl c).vec = (s.cl c).vec ∧ (t.cl c).tahr = (s.cl c).tahr) (fun t i ht => ?_) _ ⟨rfl, rfl⟩
  split
  · have ho := (t.endFiring_spec c { entry := i, order := 0, unit := .solver 0 0 } (outcome := 2) (by decide) 0 true).own
    exact ⟨by rw [ho.vec, Cluster.closed_vec, ht.1], by rw [ho.tahr, Cluster.closed_tahr, ht.2]⟩
  · exact ht

/-! ### A dispatch (R224, R229, R232, R235) -/

/-- What a dispatch does with the entry chosen: its condition, its faults, or the start of its unit. -/
theorem State.dispatch_eq (u : State) (c : Cl) (i : Nat) (gs : GSet) : u.dispatch c i gs =
    if ((u.cl c).entry i).kind = 3 && u.fmtInvalid c i ((u.cl c).entry i) then
      (dispatched u c i gs).onCl c fun k =>
        (k.dmaConds i ((firingOf u c i gs).unit.engine.getD 0) cFmtInvalid).onFiring i fun f => { f with ended := true }
    else if !u.descriptorOk c i ((u.cl c).entry i) then (dispatched u c i gs).faultFiring c { firingOf u c i gs with final := true } 5
    else if ((u.cl c).entry i).kind = 3 && !u.spansOk c i ((u.cl c).entry i) then
      (dispatched u c i gs).faultFiring c { firingOf u c i gs with final := true } 6
    else (dispatched u c i gs).startUnit c (firingOf u c i gs) := by
  cases gs <;> rfl

theorem Cluster.subSlot_rest (k : Cluster) (n a : Nat) : ∃ sl st, k.subSlot n a = { k with slots := sl, tstat := st } := by
  unfold Cluster.subSlot Cluster.setSlot Cluster.flag
  repeat' split
  all_goals exact ⟨_, _, rfl⟩

theorem Cluster.subSlots_rest (k : Cluster) (ws : List (Nat × Nat)) : ∃ sl st,
    ws.foldl (fun k w => k.subSlot w.1 w.2) k = { k with slots := sl, tstat := st } := by
  refine foldl_keeps (q := fun u : Cluster => ∃ sl st, u = { k with slots := sl, tstat := st }) (fun u p h => ?_) ws ⟨_, _, rfl⟩
  obtain ⟨sl, st, rfl⟩ := h
  obtain ⟨sl', st', e⟩ := Cluster.subSlot_rest { k with slots := sl, tstat := st } p.1 p.2
  rw [e]
  exact ⟨_, _, rfl⟩

theorem Cluster.claim_rest (k : Cluster) (i : Nat) (bs : List Nat) : ∃ b, k.claim i bs = { k with bufs := b } := by
  refine foldl_keeps (q := fun u : Cluster => ∃ b, u = { k with bufs := b }) (fun u p h => ?_) bs ⟨_, rfl⟩
  obtain ⟨b, rfl⟩ := h
  unfold Cluster.onBuf
  split <;> exact ⟨_, rfl⟩

theorem Cluster.count_rest (k : Cluster) (e s n : Nat) : ∃ x, k.count e s n = { k with stl := x } := by
  unfold Cluster.count
  split <;> exact ⟨_, rfl⟩

/-- A cluster one of whose entries is claimed for a dispatch. -/
def Cluster.dispatching (k : Cluster) (i : Nat) (gs : GSet) (e : TEntry) (f : Firing) : Cluster :=
  let k := if gs = [] then e.waits.foldl (fun k w => k.subSlot w.1 w.2) k else k
  let k := (k.claim i e.wbufs).onEntry i fun e => { e with state := if gs = [] then .running else .specRunning }
  ({ k with firings := k.firings ++ [f] } : Cluster).count 7 11 1

theorem Cluster.dispatching_rest (k : Cluster) (i : Nat) (gs : GSet) (e : TEntry) (f : Firing) : ∃ sl st b x, k.dispatching i gs e f =
    { k with
      slots := sl, tstat := st, bufs := b, stl := x, firings := k.firings ++ [f]
      table := (k.onEntry i fun e => { e with state := if gs = [] then .running else .specRunning }).table } := by
  obtain ⟨sl, st, hs⟩ : ∃ sl st, (if gs = [] then e.waits.foldl (fun k w => k.subSlot w.1 w.2) k else k) = { k with slots := sl, tstat := st } := by
    split
    · exact Cluster.subSlots_rest ..
    · exact ⟨_, _, rfl⟩
  unfold Cluster.dispatching
  rw [hs]
  obtain ⟨b, hb⟩ := Cluster.claim_rest { k with slots := sl, tstat := st } i e.wbufs
  dsimp only
  rw [hb, Cluster.onEntry_rest]
  obtain ⟨x, hx⟩ := Cluster.count_rest { k with
    slots := sl, tstat := st, bufs := b, firings := k.firings ++ [f]
    table := (k.onEntry i fun e => { e with state := if gs = [] then .running else .specRunning }).table } 7 11 1
  refine ⟨sl, st, b, x, Eq.trans ?_ hx⟩
  congr 1
  unfold Cluster.onEntry
  split <;> rfl

/-- The cluster of a dispatched entry. -/
theorem dispatched_cl (u : State) (c : Cl) (i : Nat) (gs : GSet) : ∃ sl st b x, (dispatched u c i gs).cl c =
    { u.cl c with
      slots := sl, tstat := st, bufs := b, stl := x, firings := (u.cl c).firings ++ [firingOf u c i gs]
      table := ((u.cl c).onEntry i fun e => { e with state := if gs = [] then .running else .specRunning }).table } := by
  rw [show (dispatched u c i gs).cl c = (u.cl c).dispatching i gs ((u.cl c).entry i) (firingOf u c i gs) from State.onCl_self (u.onRg _ _) _ _]
  exact Cluster.dispatching_rest ..

theorem dispatched_desc (u : State) (c : Cl) (i : Nat) (gs : GSet) : (((dispatched u c i gs).cl c).entry i).desc = ((u.cl c).entry i).desc := by
  obtain ⟨sl, st, b, x, h⟩ := dispatched_cl u c i gs
  rw [h]
  change (((u.cl c).onEntry i _).entry i).desc = _
  by_cases hi : i < 128
  · rw [Cluster.entry_onEntry_self hi]
  · rw [Cluster.onEntry, dif_neg hi]

theorem dispatched_vec (u : State) (c : Cl) (i : Nat) (gs : GSet) : ((dispatched u c i gs).cl c).vec = (u.cl c).vec := by
  obtain ⟨sl, st, b, x, h⟩ := dispatched_cl u c i gs
  rw [h]

theorem dispatched_tahr (u : State) (c : Cl) (i : Nat) (gs : GSet) : ((dispatched u c i gs).cl c).tahr = (u.cl c).tahr := by
  obtain ⟨sl, st, b, x, h⟩ := dispatched_cl u c i gs
  rw [h]

theorem dispatched_firing (u : State) (c : Cl) (i : Nat) (gs : GSet) : ∃ f, ((dispatched u c i gs).cl c).firing i = some f := by
  obtain ⟨sl, st, b, x, h⟩ := dispatched_cl u c i gs
  rw [h, ← Option.isSome_iff_exists]
  unfold Cluster.firing
  rw [List.find?_isSome]
  exact ⟨firingOf u c i gs, by simp, by simp [firingOf]⟩

/-- An invalid descriptor of a format ends its firing at once with that condition (R108). -/
theorem dispatched_invalid (u : State) (c : Cl) (i : Nat) (gs : GSet) (e : Fin 4) :
    ∃ g, ((((dispatched u c i gs).cl c).dmaConds i e cFmtInvalid).onFiring i fun f => { f with ended := true }).firing i = some g ∧
      g.ended = true ∧ g.conds &&& cFmtInvalid = cFmtInvalid := by
  obtain ⟨f, hf⟩ := dispatched_firing u c i gs
  refine ⟨{ f with conds := f.conds ||| cFmtInvalid, ended := true }, ?_, rfl, ?_⟩
  · rw [Cluster.firing_onFiring (by exact fun _ => rfl)]
    change Option.map _ ((((dispatched u c i gs).cl c).onFiring i fun f => { f with conds := f.conds ||| cFmtInvalid }).firing i) = _
    rw [Cluster.firing_onFiring (by exact fun _ => rfl), hf]
    rfl
  · apply BitVec.eq_of_getLsbD_eq
    intro j hj
    simp only [BitVec.getLsbD_and, BitVec.getLsbD_or]
    cases f.conds.getLsbD j <;> cases cFmtInvalid.getLsbD j <;> rfl

/-- A field of a descriptor says the same of two entries with one descriptor. -/
theorem TEntry.f_congr {e d : TEntry} (h : e.desc = d.desc) (k lo len : Nat) : e.f k lo len = d.f k lo len := by
  rw [TEntry.f, TEntry.f, h]

theorem TEntry.word_congr {e d : TEntry} (h : e.desc = d.desc) (k : Nat) : e.word k = d.word k := by
  rw [TEntry.word, TEntry.word, h]

theorem firingOf_unit {u : State} {c : Cl} {i : Nat} {gs : GSet} : (firingOf u c i gs).unit = (u.cl c).unitOf ((u.cl c).entry i) := rfl

theorem Cluster.unitOf_array {k : Cluster} {e : TEntry} (h : e.kind = 1) : k.unitOf e = .array := by simp [Cluster.unitOf, h]
theorem Cluster.unitOf_vector {k : Cluster} {e : TEntry} (h : e.kind = 2) : k.unitOf e = .vector := by simp [Cluster.unitOf, h]
theorem Cluster.unitOf_solver {k : Cluster} {e : TEntry} (h : e.kind = 4) : k.unitOf e = .solver 0 0 := by simp [Cluster.unitOf, h]

/-- The registers that a kernel finds (R224). -/
theorem kernelRegs_get (e : TEntry) (t : Tahr) (ht : t.x = kernelRegs e) :
    t.get 2 = BitVec.ofNat 64 (e.f 5 32 23) ∧ t.get 10 = e.word 7 ∧ t.get 11 = e.word 8 ∧ t.get 12 = e.word 9 ∧ t.get 13 = e.word 10 ∧
      ∀ r : BitVec 5, r ≠ 2 → r ≠ 10 → r ≠ 11 → r ≠ 12 → r ≠ 13 → t.get r = 0 := by
  unfold Tahr.get
  rw [ht]
  refine ⟨rfl, rfl, rfl, rfl, rfl, fun r h2 h10 h11 h12 h13 => ?_⟩
  have hn (a : BitVec 5) (h : r ≠ a) : a.toNat ≠ r.toNat := fun e => h (BitVec.eq_of_toNat_eq e.symm)
  have n2 := hn 2 h2
  have n10 := hn 10 h10
  have n11 := hn 11 h11
  have n12 := hn 12 h12
  have n13 := hn 13 h13
  simp only [BitVec.toNat_ofNat, BitVec.ofNat_eq_ofNat, Nat.reducePow, Nat.reduceMod] at n2 n10 n11 n12 n13
  unfold kernelRegs
  rw [Vector.getElem_set_ne _ _ n13, Vector.getElem_set_ne _ _ n12, Vector.getElem_set_ne _ _ n11, Vector.getElem_set_ne _ _ n10,
    Vector.getElem_set_ne _ _ n2, Vector.getElem_replicate]
  exact ite_self _

theorem dispatched_startArray {u : State} {c : Cl} {i : Nat} {gs : GSet} (h : ((u.cl c).entry i).kind = 1) :
    (dispatched u c i gs).startUnit c (firingOf u c i gs) = (dispatched u c i gs).onCl c fun k =>
      { k with arr := { k.arr with
        task := some { entry := i, addr := ((u.cl c).entry i).f 5 0 23, left := ((u.cl c).entry i).f 5 32 16, strict := ((u.cl c).entry i).strict }
        conds := 0, touched := [] } } := by
  have hd := dispatched_desc u c i gs
  unfold State.startUnit
  rw [firingOf_unit, Cluster.unitOf_array h]
  change State.onCl _ _ _ = _
  congr 1
  funext k
  rw [show (firingOf u c i gs).entry = i from rfl, TEntry.addr, TEntry.strict, TEntry.f_congr hd, TEntry.f_congr hd, TEntry.f_congr hd]
  rfl

theorem dispatched_startSolver {u : State} {c : Cl} {i : Nat} {gs : GSet} (h : ((u.cl c).entry i).kind = 4) :
    (dispatched u c i gs).startUnit c (firingOf u c i gs) = (dispatched u c i gs).onRg (rgOf c) fun x =>
      { x with nyala := { x.nyala with queue := x.nyala.queue ++ [{ cl := c, entry := i }] } } := by
  unfold State.startUnit
  rw [firingOf_unit, Cluster.unitOf_solver h]
  rfl

/-- A kernel starts on Tahr and the vector engine (R224, R235). -/
def Cluster.startKernel (k : Cluster) (i ticks : Nat) (e : TEntry) : Cluster :=
  { k with
    tahr := { k.tahr with x := kernelRegs e, pc := BitVec.ofNat 64 e.addr, kernel := some { entry := i, start := ticks }, wait := none, summaries := [] }
    vec := { k.vec with strict := e.strict, conds := 0 }
    arr := if e.usesArray then { k.arr with conds := 0, touched := [] } else k.arr }

/-- What the kernel of a dispatched entry finds in Tahr and in the vector engine. -/
theorem dispatched_startVector {u : State} {c : Cl} {i : Nat} {gs : GSet} (h : ((u.cl c).entry i).kind = 2) :
    let e := (u.cl c).entry i
    let k := ((dispatched u c i gs).startUnit c (firingOf u c i gs)).cl c
    k.tahr.x = kernelRegs e ∧ k.tahr.pc = BitVec.ofNat 64 (e.f 5 0 23) ∧ k.vec.strict = e.strict ∧ k.vec.v = (u.cl c).vec.v ∧
      k.tahr.wait = none ∧ k.tahr.icache = (u.cl c).tahr.icache := by
  intro e k
  have hd := dispatched_desc u c i gs
  have hs : (dispatched u c i gs).startUnit c (firingOf u c i gs) = (dispatched u c i gs).onCl c fun k =>
      k.startKernel i (dispatched u c i gs).pwr.islands[(fromCluster c).island].ticks.toNat (((dispatched u c i gs).cl c).entry i) := by
    unfold State.startUnit
    rw [firingOf_unit, Cluster.unitOf_vector h]
    rfl
  have hk : k = ((dispatched u c i gs).cl c).startKernel i _ _ := (congrArg (·.cl c) hs).trans (State.onCl_self _ _ _)
  rw [hk]
  refine ⟨?_, ?_, ?_, ?_, rfl, ?_⟩
  · simp only [Cluster.startKernel, kernelRegs, TEntry.f_congr hd, TEntry.word_congr hd, e]
  · simp only [Cluster.startKernel, TEntry.addr, TEntry.f_congr hd, e]
  · simp only [Cluster.startKernel, TEntry.strict, TEntry.f_congr hd, e]
  · have hv := congrArg Vec.v (dispatched_vec u c i gs)
    exact hv
  · have hi := congrArg Tahr.icache (dispatched_tahr u c i gs)
    exact hi

theorem State.onCl_const (s : State) (c : Cl) (f : Cluster → Cluster) : s.onCl c f = s.onCl c fun _ => f (s.cl c) := rfl

theorem exec_taskDispatch (s : State) (c : Cl) : exec (.taskDispatch c) s = execTaskDispatch c s := rfl

theorem exec_taskDispatch_chosen {s : State} {c : Cl} (h : s.dispatchOff c = false) {i : Nat} {gs : GSet}
    (hc : (s.skipAll c).chosen c = some (i, gs)) : exec (.taskDispatch c) s = .next ((s.skipAll c).dispatch c i gs) := by
  rw [exec_taskDispatch, execTaskDispatch, if_neg (by rw [h]; decide)]
  dsimp only
  rw [hc]

theorem dispatchStartsUnit : Claim.DispatchStartsUnit := by
  intro c s
  refine ⟨fun h => ?_, State.skipAll_none, fun j hj => s.endFiring_two c hj, fun hoff => ?_⟩
  · rw [exec_taskDispatch]
    refine if_pos ?_
    unfold State.dispatchOff
    rcases h with h | h | h | h | h <;> simp [h]
  intro u
  refine ⟨fun hn => ?_, fun i gs hc => ?_⟩
  · rw [exec_taskDispatch, execTaskDispatch, if_neg (by rw [hoff]; decide)]
    dsimp only
    rw [show (s.skipAll c).chosen c = none from hn]
  intro e d f
  have hex := exec_taskDispatch_chosen hoff hc
  rw [State.dispatch_eq] at hex
  refine ⟨fun hk hf => ?_, fun hf => ?_⟩
  · refine ⟨((d.cl c).dmaConds i (f.unit.engine.getD 0) cFmtInvalid).onFiring i fun f => { f with ended := true },
      hex.trans (congrArg _ ((if_pos ?_).trans (State.onCl_const ..))), dispatched_invalid u c i gs _⟩
    rw [decide_eq_true hk, Bool.true_and]
    exact hf
  have hf' : ¬ (decide (e.kind = 3) && u.fmtInvalid c i e) = true := by
    rw [Bool.and_eq_true, decide_eq_true_eq, not_and_or, Bool.not_eq_true]
    exact hf
  have hex2 := hex.trans (congrArg _ (if_neg hf'))
  refine ⟨fun hd => ?_, fun hd hk hs => ?_, fun hd hs => ?_⟩
  · exact hex2.trans (congrArg _ (if_pos (by rw [Bool.not_eq_true']; exact hd)))
  · refine hex2.trans (congrArg _ ((if_neg ?_).trans (if_pos ?_)))
    · rw [Bool.not_eq_true', Bool.not_eq_false]
      exact hd
    · rw [decide_eq_true hk, Bool.true_and, Bool.not_eq_true']
      exact hs
  have hstart : exec (.taskDispatch c) s = .next (d.startUnit c f) := by
    refine hex2.trans (congrArg _ ((if_neg ?_).trans (if_neg ?_)))
    · rw [Bool.not_eq_true', Bool.not_eq_false]
      exact hd
    · rw [Bool.and_eq_true, decide_eq_true_eq, not_and_or, Bool.not_eq_true', Bool.not_eq_false]
      exact hs
  refine ⟨hstart, dispatched_startArray, dispatched_startSolver, fun hk => ⟨_, hstart, ?_⟩⟩
  obtain ⟨hx, hpc, hstrict, hv, hwait, hic⟩ := dispatched_startVector (gs := gs) hk
  obtain ⟨h2, h10, h11, h12, h13, hr⟩ := kernelRegs_get e _ hx
  obtain ⟨huv, hut⟩ := s.skipAll_units c
  exact ⟨hpc, h2, h10, h11, h12, h13, hr, hstrict, hv.trans (congrArg Vec.v huv), hwait, hic.trans (congrArg Tahr.icache hut)⟩

/-- Settles O22: a dispatch takes the first ready entry, and starts its unit or ends its firing as its descriptor says. -/
theorem dispatchChoosesAndStarts : Obligations.DispatchChoosesAndStarts := ⟨dispatchStartsUnit, chosenIsFirst⟩

/-! ### The completion of a firing (R225, R234, R236) -/

/-- A cluster one of whose firings has finished its work. -/
def Cluster.finishing (k : Cluster) (f : Firing) : Cluster :=
  let g := { f with conds := k.firingConds f, final := true }
  let k := k.onFiring f.entry fun _ => g
  if f.unit.isArray then { k with arr := { k.arr with task := none, touched := [] } }
  else if f.unit.isVector && (k.entry f.entry).usesArray then { k with arr := { k.arr with touched := [] } }
  else k

theorem Cluster.finishing_rest (k : Cluster) (f : Firing) : ∃ a, k.finishing f =
    { k with arr := a, firings := (k.onFiring f.entry fun _ => { f with conds := k.firingConds f, final := true }).firings } := by
  unfold Cluster.finishing
  dsimp only
  split
  · exact ⟨_, rfl⟩
  · split <;> exact ⟨_, rfl⟩

theorem Cluster.firing_entry {k : Cluster} {i : Nat} {f : Firing} (h : k.firing i = some f) : f.entry = i := by
  simpa using List.find?_some h

/-- The firing of an entry all of whose firings become another of that entry. -/
theorem Cluster.firing_replaced {k : Cluster} {i : Nat} {f g : Firing} (h : k.firing i = some f) (hg : g.entry = i) :
    (k.onFiring i fun _ => g).firing i = some g := by
  unfold Cluster.firing Cluster.onFiring
  rw [List.find?_map]
  have hkey : ((fun x : Firing => x.entry == i) ∘ fun x => if x.entry = i then g else x) = fun x => x.entry == i := by
    funext x
    simp only [Function.comp]
    split
    · next e => rw [hg, e]
    · rfl
  rw [hkey, show k.firings.find? (fun x => x.entry == i) = some f from h]
  simp [Cluster.firing_entry h]

theorem Cluster.firing_finishing {k : Cluster} {i : Nat} {f : Firing} (h : k.firing i = some f) :
    (k.finishing f).firing i = some { f with conds := k.firingConds f, final := true } := by
  obtain ⟨a, ha⟩ := k.finishing_rest f
  obtain rfl := Cluster.firing_entry h
  rw [ha]
  exact Cluster.firing_replaced h rfl

theorem Cluster.entry_finishing (k : Cluster) (f : Firing) (j : Nat) : (k.finishing f).entry j = k.entry j := by
  obtain ⟨a, ha⟩ := k.finishing_rest f
  rw [ha]
  rfl

/-- The firing that has finished its work. -/
def finished (s : State) (c : Cl) (f : Firing) : Firing := { f with conds := (s.cl c).firingConds f, final := true }

/-- What completes, is held, or waits for its commit when a firing has finished its work. -/
theorem State.complete_eq {s : State} {c : Cl} {n : Nat} {f : Firing} (h : (s.cl c).firing n = some f) :
    s.complete c f =
      if f.held then
        ((s.onCl c (·.finishing f)).onCl c fun k => (k.onFiring f.entry fun x => { x with signalled := true }).onEntry f.entry fun e =>
          { e with state := .held }).holdSignals c { finished s c f with signalled := true }
      else if f.committing then (s.onCl c (·.finishing f)).onCl c (·.onEntry f.entry fun e => { e with state := .held })
      else (s.onCl c (·.finishing f)).endFiring c (finished s c f) 0 0 := by
  have he := Cluster.firing_entry h
  have hf : ((s.onCl c (·.finishing f)).cl c).firing f.entry = some (finished s c f) := by
    rw [State.onCl_self, he]
    exact Cluster.firing_finishing h
  change (match ((s.onCl c (·.finishing f)).cl c).firing f.entry with | none => _ | some g => _) = _
  rw [hf]
  rfl

theorem exec_taskComplete {s : State} {c : Cl} {n : BitVec 7} {f : Firing} (h : (s.cl c).firing n.toNat = some f) :
    exec (.taskComplete c n) s = .next (if !f.final && (s.cl c).workEnded f then s.complete c f else s) := by
  change execTaskComplete c n s = _
  rw [execTaskComplete, h]
  dsimp only
  split <;> rfl

theorem exec_taskComplete_ended {s : State} {c : Cl} {n : BitVec 7} {f : Firing} (h : (s.cl c).firing n.toNat = some f) (hf : f.final = false)
    (hw : (s.cl c).workEnded f = true) : exec (.taskComplete c n) s = .next (s.complete c f) := by
  rw [exec_taskComplete h, hf, hw]
  rfl

/-! ### A speculative firing is held (R247) -/

theorem State.onRg_id (s : State) (r : Rg) : s.onRg r (fun x => x) = s := by
  have : s.rgs.set r (s.rgs[r]) = s.rgs := Vector.set_getElem_self _
  exact congrArg (fun x => { s with rgs := x }) this

theorem State.onRg_onRg (s : State) (r : Rg) (f g : Region → Region) : (s.onRg r f).onRg r g = s.onRg r fun x => g (f x) := by
  have : (s.rgs.set r (f s.rgs[r])).set r (g ((s.rgs.set r (f s.rgs[r]))[r])) = s.rgs.set r (g (f s.rgs[r])) := by simp
  exact congrArg (fun x => { s with rgs := x }) this

/-- An item in the held table of a firing. -/
def heldOf (c : Cl) (f : Firing) (h : HItem) : Held := { item := h, cl := c, entry := f.entry, order := f.order, guards := f.guards }

/-- Items for which the held table has room enter it. -/
theorem State.holdItems (c : Cl) (f : Firing) (items : List HItem) (t : State) (h : (t.rg (rgOf c)).held.length + items.length ≤ 512) :
    items.foldl (fun s x => s.holdItem c f x) t = t.onRg (rgOf c) fun r => { r with held := r.held ++ items.map (heldOf c f) } := by
  induction items generalizing t with
  | nil =>
    refine (t.onRg_id (rgOf c)).symm.trans (congrArg (t.onRg (rgOf c)) ?_)
    funext r
    simp
  | cons x xs ih =>
    rw [List.length_cons] at h
    have hx : t.holdItem c f x = t.onRg (rgOf c) fun r => { r with held := r.held ++ [heldOf c f x] } := if_neg (by omega)
    have hl : ((t.onRg (rgOf c) fun r => { r with held := r.held ++ [heldOf c f x] }).rg (rgOf c)).held.length = (t.rg (rgOf c)).held.length + 1 := by
      rw [State.onRg_self]
      simp
    rw [List.foldl_cons, hx, ih _ (by omega), State.onRg_onRg]
    refine congrArg (t.onRg (rgOf c)) ?_
    funext r
    simp

/-- The cluster of a speculative firing that becomes HELD. -/
def Cluster.holding (k : Cluster) (f : Firing) : Cluster :=
  ((k.finishing f).onFiring f.entry fun x => { x with signalled := true }).onEntry f.entry fun e => { e with state := .held }

theorem Cluster.holding_rest (k : Cluster) (f : Firing) : ∃ a, k.holding f =
    { k with arr := a, firings := (k.holding f).firings, table := (k.onEntry f.entry fun e => { e with state := .held }).table } := by
  obtain ⟨a, ha⟩ := k.finishing_rest f
  refine ⟨a, ?_⟩
  unfold Cluster.holding
  rw [ha]
  unfold Cluster.onEntry Cluster.onFiring
  split <;> rfl

theorem Cluster.firing_holding {k : Cluster} {i : Nat} {f : Firing} (h : k.firing i = some f) :
    (k.holding f).firing i = some { f with conds := k.firingConds f, final := true, signalled := true } := by
  obtain rfl := Cluster.firing_entry h
  unfold Cluster.holding
  rw [Cluster.firing_of_firings (congrArg Cluster.firings (Cluster.onEntry_rest _ _ _))]
  change ((k.finishing f).onFiring f.entry _).firing f.entry = _
  rw [Cluster.firing_onFiring (by exact fun _ => rfl), Cluster.firing_finishing h]
  rfl

theorem Cluster.entry_holding (k : Cluster) (f : Firing) (hf : f.entry < 128) : (k.holding f).entry f.entry = { k.entry f.entry with state := .held } := by
  obtain ⟨a, h⟩ := k.holding_rest f
  rw [h]
  exact Cluster.entry_onEntry_self hf _

theorem State.holdSignals_eq (t : State) (c : Cl) (f : Firing) : t.holdSignals c f =
    if 512 < (t.rg (rgOf c)).held.length + (signalsOf c ((t.cl c).entry f.entry)).length then t.squash c f 1
    else (signalsOf c ((t.cl c).entry f.entry)).foldl (fun s h => s.holdItem c f h) t := rfl

theorem signalsOf_congr {e d : TEntry} (h : e.desc = d.desc) (c : Cl) : signalsOf c e = signalsOf c d := by
  simp only [signalsOf, TEntry.prods, TEntry.remotes, TEntry.f_congr h]

/-- A speculative firing whose work has ended: its cluster holds it, and then its signals. -/
theorem State.complete_held {s : State} {c : Cl} {n : BitVec 7} {f : Firing} (h : (s.cl c).firing n.toNat = some f) (hh : f.held = true) :
    s.complete c f = (s.onCl c (·.holding f)).holdSignals c { finished s c f with signalled := true } := by
  rw [State.complete_eq h, if_pos hh, State.onCl_onCl]
  rfl

theorem State.onRg_cl (s : State) (r : Rg) (g : Region → Region) (d : Cl) : (s.onRg r g).cl d = s.cl d := rfl

theorem speculativeFiringHeld : Claim.SpeculativeFiringHeld := by
  intro c s n f hf hfin hheld hw e rg
  have hex := exec_taskComplete_ended hf hfin hw
  rw [State.complete_held hf hheld, State.holdSignals_eq] at hex
  have he : f.entry = n.toNat := Cluster.firing_entry hf
  have hlt : f.entry < 128 := by rw [he]; exact n.isLt
  have hent := (s.cl c).entry_holding f hlt
  have hsig : signalsOf c (((s.onCl c (·.holding f)).cl c).entry f.entry) = signalsOf c e := by
    rw [State.onCl_self, hent, he]
    rfl
  have hsig' : signalsOf c (((s.onCl c (·.holding f)).cl c).entry ({ finished s c f with signalled := true } : Firing).entry) = signalsOf c e := hsig
  rw [hsig'] at hex
  refine ⟨fun hroom => ?_, fun hfull => ?_⟩
  · have hex2 := hex.trans (congrArg _ (if_neg (Nat.not_lt.mpr hroom)))
    rw [State.holdItems c { finished s c f with signalled := true } _ (s.onCl c (·.holding f)) hroom] at hex2
    refine ⟨_, hex2, rfl, fun d hd => ?_, fun q hq => State.onRg_other _ _ hq, ?_⟩
    · exact (State.onRg_cl ..).trans (State.onCl_other s _ hd)
    rw [State.onRg_self]
    obtain ⟨a, hr⟩ := (s.cl c).holding_rest f
    have hcl : ∀ g, ((s.onCl c (·.holding f)).onRg (rgOf c) g).cl c = (s.cl c).holding f := fun g => (State.onRg_cl ..).trans (State.onCl_self s _ _)
    rw [hcl]
    refine ⟨by rw [← he, hent], by rw [hr], by rw [hr], by rw [hr], Cluster.firing_holding hf, rfl⟩
  · refine ⟨s.onCl c (·.holding f), { finished s c f with signalled := true }, hex.trans (congrArg _ (if_pos hfull)), rfl,
      fun d hd => State.onCl_other s _ hd, he, rfl, hheld⟩

/-! ### A firing that holds nothing completes (R234, R236, R241) -/

/-- The result of a completed firing depends on what the firing worked on alone. -/
theorem State.rootResult_finished (s : State) (c : Cl) (f : Firing) :
    ((s.onCl c (·.finishing f)).rootResult c (finished s c f)).result = (s.rootResult c f).result := by
  change (match s.opOf c f.entry, f.unit, s.partCode c with | some (_, o), .vector, some k => _ | _, _, _ => _ : Firing).result = _
  unfold State.rootResult
  generalize s.opOf c f.entry = a, f.unit = b, s.partCode c = d
  rcases a with _ | ⟨_, o⟩
  · rfl
  · cases b with
    | vector =>
      cases d with
      | none => rfl
      | some k =>
        dsimp only
        split <;> rfl
    | array => rfl
    | dma => rfl
    | solver => rfl

theorem TEntry.sends_length (e : TEntry) : e.sends.length = (e.remotes.filter fun p => p.1 < 384).length := by
  unfold TEntry.sends
  rw [List.length_filterMap_eq_countP, List.countP_eq_length_filter]
  congr 2
  funext p
  unfold clOf
  split <;> simp_all

theorem Cluster.buf_release {k : Cluster} {i b : Nat} {bs : Vector TBuf 64}
    (h : bs = k.bufs.map fun b => if b.claimed && b.owner.toNat == i then { b with claimed := false } else b) {u : Cluster} (hu : u.bufs = bs) :
    (u.buf b).claimed = ((k.buf b).claimed && (k.buf b).owner.toNat != i) := by
  unfold Cluster.buf
  by_cases hb : b < 64
  · rw [dif_pos hb, dif_pos hb, getElem_congr_coll hu, getElem_congr_coll h, Vector.getElem_map]
    cases hc : k.bufs[b].claimed
    · simp [hc]
    · by_cases ho : k.bufs[b].owner.toNat = i <;> simp [hc, ho]
  · rw [dif_neg hb, dif_neg hb]
    rfl

theorem State.closeFiring_told (s : State) (c : Cl) (f : Firing) (outcome cause : Nat) (signals : Bool) :
    (s.closeFiring c f outcome cause signals).events = s.events ∧ (s.closeFiring c f outcome cause signals).ports = s.ports ∧
      (s.closeFiring c f outcome cause signals).run = s.run := by
  simp only [State.closeFiring, State.onCl, State.tileWrite, and_self]

theorem TEntry.completing_zero (e : TEntry) : e.completing 0 true = (e.prods, e.sends) := if_pos ⟨rfl, rfl⟩

/-- A completion whose task is bound to no guard, while no quiesce is under way, settles nothing and tells the hosts nothing. -/
theorem State.endFiring_quietly {t : State} {c : Cl} {g : Firing} {cause : Nat} {signals : Bool}
    (hg : ((t.cl c).entry g.entry).guardEn = false) (hs : t.run.stopping = false) :
    (∀ d, d ≠ c → (t.endFiring c g 0 cause signals).cl d = t.cl d) ∧ (t.endFiring c g 0 cause signals).events = t.events ∧
      (t.endFiring c g 0 cause signals).ports = t.ports := by
  obtain ⟨r, hr⟩ := t.rootResult_spec c g
  rw [State.endFiring_completes]
  obtain ⟨hev, hpo, hrun⟩ := t.closeFiring_told c g 0 cause signals
  have hc := t.closeFiring_ends c g 0 cause signals
  have hcl : ∀ d, d ≠ c → (t.closeFiring c g 0 cause signals).cl d = t.cl d := fun d hd =>
    (congrArg (·[d]) (t.closeFiring_cls c g 0 cause signals)).trans (State.onCl_other t _ hd)
  generalize t.closeFiring c g 0 cause signals = u at *
  have hn := (State.Notes.refl u).report c (t.rootResult c g)
  have hfree : ((u.cl c).entry g.entry).guardEn = false := by
    rw [TEntry.guardEn, TEntry.f, hc.own.desc, Cluster.closed_desc]
    exact hg
  have hrep := State.report_of_free (s := u) (c := c) (f := t.rootResult c g) (by rw [hr]; exact hfree)
  have hsettle : (u.report c (t.rootResult c g)).settle c g.entry = u.report c (t.rootResult c g) := by
    unfold State.settle
    exact if_pos (by rw [hn.cl, hfree]; rfl)
  have hgo : (u.report c (t.rootResult c g)).run.stopping = false := by
    rw [hn.run]
    exact (congrArg Run.stopping hrun).trans hs
  rw [hsettle, State.quietDone_of_going hgo]
  exact ⟨fun d hd => (hn.cl d).trans (hcl d hd), (congrArg State.events hrep).trans hev, (congrArg State.ports hrep).trans hpo⟩

theorem firingCompletes : Claim.FiringCompletes := by
  intro c s n f hf
  have he : f.entry = n.toNat := Cluster.firing_entry hf
  have hlt : f.entry < 128 := by rw [he]; exact n.isLt
  refine ⟨fun h => ?_, fun hfin hheld hcom hw => ?_, fun hfin hheld hcom hw => ?_, fun h => ?_⟩
  · rw [exec_taskComplete hf]
    refine congrArg _ (if_neg ?_)
    rw [Bool.and_eq_true, Bool.not_eq_true', not_and_or, Bool.not_eq_false, Bool.not_eq_true]
    exact h
  · have hex := exec_taskComplete_ended hf hfin hw
    rw [State.complete_eq hf, if_neg (by rw [hheld]; decide), if_pos hcom, State.onCl_onCl] at hex
    refine ⟨_, hex, OnlyCluster.onCl .., ?_⟩
    rw [State.onCl_self]
    obtain ⟨a, hr⟩ := (s.cl c).finishing_rest f
    refine ⟨?_, ?_, ?_, ?_⟩
    · rw [← he, Cluster.entry_onEntry_self hlt]
    · rw [Cluster.onEntry_rest, hr]
    · rw [Cluster.onEntry_rest, hr]
    · rw [Cluster.firing_of_firings (congrArg Cluster.firings (Cluster.onEntry_rest _ _ _))]
      exact Cluster.firing_finishing hf
  · intro e k
    have hex := exec_taskComplete_ended hf hfin hw
    rw [State.complete_eq hf, if_neg (by rw [hheld]; decide), if_neg (by rw [hcom]; decide)] at hex
    have ht := (s.onCl c (·.finishing f)).endFiring_spec c (finished s c f) (outcome := 0) (by decide) 0 true
    have hent : ((s.onCl c (·.finishing f)).cl c).entry (finished s c f).entry = e := by
      rw [State.onCl_self, Cluster.entry_finishing]
      exact congrArg (s.cl c).entry he
    have hk : (s.onCl c (·.finishing f)).cl c = k.finishing f := State.onCl_self s _ _
    have hto := ht.own
    have htf := ht.flights
    have htm := ht.mem
    rw [hent, TEntry.completing_zero, hk] at hto
    rw [hent, TEntry.completing_zero] at htf
    rw [hent] at htm
    change ((k.finishing f).closed f.entry 0 e.prods).Settles _ at hto
    rw [he] at hto
    obtain ⟨a, hr⟩ := k.finishing_rest f
    have hslots : (k.finishing f).slots = k.slots := by rw [hr]
    have hhead : (k.finishing f).head = k.head := by rw [hr]
    have htail : (k.finishing f).tail = k.tail := by rw [hr]
    have hbufs : (k.finishing f).bufs = k.bufs := by rw [hr]
    refine ⟨_, hex, ?_, ?_, ?_, ?_, ?_, fun b => ?_, ?_, fun d hd => ?_, fun hg => ?_, fun hg hs => ?_⟩
    · rw [Cluster.firing_of_firings hto.firings]
      exact Cluster.firing_closed ..
    · rw [hto.state, Cluster.closed_entry, if_pos ⟨rfl, n.isLt⟩, Cluster.entry_finishing]
      rfl
    · rw [hto.head, Cluster.closed_head, hhead]
    · rw [hto.tail, Cluster.closed_tail, hhead, htail]
    · rw [hto.slots, Cluster.closed_slots]
      exact Cluster.addSlots_slots hslots _
    · exact Cluster.buf_release (k := k) (hbufs ▸ rfl) (hto.bufs.trans Cluster.closed_bufs)
    · rw [htf, List.length_append, TEntry.sends_length]
      rfl
    · have := (ht.other d hd).rest
      rw [State.onCl_other s _ hd] at this
      exact this
    · refine ⟨endCycles s, ?_⟩
      rw [htm (.inr hg)]
      have hrec : endRecord (s.onCl c (·.finishing f)) c (finished s c f) 0 0 =
          writesAt (k.cringBase.toNat * 32 + k.head.toNat * 32) (wordBytes
            (recordWords e n.toNat e.kind 0 f.status.toNat 0 (endCycles s) (s.rootResult c f).result.toNat (k.firingConds f))) := by
        unfold endRecord endWords
        rw [hent, if_pos rfl, State.rootResult_finished, hk, hr]
        rw [show (finished s c f).entry = n.toNat from he]
        rfl
      rw [hrec]
      rfl
    · have hq := State.endFiring_quietly (t := s.onCl c (·.finishing f)) (c := c) (g := finished s c f) (cause := 0) (signals := true)
        (by rw [hent]; exact hg) hs
      exact ⟨fun d hd => (hq.1 d hd).trans (State.onCl_other s _ hd), hq.2.1, hq.2.2⟩
  · unfold State.rootResult
    split
    · next o hop hun hpc =>
      rcases h with h | h | h
      · exact if_neg (h _ hop)
      · exact absurd hun h
      · exact absurd (hpc.symm.trans h) (by simp)
    · rfl

/-- Settles O23: what a firing whose work has ended leaves, held or complete. -/
theorem firingsEnd : Obligations.FiringsEnd := ⟨speculativeFiringHeld, firingCompletes⟩

/-! ### Signals that arrive (R230, R234) -/

theorem exec_signalArrival_none {c : Cl} {k : Nat} {s : State} (h : takeNth (s.flights.filter fun f => f.cl == c) k = none) :
    exec (.signalArrival c k) s = .next s := by
  change execSignalArrival c k s = _
  unfold execSignalArrival
  rw [List.partition_eq_filter_filter]
  dsimp only
  rw [h]

theorem exec_signalArrival_some {c : Cl} {k : Nat} {s : State} {f : Flight} {more : List Flight}
    (h : takeNth (s.flights.filter fun f => f.cl == c) k = some (f, more)) :
    exec (.signalArrival c k) s = .next ({ s with flights := more ++ s.flights.filter fun f : Flight => f.cl != c }.onCl c fun _ =>
      if (s.cl c).fenced.isSome then s.cl c else (s.cl c).addSlot f.slot.toNat f.amount.toNat) := by
  change execSignalArrival c k s = _
  unfold execSignalArrival
  rw [List.partition_eq_filter_filter]
  dsimp only
  rw [h]
  rfl

theorem Cluster.slot_setSlot_self (k : Cluster) {n v : Nat} (hn : n < 256) (hv : v < 65536) : (k.setSlot n v).slot n = v := by
  simp [Cluster.slot, Cluster.setSlot, hn, Nat.mod_eq_of_lt hv]

theorem Cluster.slot_setSlot_other (k : Cluster) {n m : Nat} (v : Nat) (h : m ≠ n) : (k.setSlot n v).slot m = k.slot m := by
  unfold Cluster.setSlot
  by_cases hn : n < 256
  · by_cases hm : m < 256
    · simp [Cluster.slot, hn, hm, Vector.getElem_set_ne, Ne.symm h]
    · simp [Cluster.slot, hm]
  · simp [hn]

theorem Cluster.setSlot_tstat (k : Cluster) (n v : Nat) : (k.setSlot n v).tstat = k.tstat := by
  unfold Cluster.setSlot
  split <;> rfl

/-- A signal is added to its slot, which stays at 65,535 with SLOT_OVF set where it would pass it (R230). -/
theorem Cluster.addSlot_spec (k : Cluster) {n : Nat} (a : Nat) (hn : n < 256) : (k.addSlot n a).slot n = min 65535 (k.slot n + a) ∧
    (k.addSlot n a).tstat = k.tstat ||| (if 65535 < k.slot n + a then 1#5 else 0) ∧ ∀ m, m ≠ n → (k.addSlot n a).slot m = k.slot m := by
  unfold Cluster.addSlot
  split
  · next h =>
    refine ⟨?_, ?_, fun m hm => k.slot_setSlot_other _ hm⟩
    · rw [Nat.min_eq_left (by omega)]
      exact k.slot_setSlot_self hn (by decide)
    · exact congrArg (· ||| 1#5) (k.setSlot_tstat n 65535)
  · next h =>
    refine ⟨?_, ?_, fun m hm => k.slot_setSlot_other _ hm⟩
    · rw [Nat.min_eq_right (by omega)]
      exact k.slot_setSlot_self hn (by omega)
    · rw [Cluster.setSlot_tstat, BitVec.ofNat_eq_ofNat, BitVec.or_zero]

theorem signalsAndPeak : Claim.SignalsAndPeak := by
  refine ⟨fun c s k h => ?_, fun c s k f more h => ⟨fun hf => ?_, fun hf => ?_⟩, fun r s => rfl⟩
  · exact exec_signalArrival_none h
  · rw [exec_signalArrival_some h, if_pos hf]
    exact congrArg Host.Outcome.next (State.onCl_id { s with flights := more ++ s.flights.filter fun f => f.cl != c } c)
  · have hex := exec_signalArrival_some h
    rw [if_neg (by rw [hf]; decide)] at hex
    refine ⟨_, hex, rfl, fun d hd => State.onCl_other _ _ hd, ?_⟩
    rw [State.onCl_self]
    obtain ⟨h1, h2, h3⟩ := (s.cl c).addSlot_spec f.amount.toNat f.slot.isLt
    exact ⟨Cluster.addSlot_rest .., h1, h2, h3⟩

/-! ### Commits (R249) -/

/-- A held signal that takes effect, in its own cluster. -/
def Cluster.prodItem (c : Cl) (k : Cluster) : HItem → Cluster
  | .signal d slot amount => if d = c.val then k.addSlot slot amount else k
  | .guard _ _ => k

theorem Cluster.prodItem_rest (c : Cl) (k : Cluster) (h : HItem) : ∃ sl st, k.prodItem c h = { k with slots := sl, tstat := st } := by
  unfold Cluster.prodItem
  split
  · split
    · exact ⟨_, _, Cluster.addSlot_rest ..⟩
    · exact ⟨_, _, rfl⟩
  · exact ⟨_, _, rfl⟩

theorem slotsCommitted_eq (s : State) (c : Cl) (i : Nat) : slotsCommitted s c i =
    (((s.rg (rgOf c)).held.filter fun h => h.cl == c && h.entry == i).map (·.item)).foldl (Cluster.prodItem c)
      (((s.cl c).entry i).waits.foldl (fun k w => k.subSlot w.1 w.2) (s.cl c)) := by
  unfold slotsCommitted
  refine congrArg (fun g => List.foldl g _ _) ?_
  funext k h
  cases h <;> rfl

theorem slotsCommitted_rest (s : State) (c : Cl) (i : Nat) : ∃ sl st, slotsCommitted s c i = { s.cl c with slots := sl, tstat := st } := by
  rw [slotsCommitted_eq]
  refine foldl_keeps (q := fun u : Cluster => ∃ sl st, u = { s.cl c with slots := sl, tstat := st }) (fun u h hu => ?_) _ (Cluster.subSlots_rest ..)
  obtain ⟨sl, st, rfl⟩ := hu
  obtain ⟨sl', st', e⟩ := Cluster.prodItem_rest c { s.cl c with slots := sl, tstat := st } h
  exact ⟨sl', st', e⟩

/-- Held signals that take effect: in the own cluster at once, to another by a signal on its way. -/
theorem State.prodItems (c : Cl) (hs : List Held) (t : State) : ∃ fl, hs.foldl (fun t h => match h.item with
      | .signal d slot amount => t.prod c d slot amount
      | .guard _ _ => t) t =
    { t.onCl c (fun k => (hs.map (·.item)).foldl (Cluster.prodItem c) k) with flights := fl } := by
  induction hs generalizing t with
  | nil => exact ⟨t.flights, (t.onCl_id c).symm⟩
  | cons h hs ih =>
    obtain ⟨fl, hu⟩ : ∃ fl, (match h.item with | .signal d slot amount => t.prod c d slot amount | .guard _ _ => t) =
        { t.onCl c (fun k => k.prodItem c h.item) with flights := fl } := by
      cases h.item with
      | guard g v => exact ⟨t.flights, (t.onCl_id c).symm⟩
      | signal d slot amount =>
        dsimp only
        unfold State.prod State.signal Cluster.prodItem
        by_cases hd : d = c.val
        · simp only [hd, if_true]
          exact ⟨t.flights, rfl⟩
        · simp only [hd, if_false]
          split
          · rw [State.onCl_id]
            exact ⟨_, rfl⟩
          · exact ⟨t.flights, (t.onCl_id c).symm⟩
    obtain ⟨fl', hv⟩ := ih { t.onCl c (fun k => k.prodItem c h.item) with flights := fl }
    refine ⟨fl', ?_⟩
    rw [List.foldl_cons]
    refine (congrArg (fun u => List.foldl _ u hs) hu).trans (hv.trans ?_)
    rw [List.map_cons]
    have := State.onCl_onCl t c (fun k => k.prodItem c h.item) fun k => (hs.map (·.item)).foldl (Cluster.prodItem c) k
    exact congrArg (fun x : State => { x with flights := fl' }) this

theorem Region.count_rest (x : Region) (e s n : Nat) : ∃ y, x.count e s n = { x with stl := y } := by
  unfold Region.count
  split <;> exact ⟨_, rfl⟩

theorem State.onCl_rg (s : State) (c : Cl) (g : Cluster → Cluster) (r : Rg) : (s.onCl c g).rg r = s.rg r := rfl

/-- What a tally changes: counters of cycles alone. -/
structure State.Tallies (s t : State) : Prop where
  eq : t = { s with cls := t.cls, rgs := t.rgs }
  cl : ∀ c, ∃ x, t.cl c = { s.cl c with stl := x }
  rg : ∀ r, ∃ x, t.rg r = { s.rg r with stl := x }

theorem State.Tallies.refl (s : State) : s.Tallies s := ⟨rfl, fun _ => ⟨_, rfl⟩, fun _ => ⟨_, rfl⟩⟩

theorem State.Tallies.addTally {s t : State} (h : s.Tallies t) (c : Cl) (w : Nat × Nat) : s.Tallies (t.addTally c w) := by
  unfold State.addTally
  split
  · refine ⟨?_, fun d => ?_, fun r => h.rg r⟩
    · exact congrArg (State.onCl · c _) h.eq
    · by_cases hd : d = c
      · subst hd
        obtain ⟨x, hx⟩ := h.cl d
        obtain ⟨y, hy⟩ := (t.cl d).count_rest (w.1 / 16) (w.1 % 16) w.2
        exact ⟨y, by rw [State.onCl_self, hy, hx]⟩
      · rw [State.onCl_other _ _ hd]
        exact h.cl d
  · refine ⟨?_, fun d => h.cl d, fun r => ?_⟩
    · exact congrArg (State.onRg · (rgOf c) _) h.eq
    · by_cases hd : r = rgOf c
      · subst hd
        obtain ⟨x, hx⟩ := h.rg (rgOf c)
        obtain ⟨y, hy⟩ := (t.rg (rgOf c)).count_rest (w.1 / 16 - 8) (w.1 % 16) w.2
        exact ⟨y, by rw [State.onRg_self, hy, hx]⟩
      · rw [State.onRg_other _ _ hd]
        exact h.rg r

theorem State.addTallies (s : State) (c : Cl) (ws : List (Nat × Nat)) : s.Tallies (ws.foldl (fun t w => t.addTally c w) s) :=
  foldl_keeps (q := s.Tallies) (fun _ w h => h.addTally c w) ws (.refl s)

/-- The cluster of a firing that commits, its tally apart. -/
def Cluster.committed (k : Cluster) (i : Nat) : Cluster :=
  (k.onFiring i fun f => { f with spec := false, committing := false, tally := [] }).onEntry i fun e => { e with state := .running }

/-- What the effects of a commit leave, the guards apart that it resolves. -/
theorem State.commitEffects_spec {s : State} {c : Cl} {i : Nat} {f : Firing} (h : (s.cl c).firing i = some f) :
    let u := s.commitEffects c i
    (u.rg (rgOf c)).held = (s.rg (rgOf c)).held.filter (fun h => !(h.cl == c && h.entry == i)) ∧
      (u.rg (rgOf c)).hold = (s.rg (rgOf c)).hold.filter (fun h => !(h.cl == c && h.entry == i)) ∧ u.mem = s.mem ∧
      ∃ x, u.cl c = ({ slotsCommitted s c i with stl := x }).committed i := by
  intro u
  obtain ⟨fl, hp⟩ := State.prodItems c ((s.rg (rgOf c)).held.filter fun h => h.cl == c && h.entry == i)
    (s.onCl c fun k => ((s.cl c).entry i).waits.foldl (fun k w => k.subSlot w.1 w.2) k)
  have hu : u = (f.tally.foldl (fun t w => t.addTally c w)
      ((({ (s.onCl c fun k => ((s.cl c).entry i).waits.foldl (fun k w => k.subSlot w.1 w.2) k).onCl c (fun k =>
        (((s.rg (rgOf c)).held.filter fun h => h.cl == c && h.entry == i).map (·.item)).foldl (Cluster.prodItem c) k) with flights := fl } : State).onRg
        (rgOf c) fun r => { r with nyala := r.nyala.commitWarm c i }).onRg (rgOf c) (·.dropHeld c i))).onCl c (·.committed i) := by
    simp only [u]
    unfold State.commitEffects
    dsimp only
    rw [h]
    dsimp only
    rw [State.foldl_onCl (fun (k : Cluster) (w : Nat × Nat) => k.subSlot w.1 w.2)]
    rw [← hp]
    rfl
  rw [State.onCl_onCl] at hu
  generalize hb : (({ s.onCl c _ with flights := fl } : State).onRg (rgOf c) _).onRg (rgOf c) _ = b at hu
  have hrg : b.rg (rgOf c) = ({ s.rg (rgOf c) with nyala := (s.rg (rgOf c)).nyala.commitWarm c i } : Region).dropHeld c i := by
    rw [← hb, State.onRg_self, State.onRg_self]
    rfl
  have hcl : b.cl c = slotsCommitted s c i := by
    rw [slotsCommitted_eq, ← hb]
    exact State.onCl_self s c fun k => (((s.rg (rgOf c)).held.filter fun h => h.cl == c && h.entry == i).map (·.item)).foldl (Cluster.prodItem c)
      (((s.cl c).entry i).waits.foldl (fun k w => k.subSlot w.1 w.2) k)
  have hmem : b.mem = s.mem := by
    rw [← hb]
    rfl
  have ht := b.addTallies c f.tally
  obtain ⟨x, hx⟩ := ht.cl c
  obtain ⟨y, hy⟩ := ht.rg (rgOf c)
  rw [hu]
  refine ⟨?_, ?_, ?_, x, ?_⟩
  · rw [State.onCl_rg, hy, hrg]
    rfl
  · rw [State.onCl_rg, hy, hrg]
    rfl
  · rw [State.onCl_mem, ht.eq]
    exact hmem
  · rw [State.onCl_self, hx, hcl]

theorem Cluster.firing_onEntry (k : Cluster) (i j : Nat) (g : TEntry → TEntry) : (k.onEntry i g).firing j = k.firing j :=
  Cluster.firing_of_firings (by rw [Cluster.onEntry_rest]) j

theorem Cluster.firing_committed {k : Cluster} {i : Nat} {f : Firing} (h : k.firing i = some f) :
    (k.committed i).firing i = some { f with spec := false, committing := false, tally := [] } := by
  unfold Cluster.committed
  rw [Cluster.firing_onEntry, Cluster.firing_onFiring (by exact fun _ => rfl), h]
  rfl

theorem Cluster.committed_rest (k : Cluster) (i : Nat) : k.committed i =
    { k with firings := (k.committed i).firings, table := (k.onEntry i fun e => { e with state := .running }).table } := by
  unfold Cluster.committed Cluster.onEntry Cluster.onFiring
  split <;> rfl

theorem exec_specCommitWritesDone {s : State} {c : Cl} {n : BitVec 7} {f : Firing} (h : (s.cl c).firing n.toNat = some f) :
    exec (.specCommitWritesDone c n) s = .next (
      if f.committing && !(s.reqs.any fun q => q.pendingCommit c n.toNat) && (s.commits (rgOf c)).all fun g => decide (f.order ≤ g.order) then
        ((s.heldGuards c n.toNat).foldl (fun s h => s.resolve guardDepth (rgOf c) h.1 h.2) (s.commitEffects c n.toNat)).commitEnd c n.toNat
      else s) := by
  change execSpecCommitWritesDone c n s = _
  unfold execSpecCommitWritesDone
  rw [h, ← Cluster.firing_entry h]
  dsimp only
  split <;> rfl

theorem commitTakesEffect : Claim.CommitTakesEffect := by
  intro c s n f hf
  have he : f.entry = n.toNat := Cluster.firing_entry hf
  rw [exec_specCommitWritesDone hf, he]
  refine ⟨fun h => congrArg _ (if_neg ?_), fun hcom hreq hord => ?_⟩
  · simp only [Bool.and_eq_true, Bool.not_eq_true', List.any_eq_false, List.all_eq_true, decide_eq_true_eq]
    rintro ⟨⟨hcom, hreq⟩, hord⟩
    rcases h with h | ⟨q, hq, hp⟩ | ⟨g, hg, hlt⟩
    · exact absurd (hcom.symm.trans h) (by decide)
    · exact hreq q hq hp
    · exact absurd (hord g hg) (Nat.not_le.mpr hlt)
  have hcond : (f.committing && !(s.reqs.any fun q => q.pendingCommit c n.toNat) &&
      (s.commits (rgOf c)).all fun g => decide (f.order ≤ g.order)) = true := by
    simp only [Bool.and_eq_true, Bool.not_eq_true', List.any_eq_false, List.all_eq_true, decide_eq_true_eq]
    exact ⟨⟨hcom, fun q hq h => absurd (h.symm.trans (hreq q hq)) (by decide)⟩, hord⟩
  rw [if_pos hcond]
  intro u
  obtain ⟨hheld, hhold, hmem, x, hcl⟩ := State.commitEffects_spec hf
  obtain ⟨sl, st, hsl⟩ := slotsCommitted_rest s c n.toNat
  have hfir : (u.cl c).firing n.toNat = some { f with spec := false, committing := false, tally := [] } := by
    rw [hcl]
    refine Cluster.firing_committed ?_
    rw [hsl]
    exact hf
  have hent : (u.cl c).entry n.toNat = { (s.cl c).entry n.toNat with state := .running } := by
    rw [hcl, Cluster.committed_rest, hsl]
    exact Cluster.entry_onEntry_self n.isLt _
  have hhead : (u.cl c).head = (s.cl c).head := by rw [hcl, Cluster.committed_rest, hsl]
  refine ⟨rfl, hheld, hhold, ?_, by rw [hent], hmem, fun hfin hg => ?_, fun hfin hg => ?_⟩
  · rw [hcl, Cluster.committed_rest]
  · rw [hg, List.foldl_nil, State.commitEnd, hfir]
    exact congrArg _ (if_neg (by rw [hfin]; decide))
  · obtain ⟨g, hgd⟩ : ∃ g : Firing, g = { f with spec := false, committing := false, tally := [] } := ⟨_, rfl⟩
    have hge : g.entry = n.toNat := by rw [hgd, ← he]
    have hto := (u.endFiring_spec c g (outcome := 0) (by decide) 0 (!f.signalled)).own
    rw [hge] at hto
    refine ⟨u.endFiring c g 0 0 (!f.signalled), ?_, ?_, ?_, ?_⟩
    · rw [exec_specCommitWritesDone hf, if_pos hcond, hg, List.foldl_nil, State.commitEnd, hfir, hgd]
      exact congrArg _ (if_pos hfin)
    · rw [Cluster.firing_of_firings hto.firings]
      exact Cluster.firing_closed ..
    · rw [hto.head, Cluster.closed_head, hhead]
    · rw [hto.state, Cluster.closed_entry, if_pos ⟨rfl, n.isLt⟩, hent]
      rfl

/-- Settles O24: signals arrive at their slots, and a commit takes effect in its turn. -/
theorem signalsAndCommits : Obligations.SignalsAndCommits := ⟨signalsAndPeak, commitTakesEffect⟩

/-! ### What no end of a firing and no resolution of a guard touches -/

/-- No cluster is fenced or freed, the fences that wait stay, dispatch goes on or not as before; and while no quiesce is under way
none begins, a step runs where one ran, and the budget and the step number stay. -/
structure State.Stands (s t : State) : Prop where
  fenced : ∀ d, (t.cl d).fenced = (s.cl d).fenced
  fences : t.run.fences = s.run.fences
  stopped : t.run.stopped = s.run.stopped
  step : s.run.stopping = false → t.run.stopping = false ∧ t.run.step.isSome = s.run.step.isSome ∧ t.run.budget = s.run.budget ∧
    t.run.crvStep = s.run.crvStep

theorem Cluster.onFiring_fenced (k : Cluster) (i : Nat) (g : Firing → Firing) : (k.onFiring i g).fenced = k.fenced := rfl

theorem Cluster.onEntry_fenced (k : Cluster) (i : Nat) (g : TEntry → TEntry) : (k.onEntry i g).fenced = k.fenced := by rw [Cluster.onEntry_rest]

theorem Cluster.addSlot_fenced (k : Cluster) (n a : Nat) : (k.addSlot n a).fenced = k.fenced := by rw [Cluster.addSlot_rest]

theorem Cluster.subSlot_fenced (k : Cluster) (n a : Nat) : (k.subSlot n a).fenced = k.fenced := by
  obtain ⟨sl, st, h⟩ := k.subSlot_rest n a
  rw [h]

namespace State.Stands

theorem refl (s : State) : s.Stands s := ⟨fun _ => rfl, rfl, rfl, fun h => ⟨h, rfl, rfl, rfl⟩⟩

theorem trans {s t u : State} (h : s.Stands t) (k : t.Stands u) : s.Stands u where
  fenced d := (k.fenced d).trans (h.fenced d)
  fences := k.fences.trans h.fences
  stopped := k.stopped.trans h.stopped
  step hs := by
    obtain ⟨a, b, c, d⟩ := h.step hs
    obtain ⟨a', b', c', d'⟩ := k.step a
    exact ⟨a', b'.trans b, c'.trans c, d'.trans d⟩

theorem ite {s t u : State} {c : Prop} [Decidable c] (h : s.Stands t) (k : s.Stands u) : s.Stands (if c then t else u) := by
  split
  · exact h
  · exact k

theorem foldl {α : Type} {s t : State} {f : State → α → State} {xs : List α} (h : s.Stands t) (hf : ∀ (t : State) a, t.Stands (f t a)) :
    s.Stands (xs.foldl f t) := foldl_keeps (q := s.Stands) (fun b a hb => hb.trans (hf b a)) xs h

section
variable {s t : State} (h : s.Stands t)
include h

/-- An update of parts other than the clusters and the run. -/
theorem of_eq {u : State} (hc : u.cls = t.cls) (hr : u.run = t.run) : s.Stands u :=
  h.trans ⟨fun d => by rw [show u.cl d = t.cl d from congrArg (·[d]) hc], by rw [hr], by rw [hr], fun k => by rw [hr]; exact ⟨k, rfl, rfl, rfl⟩⟩

theorem onCl {c : Cl} {f : Cluster → Cluster} (hf : ∀ k, (f k).fenced = k.fenced) : s.Stands (t.onCl c f) := by
  refine h.trans ⟨fun d => ?_, rfl, rfl, fun k => ⟨k, rfl, rfl, rfl⟩⟩
  by_cases hd : d = c
  · subst hd
    rw [State.onCl_self]
    exact hf _
  · rw [State.onCl_other _ _ hd]

theorem onRg {r : Rg} {f : Region → Region} : s.Stands (t.onRg r f) := h.of_eq rfl rfl

theorem reports {u : State} (k : Reports t u) : s.Stands u := h.of_eq k.cls k.run

theorem accesses {u : State} (k : Accesses t u) : s.Stands u := h.of_eq (by rw [k.eq]) (by rw [k.eq])

theorem notes {u : State} (k : t.Notes u) : s.Stands u := by
  have hr := k.run
  refine h.trans ⟨fun d => by rw [k.cl], by rw [hr], by rw [hr], fun hs => ⟨by rw [hr]; exact hs, k.step, by rw [hr], by rw [hr]⟩⟩

theorem onClusters {r : Rg} {f : Cluster → Cluster} (hf : ∀ k, (f k).fenced = k.fenced) : s.Stands (t.onClusters r f) :=
  h.foldl fun _ _ => (refl _).onCl hf

theorem unresolve {r : Rg} {g : Nat} : s.Stands (t.unresolve r g) := h.onRg.onClusters fun _ => rfl

theorem settle {c : Cl} {i : Nat} : s.Stands (t.settle c i) := by
  have hs := (h.onCl (c := c) (f := (·.onEntry i fun e => { e with settled := true })) fun k => k.onEntry_fenced ..).onRg (r := rgOf c)
    (f := fun x => x.onGuard ((t.cl c).entry i).guardNo fun y => { y with settled := y.settled + 1 })
  unfold State.settle
  exact .ite h (.ite hs.unresolve hs)

theorem quietDone : s.Stands t.quietDone := by
  have hc := (State.Calms.refl t).quietDone
  refine h.trans ⟨fun d => (hc.cl d).fenced, hc.run.1, hc.run.2, fun hs => ?_⟩
  rw [State.quietDone_of_going hs]
  exact ⟨hs, rfl, rfl, rfl⟩

theorem closeFiring {c : Cl} {f : Firing} {outcome cause : Nat} {signals : Bool} : s.Stands (t.closeFiring c f outcome cause signals) := by
  have hrun := (t.closeFiring_told c f outcome cause signals).2.2
  have hcls := t.closeFiring_cls c f outcome cause signals
  have hk : s.Stands (t.onCl c fun k => k.closed f.entry outcome (((t.cl c).entry f.entry).completing outcome signals).1) :=
    h.onCl fun k => Cluster.closed_fenced
  generalize t.closeFiring c f outcome cause signals = u at *
  exact hk.of_eq hcls hrun

theorem endFiring {c : Cl} {f : Firing} {outcome cause : Nat} {signals : Bool} (ho : outcome ≤ 5) :
    s.Stands (t.endFiring c f outcome cause signals) := by
  have hc := h.closeFiring (c := c) (f := f) (outcome := outcome) (cause := cause) (signals := signals)
  obtain rfl | he | rfl | rfl : outcome = 0 ∨ (outcome = 1 ∨ outcome = 2 ∨ outcome = 5) ∨ outcome = 3 ∨ outcome = 4 := by omega
  · rw [State.endFiring_completes]
    exact (hc.notes ((State.Notes.refl _).report _ _)).settle.quietDone
  · rw [State.endFiring_ends _ _ _ he]
    exact hc.settle.quietDone
  · rw [State.endFiring_squashed]
    exact hc.quietDone
  · rw [State.endFiring_faulted]
    exact (hc.reports (State.event_reports ..)).quietDone

theorem stopUnit {c : Cl} {f : Firing} : s.Stands (t.stopUnit c f) := by
  have hd : s.Stands t.draw.2 := h.of_eq rfl rfl
  change s.Stands (if f.final then t.draw.2 else match f.unit with | .array => _ | .vector => _ | .dma _ => _ | .solver _ _ => _)
  refine .ite hd ?_
  cases f.unit with
  | array => exact hd.onCl fun _ => rfl
  | vector =>
    refine hd.onCl fun k => ?_
    split <;> rfl
  | dma d => exact hd.of_eq rfl rfl
  | solver a b => exact hd.onRg

theorem addTally {c : Cl} {w : Nat × Nat} : s.Stands (t.addTally c w) := by
  have k := (State.Tallies.refl t).addTally c w
  refine h.trans ⟨fun d => ?_, by rw [k.eq], by rw [k.eq], fun hs => by rw [k.eq]; exact ⟨hs, rfl, rfl, rfl⟩⟩
  obtain ⟨x, hx⟩ := k.cl d
  rw [hx]

theorem dropFiring {c : Cl} {f : Firing} {outcome cause : Nat} (ho : outcome ≤ 5) : s.Stands (t.dropFiring c f outcome cause) := by
  unfold State.dropFiring
  extract_lets t1 t2
  have h1 : s.Stands t1 := h.stopUnit.onRg
  have h2 : s.Stands t2 := .ite (h1.foldl fun u w => (refl u).addTally) h1
  clear_value t2
  split
  next n u e =>
  obtain rfl : t2.draw.2 = u := by rw [e]
  have hu : s.Stands t2.draw.2 := h2.of_eq rfl rfl
  refine endFiring (foldl hu fun u p => ?_) ho
  exact (refl u).of_eq rfl rfl

theorem signal {c : Cl} {target slot amount : Nat} : s.Stands (t.signal c target slot amount) := by
  unfold State.signal
  refine .ite (h.onCl fun k => k.addSlot_fenced ..) ?_
  split
  · exact h.of_eq rfl rfl
  · exact h

theorem commitEffects {c : Cl} {i : Nat} : s.Stands (t.commitEffects c i) := by
  unfold State.commitEffects
  extract_lets k t1 items t2 t3 t4
  have h1 : s.Stands t1 := h.foldl fun u w => (refl u).onCl fun k => k.subSlot_fenced ..
  have h2 : s.Stands t2 := h1.foldl fun u x => by
    split
    · exact (refl u).signal
    · exact refl u
  split
  · exact h
  · exact (h2.onRg.onRg.foldl fun u w => (refl u).addTally).onCl fun k => by rw [Cluster.onEntry_fenced]; rfl

theorem commitEnd {c : Cl} {i : Nat} : s.Stands (t.commitEnd c i) := by
  unfold State.commitEnd
  split
  · exact .ite (h.endFiring (by decide)) h
  · exact h

theorem skipBound {r : Rg} {g : Nat} {v : Bool} : s.Stands (t.skipBound r g v) := by
  unfold State.skipBound
  exact h.foldl fun u c => (refl u).foldl fun w i => .ite ((refl w).endFiring (by decide)) (refl w)

end

/-- A resolution leaves them, however deep those that follow from it go. -/
theorem of_resolve (fuel : Nat) : ∀ (t : State) (r : Rg) (g : Nat) (v : Bool), t.Stands (State.resolve fuel t r g v) := by
  induction fuel with
  | zero => exact fun t _ _ _ => .refl t
  | succ fuel ih =>
    intro t r g v
    rw [State.resolve]
    refine .ite ⟨fun _ => rfl, rfl, rfl, fun h => ⟨h, rfl, rfl, rfl⟩⟩ (.ite (refl t).onRg ?_)
    extract_lets t1 against t2 t3 mine t4 t5 t6 t7 y
    have h2 : t.Stands t2 := (refl t).onRg.foldl fun u p => (refl u).dropFiring (by decide)
    have h4 : t.Stands t4 := h2.onRg.onClusters fun _ => rfl
    have h5 : t.Stands t5 := h4.onRg
    have h6 : t.Stands t6 := h5.foldl fun u p => by
      dsimp only
      split
      · exact ((refl u).commitEffects.foldl fun w (x : Nat × Bool) => ih w r x.1 x.2).commitEnd
      · refine onCl ?_ fun _ => rfl
        exact (refl u).of_eq rfl rfl
    exact .ite h6.skipBound.unresolve h6.skipBound

theorem resolve {s t : State} (h : s.Stands t) {fuel : Nat} {r : Rg} {g : Nat} {v : Bool} : s.Stands (State.resolve fuel t r g v) :=
  h.trans (of_resolve fuel t r g v)

end State.Stands

/-! ### The start of a step (R253, R271, R517) -/

namespace State.Stands
section
variable {s t : State} (h : s.Stands t)
include h

theorem onRun {f : Run → Run} (hf : ∀ r : Run, (f r).fences = r.fences ∧ (f r).stopped = r.stopped ∧ (f r).stopping = r.stopping ∧
    (f r).step.isSome = r.step.isSome ∧ (f r).budget = r.budget ∧ (f r).crvStep = r.crvStep) : s.Stands (t.onRun f) := by
  obtain ⟨h1, h2, h3, h4, h5, h6⟩ := hf t.run
  exact h.trans ⟨fun _ => rfl, h1, h2, fun hs => ⟨h3.trans hs, h4, h5, h6⟩⟩

theorem medlarMarks {r : Rg} {a len : Nat} : s.Stands (t.medlarMarks r a len) := by
  unfold State.medlarMarks
  exact .ite h.onRg h

theorem installRoot {p : Package} {pl : Placement} {x : Staged} : s.Stands (t.installRoot p pl x) := by
  unfold State.installRoot
  extract_lets t1 cls src
  have h1 : s.Stands t1 := h.onRun fun _ => ⟨rfl, rfl, rfl, rfl, rfl, rfl⟩
  split
  · exact h1
  · split
    · exact h1
    · extract_lets nb all bs t2 t3
      have h2 : s.Stands t2 := by
        unfold t2
        split
        · exact h1.medlarMarks
        · exact h1
      have h3 : s.Stands t3 := h2.accesses ((Accesses.refl _).busRead _ _ _)
      have h4 : s.Stands t3.draw.2 := h3.of_eq rfl rfl
      exact .ite (h3.accesses ((Accesses.refl _).busWrite _ _)) (h4.accesses ((Accesses.refl _).busWrite _ _))

theorem copyRoots {p : Package} {pl : Placement} : s.Stands (t.copyRoots p pl) := by
  unfold State.copyRoots
  refine foldl (onRun h ?_) fun u x => (refl u).installRoot
  exact fun _ => ⟨rfl, rfl, rfl, rfl, rfl, rfl⟩

theorem othersFail {p : Package} {due : List Nat} : s.Stands (t.othersFail p due) := by
  unfold State.othersFail
  exact (h.of_eq (u := t.draw.2) rfl rfl).foldl fun u x => .ite (refl u) ((refl u).onRun fun _ => ⟨rfl, rfl, rfl, rfl, rfl, rfl⟩)

theorem dueRoots {p : Package} {pl : Placement} : s.Stands (t.dueRoots p pl) := by
  unfold State.dueRoots
  dsimp only
  refine othersFail (onRun (foldl h fun u x => ?_) ?_)
  · split
    · exact (refl u).onRg
    · exact refl u
  · exact fun r => ⟨rfl, rfl, rfl, Option.isSome_map, rfl, rfl⟩

theorem resolveStats {p : Package} {pl : Placement} : s.Stands (t.resolveStats p pl) := by
  unfold State.resolveStats
  extract_lets n key
  refine h.foldl fun u x => ?_
  extract_lets e on u1
  have h1 : u.Stands u1 := by
    refine .ite ((refl u).foldl fun w k => ?_) (refl u)
    exact ((refl w).onRun (f := fun r => r.onBlk k.2 fun b => { b with statsStep := BitVec.ofNat 32 n })
      fun _ => ⟨rfl, rfl, rfl, rfl, rfl, rfl⟩).of_eq rfl rfl
  exact h1.foldl fun w r => .ite (refl w).resolve (refl w)

theorem resumeNewton : s.Stands t.resumeNewton := h.of_eq rfl rfl

theorem openSegment {pl : Placement} {seg : Nat} : s.Stands (t.openSegment pl seg) := by
  unfold State.openSegment
  exact h.foldl fun u c => .ite ((refl u).onCl fun k => k.addSlot_fenced ..) (refl u)

end
end State.Stands

theorem State.mayStart_iff {s : State} (h : s.placed.isSome = true) : s.mayStart = true ↔
    s.hlt.rcv = 5 ∧ s.pwr.state = .a0 ∧ s.pwr.transition = none ∧ s.pwr.creset = none ∧ s.pwr.off = false ∧
      s.sec.boot = .ready ∧ s.run.step = none ∧ s.run.stopping = false ∧ s.run.placing = none ∧ s.run.fences = [] ∧
      (∀ x, s.txn = some x → x.commit = none) ∧ s.hlt.phase ≠ .freeze ∧ s.hlt.freeze3 = false ∧ s.run.paused = false ∧
      s.run.budget ≠ 0 ∧ s.quiet = true := by
  have ht : (!s.txn.any (·.commit.isSome)) = true ↔ ∀ x, s.txn = some x → x.commit = none := by
    cases s.txn with
    | none => simp
    | some x => simp
  unfold State.mayStart Power.steady
  rw [h]
  simp only [Bool.and_eq_true, ht, Bool.true_and, beq_iff_eq, decide_eq_true_eq, Option.isNone_iff_eq_none, Bool.not_eq_true',
    List.isEmpty_iff, bne_iff_ne, rcvNormal, ne_eq]
  tauto

/-- The state of a step that has just begun, before its roots and guards. -/
def State.begun (s : State) (p : Package) (pl : Placement) : State :=
  let u := if s.run.rerun then s.rearmTables p pl else s
  let t := u.onRun fun r =>
    { r with
      budget := r.budget - 1, step := some { start := u.pwr.islands[96].ticks.toNat }, rerun := false, stopped := false, outcome := 0
      triggered := [], started := [] }
  { t with perf := { t.perf with interval := some (t.perf.interval.getD 0) } }

theorem State.begun_run (s : State) (p : Package) (pl : Placement) : (s.begun p pl).run.stopping = s.run.stopping ∧
    (s.begun p pl).run.step.isSome = true ∧ (s.begun p pl).run.budget = s.run.budget - 1 ∧ (s.begun p pl).run.stopped = false ∧
    (s.begun p pl).run.crvStep = s.run.crvStep := by
  unfold State.begun
  dsimp only
  split <;> exact ⟨rfl, rfl, rfl, rfl, rfl⟩

theorem State.startStep_stands (s : State) (p : Package) (pl : Placement) : (s.begun p pl).Stands (s.startStep p pl) :=
  (State.Stands.refl (s.begun p pl)).copyRoots.dueRoots.resolveStats.resumeNewton.openSegment

/-- What a fold over distinct elements does to an observation that one element alone changes. -/
theorem foldl_observe {α β γ : Type} {f : β → α → β} {g : β → γ} {k : γ → γ} {xs : List α} {a : α} (hn : xs.Nodup) (ha : a ∈ xs)
    (hother : ∀ b x, x ≠ a → g (f b x) = g b) (hself : ∀ b, g (f b a) = k (g b)) (b : β) : g (xs.foldl f b) = k (g b) := by
  induction xs generalizing b with
  | nil => cases ha
  | cons x xs ih =>
    obtain ⟨hx, hn⟩ := List.nodup_cons.mp hn
    rw [List.foldl_cons]
    by_cases e : x = a
    · subst e
      exact foldl_keeps_mem (q := fun t => g t = k (g b)) (fun t y hy h => (hother t y fun e => hx (e ▸ hy)).trans h) (hself b)
    · rw [ih hn ((List.mem_cons.mp ha).resolve_left fun h => e h.symm), hother b x e]

/-- A segment's slot is signalled to each cluster that takes part in it, and nothing else changes (R271, R272). -/
theorem State.openSegment_spec (u : State) (pl : Placement) (seg : Nat) (c : Cl) :
    u.openSegment pl seg = { u with cls := (u.openSegment pl seg).cls } ∧
      (u.openSegment pl seg).cl c = if pl.takesPart c.val seg then (u.cl c).addSlot (239 + seg) 1 else u.cl c := by
  unfold State.openSegment
  refine ⟨foldl_keeps (q := fun t : State => t = { u with cls := t.cls }) (fun t d h => ?_) _ rfl, ?_⟩
  · split
    · exact congrArg (State.onCl · d _) h
    · exact h
  · refine foldl_observe (g := fun t : State => t.cl c) (k := fun x => if pl.takesPart c.val seg then x.addSlot (239 + seg) 1 else x)
      (List.nodup_finRange 384) (List.mem_finRange c) (fun t d hd => ?_) (fun t => ?_) u
    · split
      · exact State.onCl_other _ _ (Ne.symm hd)
      · rfl
    · split
      · next h => exact State.onCl_self ..
      · rfl

theorem stepStarts : Claim.StepStarts := by
  intro s
  refine ⟨fun h => ?_, fun p pl h => ⟨State.mayStart_iff (by rw [h]; rfl), fun hm => ?_, fun hm => ?_, fun u seg c => u.openSegment_spec pl seg c⟩⟩
  · change execStepStart s = _
    rw [execStepStart, h]
  · have hex : exec .stepStart s = .next (s.startStep p pl) := by
      change execStepStart s = _
      rw [execStepStart, h]
      exact congrArg _ (if_pos hm)
    obtain ⟨hstop, hstep, hbud, hst, hcrv⟩ := s.begun_run p pl
    have hk := s.startStep_stands p pl
    have hgo : s.run.stopping = false := ((State.mayStart_iff (by rw [h]; rfl)).mp hm).2.2.2.2.2.2.2.1
    obtain ⟨-, h1, h2, h3⟩ := hk.step (hstop.trans hgo)
    exact ⟨hex, _, hex, h1.trans hstep, h2.trans hbud, hk.stopped.trans hst, h3.trans hcrv⟩
  · change execStepStart s = _
    rw [execStepStart, h]
    exact congrArg _ (if_neg (by rw [hm]; decide))

/-! ### Segments (R272) -/

theorem exec_segmentFinish {s : State} {rg : Rg} {p : Package} {pl : Placement} {k : StepRun} (hp : s.placed = some (p, pl))
    (hk : s.run.step = some k) : exec (.segmentFinish rg) s = .next (
      if k.reported.contains rg || !s.segmentDone pl rg k then s
      else (s.onRun fun r => { r with step := some { k with reported := k.reported ++ [rg] } }).nextSegment pl { k with reported := k.reported ++ [rg] }) := by
  change execSegmentFinish rg s = _
  unfold execSegmentFinish
  rw [hp, hk]
  dsimp only
  split <;> rfl

theorem segmentFinishes : Claim.SegmentFinishes := by
  intro rg s p pl k hp hk
  rw [exec_segmentFinish hp hk]
  refine ⟨fun h => congrArg _ (if_pos ?_), fun hr hd => ?_⟩
  · rw [Bool.or_eq_true, Bool.not_eq_true']
    exact h
  · rw [if_neg (by rw [hr, hd]; decide)]
    have hl : ({ k with reported := k.reported ++ [rg] } : StepRun).reported.length = k.reported.length + 1 := by simp
    refine ⟨fun h => congrArg _ (if_pos ?_), fun h1 h2 => congrArg _ ((if_neg ?_).trans rfl)⟩
    · rw [hl]
      exact h.imp_left (by omega)
    · rw [hl]
      change ¬ (_ ∨ pl.segments ≤ k.segment + 1)
      omega

/-- Settles O25: when a step starts, and how its segments follow each other. -/
theorem segmentsRun : Obligations.SegmentsRun := ⟨stepStarts, segmentFinishes⟩

/-! ### Memory outside a stretch whose content is lost -/

theorem cellGet_filter {unl unl' : Nat → Byte} {p : Nat → Bool} {lo a : Nat} {m : List Host.Cell} (h : cellsWf unl lo m = true)
    (hp : p a = true) (hu : unl' a = unl a) : cellGet unl' (m.filter fun c => p c.1) a = cellGet unl m a := by
  induction m generalizing lo with
  | nil => exact hu
  | cons x m ih =>
    obtain ⟨b, v⟩ := x
    simp only [cellsWf, Bool.and_eq_true, decide_eq_true_eq] at h
    obtain ⟨-, hm⟩ := h
    rw [List.filter_cons]
    split
    · rw [cellGet, cellGet, ih hm, hu]
    · next hb =>
      have hab : a ≠ b := fun e => hb (e ▸ hp)
      rw [ih hm, cellGet, if_neg hab]
      split
      · exact cellGet_below hm (by omega)
      · rfl

/-- A stretch that is filled anew leaves what stands outside it. -/
theorem Memory.get_fill_outside {m : Memory} (h : m.wf = true) {base len a : Nat} (nonce : Option Nat) (ha : a < base ∨ base + len ≤ a) :
    (m.fill base len nonce).get a = m.get a := by
  refine cellGet_filter (p := fun a => decide (a < base) || decide (base + len ≤ a)) h ?_ ?_
  · simpa using ha
  · have hf := fillAt_filter m.fills base len a ha
    have key : fillAt (m.fill base len nonce).fills a = fillAt m.fills a := by
      simp only [Memory.fill]
      split
      · next hc => rw [← hf, hc.1]
      · rw [fillAt, if_neg (by dsimp only; omega), hf]
    change unlisted (m.fill base len nonce).fills a = unlisted m.fills a
    rw [unlisted, unlisted, key]

/-! ### The firings of a fenced cluster (R28, R252) -/

theorem State.Tallies.firings {s t : State} (h : s.Tallies t) (c : Cl) : (t.cl c).firings = (s.cl c).firings := by
  obtain ⟨x, hx⟩ := h.cl c
  rw [hx]

theorem State.stopUnit_firings (s : State) (c d : Cl) (f : Firing) : ((s.stopUnit c f).cl d).firings = (s.cl d).firings := by
  have hon : ∀ g : Cluster → Cluster, (∀ k, (g k).firings = k.firings) → ((s.draw.2.onCl c g).cl d).firings = (s.cl d).firings := fun g hg => by
    by_cases hd : d = c
    · subst hd
      rw [State.onCl_self]
      exact hg _
    · rw [State.onCl_other _ _ hd]
      rfl
  change ((if f.final then s.draw.2 else match f.unit with | .array => _ | .vector => _ | .dma _ => _ | .solver _ _ => _ : State).cl d).firings = _
  split
  · rfl
  · cases f.unit with
    | array => exact hon _ fun _ => rfl
    | vector =>
      refine hon _ fun k => ?_
      split <;> rfl
    | dma d => rfl
    | solver a b => rfl

/-- A firing that is dropped leaves its cluster, and no other does. -/
theorem State.dropFiring_firings (s : State) (c : Cl) (f : Firing) {outcome : Nat} (ho : outcome ≤ 5) (cause : Nat) :
    ((s.dropFiring c f outcome cause).cl c).firings = (s.cl c).firings.filter (·.entry != f.entry) := by
  unfold State.dropFiring
  extract_lets t1 t2
  have h1 : (t1.cl c).firings = (s.cl c).firings := s.stopUnit_firings c c f
  have h2 : (t2.cl c).firings = (s.cl c).firings := by
    simp only [t2]
    split
    · exact ((t1.addTallies c _).firings c).trans h1
    · exact h1
  clear_value t2
  split
  next n u e =>
  obtain rfl : t2.draw.2 = u := by rw [e]
  have hu : (t2.draw.2.cl c).firings = (s.cl c).firings := h2
  have hfold := foldl_keeps (f := fun (t : State) (p : Nat × Nat) => { t with mem := t.mem.fill p.1 p.2 (some n) })
    (q := fun t : State => (t.cl c).firings = (s.cl c).firings) (fun t p h => h) ((t2.draw.2.cl c).claimSpans c f.entry) hu
  rw [(State.endFiring_spec _ c f ho cause true).own.firings, Cluster.closed_firings, hfold]

/-- Every firing of a cluster that is aborted is gone. -/
theorem State.abortCluster_firings (s : State) (c : Cl) : ((s.abortCluster c).cl c).firings = [] := by
  have hfold : ∀ (xs : List Firing) (t : State), ((xs.foldl (fun s f => s.dropFiring c f (if f.held then 1 else 5) 0) t).cl c).firings =
      (t.cl c).firings.filter fun x => xs.all fun f => x.entry != f.entry := by
    intro xs
    induction xs with
    | nil => intro t; simp
    | cons x xs ih =>
      intro t
      rw [List.foldl_cons, ih, t.dropFiring_firings c x (by split <;> decide), List.filter_filter]
      exact List.filter_congr fun y _ => by rw [List.all_cons, Bool.and_comm]
  unfold State.abortCluster
  rw [hfold, List.filter_eq_nil_iff]
  intro x hx h
  exact absurd (List.all_eq_true.mp h x hx) (by simp)

theorem State.abortCluster_stands (s : State) (c : Cl) : s.Stands (s.abortCluster c) :=
  (State.Stands.refl s).foldl fun u f => (State.Stands.refl u).dropFiring (by split <;> decide)

/-- A quiesce stops dispatch, and fences no cluster. -/
theorem State.quiesceNow_spec (s : State) : (∀ d, (s.quiesceNow.cl d).fenced = (s.cl d).fenced) ∧ s.quiesceNow.run.fences = s.run.fences ∧
    s.quiesceNow.run.stopped = true := by
  unfold State.quiesceNow
  extract_lets judged t1 spec t2 t3
  have h2 : t1.Stands t2 := (State.Stands.refl t1).foldl fun u p => (State.Stands.refl u).dropFiring (by decide)
  have h3 : t1.Stands t3 := h2.of_eq rfl rfl
  have h4 := (State.Calms.refl t3).freshGuards.quietDone
  exact ⟨fun d => (h4.cl d).fenced.trans (h3.fenced d), h4.run.1.trans h3.fences, h4.run.2.trans h3.stopped⟩

/-! ### A fence (R28, R287, R288) -/

/-- The state in which a fenced cluster's consequences begin. -/
def State.fencing (s : State) (c : Cl) (why : FenceReason) : State :=
  let u := s.draw.2.onCl c fun k => { k with fenced := some (fenceCode why) }
  let u := if Config.recordsFence (fenceCode why) then { u with fenced := u.fenced ++ [c] } else u
  if why = .tileMemory then { u with mem := u.mem.fill (tileBase c.val) 0x600000 (some s.nonce) } else u

theorem State.fencing_spec (s : State) (c : Cl) (why : FenceReason) :
    (s.fencing c why).cl c = { s.cl c with fenced := some (fenceCode why) } ∧ (∀ d, d ≠ c → (s.fencing c why).cl d = s.cl d) ∧
      (s.fencing c why).run = s.run ∧ (s.fencing c why).events = s.events ∧ (s.fencing c why).evtSeq = s.evtSeq ∧
      (why ≠ .tileMemory → (s.fencing c why).mem = s.mem) ∧
      (why = .tileMemory → (s.fencing c why).mem = s.mem.fill (tileBase c.val) 0x600000 (some s.nonce)) := by
  have hc : (s.fencing c why).cls = (s.onCl c fun k => { k with fenced := some (fenceCode why) }).cls := by
    unfold State.fencing
    split <;> split <;> rfl
  refine ⟨(congrArg (·[c]) hc).trans (State.onCl_self s c _), fun d hd => (congrArg (·[d]) hc).trans (State.onCl_other s _ hd), ?_⟩
  unfold State.fencing
  by_cases hw : why = .tileMemory
  · rw [if_pos hw]
    refine ⟨?_, ?_, ?_, fun h => absurd hw h, fun _ => ?_⟩ <;> dsimp only <;> split <;> rfl
  · rw [if_neg hw]
    refine ⟨?_, ?_, ?_, fun _ => ?_, fun h => absurd h hw⟩ <;> split <;> rfl

/-- What the quiesce and the end of a fenced cluster's firings leave. -/
theorem State.fenceStops (s : State) (c : Cl) (b : Bool) (t : State) (ht : t = if b then s.abortCluster c else (s.quiesceNow.abortCluster c).quietDone) :
    (∀ d, (t.cl d).fenced = (s.cl d).fenced) ∧ t.run.fences = s.run.fences ∧ (t.cl c).firings = [] ∧ (b = false → t.run.stopped = true) := by
  cases b
  · obtain ⟨hq, hf, hs⟩ := s.quiesceNow_spec
    have ha := s.quiesceNow.abortCluster_stands c
    have hc := (State.Calms.refl (s.quiesceNow.abortCluster c)).quietDone
    rw [ht]
    exact ⟨fun d => (hc.cl d).fenced.trans ((ha.fenced d).trans (hq d)), hc.run.1.trans (ha.fences.trans hf),
      (hc.cl c).firings.trans (s.quiesceNow.abortCluster_firings c), fun _ => hc.run.2.trans (ha.stopped.trans hs)⟩
  · have ha := s.abortCluster_stands c
    rw [ht]
    exact ⟨ha.fenced, ha.fences, s.abortCluster_firings c, fun h => absurd h (by decide)⟩

theorem State.fence_self {s : State} {c : Cl} (h : (s.cl c).fenced.isSome = true) (why : FenceReason) : s.fence c why = s := if_pos h

/-- What follows the mark of a fenced cluster. -/
def State.fenceFollows (u : State) (c : Cl) (why : FenceReason) : State :=
  match u.run.graph with
  | none => u.fenceEvent c (fenceCode why) 0 0
  | some ⟨_, none⟩ =>
    match u.run.placing with
    | some (.load _ _ _) => u.onRun fun r => { r with fences := r.fences ++ [(c, fenceCode why)] }
    | _ => u.fenceEvent c (fenceCode why) 0 0
  | some ⟨p, some pl⟩ =>
    let persists := (List.range p.tensors.length).any fun t =>
      (p.tensor t).persist && (pl.homes[t]?).any (fun h => h.tier == 2) && (clustersUsing p pl.stages t).contains c.val
    let hurts := decide (why = .tileMemory) && (u.run.step.isSome || persists)
    let again := !u.run.fences.isEmpty && !u.run.stopping
    let v := u.onRun fun r => { r with fences := r.fences ++ [(c, fenceCode why)], lost := r.lost || hurts }
    if again && !hurts then v.abortCluster c else (v.quiesceNow.abortCluster c).quietDone

theorem State.fence_eq {s : State} {c : Cl} (h : (s.cl c).fenced = none) (why : FenceReason) :
    s.fence c why = (s.fencing c why).fenceFollows c why :=
  (if_neg (by rw [h]; decide)).trans rfl

section
variable {u : State} {c : Cl} {why : FenceReason}

/-- A fence while no graph is placed and none is being placed. -/
theorem State.fenceFollows_unplaced
    (hg : u.run.graph = none ∨ ((∃ g, u.run.graph = some { pkg := g, place := none }) ∧ ∀ p id a, u.run.placing ≠ some (.load p id a))) :
    u.fenceFollows c why = u.fenceEvent c (fenceCode why) 0 0 := by
  unfold State.fenceFollows
  rcases hg with hg | ⟨⟨g, hg⟩, hp⟩
  · rw [hg]
  · rw [hg]
    dsimp only
    split
    · next e => exact absurd e (hp _ _ _)
    · rfl

/-- A fence while a GRAPH_LOAD is placing its graph. -/
theorem State.fenceFollows_loading {g : Package} {p : HPort} {id : BitVec 16} {addr : Nat}
    (hg : u.run.graph = some { pkg := g, place := none }) (hp : u.run.placing = some (.load p id addr)) :
    u.fenceFollows c why = u.onRun fun r => { r with fences := r.fences ++ [(c, fenceCode why)] } := by
  unfold State.fenceFollows
  rw [hg]
  dsimp only
  rw [hp]

/-- A fence while a graph is placed: the module stops, unless it has stopped for an earlier one, and the cluster's firings end. -/
theorem State.fenceFollows_placed {g : Package} {pl : Placement} (hg : u.run.graph = some { pkg := g, place := some pl }) :
    ∃ b lost : Bool, (u.run.fences = [] → b = false) ∧ u.fenceFollows c why =
      if b then (u.onRun fun r => { r with fences := r.fences ++ [(c, fenceCode why)], lost := lost }).abortCluster c
      else ((u.onRun fun r => { r with fences := r.fences ++ [(c, fenceCode why)], lost := lost }).quiesceNow.abortCluster c).quietDone := by
  unfold State.fenceFollows
  rw [hg]
  refine ⟨_, _, fun he => ?_, rfl⟩
  rw [he]
  rfl

end

/-- Settles O27: a fence marks its cluster alone, and what it leads to depends on the graph. -/
theorem clusterFenced : Obligations.ClusterFenced := by
  intro c why s
  obtain ⟨hcl, hother, hrun, hev, hseq, hmem, hlost⟩ := s.fencing_spec c why
  have hout : s.mem.wf = true → ∀ a, a < tileBase c.val ∨ tileBase c.val + 0x600000 ≤ a → (s.fencing c why).mem.get a = s.mem.get a := by
    intro hw a ha
    by_cases h : why = .tileMemory
    · rw [hlost h]
      exact Memory.get_fill_outside hw _ ha
    · rw [hmem h]
  refine ⟨fun h => congrArg Host.Outcome.next (State.fence_self h why), fun h => ⟨s.fence c why, rfl, ?_⟩, fun h hg => ⟨s.fence c why, rfl, ?_⟩,
    fun g p id addr h hg hp => ⟨s.fence c why, rfl, ?_⟩⟩
  · rw [State.fence_eq h]
    have hself : ((s.fencing c why).cl c).fenced = some (fenceCode why) := by rw [hcl]
    have hfo : ∀ d, d ≠ c → ((s.fencing c why).cl d).fenced = (s.cl d).fenced := fun d hd => by rw [hother d hd]
    have hun : ∀ u : State, (∀ d, (u.cl d).fenced = ((s.fencing c why).cl d).fenced) → (u.cl c).fenced = some (fenceCode why) ∧
        ∀ d, d ≠ c → (u.cl d).fenced = (s.cl d).fenced := fun u hu => ⟨(hu c).trans hself, fun d hd => (hu d).trans (hfo d hd)⟩
    rcases hg : s.run.graph with _ | ⟨g, _ | pl⟩
    · rw [State.fenceFollows_unplaced (by rw [hrun]; exact .inl hg)]
      obtain ⟨h1, h2⟩ := hun ((s.fencing c why).fenceEvent c (fenceCode why) 0 0) fun d => rfl
      exact ⟨h1, h2, fun g pl h => absurd h (by simp)⟩
    · have hf : ∀ d, (((s.fencing c why).fenceFollows c why).cl d).fenced = ((s.fencing c why).cl d).fenced := by
        by_cases hp : ∃ p id a, s.run.placing = some (.load p id a)
        · obtain ⟨p, id, a, hp⟩ := hp
          rw [State.fenceFollows_loading (by rw [hrun]; exact hg) (by rw [hrun]; exact hp)]
          exact fun d => rfl
        · rw [State.fenceFollows_unplaced (by rw [hrun]; exact .inr ⟨⟨g, hg⟩, fun p id a e => hp ⟨p, id, a, e⟩⟩)]
          exact fun d => rfl
      obtain ⟨h1, h2⟩ := hun _ hf
      exact ⟨h1, h2, fun g pl h => absurd h (by simp)⟩
    · obtain ⟨b, lost, hb, hf⟩ := State.fenceFollows_placed (u := s.fencing c why) (c := c) (why := why) (by rw [hrun]; exact hg)
      obtain ⟨h1, h2, h3, h4⟩ := State.fenceStops _ c b _ hf
      obtain ⟨h5, h6⟩ := hun _ h1
      refine ⟨h5, h6, fun g pl _ => ⟨h2.trans ?_, h3, fun he => h4 (hb (by rw [hrun]; exact he))⟩⟩
      exact congrArg (fun r : Run => r.fences ++ [(c, fenceCode why)]) hrun
  · rw [State.fence_eq h, State.fenceFollows_unplaced (by rw [hrun]; exact hg)]
    refine ⟨hcl, hother, hrun, ?_, hmem, hlost, hout⟩
    have hlog := State.event_logged (s := s.fencing c why) (src := fromCluster c) (code := 2) (st := 0)
      (d := [packBits [(c.val, 0), (fenceCode why, 9), (0, 12), (0, 16)], s.run.placementId.zeroExtend 64])
    rw [State.fenceEvent, hrun]
    exact hlog.congr hseq.symm rfl rfl
  · rw [State.fence_eq h, State.fenceFollows_loading (by rw [hrun]; exact hg) (by rw [hrun]; exact hp)]
    refine ⟨hcl, hother, ?_, hev, hmem, hlost, hout⟩
    exact congrArg (fun r : Run => { r with fences := r.fences ++ [(c, fenceCode why)] }) hrun

/-! ### Fences are reported (R287, R529) -/

theorem State.fenceEvents_spec (outcome detail : Nat) (fs : List (Cl × Nat)) (t : State) :
    Reports t (fs.foldl (fun t f => t.fenceEvent f.1 f.2 outcome detail) t) ∧
      (fs.foldl (fun t f => t.fenceEvent f.1 f.2 outcome detail) t).evtSeq = t.evtSeq + BitVec.ofNat _ fs.length := by
  induction fs generalizing t with
  | nil => exact ⟨.refl t, (BitVec.add_zero _).symm⟩
  | cons f fs ih =>
    obtain ⟨h1, h2⟩ := ih (t.fenceEvent f.1 f.2 outcome detail)
    refine ⟨(State.event_reports ..).trans h1, h2.trans ?_⟩
    rw [State.fenceEvent, State.event_evtSeq, List.length_cons, BitVec.add_assoc, ← BitVec.ofNat_add_ofNat, BitVec.add_comm (BitVec.ofNat _ fs.length)]
    rfl

theorem State.reportFences_reports (s : State) (outcome detail : Nat) :
    Reports (s.onRun fun r => { r with fences := [] }) (s.reportFences outcome detail) := (State.fenceEvents_spec ..).1

theorem fencesReported : Claim.FencesReported := by
  intro s outcome detail
  refine ⟨(s.reportFences_reports outcome detail).run, (State.fenceEvents_spec ..).2, fun c why h => ?_⟩
  unfold State.reportFences
  rw [h]
  exact (State.event_logged (s.onRun fun r => { r with fences := [] }) ..).congr rfl rfl rfl

/-! ### The end of a placement (R267, R287 to R289) -/

theorem exec_placementFinished_load {s : State} {port : HPort} {tag : BitVec 16} {addr : Nat} {g : Graph} (hp : s.run.placing = some (.load port tag addr))
    (hg : s.run.graph = some g) : exec .placementFinished s = .next (s.placedLoad port tag addr g.pkg) := by
  change execPlacementFinished s = _
  unfold execPlacementFinished
  rw [hp, hg]

theorem exec_placementFinished_fence {s : State} {g : Graph} (hp : s.run.placing = some .fence) (hg : s.run.graph = some g) :
    exec .placementFinished s = .next (s.placedFence g) := by
  change execPlacementFinished s = _
  unfold execPlacementFinished
  rw [hp, hg]

theorem State.cutSteps_spec (s : State) : s.cutSteps.run = { s.run with budget := 0, waits := [] } ∧ s.cutSteps.cls = s.cls := by
  have h := (State.cutWaits_reports (s.onRun fun r => { r with budget := 0, waits := [] }) s.run.waits).1
  exact ⟨h.run, h.cls⟩

/-- The state in which a GRAPH_LOAD's graph is placed, before its fences are reported and its command completes. -/
def State.loaded (s : State) (addr : Nat) (p : Package) (pl : Placement) : State :=
  let s := s.onRun fun r => { r with placing := none }
  let t := (((s.forgetData.installTables p pl).installSolvers p pl).fillTensors (s.image addr) p pl).clearFactors p pl
  (t.onRun fun r => { r with graph := some { pkg := p, place := some pl }, placementId := r.placementId + 1, outcome := 0 }).onHlt fun h =>
    { h with privBytes := BitVec.ofNat 48 (privBytes p pl.stages), seq := 0 }

theorem State.loaded_run (s : State) (addr : Nat) (p : Package) (pl : Placement) : (s.loaded addr p pl).run =
    { s.run with placing := none, graph := some { pkg := p, place := some pl }, placementId := s.run.placementId + 1, outcome := 0 } := rfl

theorem State.placedLoad_inr {s : State} {p : Package} {d : Nat} (h : (s.onRun fun r => { r with placing := none }).placementOf p none = .inr d)
    (port : HPort) (tag : BitVec 16) (addr : Nat) : s.placedLoad port tag addr p =
      ((((s.onRun fun r => { r with placing := none }).onRun fun r => { r with graph := none, outcome := 0 }).reportFences s.run.outcome 0).finish
        port tag (rejected d)) := by
  unfold State.placedLoad
  dsimp only
  rw [h]
  rfl

theorem State.placedLoad_inl {s : State} {p : Package} {pl : Placement}
    (h : (s.onRun fun r => { r with placing := none }).placementOf p none = .inl pl) (port : HPort) (tag : BitVec 16) (addr : Nat) :
    s.placedLoad port tag addr p = ((s.loaded addr p pl).reportFences s.run.outcome 0).finish port tag
      { words := [(s.loaded addr p pl).run.placementId.zeroExtend 64] } := by
  unfold State.placedLoad
  dsimp only
  rw [h]
  rfl

/-- The state in which a graph is placed again, before its fences are reported. -/
def State.moved (s : State) (g : Graph) (pl : Placement) : State :=
  let s := s.onRun fun r => { r with placing := none }
  let t := (s.installTables g.pkg pl).installSolvers g.pkg pl
  let t := match g.place with | some old => s.moveTiles t g.pkg old pl | none => t
  t.onRun fun r =>
    { r with graph := some { g with place := some pl }, placementId := r.placementId + 1
             budget := if s.run.outcome = 1 then satAdd r.budget 1 else r.budget }

theorem State.moved_run (s : State) (g : Graph) (pl : Placement) : (s.moved g pl).run =
    { s.run with placing := none, graph := some { g with place := some pl }, placementId := s.run.placementId + 1
                 budget := if s.run.outcome = 1 then satAdd s.run.budget 1 else s.run.budget } := by
  unfold State.moved
  cases g.place <;> rfl

theorem State.placedFence_inr {s : State} {g : Graph} {d : Nat}
    (h : (s.onRun fun r => { r with placing := none }).placementOf g.pkg g.place = .inr d) : s.placedFence g =
      ((((s.onRun fun r => { r with placing := none }).onRun fun r => { r with graph := some { g with place := none } }).cutSteps).reportFences
        s.run.outcome d) := by
  unfold State.placedFence
  dsimp only
  rw [h]
  rfl

theorem State.placedFence_inl {s : State} {g : Graph} {pl : Placement}
    (h : (s.onRun fun r => { r with placing := none }).placementOf g.pkg g.place = .inl pl) :
    s.placedFence g = (s.moved g pl).reportFences s.run.outcome 0 := by
  unfold State.placedFence
  dsimp only
  rw [h]
  rfl

theorem placementEnds : Claim.PlacementEnds := by
  intro s
  refine ⟨fun hq hf hp => ?_, fun h => ?_, fun h => ?_, fun g hg => ?_⟩
  · change execReplacement s = _
    exact if_pos (by rw [hq, hp, Bool.true_and]; cases hs : s.run.fences <;> simp_all)
  · change execReplacement s = _
    refine if_neg ?_
    rcases h with h | h | h
    · rw [h]
      simp
    · rw [h]
      simp
    · cases hp : s.run.placing with
      | none => rw [hp] at h; exact absurd h (by decide)
      | some x => simp
  · change execPlacementFinished s = _
    unfold execPlacementFinished
    rcases h with h | h
    · rw [h]
    · rw [h]
      cases s.run.placing with
      | none => rfl
      | some x => cases x <;> rfl
  intro u
  refine ⟨fun port tag addr hp => ⟨fun d hd => ?_, fun pl hl => ?_⟩, fun hp => ⟨fun d hd => ?_, fun pl hl => ?_⟩⟩
  · rw [exec_placementFinished_load hp hg, State.placedLoad_inr hd]
    rfl
  · refine ⟨_, exec_placementFinished_load hp hg, ?_⟩
    rw [State.placedLoad_inl hl]
    have hr := ((s.loaded addr g.pkg pl).reportFences_reports s.run.outcome 0).trans (State.finish_reports _ port tag
      { words := [(s.loaded addr g.pkg pl).run.placementId.zeroExtend 64] } 0)
    beta_reduce
    rw [hr.run]
    exact ⟨rfl, rfl, rfl, rfl, rfl, _, rfl⟩
  · refine ⟨_, exec_placementFinished_fence hp hg, ?_⟩
    rw [State.placedFence_inr hd]
    obtain ⟨hrun, hcls⟩ := ((s.onRun fun r => { r with placing := none }).onRun fun r => { r with graph := some { g with place := none } }).cutSteps_spec
    generalize ((s.onRun fun r => { r with placing := none }).onRun fun r => { r with graph := some { g with place := none } }).cutSteps = x at *
    have hr := x.reportFences_reports s.run.outcome d
    have hf : x.run.fences = s.run.fences := by rw [hrun]; rfl
    rw [hr.run, hr.cls]
    change x.run.graph = _ ∧ x.run.budget = _ ∧ x.run.waits = _ ∧ _ ∧ x.run.placing = _ ∧ x.run.placementId = _ ∧ x.cls = _ ∧ _
    rw [hrun]
    exact ⟨rfl, rfl, rfl, rfl, rfl, rfl, hcls, x, hf, rfl⟩
  · refine ⟨_, exec_placementFinished_fence hp hg, ?_⟩
    rw [State.placedFence_inl hl]
    have hr := (s.moved g pl).reportFences_reports s.run.outcome 0
    have hf : (s.moved g pl).run.fences = s.run.fences := by rw [State.moved_run]
    beta_reduce
    rw [hr.run]
    change (s.moved g pl).run.graph = _ ∧ (s.moved g pl).run.placementId = _ ∧ (s.moved g pl).run.placing = _ ∧ _ ∧ (s.moved g pl).run.budget = _ ∧ _
    rw [State.moved_run]
    exact ⟨rfl, rfl, rfl, rfl, rfl, s.moved g pl, hf, rfl⟩

/-- Settles O28: a placement starts only for a quiesced module with fences to report, and how each ends. -/
theorem placementRuns : Obligations.PlacementRuns := ⟨fencesReported, placementEnds⟩

/-! ### The step boundary (R47, R355, R609) -/

/-- The clusters stay, and so do the step and its number, and the performance counters but for the step's interval. -/
structure State.Rests (s t : State) : Prop where
  cls : t.cls = s.cls
  run : t.run.step = s.run.step ∧ t.run.crvStep = s.run.crvStep
  perf : t.perf = { s.perf with interval := t.perf.interval }

namespace State.Rests

theorem refl (s : State) : s.Rests s := ⟨rfl, ⟨rfl, rfl⟩, rfl⟩

theorem trans {s t u : State} (h : s.Rests t) (k : t.Rests u) : s.Rests u where
  cls := k.cls.trans h.cls
  run := ⟨k.run.1.trans h.run.1, k.run.2.trans h.run.2⟩
  perf := by
    have e := k.perf
    rw [h.perf] at e
    exact e

theorem ite {s t u : State} {c : Prop} [Decidable c] (h : s.Rests t) (k : s.Rests u) : s.Rests (if c then t else u) := by
  split
  · exact h
  · exact k

theorem foldl {α : Type} {s t : State} {f : State → α → State} {xs : List α} (h : s.Rests t) (hf : ∀ (t : State) a, t.Rests (f t a)) :
    s.Rests (xs.foldl f t) := foldl_keeps (q := s.Rests) (fun b a hb => hb.trans (hf b a)) xs h

section
variable {s t : State} (h : s.Rests t)
include h

theorem of_eq {u : State} (hc : u.cls = t.cls) (hr : u.run.step = t.run.step ∧ u.run.crvStep = t.run.crvStep) (hp : u.perf = t.perf) : s.Rests u :=
  h.trans ⟨hc, hr, by rw [hp]⟩

theorem reports {u : State} (k : Reports t u) : s.Rests u := h.of_eq k.cls (by rw [k.run]; exact ⟨rfl, rfl⟩) k.perf

theorem accesses {u : State} (k : Accesses t u) : s.Rests u :=
  h.of_eq (by rw [k.eq]) (by rw [k.eq]; exact ⟨rfl, rfl⟩) (by rw [k.eq])

theorem finish {p : HPort} {id : BitVec 16} {r : Reply} : s.Rests (t.finish p id r) := h.reports (State.finish_reports ..)

theorem boundaryReplies {n : BitVec 48} : s.Rests (t.boundaryReplies n) := by
  unfold State.boundaryReplies
  extract_lets ws qs t1 t2 t3
  have h1 : s.Rests t1 := h.of_eq rfl ⟨rfl, rfl⟩ rfl
  have h2 : s.Rests t2 := .ite h1 (h1.of_eq rfl ⟨rfl, rfl⟩ rfl)
  have h3 : s.Rests t3 := h2.foldl fun u w => (refl u).finish
  exact h3.foldl fun u w => (refl u).finish

theorem installLoads : s.Rests t.installLoads := by
  unfold State.installLoads
  refine foldl (of_eq (u := t.onRun _) h rfl ⟨rfl, rfl⟩ rfl) fun u l => finish ?_
  unfold State.installProblem
  split <;> exact (refl u).of_eq rfl ⟨rfl, rfl⟩ rfl

theorem clearContexts : s.Rests t.clearContexts := by
  unfold State.clearContexts
  exact (h.of_eq (u := t.onRun _) rfl ⟨rfl, rfl⟩ rfl).foldl fun u l => ((refl u).of_eq (u := u.clearContext _) rfl ⟨rfl, rfl⟩ rfl).finish

theorem serveSwitch : s.Rests t.serveSwitch := by
  unfold State.serveSwitch
  split
  · exact h.of_eq rfl ⟨rfl, rfl⟩ rfl
  · exact h

theorem startFreeze {mid : Bool} : s.Rests (t.startFreeze mid) := by
  unfold State.startFreeze
  split
  · exact h
  · refine .ite ((h.of_eq (u := t.onHlt _) rfl ⟨rfl, rfl⟩ rfl).reports (State.event_reports ..)) ?_
    extract_lets seq k0 mirror k base ws
    exact (h.accesses ((Accesses.refl t).svcWrite ws)).of_eq rfl ⟨rfl, rfl⟩ rfl

theorem boundarySnapshot {n : Nat} : s.Rests (t.boundarySnapshot n) := by
  unfold State.boundarySnapshot
  refine .ite h (.ite (h.of_eq rfl ⟨rfl, rfl⟩ rfl) (.ite ?_ h.startFreeze))
  exact h.startFreeze.trans ⟨rfl, ⟨rfl, rfl⟩, rfl⟩

end
end State.Rests

/-- The state at a boundary once the slots, the step and the counters of the step that ends are settled. -/
def State.ended (s : State) (p : Package) (pl : Placement) : State :=
  let n := s.run.crvStep
  let t := (List.finRange 384).foldl (fun s c =>
    if pl.participates c.val then s.onCl c fun k => { k with slots := k.slots.set! 255 0 } else s) s
  let t := t.checkStats p pl n.toNat
  let t := t.onRun fun r => { r with step := none, stepped := true, crvStep := r.crvStep + 1, lost := false }
  let t := t.onFab fun f => { f with arrivals := f.arrivals.filter fun a => decide (n.toNat < a.step) }
  let t := { t with perf := t.perf.latch n }
  { t with perf := { t.perf with copy := some (n.toNat, t.counterCopy) } }

theorem State.endStep_rests (s : State) (p : Package) (pl : Placement) : (s.ended p pl).Rests (s.endStep p pl) :=
  ((State.Rests.refl (s.ended p pl)).reports (State.event_reports ..)).boundaryReplies.installLoads.clearContexts.serveSwitch.boundarySnapshot

theorem State.checkStats_units (s : State) (p : Package) (pl : Placement) (n : Nat) :
    (s.checkStats p pl n).cls = s.cls ∧ (s.checkStats p pl n).run = s.run ∧ (s.checkStats p pl n).perf = s.perf := by
  unfold State.checkStats
  refine foldl_keeps (q := fun t : State => t.cls = s.cls ∧ t.run = s.run ∧ t.perf = s.perf) (fun t x h => ?_) _ ⟨rfl, rfl, rfl⟩
  dsimp only
  split
  · exact h
  · split
    · unfold State.statNar
      split <;> exact h
    · exact h

/-- Slot 255 of every cluster that takes part reads 0, and nothing else of the state changes. -/
theorem State.clearClosing (s : State) (pl : Placement) (c : Cl) :
    let t := (List.finRange 384).foldl (fun s c =>
      if pl.participates c.val then s.onCl c fun k => { k with slots := k.slots.set! 255 0 } else s) s
    t = { s with cls := t.cls } ∧ t.cl c = if pl.participates c.val then { s.cl c with slots := (s.cl c).slots.set! 255 0 } else s.cl c := by
  refine ⟨foldl_keeps (q := fun t : State => t = { s with cls := t.cls }) (fun t d h => ?_) _ rfl, ?_⟩
  · split
    · exact congrArg (State.onCl · d _) h
    · exact h
  · refine foldl_observe (g := fun t : State => t.cl c) (k := fun x => if pl.participates c.val then { x with slots := x.slots.set! 255 0 } else x)
      (List.nodup_finRange 384) (List.mem_finRange c) (fun t d hd => ?_) (fun t => ?_) s
    · split
      · exact State.onCl_other _ _ (Ne.symm hd)
      · rfl
    · split
      · exact State.onCl_self ..
      · rfl

theorem State.ended_spec (s : State) (p : Package) (pl : Placement) :
    (s.ended p pl).run.step = none ∧ (s.ended p pl).run.crvStep = s.run.crvStep + 1 ∧ (s.ended p pl).perf.stepNum = s.run.crvStep ∧
      (s.ended p pl).perf.stepCnt = s.perf.stepCnt + 1 ∧ (s.ended p pl).perf.stepLast = BitVec.ofNat 48 (s.perf.interval.getD 0) ∧
      ∀ c : Cl, (s.ended p pl).cl c = if pl.participates c.val then { s.cl c with slots := (s.cl c).slots.set! 255 0 } else s.cl c := by
  have hcl := fun c => s.clearClosing pl c
  unfold State.ended
  generalize (List.finRange 384).foldl (fun s c =>
    if pl.participates c.val then s.onCl c fun k => { k with slots := k.slots.set! 255 0 } else s) s = u at *
  obtain ⟨h1, h2, h3⟩ := u.checkStats_units p pl s.run.crvStep.toNat
  have hu : u = { s with cls := u.cls } := (hcl ⟨0, by decide⟩).1
  have hr : (u.checkStats p pl s.run.crvStep.toNat).run = s.run := h2.trans (by rw [hu])
  have hp : (u.checkStats p pl s.run.crvStep.toNat).perf = s.perf := h3.trans (by rw [hu])
  refine ⟨rfl, ?_, rfl, ?_, ?_, fun c => ?_⟩
  · exact congrArg (fun r : Run => r.crvStep + 1) hr
  · exact congrArg (fun x : Perf => x.stepCnt + 1) hp
  · exact congrArg (fun x : Perf => BitVec.ofNat 48 (x.interval.getD 0)) hp
  · exact (congrArg (·[c]) h1).trans (hcl c).2

theorem Cluster.slot_closing (k : Cluster) (n : Nat) :
    ({ k with slots := k.slots.set! 255 0 } : Cluster).slot n = if n = 255 then 0 else k.slot n := by
  unfold Cluster.slot
  by_cases hn : n < 256
  · rw [dif_pos hn, dif_pos hn]
    by_cases h : n = 255
    · subst h
      simp
    · rw [if_neg h]
      simp [Ne.symm h]
  · rw [dif_neg hn, dif_neg hn]
    simp

/-- Settles O26: what a step leaves at its boundary. -/
theorem stepEnds : Obligations.StepEnds := by
  intro s p pl k hp hk hb
  have hex : exec .stepBoundary s = .next (s.endStep p pl) := by
    change execStepBoundary s = _
    unfold execStepBoundary
    rw [hp, hk]
    exact congrArg _ (if_pos hb)
  obtain ⟨h1, h2, h3, h4, h5, h6⟩ := s.ended_spec p pl
  have hr := s.endStep_rests p pl
  have hcl : ∀ c : Cl, (s.endStep p pl).cl c = (s.ended p pl).cl c := fun c => congrArg (·[c]) hr.cls
  refine ⟨_, hex, hr.run.1.trans h1, hr.run.2.trans h2, ?_, ?_, ?_, fun c hc => ?_, fun c n hn => ?_⟩
  · rw [hr.perf]
    exact h3
  · rw [hr.perf]
    exact h4
  · rw [hr.perf]
    exact h5
  · rw [hcl, h6, if_pos hc, Cluster.slot_closing, if_pos rfl]
  · rw [hcl, h6]
    split
    · rw [Cluster.slot_closing, if_neg hn]
    · rfl

end Sys2Proof.Machine
end

section
/-! Proofs. The tick of an empty queue; solver calls; curvature; the start of services; requests to memory. -/
namespace Sys2Proof.Machine

/-! ### The tick (R579, R601, R603) -/

/-- A cluster differs only in its counters and in the tallies of its firings (R249, R606). -/
structure Cluster.Charges (k u : Cluster) : Prop where
  rest : u = { k with stl := u.stl, firings := u.firings }
  firings : u.firings.map Firing.untallied = k.firings.map Firing.untallied

namespace Cluster.Charges

theorem refl (k : Cluster) : k.Charges k := ⟨rfl, rfl⟩

theorem trans {k u v : Cluster} (h : k.Charges u) (h' : u.Charges v) : k.Charges v where
  rest := by
    have e := h'.rest
    rw [h.rest] at e
    exact e
  firings := h'.firings.trans h.firings

theorem charge (k : Cluster) (f : Option Firing) (e slot n : Nat) : k.Charges (k.charge f e slot n) where
  rest := by
    obtain ⟨x, hx⟩ := k.count_rest e slot n
    unfold Cluster.charge
    split
    · split
      · rfl
      · rw [hx]
    · rw [hx]
  firings := k.charge_firings f e slot n

theorem charges (k : Cluster) (f : Option Firing) (e : Nat) (l : List (Nat × Nat)) :
    k.Charges (l.foldl (fun k x => k.charge f e x.1 x.2) k) :=
  foldl_keeps (q := k.Charges) (fun _ x h => h.trans (charge _ f e x.1 x.2)) l (refl k)

theorem engineTick (w : Nat → Word) (cause : Nat → Option Nat) (cycles thermal : Nat) (k : Cluster) (e : Nat) :
    k.Charges (k.engineTick w cause cycles thermal e) := by
  unfold Cluster.engineTick
  split
  · exact refl k
  · exact charges k _ e _

end Cluster.Charges

theorem State.clusterTick_charges (s : State) (nonce : Nat) (c : Cl) : (s.cl c).Charges (s.clusterTick nonce c) := by
  have h := foldl_keeps (q := (s.cl c).Charges) (f := Cluster.engineTick (fun i => Config.freeWord nonce (16 * c.val + i)) (s.engineCause c)
    (s.pwr.arithCycles (rgOf c)).1 (s.pwr.arithCycles (rgOf c)).2) (fun k e hk => hk.trans (.engineTick _ _ _ _ k e)) (List.range 8) (.refl _)
  unfold State.clusterTick
  dsimp only
  split
  · split
    · exact h.trans (.charges _ _ 8 _)
    · exact h
  · exact h

/-- An engine of a cluster without a firing and without a waiting entry has no work. -/
theorem Cluster.engineWork_of_idle {k : Cluster} (hf : k.firings = []) (ht : ∀ i : Fin 128, k.table[i].state ≠ .waiting) (e : Nat) :
    k.engineWork e = none := by
  unfold Cluster.engineWork
  split
  · refine if_neg ?_
    simp only [List.any_eq_true, decide_eq_true_eq, not_exists, not_and, Vector.mem_toList_iff]
    intro x hx hw
    obtain ⟨i, hi, rfl⟩ := Vector.getElem_of_mem hx
    exact ht ⟨i, hi⟩ hw
  · rw [hf]
    rfl

theorem State.clusterTick_of_idle {s : State} {c : Cl} (nonce : Nat) (hf : (s.cl c).firings = [])
    (ht : ∀ i : Fin 128, (s.cl c).table[i].state ≠ .waiting) : s.clusterTick nonce c = s.cl c := by
  have h := foldl_keeps (q := (· = s.cl c)) (f := Cluster.engineTick (fun i => Config.freeWord nonce (16 * c.val + i)) (s.engineCause c)
    (s.pwr.arithCycles (rgOf c)).1 (s.pwr.arithCycles (rgOf c)).2)
    (fun k e hk => by subst hk; unfold Cluster.engineTick; rw [Cluster.engineWork_of_idle hf ht]) (List.range 8) rfl
  unfold State.clusterTick
  dsimp only
  rw [h]
  split
  next d f e =>
    refine if_neg fun ⟨hd, _⟩ => ?_
    subst hd
    unfold State.nyalaFiring at e
    split at e
    next u _ =>
      obtain ⟨g, hg, hp⟩ := Option.map_eq_some_iff.mp e
      obtain ⟨rfl, rfl⟩ := Prod.mk.inj hp
      unfold Cluster.firing at hg
      rw [hf] at hg
      cases hg
    next => cases e
  next => rfl

/-- A region differs only in its counters. -/
def Region.Counts (x y : Region) : Prop := y = { x with stl := y.stl }

namespace Region.Counts

theorem trans {x y z : Region} (h : x.Counts y) (h' : y.Counts z) : x.Counts z := by
  unfold Region.Counts at h h'
  rw [h] at h'
  exact h'

theorem counts {x y : Region} (h : x.Counts y) (e : Nat) (l : List (Nat × Nat)) : x.Counts (l.foldl (fun x y => x.count e y.1 y.2) y) :=
  foldl_keeps (q := x.Counts) (fun b w hb => hb.trans (by obtain ⟨v, hv⟩ := b.count_rest e w.1 w.2; unfold Region.Counts; rw [hv])) l h

end Region.Counts

theorem State.regionTick_counts (s : State) (nonce : Nat) (r : Rg) : (s.rg r).Counts (s.regionTick nonce r) := by
  unfold State.regionTick
  dsimp only
  have h0 : (s.rg r).Counts (s.rg r) := rfl
  have h1 : (s.rg r).Counts (match s.nyalaFiring r with
      | some (_, f) => if f.held then s.rg r else (nyalaCharges (fun i => Config.freeWord nonce (10000 + 16 * r.val + i)) (s.pwr.arithCycles r).1
          (s.pwr.arithCycles r).2).foldl (fun x y => x.count 0 y.1 y.2) (s.rg r)
      | none => if (s.rg r).medlar.rounds then [(10, chargedTo (Config.freeWord nonce (10000 + 16 * r.val + 0)) [10] (s.pwr.arithCycles r).1 10)].foldl
          (fun x y => x.count 0 y.1 y.2) (s.rg r) else s.rg r) := by
    split
    · split
      · exact h0
      · exact h0.counts 0 _
    · split
      · exact h0.counts 0 _
      · exact h0
  have h2 {x : Region} (hx : (s.rg r).Counts x) (b : Bool) (l : List (Nat × Nat)) :
      (s.rg r).Counts (if b then l.foldl (fun x y => x.count 1 y.1 y.2) x else x) := by
    split
    · exact hx.counts 1 l
    · exact hx
  split
  · exact (h2 h1 _ _).counts 2 _
  · exact h2 h1 _ _

theorem Fabric.starved_iff {f : Fabric} {p : FPort} {vc : Nat} : f.starved p vc = true ↔ ∃ w ∈ f.waiting, w.output = p ∧ w.packet.vc = vc ∧
    f.ports[p].credit (bufClass vc (f.dlOut w.input p w.packet)) = false := by
  simp only [Fabric.starved, List.any_eq_true, Bool.and_eq_true, beq_iff_eq, Bool.not_eq_true', and_assoc]

theorem State.portTick_spec (s : State) (p : FPort) : s.portTick p = { s.link p with stl := (s.portTick p).stl } ∧
    ∀ v : Fin 4, (s.portTick p).stl[v] = if (s.link p).live = true ∧ s.pwr.islands[84 + p.val].running = true ∧
      (∃ w ∈ s.fab.waiting, w.output = p ∧ w.packet.vc = v.val ∧
        (s.link p).credit (bufClass v.val (s.fab.dlOut w.input p w.packet)) = false) then (s.link p).stl[v] + 16 else (s.link p).stl[v] := by
  by_cases h : (s.link p).live = true ∧ s.pwr.islands[84 + p.val].running = true
  · have e : s.portTick p = { s.link p with
        stl := Vector.ofFn fun v : Fin 4 => if s.fab.starved p v.val then (s.link p).stl[v] + 16 else (s.link p).stl[v] } :=
      if_pos ((Bool.and_eq_true _ _).mpr h)
    rw [e]
    refine ⟨rfl, fun v => (Vector.getElem_ofFn _).trans (ite_congr (propext ?_) (fun _ => rfl) (fun _ => rfl))⟩
    exact Fabric.starved_iff.trans ⟨fun hw => ⟨h.1, h.2, hw⟩, fun hw => hw.2.2⟩
  · have e : s.portTick p = s.link p := if_neg fun hw => h ((Bool.and_eq_true _ _).mp hw)
    rw [e]
    exact ⟨rfl, fun v => (if_neg fun hw => h ⟨hw.1, hw.2.1⟩).symm⟩

theorem Island.tick_eq (i : Island) : i.tick = { i with ticks := if i.powered then i.ticks + 1 else i.ticks } := by
  unfold Island.tick
  split <;> rfl

theorem step_of_empty {s : State} (h : s.pending = []) : step s = .next s.tick := by
  unfold step
  rw [h]

/-- Settles O2: a tick changes each cluster, region and port by itself, and each of them only in what it counts. -/
theorem emptyQueueTicks : Obligations.EmptyQueueTicks := by
  intro s hq
  rw [step_of_empty hq]
  refine ⟨fun h => congrArg _ (if_pos h), fun h => ?_⟩
  have hcl (c : Cl) : s.tick.cl c = s.clusterTick s.nonce c := by
    rw [State.tick, if_neg (by simp [h])]
    exact Vector.getElem_ofFn _
  have hrg (r : Rg) : s.tick.rg r = s.regionTick s.nonce r := by
    rw [State.tick, if_neg (by simp [h])]
    exact Vector.getElem_ofFn _
  have hport (p : FPort) : s.tick.link p = s.portTick p := by
    rw [State.tick, if_neg (by simp [h])]
    exact Vector.getElem_ofFn _
  refine ⟨_, rfl, ?_, ?_, fun i => ?_, fun c => ?_, fun r => ?_, fun p => ?_⟩
  · rw [State.tick, if_neg (by simp [h])]
  · rw [State.tick, if_neg (by simp [h])]
  · rw [State.tick, if_neg (by simp [h])]
    exact (Vector.getElem_map _ _).trans (Island.tick_eq _)
  · rw [hcl]
    have hc := s.clusterTick_charges s.nonce c
    exact ⟨hc.rest, hc.firings, State.clusterTick_of_idle s.nonce⟩
  · rw [hrg]
    exact s.regionTick_counts s.nonce r
  · rw [hport]
    exact s.portTick_spec p

/-! ### A call of Nyala starts or is refused (R294, R315) -/

theorem State.onNyala_self (s : State) (r : Rg) (f : Nyala → Nyala) : (s.onNyala r f).rg r = { s.rg r with nyala := f (s.rg r).nyala } :=
  State.onRg_self s r _

theorem State.onNyala_other {s : State} {r q : Rg} (f : Nyala → Nyala) (h : q ≠ r) : (s.onNyala r f).rg q = s.rg q :=
  State.onRg_other s _ h

theorem State.onNyala_onNyala (s : State) (r : Rg) (f g : Nyala → Nyala) : (s.onNyala r f).onNyala r g = s.onNyala r fun n => g (f n) :=
  State.onRg_onRg s r _ _

theorem State.onNyala_only (s : State) (r : Rg) (f : Nyala → Nyala) : OnlyRegion r s (s.onNyala r f) :=
  ⟨rfl, fun _ h => State.onNyala_other f h⟩

theorem State.onNyala_cl (s : State) (r : Rg) (f : Nyala → Nyala) (c : Cl) : (s.onNyala r f).cl c = s.cl c := rfl

/-- What a firing reads does not depend on its region's engine. -/
theorem State.slvRead_onNyala (s : State) (r : Rg) (f : Nyala → Nyala) (c : Cl) (e : Nat) : (s.onNyala r f).slvRead c e = s.slvRead c e := by
  have hrg (g : List (Nat × Bool)) (a : Nat) : ((s.onNyala r f).rg (rgOf c)).heldByte g a = (s.rg (rgOf c)).heldByte g a := by
    by_cases h : rgOf c = r
    · subst h
      rw [State.onNyala_self]
      rfl
    · rw [State.onNyala_other f h]
  funext o
  unfold State.slvRead
  rw [State.onNyala_cl]
  unfold State.tileAs
  split
  · unfold State.readAs
    rw [hrg]
    rfl
  · rfl

theorem exec_solverCallStart (r : Rg) (s : State) : exec (.solverCallStart r) s = execSolverCallStart r s := rfl

/-- SLV_ERRINFO and REFUSED after a refusal with a reason (R315). -/
theorem State.slvRefuse_eq (s : State) (c : Cl) (f : Firing) (reason : Nat) : s.slvRefuse c f reason = (s.onNyala (rgOf c) fun n =>
    { n with
      stat := n.stat ||| 1
      errReason := if n.stat.getLsbD 0 = false then BitVec.ofNat 4 reason else n.errReason
      errCluster := if n.stat.getLsbD 0 = false then BitVec.ofNat 9 c.val else n.errCluster
      errEntry := if n.stat.getLsbD 0 = false then BitVec.ofNat 7 f.entry else n.errEntry }).faultFiring c f 6 := by
  unfold State.slvRefuse
  refine congrArg (fun g => (s.onNyala (rgOf c) g).faultFiring c f 6) (funext fun n => ?_)
  by_cases h : n.stat.getLsbD 0 = true
  · rw [if_pos h]
    simp only [h, Bool.true_eq_false, if_false]
  · rw [if_neg h]
    simp only [h, if_true]

/-- Settles O29: the queue loses its head, and the reason decides. -/
theorem solverCallStarts : Obligations.SolverCallStarts := by
  refine ⟨fun r s h => ?_, fun r s q rest f g hrun hq hg hf hr hp => ?_⟩
  · rw [exec_solverCallStart]
    unfold execSolverCallStart
    dsimp only
    split
    · rfl
    next hp =>
      split
      next q rest hn hq =>
        rw [hn, hq] at h
        simp [hp] at h
      · rfl
  · subst hr
    intro u cmd reason
    have hread : u.slvRead q.cl q.entry = s.slvRead q.cl q.entry := State.slvRead_onNyala s _ _ _ _
    have hexec : exec (.solverCallStart (rgOf q.cl)) s = if reason ≠ 0 then .next (u.slvRefuse q.cl f reason) else
        let pr := (u.slvProblem g.pkg (rgOf q.cl) cmd).getD { image := [], signature := 0, nv := 0, nq := 0, rows := 0, joints := 0, bounds := [] }
        let w := u.slvWarmStart (rgOf q.cl) cmd pr
        let v : NyalaRun :=
          { cl := q.cl, entry := q.entry, cmd := cmd, warm := w.1, discarded := w.2, expired := q.expired
            phase := if q.expired then .finished else .input }
        .next (u.onNyala (rgOf q.cl) fun n => { n with run := some v }) := by
      rw [exec_solverCallStart]
      unfold execSolverCallStart
      have hf' : (u.cl q.cl).firing q.entry = some f := hf
      have hg' : u.run.graph = some g := hg
      dsimp only
      rw [if_neg (by simp [hp]), hrun, hq]
      dsimp only
      rw [hf', hg']
      dsimp only
      rw [hread]
      rfl
    refine ⟨fun h => ?_, fun h => ?_⟩
    · rw [if_neg (not_not.mpr h)] at hexec
      refine ⟨_, hexec, ?_, ?_, ?_⟩
      · rw [State.onNyala_onNyala]
        exact s.onNyala_only _ _
      · rw [State.onNyala_self]
      · rw [State.onNyala_self]
        exact ⟨_, rfl, rfl, rfl, rfl, rfl, rfl, rfl, rfl, rfl⟩
    · rw [hexec, if_pos h, State.slvRefuse_eq, State.onNyala_onNyala]

/-! ### The waves and the end of a call of Nyala (R295, R313, R317 to R337) -/

theorem exec_nyalaWaveInputDone (r : Rg) (s : State) : exec (.nyalaWaveInputDone r) s = execNyalaWaveInputDone r s := rfl
theorem exec_nyalaWaveComputeDone (r : Rg) (s : State) : exec (.nyalaWaveComputeDone r) s = execNyalaWaveComputeDone r s := rfl
theorem exec_solverDeadline (r : Rg) (k : Nat) (s : State) : exec (.solverDeadline r k) s = execSolverDeadline r k s := rfl
theorem exec_nyalaCallDone (r : Rg) (s : State) : exec (.nyalaCallDone r) s = execNyalaCallDone r s := rfl

theorem mem_waveInst {c : SlvCmd} {pr : Problem} {n i : Nat} :
    i ∈ waveInst c pr n ↔ n * lanesFor c pr ≤ i ∧ i < (n + 1) * lanesFor c pr ∧ i < slvCount c := by
  simp only [waveInst, List.mem_filter, List.mem_map, List.mem_range, decide_eq_true_eq, Nat.succ_mul]
  refine ⟨fun ⟨⟨a, ha, e⟩, h⟩ => ⟨by omega, by omega, h⟩, fun ⟨h1, h2, h3⟩ => ⟨⟨i - n * lanesFor c pr, by omega, by omega⟩, h3⟩⟩

/-- A wave without instances lies at or beyond the end of the call. -/
theorem waveInst_eq_nil {c : SlvCmd} {pr : Problem} {n : Nat} (h : slvCount c ≤ n * lanesFor c pr) : waveInst c pr n = [] :=
  List.eq_nil_iff_forall_not_mem.mpr fun i hi => by
    obtain ⟨h1, -, h3⟩ := mem_waveInst.mp hi
    omega

theorem waveInst_ne_nil {c : SlvCmd} {pr : Problem} {n : Nat} (h : n * lanesFor c pr < slvCount c) (hl : 0 < lanesFor c pr) :
    waveInst c pr n ≠ [] :=
  List.ne_nil_of_mem (mem_waveInst.mpr ⟨Nat.le_refl _, by rw [Nat.succ_mul]; omega, h⟩)

/-- Where a call may write, its outputs of the waves that have computed enter tile memory. -/
theorem State.sendWave_of_mayWrite {s : State} {r : Rg} {pr : Problem} {u v : NyalaRun} (hcl : v.cl = u.cl) (he : v.entry = u.entry)
    (h : CallMayWrite s u (slvData v.cmd (slvBlks v.cmd pr v.outs) v.written v.outs.length)) :
    s.sendWave r pr v = (s.onNyala r fun n => { n with run := some { v with written := v.outs.length } }).tileWrite u.cl
      (slvData v.cmd (slvBlks v.cmd pr v.outs) v.written v.outs.length) := by
  unfold State.sendWave
  rw [hcl, he]
  exact State.firingWrite_of_claimed h

theorem State.onNyala_tileWrite_frame (s : State) (r : Rg) (f : Nyala → Nyala) (c : Cl) (ws : List WByte) :
    let t := (s.onNyala r f).tileWrite c ws
    t = { s with rgs := t.rgs, mem := t.mem } ∧ (∀ q, q ≠ r → t.rg q = s.rg q) ∧
      t.mem = s.mem.write (ws.map fun w => { w with addr := tileBase c.val + w.addr }) ∧ (t.rg r).nyala = f (s.rg r).nyala := by
  refine ⟨rfl, fun q h => State.onNyala_other f h, rfl, ?_⟩
  exact congrArg Region.nyala (State.onNyala_self s r f)

/-- The call once its wave has computed: its outcomes, then the next wave or the end (R337). -/
def NyalaRun.computed (u : NyalaRun) (pr : Problem) (strict : Bool) : NyalaRun :=
  { u with
    outs := u.outs ++ u.outcomes pr strict, inputs := u.ahead.getD [], ahead := none
    wave := if slvCount u.cmd ≤ (u.wave + 1) * lanesFor u.cmd pr then u.wave else u.wave + 1
    phase := if slvCount u.cmd ≤ (u.wave + 1) * lanesFor u.cmd pr then .finished else if u.ahead.isSome then .compute else .input }

section
variable {r : Rg} {s : State} {u : NyalaRun} {pr : Problem} (hu : (s.rg r).nyala.run = some u) (hp : s.slvRunProblem r u = some pr)
include hu hp

theorem execNyalaWaveInputDone_of_input (h : u.phase = .input) : execNyalaWaveInputDone r s = .next (s.sendWave r pr
    { u with phase := .compute, inputs := (waveInst u.cmd pr u.wave).map (slvFetch (s.slvRead u.cl u.entry) u.cmd pr) }) := by
  unfold execNyalaWaveInputDone
  rw [hu]
  dsimp only
  rw [h, hp]

theorem execNyalaWaveInputDone_of_compute (h : u.phase = .compute) : execNyalaWaveInputDone r s =
    if u.ahead.isSome || (waveInst u.cmd pr (u.wave + 1)).isEmpty then .next s
    else .next (s.onNyala r fun n => { n with
      run := some { u with ahead := some ((waveInst u.cmd pr (u.wave + 1)).map (slvFetch (s.slvRead u.cl u.entry) u.cmd pr)) } }) := by
  unfold execNyalaWaveInputDone
  rw [hu]
  dsimp only
  rw [h, hp]

omit hp in
theorem execNyalaWaveInputDone_of_finished (h : u.phase = .finished) : execNyalaWaveInputDone r s = .next s := by
  unfold execNyalaWaveInputDone
  rw [hu]
  dsimp only
  rw [h]

omit hp in
theorem execNyalaWaveComputeDone_of_not (h : u.phase ≠ .compute) : execNyalaWaveComputeDone r s = .next s := by
  unfold execNyalaWaveComputeDone
  rw [hu]
  dsimp only
  split
  next e _ => exact absurd e h
  next => rfl

theorem execNyalaWaveComputeDone_of_compute (h : u.phase = .compute) : execNyalaWaveComputeDone r s =
    .next (if (u.computed pr ((s.cl u.cl).entry u.entry).strict).phase = .input
      then s.onNyala r fun n => { n with run := some (u.computed pr ((s.cl u.cl).entry u.entry).strict) }
      else s.sendWave r pr (u.computed pr ((s.cl u.cl).entry u.entry).strict)) := by
  unfold execNyalaWaveComputeDone
  rw [hu]
  dsimp only
  rw [h, hp]
  rfl

end

theorem solverWaves : Claim.SolverWaves := by
  intro r s u pr hu hp lanes wave becomes
  refine ⟨fun n i => mem_waveInst, fun h => ?_, fun h ha hl hpos => ?_, fun h => ?_, fun h => ?_, fun h => ?_⟩
  · intro ws hw
    have hsend := State.sendWave_of_mayWrite (r := r) (v := { u with phase := .compute, inputs := wave u.wave }) rfl rfl hw
    exact ⟨_, (execNyalaWaveInputDone_of_input hu hp h).trans (congrArg _ hsend), s.onNyala_tileWrite_frame r _ u.cl _⟩
  · refine (execNyalaWaveInputDone_of_compute hu hp h).trans (if_neg ?_)
    rw [ha]
    simpa using waveInst_ne_nil hl hpos
  · rcases h with h | ⟨h, h'⟩
    · exact execNyalaWaveInputDone_of_finished hu h
    · refine (execNyalaWaveInputDone_of_compute hu hp h).trans (if_pos ?_)
      rcases h' with h' | h'
      · rw [h', Bool.true_or]
      · rw [waveInst_eq_nil h', List.isEmpty_nil, Bool.or_true]
  · exact execNyalaWaveComputeDone_of_not hu h
  · intro outs last ws
    have hexec := execNyalaWaveComputeDone_of_compute hu hp h
    generalize hv : u.computed pr ((s.cl u.cl).entry u.entry).strict = v at hexec
    refine ⟨fun hl ha => ?_, fun hla hw => ?_⟩
    · have e : v = { u with outs := outs, inputs := [], wave := u.wave + 1, phase := .input } := by
        rw [← hv]
        unfold NyalaRun.computed
        rw [if_neg hl, if_neg hl, ha]
        rfl
      rw [if_pos (by rw [e]), e] at hexec
      exact hexec
    · have hphase : v.phase = if last then .finished else .compute := by
        rw [← hv]
        unfold NyalaRun.computed
        by_cases hl : last
        · exact (if_pos hl).trans (if_pos hl).symm
        · exact (if_neg hl).trans ((if_pos (hla.resolve_left hl)).trans (if_neg hl).symm)
      have hne : v.phase ≠ .input := by
        rw [hphase]
        split
        · decide
        · decide
      have houts : v.outs = outs := by
        rw [← hv]
        rfl
      have hcl : v.cl = u.cl ∧ v.entry = u.entry ∧ v.cmd = u.cmd ∧ v.ahead = none ∧ v.written = u.written ∧ v.inputs = u.ahead.getD [] := by
        rw [← hv]
        exact ⟨rfl, rfl, rfl, rfl, rfl, rfl⟩
      have hwave : ¬ last → v.wave = u.wave + 1 := fun hl => by
        rw [← hv]
        exact if_neg hl
      obtain ⟨hcl, he, hcmd, hah, hwr, hin⟩ := hcl
      have hws : ws = slvData v.cmd (slvBlks v.cmd pr v.outs) v.written v.outs.length := by
        rw [houts, hcmd, hwr]
      rw [if_neg hne] at hexec
      rw [hws] at hw
      refine ⟨_, hexec, ?_⟩
      rw [State.sendWave_of_mayWrite hcl he hw, hws]
      obtain ⟨h1, h2, h3, h4⟩ := s.onNyala_tileWrite_frame r (fun n => { n with run := some { v with written := v.outs.length } }) u.cl
        (slvData v.cmd (slvBlks v.cmd pr v.outs) v.written v.outs.length)
      exact ⟨h1, h2, h3, _, h4, houts, congrArg _ houts, hah, hcmd, he, hcl, fun hl => hphase.trans (if_pos hl),
        fun hl => ⟨hwave hl, hin, hphase.trans (if_neg hl)⟩⟩

/-! ### Deadlines and the end of a call -/

/-- What the call leaves of its engine: at once, or for the commit of its firing (R325, R333). -/
def Nyala.ended (n : Nyala) (f : Firing) (h : HeldWarm) : Nyala :=
  if f.held || f.committing then { n with run := none, held := n.held ++ [h] } else Nyala.applyWarm { n with run := none } h

theorem Nyala.applyWarm_counts (n : Nyala) (h : HeldWarm) : (n.applyWarm h).run = n.run ∧ (n.applyWarm h).calls = n.calls + 1 ∧
    (n.applyWarm h).fallback = n.fallback + BitVec.ofNat 48 h.falls ∧
    (n.applyWarm h).deadline = (if h.deadline then n.deadline + 1 else n.deadline) ∧ (n.applyWarm h).held = n.held := by
  unfold Nyala.applyWarm
  dsimp only
  split
  · exact ⟨rfl, rfl, rfl, rfl, rfl⟩
  · split
    · exact ⟨rfl, rfl, rfl, rfl, rfl⟩
    · split
      · exact ⟨rfl, rfl, rfl, rfl, rfl⟩
      · exact ⟨rfl, rfl, rfl, rfl, rfl⟩

theorem Nyala.ended_run (n : Nyala) (f : Firing) (h : HeldWarm) : (n.ended f h).run = none := by
  unfold Nyala.ended
  split
  · rfl
  · exact (Nyala.applyWarm_counts _ h).1

/-- The firing of a call once that has ended (R323). -/
def Firing.solved (f : Firing) (conds : Cond) (outs : List InstOut) : Firing :=
  { f with
    conds := f.conds ||| conds, ended := true, result := BitVec.ofNat 32 ((outs.map (·.iter)).foldl max 0)
    status := BitVec.ofNat 16 (firstStatus (outs.map (·.status))) }

theorem execNyalaCallDone_of_finished {r : Rg} {s : State} {u : NyalaRun} {pr : Problem} {f : Firing} (hu : (s.rg r).nyala.run = some u)
    (hp : s.slvRunProblem r u = some pr) (hf : (s.cl u.cl).firing u.entry = some f) (h : u.phase = .finished) :
    let outs := u.outs ++ u.unstarted (s.slvRead u.cl u.entry) pr ((s.cl u.cl).entry u.entry).strict
    let bs := slvBlks u.cmd pr outs
    execNyalaCallDone r s = .next (((s.onNyala r fun n => n.ended f (u.effects pr outs)).onCl u.cl fun k => k.onFiring u.entry fun g =>
      g.solved (orAll (bs.map (·.2)) ||| orAll (outs.map (·.cond))) outs).firingWrite u.cl (some f)
        (slvData u.cmd bs u.written outs.length ++ slvRecords u.cmd pr bs outs)) := by
  unfold execNyalaCallDone
  rw [hu]
  dsimp only
  rw [h, hp, hf]
  rfl

theorem execNyalaCallDone_of_not {r : Rg} {s : State} {u : NyalaRun} (hu : (s.rg r).nyala.run = some u) (h : u.phase ≠ .finished) :
    execNyalaCallDone r s = .next s := by
  unfold execNyalaCallDone
  rw [hu]
  dsimp only
  split
  next e _ _ => exact absurd e h
  next e _ => exact absurd e h
  next => rfl

theorem solverDeadline_of_queued {r : Rg} {s : State} {k : Nat} (hk : k ≠ 0) : exec (.solverDeadline r k) s = .next (s.onNyala r fun n =>
    { n with queue := n.queue.zipIdx.map fun x =>
      if x.2 + 1 = k ∧ ((s.cl x.1.cl).entry x.1.entry).f 6 0 32 ≠ 0 then { x.1 with expired := true } else x.1 }) := by
  rw [exec_solverDeadline]
  unfold execSolverDeadline
  dsimp only
  rw [if_pos hk]
  refine congrArg _ (congrArg (s.onNyala r) (funext fun n => ?_))
  simp only [Bool.and_eq_true, decide_eq_true_eq]

/-- A deadline that passes while a call runs (R321). -/
theorem execSolverDeadline_of_running {r : Rg} {s : State} {u : NyalaRun} {pr : Problem} (hu : (s.rg r).nyala.run = some u)
    (hp : s.slvRunProblem r u = some pr) (hn : u.phase ≠ .finished) (hd : ((s.cl u.cl).entry u.entry).f 6 0 32 ≠ 0) :
    ∃ now, (u.phase = .input → now = []) ∧ exec (.solverDeadline r 0) s = .next (s.draw.2.onNyala r fun n =>
      { n with run := some { u with outs := u.outs ++ now, inputs := [], ahead := none, phase := .finished, expired := true } }) := by
  rw [exec_solverDeadline]
  unfold execSolverDeadline
  dsimp only
  rw [if_neg (by decide), hu]
  dsimp only
  rw [if_neg (by simp [hn, hd]), hp]
  exact ⟨_, fun h => if_neg (by rw [h]; decide), rfl⟩

theorem solverDeadline_of_going {r : Rg} {s : State} {u : NyalaRun} (hu : (s.rg r).nyala.run = some u)
    (h : u.phase = .finished ∨ ((s.cl u.cl).entry u.entry).f 6 0 32 = 0) : exec (.solverDeadline r 0) s = .next s := by
  rw [exec_solverDeadline]
  unfold execSolverDeadline
  dsimp only
  rw [if_neg (by decide), hu]
  dsimp only
  rw [if_pos]
  rcases h with h | h
  · simp [h]
  · simp [h]

theorem solverCallEnds : Claim.SolverCallEnds := by
  refine fun r s => ⟨fun k hk => solverDeadline_of_queued hk, fun h => ⟨?_, ?_⟩, fun u pr hu hp => ⟨solverDeadline_of_going hu, fun hn hd => ?_,
    execNyalaCallDone_of_not hu, fun f hph hf => ?_⟩⟩
  · rw [exec_solverDeadline]
    unfold execSolverDeadline
    dsimp only
    rw [if_neg (by decide), h]
  · rw [exec_nyalaCallDone]
    unfold execNyalaCallDone
    rw [h]
  · obtain ⟨now, hnow, hexec⟩ := execSolverDeadline_of_running hu hp hn hd
    refine ⟨_, hexec, rfl, fun q hq => State.onNyala_other _ hq, _, congrArg Region.nyala (State.onNyala_self _ r _), rfl, rfl, rfl,
      ⟨now, rfl, hnow⟩, rfl⟩
  · intro outs bs ws h hw
    have hexec := execNyalaCallDone_of_finished hu hp hf hph
    dsimp only at hexec
    generalize hs : (s.onNyala r fun n => n.ended f h).onCl u.cl (fun k => k.onFiring u.entry fun g =>
      g.solved (orAll (bs.map (·.2)) ||| orAll (outs.map (·.cond))) outs) = t at hexec
    have hk : t.cl u.cl = (s.cl u.cl).onFiring u.entry fun g => g.solved (orAll (bs.map (·.2)) ||| orAll (outs.map (·.cond))) outs := by
      rw [← hs, State.onCl_self]
      rfl
    have hwrite : t.firingWrite u.cl (some f) ws = t.tileWrite u.cl ws := by
      refine State.firingWrite_of_claimed fun g hg hheld w hmem => ?_
      obtain rfl := Option.some.inj hg
      rw [hk]
      exact hw f hf hheld w hmem
    have hny : (t.rg r).nyala = (s.rg r).nyala.ended f h := by
      rw [← hs]
      exact congrArg Region.nyala (State.onNyala_self s r fun n => n.ended f h)
    refine ⟨t.tileWrite u.cl ws, hexec.trans (congrArg _ hwrite), ?_, fun q hq => ?_, ?_, ?_, fun hheld hcomm => ?_, fun hhc => ?_, ?_⟩
    · rw [← hs]
      rfl
    · rw [← hs]
      exact State.onNyala_other (s := s) (fun n => n.ended f h) hq
    · exact (congrArg Nyala.run hny).trans (Nyala.ended_run _ f h)
    · rw [← hs]
      rfl
    · obtain ⟨-, h1, h2, h3, h4⟩ := Nyala.applyWarm_counts { (s.rg r).nyala with run := none } h
      have e : ((t.tileWrite u.cl ws).rg r).nyala = Nyala.applyWarm { (s.rg r).nyala with run := none } h :=
        hny.trans (if_neg (by simp [hheld, hcomm]))
      rw [e]
      exact ⟨h1, h2, h3, h4⟩
    · refine hny.trans (if_pos ?_)
      rcases hhc with hh | hh
      · rw [hh, Bool.true_or]
      · rw [hh, Bool.or_true]
    · refine ⟨f.solved (orAll (bs.map (·.2)) ||| orAll (outs.map (·.cond))) outs, ?_, rfl, rfl, rfl⟩
      have e : (t.tileWrite u.cl ws).cl u.cl = t.cl u.cl := rfl
      rw [e, hk, Cluster.firing_onFiring (by exact fun _ => rfl), hf]
      simp

/-! ### Constraint forces (R313) -/

theorem RowSolve.force_of_mem {r : RowSolve} {pr : Problem} {key k i : Nat} {x : Ex} (h : (r.forces pr key k)[i]? = some x) :
    let side := r.sides.getD i .inactive
    ∃ y, x = if side ≠ .inactive && r.skips i then Ex.zero else side.hold r.warm y := by
  unfold RowSolve.forces at h
  rw [List.getElem?_map, List.getElem?_zipIdx] at h
  obtain ⟨p, hp, rfl⟩ := Option.map_eq_some_iff.mp h
  obtain ⟨d, -, rfl⟩ := Option.map_eq_some_iff.mp hp
  dsimp only
  rw [Nat.zero_add]
  exact ⟨_, rfl⟩

theorem constraintForces : Claim.ConstraintForces := by
  refine fun r pr c => ⟨fun key k i x h => ?_, fun h => ?_, fun h => ?_⟩
  · obtain ⟨y, rfl⟩ := RowSolve.force_of_mem h
    clear h
    dsimp only
    generalize r.sides.getD i .inactive = side
    by_cases hz : (side ≠ .inactive && r.skips i) = true
    · rw [if_pos hz]
      exact ⟨fun _ => Int.le_refl 0, fun _ => Int.le_refl 0, fun _ _ => rfl, fun _ _ => rfl⟩
    · rw [if_neg hz]
      refine ⟨fun e => ?_, fun e => ?_, fun e e' => absurd (by simp [e, e']) hz, fun e e' => ?_⟩
      · rw [e]
        exact RowSide.hold_lower r.warm y
      · rw [e]
        exact RowSide.hold_upper r.warm y
      · rw [e, e']
        exact RowSide.hold_inactive y
  · unfold RowSolve.last at h ⊢
    rcases find_range (slvMaxIter c) fun k => !slvUnmet c (r.residual pr (k + 1)) with ⟨k, e, hk, hmet, hbefore⟩ | ⟨e, -⟩
    · rw [e]
      refine ⟨Nat.succ_pos k, hk, ?_, fun m hm hmk => ?_⟩
      · simpa [slvUnmet] using hmet
      · obtain ⟨n, rfl⟩ : ∃ n, m = n + 1 := ⟨m - 1, by omega⟩
        simpa [slvUnmet] using hbefore n (by exact Nat.lt_of_succ_lt_succ hmk)
    · rw [e] at h
      cases h
  · rcases r.last_cases c pr with ⟨k, e, -, -⟩ | ⟨e, hunmet⟩
    · rw [e] at h
      cases h
    · rw [e]
      refine ⟨rfl, fun m hm hmk => ?_⟩
      obtain ⟨n, rfl⟩ : ∃ n, m = n + 1 := ⟨m - 1, by omega⟩
      exact hunmet n (by omega)

/-- Settles O30: the waves of a call, its end, and the signs of the forces. -/
theorem solverWavesAndEnds : Obligations.SolverWavesAndEnds := ⟨solverWaves, solverCallEnds, constraintForces⟩

/-! ### Reads of the curvature engine, and its fallback (R365, R369, R404, R413) -/

/-- A sector that is uncorrectable already stays the same when it is read. -/
theorem State.markSector_mem {s : State} {n : Nat} (h : n ∈ s.mem.ue) (p : Pt) (o : Nat) (fresh : Bool) : (s.markSector p o n fresh).mem = s.mem := by
  unfold State.markSector
  dsimp only
  rw [State.event_mem]
  split
  · have e : s.mem.ue.contains n = true := by simpa using h
    refine (congrArg (fun l => ({ s.mem with ue := l } : Memory)) (if_pos e)).trans rfl
  · rfl

theorem State.ueReads_mem (s : State) (a len : Nat) : (s.ueReads a len).mem = s.mem := by
  unfold State.ueReads
  refine foldl_keeps_mem (q := fun t : State => t.mem = s.mem) (fun t n hn ht => ?_) rfl
  split
  · exact (State.markSector_mem (ht ▸ List.mem_of_mem_filter hn) _ _ _).trans ht
  · exact ht

@[simp] theorem State.busRead_mem (s : State) (cls : Nat → Nat) (a len : Nat) : (s.busRead cls a len).mem = s.mem :=
  (s.charged cls (stretchLines a len)).ueReads_mem a len

theorem State.busRead_rgs (s : State) (cls : Nat → Nat) (a len : Nat) : (s.busRead cls a len).rgs = s.rgs :=
  ((Accesses.refl s).busRead cls a len).rgs

theorem State.busRead_rg (s : State) (cls : Nat → Nat) (a len : Nat) (r : Rg) : (s.busRead cls a len).rg r = s.rg r :=
  congrArg (fun v : Vector Region 24 => v[r]) (s.busRead_rgs cls a len)

theorem State.busWrite_rg (s : State) (cls : Nat → Nat) (ws : List WByte) (r : Rg) : (s.busWrite cls ws).rg r = s.rg r :=
  congrArg (fun v : Vector Region 24 => v[r]) ((Accesses.refl s).busWrite cls ws).rgs

theorem State.onMedlar_self (s : State) (r : Rg) (f : Medlar → Medlar) : (s.onMedlar r f).rg r = { s.rg r with medlar := f (s.rg r).medlar } :=
  State.onRg_self s r _

theorem State.onMedlar_other {s : State} {r q : Rg} (f : Medlar → Medlar) (h : q ≠ r) : (s.onMedlar r f).rg q = s.rg q :=
  State.onRg_other s _ h

theorem State.onMedlar_medlar (s : State) (r : Rg) (f : Medlar → Medlar) : ((s.onMedlar r f).rg r).medlar = f (s.rg r).medlar :=
  congrArg Region.medlar (s.onMedlar_self r f)

/-- The mark of an uncorrectable sector is one flag of the engine. -/
theorem State.medlarMarks_eq (s : State) (r : Rg) (a len : Nat) :
    s.medlarMarks r a len = if s.mem.marked a len then s.onMedlar r (·.flag 3) else s := rfl

theorem State.medlarMarks_mem (s : State) (r : Rg) (a len : Nat) : (s.medlarMarks r a len).mem = s.mem := by
  rw [State.medlarMarks_eq]
  split
  · rfl
  · rfl

theorem State.medlarMarks_run (s : State) (r : Rg) (a len : Nat) : (s.medlarMarks r a len).run = s.run := by
  rw [State.medlarMarks_eq]
  split
  · rfl
  · rfl

theorem State.medlarMarks_other {s : State} {r q : Rg} (a len : Nat) (h : q ≠ r) : (s.medlarMarks r a len).rg q = s.rg q := by
  rw [State.medlarMarks_eq]
  split
  · exact State.onMedlar_other _ h
  · rfl

theorem State.medlarMarks_medlar (s : State) (r : Rg) (a len : Nat) :
    ((s.medlarMarks r a len).rg r).medlar = { (s.rg r).medlar with stat := ((s.medlarMarks r a len).rg r).medlar.stat } := by
  rw [State.medlarMarks_eq]
  split
  · rw [State.onMedlar_medlar]
    rfl
  · rfl

theorem State.medlarMarks_stat {s : State} {a len : Nat} (h : s.mem.marked a len = true) (r : Rg) :
    ((s.medlarMarks r a len).rg r).medlar.stat.getLsbD 3 = true := by
  rw [State.medlarMarks_eq, if_pos h, State.onMedlar_medlar]
  simp [Medlar.flag]

/-- A state in which a computation of Medlar has read a stretch: marked and charged. -/
def State.medlarRead (s : State) (r : Rg) (cls : Nat → Nat) (a len : Nat) : State := (s.medlarMarks r a len).busRead cls a len

theorem State.medlarRead_mem (s : State) (r : Rg) (cls : Nat → Nat) (a len : Nat) : (s.medlarRead r cls a len).mem = s.mem :=
  (State.busRead_mem _ _ _ _).trans (s.medlarMarks_mem r a len)

theorem State.medlarRead_run (s : State) (r : Rg) (cls : Nat → Nat) (a len : Nat) : (s.medlarRead r cls a len).run = s.run :=
  ((Accesses.refl _).busRead _ _ _).run.trans (s.medlarMarks_run r a len)

theorem State.medlarRead_other {s : State} {r q : Rg} (cls : Nat → Nat) (a len : Nat) (h : q ≠ r) : (s.medlarRead r cls a len).rg q = s.rg q :=
  (State.busRead_rg _ _ _ _ _).trans (State.medlarMarks_other a len h)

theorem State.medlarRead_medlar (s : State) (r : Rg) (cls : Nat → Nat) (a len : Nat) :
    ((s.medlarRead r cls a len).rg r).medlar = { (s.rg r).medlar with stat := ((s.medlarRead r cls a len).rg r).medlar.stat } := by
  have e : (s.medlarRead r cls a len).rg r = (s.medlarMarks r a len).rg r := State.busRead_rg _ _ _ _ _
  rw [e]
  exact s.medlarMarks_medlar r a len

theorem State.medlarRead_stat {s : State} {a len : Nat} (h : s.mem.marked a len = true) (r : Rg) (cls : Nat → Nat) :
    ((s.medlarRead r cls a len).rg r).medlar.stat.getLsbD 3 = true := by
  have e : (s.medlarRead r cls a len).rg r = (s.medlarMarks r a len).rg r := State.busRead_rg _ _ _ _ _
  rw [e]
  exact State.medlarMarks_stat h r

theorem State.rootFailed_frame (s : State) (r : Rg) (b : Nat) : let t := s.rootFailed r b
    t.mem = s.mem ∧ (∀ q, q ≠ r → t.rg q = s.rg q) ∧ (t.rg r).medlar.newton = none ∧ (t.rg r).medlar.jacobi = none ∧
      (t.rg r).medlar.failCnt = (s.rg r).medlar.failCnt + 1 := by
  have e (q : Rg) : (s.rootFailed r b).rg q = (s.onMedlar r fun m => { m.flag 0 with newton := none, jacobi := none, failCnt := m.failCnt + 1 }).rg q :=
    rfl
  refine ⟨rfl, fun q h => (e q).trans (State.onMedlar_other _ h), ?_⟩
  rw [e, State.onMedlar_medlar]
  exact ⟨rfl, rfl, rfl⟩

theorem fallbackGoes : Claim.FallbackGoes := by
  intro s p pl r b k hb t
  by_cases hj : k.n ≤ 1024 ∧ s.run.jacobiEn
  · have ht : t = (s.medlarRead r (s.medlarClass p pl b) (pl.area 1 b) (siLen 4 (k.n * k.n))).onMedlar r fun m =>
        { m.flag 1 with
          newton := none
          jacobi := some { block := b, n := k.n, z := rootMat k.n (s.mem.siRead 4 (pl.area 1 b) (k.n * k.n)), q := rootMat k.n (unitMat k.n) } } := by
      change s.fallBack p pl r b = _
      unfold State.fallBack
      rw [hb]
      exact if_pos hj
    clear_value t
    subst ht
    refine ⟨State.medlarRead_mem _ _ _ _ _, ?_, fun q h => (State.onMedlar_other _ h).trans (State.medlarRead_other _ _ _ h), fun _ _ => ?_, fun h => ?_⟩
    · rw [State.onMedlar_medlar]
    · rw [State.onMedlar_medlar]
      refine ⟨_, rfl, rfl, rfl, rfl, rfl, rfl, rfl, rfl, ?_⟩
      have hm := State.medlarRead_medlar s r (s.medlarClass p pl b) (pl.area 1 b) (siLen 4 (k.n * k.n))
      exact (congrArg Medlar.failCnt hm :)
    · rcases h with h | h
      · exact absurd hj.1 (by omega)
      · exact absurd hj.2 (by simp [h])
  · have ht : t = s.rootFailed r b := by
      change s.fallBack p pl r b = _
      unfold State.fallBack
      rw [hb]
      exact if_neg hj
    clear_value t
    subst ht
    obtain ⟨h1, h2, h3, h4, h5⟩ := s.rootFailed_frame r b
    exact ⟨h1, h3, h2, fun h h' => absurd ⟨h, h'⟩ hj, fun _ => ⟨h4, h5⟩⟩

/-! ### The start of a computation (R365) -/

theorem exec_newtonNormalisation (r : Rg) (s : State) : exec (.newtonNormalisation r) s = execNewtonNormalisation r s := rfl

theorem newtonNormalisation_of_busy {r : Rg} {s : State}
    (h : (s.rg r).medlar.newton.isSome = true ∨ (s.rg r).medlar.jacobi.isSome = true ∨ (s.rg r).medlar.todo = []) :
    exec (.newtonNormalisation r) s = .next s := by
  rw [exec_newtonNormalisation]
  unfold execNewtonNormalisation
  dsimp only
  split
  next hn hj ht =>
    rw [hn, hj, ht] at h
    simp at h
  · rfl

theorem newtonStarts : Claim.NewtonStarts := by
  refine fun r s => ⟨newtonNormalisation_of_busy, fun p pl b rest k e hp hn hj ht hb hk => ?_⟩
  intro z len cls u
  have hread : u = ((s.onMedlar r fun m => { m with todo := rest, codes := [] }).medlarRead r cls (pl.area 1 b) len).onMedlar r fun m =>
      { m with block := BitVec.ofNat 16 b, iter := 0, dcode := 0, newton := some { block := b, started := true } } := rfl
  have hexec : exec (.newtonNormalisation r) s = match traceOf k.n z with
      | none => .next (u.fallBack p pl r b)
      | some t => if t.n ≤ 0 then .next (u.fallBack p pl r b)
        else .next (u.busWrite cls (
          siWrite 4 (pl.area 2 r.val) ((List.range (k.n * k.n)).map fun i =>
            some (if i / k.n = i % k.n then unitsOf 1 (-normExp t e.p) else Ex.zero)) ++
          siWrite 4 (pl.area 3 r.val) (z.map fun v => v.map fun x => { x with e := x.e - normExp t e.p * e.p }))) := by
    rw [exec_newtonNormalisation]
    unfold execNewtonNormalisation
    dsimp only
    rw [hp, hn, hj, ht]
    dsimp only
    rw [hb]
    dsimp only [Option.bind_some]
    rw [hk]
    rfl
  refine ⟨?_, fun hm => ?_, fun t htr hpos => ?_, fun h => ?_⟩
  · rw [hread]
    exact State.medlarRead_mem _ _ _ _ _
  · rw [hread, State.onMedlar_medlar]
    exact State.medlarRead_stat (s := s.onMedlar r fun m => { m with todo := rest, codes := [] }) hm r cls
  · intro h
    rw [hexec, htr]
    exact if_neg (by omega)
  · rw [hexec]
    cases htr : traceOf k.n z with
    | none => rfl
    | some t => exact if_pos (h t htr)

/-! ### The code of a cluster (R367) -/

theorem State.graph_of_placed {s : State} {p : Package} {pl : Placement} (h : s.placed = some (p, pl)) : s.run.graph = some ⟨p, some pl⟩ := by
  unfold State.placed at h
  split at h
  next e =>
    obtain ⟨rfl, rfl⟩ := Prod.mk.inj (Option.some.inj h)
    exact e
  next => cases h

theorem partCode_of {s : State} {p : Package} {pl : Placement} {c : Cl} {w : Newton} {k : Block} {e : CurvE} (hp : s.placed = some (p, pl))
    (hn : (s.rg (rgOf c)).medlar.newton = some w) (hs : w.started = true) (hpa : w.paused = false)
    (hg : (rootGroup p pl w.block (rgOf c)).contains c.val = true) (hb : p.block w.block = some k) (hk : p.curv k.entry = some e) :
    let g := rootGroup p pl w.block (rgOf c)
    let i := (g.filter (· < c.val)).length
    s.partCode c = some (dcodeOf k.n (k.n * i / g.length) (k.n * (i + 1) / g.length) (s.newtonOf pl (rgOf c) k e)) := by
  intro g i
  unfold State.partCode
  dsimp only
  rw [State.graph_of_placed hp, hn]
  dsimp only
  rw [hs, hpa, hg, hb]
  dsimp only [Option.bind_some]
  rw [hk]
  rfl

theorem State.rootResult_of {s : State} {c : Cl} {f : Firing} {op n : Nat} {o : OperE} (ho : s.opOf c f.entry = some (op, o)) (hc : o.cls = 6)
    (hu : f.unit = .vector) (hp : s.partCode c = some n) (hn : n < 256) :
    (s.rootResult c f).result.toNat % 256 = n ∧ (s.rootResult c f).result.toNat / 256 = f.result.toNat / 256 := by
  have e : (s.rootResult c f).result = f.result / 256#32 * 256#32 + BitVec.ofNat 32 n := by
    unfold State.rootResult
    rw [ho, hu, hp]
    dsimp only
    rw [if_pos hc]
  have hlt := f.result.isLt
  rw [e]
  have h256 : (256#32).toNat = 256 := rfl
  simp only [BitVec.toNat_add, BitVec.toNat_mul, BitVec.toNat_udiv, BitVec.toNat_ofNat, h256]
  omega

theorem dcodeOf_spec (n lo hi : Nat) (x : NewtonStep) :
    (x.cond &&& (cNarIn ||| cNarGen ||| cSat) ≠ 0 → dcodeOf n lo hi x = 255) ∧
    (x.cond &&& (cNarIn ||| cNarGen ||| cSat) = 0 →
      (newtonDelta n lo hi x.m = none → dcodeOf n lo hi x = 255) ∧
      ∀ d, newtonDelta n lo hi x.m = some d → (d.n = 0 → dcodeOf n lo hi x = 0) ∧
        (d.n ≠ 0 → (dcodeOf n lo hi x : Int) = max 0 (min 254 (127 + ceilLog2 d)))) := by
  unfold dcodeOf
  refine ⟨fun h => if_pos h, fun h => ?_⟩
  rw [if_neg (not_not.mpr h)]
  refine ⟨fun hd => by rw [hd], fun d hd => ?_⟩
  rw [hd]
  dsimp only
  refine ⟨fun h0 => if_pos h0, fun h0 => ?_⟩
  rw [if_neg h0]
  omega

theorem iterationCode : Claim.IterationCode :=
  ⟨fun _ _ _ _ _ _ _ hp hn hs hpa hg hb hk => partCode_of hp hn hs hpa hg hb hk,
    fun _ _ _ _ _ _ ho hc hu hp hn => State.rootResult_of ho hc hu hp hn, dcodeOf_spec⟩

/-! ### What ends an iteration (R366 to R368) -/

theorem exec_medlarIterationDecision (r : Rg) (s : State) : exec (.medlarIterationDecision r) s = execMedlarIterationDecision r s := rfl

/-- Whether every cluster of a root group has given its code. -/
def codesIn (g : List Nat) (codes : List (Nat × Nat)) : Bool := g.all fun c => codes.any fun x => x.1 == c

theorem codesIn_iff {g : List Nat} {codes : List (Nat × Nat)} : codesIn g codes = true ↔ ∀ c ∈ g, ∃ x ∈ codes, x.1 = c := by
  simp only [codesIn, List.all_eq_true, List.any_eq_true, beq_iff_eq]

theorem medlarIterationDecision_of_newton {r : Rg} {s : State} {p : Package} {pl : Placement} {w : Newton} (hp : s.placed = some (p, pl))
    (hn : (s.rg r).medlar.newton = some w) (hs : w.started = true) (hpa : w.paused = false) (hg : rootGroup p pl w.block r ≠ []) :
    exec (.medlarIterationDecision r) s =
      if codesIn (rootGroup p pl w.block r) (s.rg r).medlar.codes then .next (s.iterationEnds p pl r w) else .next s := by
  rw [exec_medlarIterationDecision]
  unfold execMedlarIterationDecision
  dsimp only
  rw [hp, hn]
  dsimp only
  refine if_congr ?_ rfl rfl
  rw [hs, hpa, show (rootGroup p pl w.block r).isEmpty = false by simpa using hg]
  simp [codesIn]

/-- The state in which an iteration's matrices and code stand, and its number has gone on (R366, R367). -/
def State.iterated (s : State) (p : Package) (pl : Placement) (r : Rg) (w : Newton) (k : Block) (e : CurvE) : State :=
  let x := newtonStep e.p k.n (s.mem.siRead 4 (pl.area 2 r.val) (k.n * k.n)) (s.mem.siRead 4 (pl.area 3 r.val) (k.n * k.n))
  let code := ((s.rg r).medlar.codes.map (·.2)).foldl max 0
  let cls := s.medlarClass p pl w.block
  let len := siLen 4 (k.n * k.n)
  let read := [pl.area 2 r.val, pl.area 3 r.val].foldl (fun u a => (u.medlarMarks r a len).busRead cls a len) s
  (read.busWrite cls (siWrite 4 (pl.area 2 r.val) x.x ++ siWrite 4 (pl.area 3 r.val) x.m ++
    siWrite 4 (pl.area 4 r.val) x.t ++ siWrite 4 (pl.area 8 r.val) x.u)).onMedlar r fun m =>
      { m with
        codes := [], newton := some { w with iter := w.iter + 1, stepIters := w.stepIters + 1, code := code }
        iter := BitVec.ofNat 8 (w.iter + 1), dcode := BitVec.ofNat 8 code }

/-- What a verdict leads to, from the state after the iteration. -/
def State.concluded (t : State) (p : Package) (pl : Placement) (r : Rg) (w : Newton) (k : Block) (cls : Nat → Nat) (v : Newton) : Verdict → State
  | .fallback d => ((if d then t.onMedlar r (·.flag 4) else t).fallBack p pl r w.block).iterGuard (pl.key p) r false
  | .converged => ((((t.busRead cls (pl.area 2 r.val) (siLen 4 (k.n * k.n))).busWrite cls
      (writesAt (pl.area 5 w.block) (t.mem.siBytes 4 (pl.area 2 r.val) (k.n * k.n)))).onMedlar r fun m =>
      { m with newton := none, rootCnt := m.rootCnt + 1 }).rootFormed w.block (w.iter + 1) false).iterGuard (pl.key p) r false
  | .pause => (t.onMedlar r fun m => { m with newton := some { v with paused := true } }).iterGuard (pl.key p) r false
  | .go => t.iterGuard (pl.key p) r true

/-- The reads of an iteration keep its code's predecessor and the state of the run. -/
theorem State.iterationRead_frame (s : State) (r : Rg) (cls : Nat → Nat) (len a b : Nat) (ws : List WByte) :
    let t := ([a, b].foldl (fun u a => (u.medlarMarks r a len).busRead cls a len) s).busWrite cls ws
    t.run = s.run ∧ (t.rg r).medlar.dcode = (s.rg r).medlar.dcode := by
  have e : [a, b].foldl (fun u a => (u.medlarMarks r a len).busRead cls a len) s = (s.medlarRead r cls a len).medlarRead r cls b len := rfl
  rw [e]
  refine ⟨((Accesses.refl _).busWrite cls ws).run.trans ((State.medlarRead_run _ _ _ _ _).trans (s.medlarRead_run r cls a len)), ?_⟩
  rw [State.busWrite_rg, State.medlarRead_medlar]
  have h := s.medlarRead_medlar r cls a len
  exact (congrArg Medlar.dcode h :)

theorem State.iterationEnds_eq {s : State} {p : Package} {pl : Placement} {r : Rg} {w : Newton} {k : Block} {e : CurvE}
    (hb : p.block w.block = some k) (hk : p.curv k.entry = some e) :
    let code := ((s.rg r).medlar.codes.map (·.2)).foldl max 0
    s.iterationEnds p pl r w = (s.iterated p pl r w k e).concluded p pl r w k (s.medlarClass p pl w.block)
      { w with iter := w.iter + 1, stepIters := w.stepIters + 1, code := code }
      (verdict e (if s.run.itersOverride.toNat = 0 then e.perStep else s.run.itersOverride.toNat) (w.iter + 1) code (s.rg r).medlar.dcode.toNat
        (w.stepIters + 1)) := by
  intro code
  unfold State.iterationEnds
  rw [hb]
  dsimp only [Option.bind_some]
  rw [hk]
  dsimp only [Option.map_some]
  obtain ⟨hrun, hd⟩ := s.iterationRead_frame r (s.medlarClass p pl w.block) (siLen 4 (k.n * k.n)) (pl.area 2 r.val) (pl.area 3 r.val)
    ((s.newtonOf pl r k e).writes pl r)
  rw [hrun, hd]
  generalize verdict e (if s.run.itersOverride.toNat = 0 then e.perStep else s.run.itersOverride.toNat) (w.iter + 1) _ (s.rg r).medlar.dcode.toNat
    (w.stepIters + 1) = said
  cases said with
  | fallback d => rfl
  | converged => rfl
  | pause => rfl
  | go => rfl

theorem verdict_spec (e : CurvE) (perStep k code before stepIters : Nat) (h : code ≤ 255) :
    (code = 255 → verdict e perStep k code before stepIters = .fallback false) ∧
    (code < 255 → code ≤ 127 + e.tol → verdict e perStep k code before stepIters = .converged) ∧
    (code < 255 → 127 + e.tol < code →
      (2 ≤ k → before < code → verdict e perStep k code before stepIters = .fallback true) ∧
      (k < 2 ∨ code ≤ before →
        (k = e.maxNewton → verdict e perStep k code before stepIters = .fallback false) ∧
        (k ≠ e.maxNewton → stepIters = perStep → verdict e perStep k code before stepIters = .pause) ∧
        (k ≠ e.maxNewton → stepIters ≠ perStep → verdict e perStep k code before stepIters = .go))) := by
  unfold verdict
  refine ⟨fun h => if_pos h, fun hc ht => ?_, fun hc ht => ?_⟩
  · rw [if_neg (by omega)]
    exact if_pos ht
  · rw [if_neg (by omega), if_neg (by omega)]
    refine ⟨fun h1 h2 => if_pos ⟨h1, h2⟩, fun h1 => ?_⟩
    rw [if_neg (by omega)]
    refine ⟨fun h2 => if_pos h2, fun h2 h3 => ?_, fun h2 h3 => ?_⟩
    · rw [if_neg h2, if_pos h3]
    · rw [if_neg h2, if_neg h3]

theorem iterationVerdict : Claim.IterationVerdict := by
  refine ⟨fun r s p pl w k e hp hn hs hpa hg hb hk => ?_, fun e perStep n code before stepIters h => verdict_spec e perStep n code before stepIters h⟩
  have hexec := medlarIterationDecision_of_newton hp hn hs hpa hg
  refine ⟨fun ⟨c, hc, hno⟩ => ?_, fun hall => ?_⟩
  · refine hexec.trans (if_neg fun h => ?_)
    obtain ⟨x, hx, e⟩ := codesIn_iff.mp h c hc
    exact hno x hx e
  · intro x code cls len n perStep key v read t said goes
    have hgoes : exec (.medlarIterationDecision r) s = .next (t.concluded p pl r w k cls v said) :=
      (hexec.trans (if_pos (codesIn_iff.mpr hall))).trans (congrArg _ (State.iterationEnds_eq hb hk))
    refine ⟨fun h => ?_, fun h => ?_, fun d h => ?_, fun h => ?_⟩
    · rw [h] at hgoes
      exact hgoes
    · rw [h] at hgoes
      exact hgoes
    · rw [h] at hgoes
      exact hgoes
    · rw [h] at hgoes
      exact hgoes

/-! ### Jacobi (R369 to R371) -/

theorem exec_jacobiRound (r : Rg) (s : State) : exec (.jacobiRound r) s = execJacobiRound r s := rfl

theorem Jacobi.converges_spec (j : Jacobi) (free : Bool) : (j.nar = true → j.converges free = false) ∧
    (j.nar = false →
      let off := j.squares fun i => i / j.n != i % j.n
      let all := j.squares fun _ => true
      let bound : Ex := { all with e := all.e - 40 }
      (Ex.le (off.mul (unitsOf 25 0)) (bound.mul (unitsOf 16 0)) = true → j.converges free = true) ∧
      (Ex.le (off.mul (unitsOf 16 0)) (bound.mul (unitsOf 25 0)) = false → Ex.le (off.mul (unitsOf 25 0)) (bound.mul (unitsOf 16 0)) = false →
        j.converges free = false)) := by
  unfold Jacobi.converges
  dsimp only
  refine ⟨fun h => ?_, fun h => ⟨fun h1 => ?_, fun h1 h2 => ?_⟩⟩
  · rw [h, Bool.not_true, Bool.false_and]
  · rw [h, h1, Bool.true_or, Bool.not_false, Bool.and_self]
  · rw [h1, h2, Bool.and_false, Bool.or_self, Bool.and_false]

/-- A round's matrices: what the rotations leave, or as before where there is nothing to rotate. -/
theorem Jacobi.turned (j : Jacobi) (nonce : Nat) : ∃ z q : RootMat, (j.nar = true → z = j.z ∧ q = j.q) ∧
    (if j.n ≤ 1 || j.nar then j else j.rotate nonce) = { j with z := z, q := q } := by
  by_cases h : (decide (j.n ≤ 1) || j.nar) = true
  · exact ⟨j.z, j.q, fun _ => ⟨rfl, rfl⟩, if_pos h⟩
  · refine ⟨(j.rotate nonce).z, (j.rotate nonce).q, fun hn => absurd ?_ h, if_neg h⟩
    rw [hn, Bool.or_true]

theorem jacobiRound_of_held {r : Rg} {s : State} {j : Jacobi} (hj : (s.rg r).medlar.jacobi = some j)
    (h : j.gemmStep.isSome = true ∨ (s.rg r).nyala.run.isSome = true ∨ (s.rg r).nyala.queue ≠ [] ∨ s.run.stopped = true ∨ s.run.paused = true) :
    exec (.jacobiRound r) s = .next s := by
  rw [exec_jacobiRound]
  unfold execJacobiRound
  dsimp only
  rw [hj]
  refine if_pos ?_
  simpa [or_assoc] using h

theorem jacobiRound_of_free {r : Rg} {s : State} {j : Jacobi} (hj : (s.rg r).medlar.jacobi = some j)
    (h : ¬ (j.gemmStep.isSome = true ∨ (s.rg r).nyala.run.isSome = true ∨ (s.rg r).nyala.queue ≠ [] ∨ s.run.stopped = true ∨ s.run.paused = true)) :
    ∃ z q : RootMat, (j.nar = true → z = j.z ∧ q = j.q) ∧ ∃ free : Bool, exec (.jacobiRound r) s =
      if j.n ≤ j.round + 2 then .next (State.jacobiSweep { s with nonce := s.nonce + 1 } r { j with z := z, q := q } free)
      else .next (State.onMedlar { s with nonce := s.nonce + 1 } r fun m => { m with jacobi := some { j with z := z, q := q, round := j.round + 1 } }) := by
  obtain ⟨z, q, hzq, e⟩ := j.turned s.nonce
  refine ⟨z, q, hzq, (Config.freeWord s.nonce (2 ^ 40)).getLsbD 0, ?_⟩
  rw [exec_jacobiRound]
  unfold execJacobiRound
  dsimp only
  rw [hj]
  dsimp only
  rw [if_neg (by simpa [or_assoc] using h)]
  dsimp only [State.draw]
  simp only [e]

/-- The end of a sweep over what a round left (R369, R370). -/
theorem State.jacobiSweep_spec {s : State} {p : Package} {pl : Placement} (hp : s.placed = some (p, pl)) (r : Rg) (j : Jacobi) (free : Bool) :
    let w : Jacobi := { j with round := 0, sweep := j.sweep + 1 }
    (w.converges free = false → j.sweep + 1 < 24 → s.jacobiSweep r j free = s.onMedlar r fun m => { m with jacobi := some w }) ∧
    (w.converges free = false → 24 ≤ j.sweep + 1 → s.jacobiSweep r j free = s.rootFailed r j.block) ∧
    (w.converges free = true → ∀ (b : Block) (e : CurvE), p.block j.block = some b → p.curv b.entry = some e →
      s.jacobiSweep r j free = (s.busWrite (s.medlarClass p pl j.block) (siWrite 3 (pl.area 6 j.block) (w.v e))).onMedlar r fun m =>
        { m with jacobi := some { w with gemmStep := some (s.run.crvStep.toNat + (if s.run.step.isSome then 1 else 0)) } }) := by
  intro w
  have hexec : s.jacobiSweep r j free = if w.converges free then
      (match (p.block w.block).bind fun k => p.curv k.entry with
        | some e => s.busWrite (s.medlarClass p pl w.block) (siWrite 3 (pl.area 6 w.block) (w.v e))
        | none => s).onMedlar r fun m =>
          { m with jacobi := some { w with gemmStep := some (s.run.crvStep.toNat + (if s.run.step.isSome then 1 else 0)) } }
      else if 24 ≤ w.sweep then s.rootFailed r w.block else s.onMedlar r fun m => { m with jacobi := some w } := by
    unfold State.jacobiSweep
    rw [hp] <;> rfl
  refine ⟨fun h hs => ?_, fun h hs => ?_, fun h b e hb he => ?_⟩
  · rw [hexec, if_neg (by simp [h])]
    exact if_neg (Nat.not_le.mpr hs)
  · rw [hexec, if_neg (by simp [h])]
    exact if_pos hs
  · have hbe : ((p.block w.block).bind fun k => p.curv k.entry) = some e := by
      rw [show p.block w.block = some b from hb]
      exact he
    rw [hexec, if_pos h, hbe]

theorem medlarIterationDecision_of_jacobi {r : Rg} {s : State} {p : Package} {pl : Placement} {j : Jacobi} (hp : s.placed = some (p, pl))
    (hn : (s.rg r).medlar.newton = none) (hj : (s.rg r).medlar.jacobi = some j) : exec (.medlarIterationDecision r) s =
      if s.run.step.isSome && j.gemmDue s.run.crvStep.toNat then
        .next ((s.jacobiRoot p pl r j).onMedlar r fun m => { m with jacobi := none, jacobiCnt := m.jacobiCnt + 1 })
      else .next s := by
  rw [exec_medlarIterationDecision]
  unfold execMedlarIterationDecision
  dsimp only
  rw [hp, hn, hj]

/-- The root of a converged block: read, written to the staging area, staged (R370). -/
theorem State.jacobiRoot_spec (s : State) (p : Package) (pl : Placement) (r : Rg) (j : Jacobi) : let t := s.jacobiRoot p pl r j
    (t.rg r).medlar.jacobiCnt = (s.rg r).medlar.jacobiCnt ∧
    (s.mem.ue = [] → t.mem = s.mem.write (siWrite 4 (pl.area 5 j.block) (gramOf j.n (s.mem.siRead 3 (pl.area 6 j.block) (j.n * j.n))))) ∧
    t.run.staged = s.run.staged ++ [{ block := j.block, finished := s.run.crvStep.toNat, iters := 0, jacobi := true, own := true }] := by
  have e : s.jacobiRoot p pl r j =
    ((s.medlarRead r (s.medlarClass p pl j.block) (pl.area 6 j.block) (siLen 3 (j.n * j.n))).busWrite (s.medlarClass p pl j.block)
      (siWrite 4 (pl.area 5 j.block) (gramOf j.n (s.mem.siRead 3 (pl.area 6 j.block) (j.n * j.n))))).rootFormed j.block 0 true := rfl
  rw [e]
  generalize hu : s.medlarRead r (s.medlarClass p pl j.block) (pl.area 6 j.block) (siLen 3 (j.n * j.n)) = u
  generalize siWrite 4 (pl.area 5 j.block) (gramOf j.n (s.mem.siRead 3 (pl.area 6 j.block) (j.n * j.n))) = ws
  generalize s.medlarClass p pl j.block = cls at hu ⊢
  have hrun : (u.busWrite cls ws).run = s.run := by
    rw [((Accesses.refl u).busWrite cls ws).run, ← hu]
    exact s.medlarRead_run r cls _ _
  have hmem : u.mem = s.mem := by
    rw [← hu]
    exact s.medlarRead_mem r cls _ _
  refine ⟨?_, fun hue => ?_, ?_⟩
  · have hrg : ((u.busWrite cls ws).rootFormed j.block 0 true).rg r = u.rg r := u.busWrite_rg cls ws r
    have hm := s.medlarRead_medlar r cls (pl.area 6 j.block) (siLen 3 (j.n * j.n))
    rw [hrg, ← hu]
    exact (congrArg Medlar.jacobiCnt hm :)
  · rw [← hmem]
    exact (State.busWrite_of_clean (by rw [hmem]; exact hue) cls ws).1
  · change (u.busWrite cls ws).run.staged ++ [_] = _
    rw [hrun]

theorem jacobiProgress : Claim.JacobiProgress := by
  refine ⟨fun j free => j.converges_spec free, fun r s => ⟨fun h => ?_, fun j hj => ?_⟩⟩
  · rw [exec_jacobiRound]
    unfold execJacobiRound
    dsimp only
    rw [h]
  · intro held u
    refine ⟨jacobiRound_of_held hj, fun hfree => ?_, fun p pl hp hn => ⟨fun n hg hs hle => ?_, fun h => ?_⟩⟩
    · obtain ⟨z, q, hzq, free, hexec⟩ := jacobiRound_of_free hj hfree
      refine ⟨z, q, hzq, ?_⟩
      intro k
      refine ⟨fun h => hexec.trans (if_neg (Nat.not_le.mpr h)), fun h p pl hp => ⟨free, ?_⟩⟩
      have hsweep := hexec.trans (if_pos h)
      obtain ⟨h1, h2, h3⟩ := State.jacobiSweep_spec (s := u) hp r k free
      exact ⟨fun hc hl => hsweep.trans (congrArg _ (h1 hc hl)), fun hc hl => hsweep.trans (congrArg _ (h2 hc hl)),
        fun hc b e hb he => hsweep.trans (congrArg _ (h3 hc b e hb he))⟩
    · have hdue : (s.run.step.isSome && j.gemmDue s.run.crvStep.toNat) = true := by
        rw [hs, Jacobi.gemmDue, hg]
        simpa using hle
      refine ⟨_, (medlarIterationDecision_of_jacobi hp hn hj).trans (if_pos hdue), ?_⟩
      obtain ⟨h1, h2, h3⟩ := s.jacobiRoot_spec p pl r j
      generalize s.jacobiRoot p pl r j = t at h1 h2 h3 ⊢
      rw [State.onMedlar_medlar]
      exact ⟨rfl, congrArg (· + 1) h1, h2, h3⟩
    · refine (medlarIterationDecision_of_jacobi hp hn hj).trans (if_neg ?_)
      unfold Jacobi.gemmDue
      rcases h with h | h | ⟨n, h, hlt⟩
      · simp [h]
      · simp [h]
      · simp [h, Nat.not_le.mpr hlt]

/-- Settles O31: Newton's start, its fallback, its codes and verdicts, and Jacobi. -/
theorem curvatureProgress : Obligations.CurvatureProgress := ⟨newtonStarts, fallbackGoes, iterationCode, iterationVerdict, jacobiProgress⟩

/-! ### Collective services start (R349 to R356, R364) -/

theorem State.groupOpen_iff {s : State} {p : Package} : s.groupOpen p = true ↔ s.fab.valid = true ∨ s.group p ≤ 1 := by
  simp [State.groupOpen]

theorem exec_reduceScatterStart (op : BitVec 16) (s : State) : exec (.reduceScatterStart op) s = execReduceScatterStart op s := rfl
theorem exec_distributionStart (op : BitVec 16) (s : State) : exec (.distributionStart op) s = execDistributionStart op s := rfl
theorem exec_factorReductionStart (b : BitVec 16) (s : State) : exec (.factorReductionStart b) s = execFactorReductionStart b s := rfl

/-- Whether a service of an operation may start in this step: triggered, once, and the group open (R40, R349). -/
def State.serviceMay (s : State) (p : Package) (pl : Placement) (op : Nat) : Prop :=
  s.run.step.isSome = true ∧ s.run.started.contains op = false ∧ s.allTriggered p pl op = true ∧ (s.fab.valid = true ∨ s.group p ≤ 1)

section
variable {s : State} {p : Package} {pl : Placement} {op : BitVec 16} {o : OperE}

theorem reduceScatterStart_of (hp : s.placed = some (p, pl)) (ho : p.oper op.toNat = some o) (hc : o.cls = 4) (hm : s.serviceMay p pl op.toNat)
    (hf : s.firstTriggered p pl op.toNat = true) : exec (.reduceScatterStart op) s =
      .next (((tensorSpans p pl (fld (o.word 4) 0 32)).foldl (fun t x => t.svcRead x.1 x.2.2)
        (s.onRun fun r => { r with started := r.started ++ [op.toNat] })).beginReduce p pl
          (.reduce op.toNat 4 (s.gradShards p pl (fld (o.word 4) 0 32)))) := by
  obtain ⟨hs, hn, ht, hg⟩ := hm
  rw [exec_reduceScatterStart]
  unfold execReduceScatterStart
  rw [hp]
  dsimp only
  rw [ho]
  exact if_pos ⟨hc, hs, by rw [hn]; rfl, ht, hf, State.groupOpen_iff.mpr hg⟩

theorem reduceScatterStart_of_not (hp : s.placed = some (p, pl)) (ho : p.oper op.toNat = some o)
    (h : o.cls ≠ 4 ∨ ¬ s.serviceMay p pl op.toNat ∨ s.firstTriggered p pl op.toNat = false) : exec (.reduceScatterStart op) s = .next s := by
  rw [exec_reduceScatterStart]
  unfold execReduceScatterStart
  rw [hp]
  dsimp only
  rw [ho]
  refine if_neg fun ⟨hc, hs, hn, ht, hf, hg⟩ => ?_
  rcases h with h | h | h
  · exact h hc
  · exact h ⟨hs, by simpa using hn, ht, State.groupOpen_iff.mp hg⟩
  · rw [h] at hf
    cases hf

theorem distributionStart_of (hp : s.placed = some (p, pl)) (ho : p.oper op.toNat = some o) (hc : o.cls = 5) (hm : s.serviceMay p pl op.toNat) :
    let t := s.onRun fun r => { r with started := r.started ++ [op.toNat] }
    let first := s.run.started.all fun k => (p.oper k).all fun q => q.cls != 5
    let ds := s.distribution p pl o s.run.rootsToSend (if first then s.run.rootsToSend else [])
    exec (.distributionStart op) s = .next (if s.group p ≤ 1 then t
      else t.startRun (.distribute op.toNat) s.run.crvStep.toNat fun id => ds.flatMap fun x => s.fab.toGroup id p.dpMask 1 2 x.1 x.2) := by
  obtain ⟨hs, hn, ht, hg⟩ := hm
  have hfirst : (if s.run.started.any (fun k => (p.oper k).any fun q => q.cls == 5) then [] else s.run.rootsToSend) =
      if s.run.started.all (fun k => (p.oper k).all fun q => q.cls != 5) then s.run.rootsToSend else [] := by
    have e : (s.run.started.all fun k => (p.oper k).all fun q => q.cls != 5) = !s.run.started.any fun k => (p.oper k).any fun q => q.cls == 5 := by
      rw [List.not_any_eq_all_not]
      congr 1
      funext k
      cases p.oper k with
      | none => rfl
      | some q => rfl
    rw [e]
    cases s.run.started.any fun k => (p.oper k).any fun q => q.cls == 5
    · rfl
    · rfl
  intro t first ds
  rw [exec_distributionStart]
  unfold execDistributionStart
  rw [hp]
  dsimp only
  rw [ho]
  dsimp only
  rw [hfirst]
  exact if_pos ⟨hc, hs, by rw [hn]; rfl, ht, State.groupOpen_iff.mpr hg⟩

theorem distributionStart_of_not (hp : s.placed = some (p, pl)) (ho : p.oper op.toNat = some o)
    (h : o.cls ≠ 5 ∨ ¬ s.serviceMay p pl op.toNat) : exec (.distributionStart op) s = .next s := by
  rw [exec_distributionStart]
  unfold execDistributionStart
  rw [hp]
  dsimp only
  rw [ho]
  refine if_neg fun ⟨hc, hs, hn, ht, hg⟩ => ?_
  rcases h with h | h
  · exact h hc
  · exact h ⟨hs, by simpa using hn, ht, State.groupOpen_iff.mp hg⟩

theorem reduceScatterStart_of_none (hp : s.placed = some (p, pl)) (ho : p.oper op.toNat = none) : exec (.reduceScatterStart op) s = .next s := by
  rw [exec_reduceScatterStart]
  unfold execReduceScatterStart
  rw [hp]
  dsimp only
  rw [ho]

theorem distributionStart_of_none (hp : s.placed = some (p, pl)) (ho : p.oper op.toNat = none) : exec (.distributionStart op) s = .next s := by
  rw [exec_distributionStart]
  unfold execDistributionStart
  rw [hp]
  dsimp only
  rw [ho]

end

section
variable {s : State} {p : Package} {pl : Placement} {b : BitVec 16} {x : Block} {k : StepRun}

/-- A factor reduction's conditions (R40, R364, R372). -/
def State.factorMay (s : State) (p : Package) (k : StepRun) (b : Nat) (x : Block) : Prop :=
  k.due.contains x.entry = true ∧ (!s.run.started.contains (65536 + b)) = true ∧ s.factorsReady k b x.entry = true ∧ s.groupOpen p = true

theorem factorReductionStart_of (hp : s.placed = some (p, pl)) (hk : s.run.step = some k) (hb : p.block b.toNat = some x)
    (h : s.factorMay p k b.toNat x) :
    let len := siLen 8 (x.n * x.n)
    let t := s.onRun fun r => { r with started := r.started ++ [65536 + b.toNat] }
    let u := if s.mem.marked (pl.area 0 b.toNat) len then (p.curv x.entry).elim t (fun e => t.statNar pl e.op) else t
    exec (.factorReductionStart b) s = .next ((u.svcRead (pl.area 0 b.toNat) len).beginReduce p pl
      (.factor b.toNat 4 [{ owner := b.toNat % s.group p, first := 0, partials := s.factorBytesOf pl b.toNat x.n }]) (k.busy.contains b.toNat)) := by
  intro len t u
  rw [exec_factorReductionStart]
  unfold execFactorReductionStart
  rw [hp, hk]
  dsimp only
  rw [hb]
  refine (if_pos h).trans ?_
  cases hc : p.curv x.entry with
  | none => rw [show u = if s.mem.marked (pl.area 0 b.toNat) len then t else t by simp only [u, hc, Option.elim]]
  | some e => rw [show u = if s.mem.marked (pl.area 0 b.toNat) len then t.statNar pl e.op else t by simp only [u, hc, Option.elim]]

theorem factorReductionStart_of_idle (hp : s.placed = some (p, pl)) (hs : s.run.step = none) : exec (.factorReductionStart b) s = .next s := by
  rw [exec_factorReductionStart]
  unfold execFactorReductionStart
  rw [hp, hs]

theorem factorReductionStart_of_not (hp : s.placed = some (p, pl)) (hk : s.run.step = some k) (hb : p.block b.toNat = some x)
    (h : ¬ s.factorMay p k b.toNat x) : exec (.factorReductionStart b) s = .next s := by
  rw [exec_factorReductionStart]
  unfold execFactorReductionStart
  rw [hp, hk]
  dsimp only
  rw [hb]
  exact if_neg h

end

theorem Memory.siBytes_of_clean {m : Memory} (h : m.ue = []) (l addr n : Nat) : m.siBytes l addr n = m.bytes addr (siLen l n) := by
  unfold Memory.siBytes
  exact if_pos (by rw [h]; rfl)

/-- Settles O32: each service starts on its conditions, and on no others. -/
theorem servicesStart : Obligations.ServicesStart := by
  refine fun s p pl hp => ⟨fun op o ho => ?_, fun op ho => ⟨reduceScatterStart_of_none hp ho, distributionStart_of_none hp ho⟩, fun b x hb => ?_⟩
  · refine ⟨fun hc hm hf => reduceScatterStart_of hp ho hc hm hf, fun h => reduceScatterStart_of_not hp ho h, fun hc hm hg => ?_, fun hc hm hg => ?_,
      fun h => distributionStart_of_not hp ho h⟩
    · exact (distributionStart_of hp ho hc hm).trans (congrArg _ (if_pos hg))
    · exact (distributionStart_of hp ho hc hm).trans (congrArg _ (if_neg (Nat.not_le.mpr hg)))
  · refine ⟨fun k hk hd hst hr hg => ⟨?_, fun hue => Memory.siBytes_of_clean hue 8 _ _⟩, fun h => ?_⟩
    · exact factorReductionStart_of hp hk hb ⟨hd, by rw [hst]; rfl, hr, State.groupOpen_iff.mpr hg⟩
    · cases hk : s.run.step with
      | none => exact factorReductionStart_of_idle hp hk
      | some k =>
        refine factorReductionStart_of_not hp hk hb fun ⟨hd, hst, hr, hg⟩ => ?_
        rw [hk] at h
        rcases h with h | ⟨k', e, h | h⟩ | h | ⟨h, h'⟩
        · cases h
        · obtain rfl := Option.some.inj e
          rw [hd] at h
          cases h
        · obtain rfl := Option.some.inj e
          rw [hr] at h
          cases h
        · rw [h] at hst
          cases hst
        · rcases State.groupOpen_iff.mp hg with hv | hl
          · rw [h] at hv
            cases hv
          · omega

/-! ### Requests in their list -/

/-- A place of a request whose region granted it first among some. -/
theorem firstGranted_spec {qs : List (MReq × Nat)} {i : Nat} (h : firstGranted qs = some i) :
    ∃ x ∈ qs, x.2 = i ∧ ∀ y ∈ qs, x.1.order ≤ y.1.order := by
  have hfold (xs : List (MReq × Nat)) (a : MReq × Nat) :
      let b := xs.foldl (fun (a : MReq × Nat) y => if y.1.order < a.1.order then y else a) a
      (b = a ∨ b ∈ xs) ∧ b.1.order ≤ a.1.order ∧ ∀ y ∈ xs, b.1.order ≤ y.1.order := by
    induction xs generalizing a with
    | nil => exact ⟨.inl rfl, Nat.le_refl _, fun y hy => nomatch hy⟩
    | cons x xs ih =>
      obtain ⟨hin, hle, hall⟩ := ih (if x.1.order < a.1.order then x else a)
      rw [List.foldl_cons]
      by_cases hlt : x.1.order < a.1.order
      · rw [if_pos hlt] at hin hle hall ⊢
        refine ⟨.inr (List.mem_cons.mpr hin), by omega, fun y hy => ?_⟩
        rcases List.mem_cons.mp hy with rfl | hy
        · exact hle
        · exact hall y hy
      · rw [if_neg hlt] at hin hle hall ⊢
        refine ⟨hin.imp_right (List.mem_cons_of_mem _), hle, fun y hy => ?_⟩
        rcases List.mem_cons.mp hy with rfl | hy
        · omega
        · exact hall y hy
  cases qs with
  | nil => cases h
  | cons x xs =>
    obtain ⟨hin, hle, hall⟩ := hfold xs x
    refine ⟨_, List.mem_cons.mpr hin, Option.some.inj h, fun y hy => ?_⟩
    rcases List.mem_cons.mp hy with rfl | hy
    · exact hle
    · exact hall y hy

theorem zipIdx_of_mem {α : Type} {l : List α} {x : α} (h : x ∈ l) : ∃ j, (x, j) ∈ l.zipIdx := by
  obtain ⟨j, hj⟩ := List.mem_iff_getElem?.mp h
  exact ⟨j, List.mem_zipIdx_iff_getElem?.mpr hj⟩

/-- A place that is chosen among the requests that pass a test, the first granted one (R396). -/
theorem firstGranted_filter {reqs : List MReq} {f : MReq → Bool} {i : Nat} {q : MReq}
    (h : firstGranted (reqs.zipIdx.filter fun x => f x.1) = some i) (hq : reqs[i]? = some q) :
    f q = true ∧ ∀ x ∈ reqs, f x = true → q.order ≤ x.order := by
  obtain ⟨⟨y, j⟩, hy, rfl, hmin⟩ := firstGranted_spec h
  obtain ⟨hmem, hf⟩ := List.mem_filter.mp hy
  have e := List.mem_zipIdx_iff_getElem?.mp hmem
  obtain rfl : q = y := Option.some.inj (hq.symm.trans e)
  refine ⟨hf, fun x hx hfx => ?_⟩
  obtain ⟨k, hk⟩ := zipIdx_of_mem hx
  exact hmin (x, k) (List.mem_filter.mpr ⟨hk, hfx⟩)

/-! ### Tags (R395 to R401) -/

/-- Whether a parked request may take a tag (R399, R401). -/
def State.mayPromote (s : State) (r : Rg) (q : MReq) : Bool :=
  q.rg == r && q.parked && match s.bankOf q with
    | some b => decide (s.bankTags r b < 256)
    | none => true

theorem State.mayPromote_iff {s : State} {r : Rg} {q : MReq} :
    s.mayPromote r q = true ↔ q.rg = r ∧ q.parked = true ∧ ∀ b, s.bankOf q = some b → s.bankTags r b < 256 := by
  unfold State.mayPromote
  cases h : s.bankOf q with
  | none => simp
  | some b => simp [and_assoc]

theorem State.nextPromotion_spec {s : State} {r : Rg} {i : Nat} {q : MReq} (h : s.nextPromotion r = some i) (hq : s.reqs[i]? = some q) :
    s.tags r < 2048 ∧ s.mayPromote r q = true ∧ ∀ x ∈ s.reqs, s.mayPromote r x = true → q.order ≤ x.order := by
  unfold State.nextPromotion at h
  split at h
  · cases h
  next ht => exact ⟨by omega, firstGranted_filter (f := s.mayPromote r) h hq⟩

/-- Whether a request waits for a grant that it may get now. -/
def State.mayGrant (s : State) (r : Rg) (q : MReq) : Bool :=
  q.rg == r && decide (q.state = .waits) && (s.grantOf q).isSome && !s.waitsForCommit q

theorem State.mayGrant_iff {s : State} {r : Rg} {q : MReq} :
    s.mayGrant r q = true ↔ q.rg = r ∧ q.state = .waits ∧ s.grantOf q ≠ none ∧ s.waitsForCommit q = false := by
  simp [State.mayGrant, and_assoc, Option.isSome_iff_ne_none]

theorem State.nextGrant_spec {s : State} {r : Rg} {i : Nat} {q : MReq} (h : s.nextGrant r = some i) (hq : s.reqs[i]? = some q) :
    s.mayGrant r q = true ∧ (q.turn ≠ none → ∀ x ∈ s.reqs, s.mayGrant r x = true → x.turn ≠ none) := by
  have hat {y : MReq × Nat} (hy : y ∈ s.reqs.zipIdx.filter fun x => s.mayGrant r x.1) (e : y.2 = i) : s.mayGrant r q = true ∧ q = y.1 := by
    obtain ⟨hmem, hf⟩ := List.mem_filter.mp hy
    have hy' := List.mem_zipIdx_iff_getElem?.mp hmem
    rw [e, hq] at hy'
    obtain rfl := Option.some.inj hy'
    exact ⟨hf, rfl⟩
  unfold State.nextGrant at h
  dsimp only at h
  change (match (s.reqs.zipIdx.filter fun x => s.mayGrant r x.1).find? fun p => p.1.turn.isNone with
    | some p => some p.2
    | none => ((s.rg r).turns.findSome? fun t => (s.reqs.zipIdx.filter fun x => s.mayGrant r x.1).find? fun p => p.1.turn == some t).map (·.2)) = some i
    at h
  split at h
  next p hp =>
    obtain ⟨hm, rfl⟩ := hat (List.mem_of_find?_eq_some hp) (Option.some.inj h)
    exact ⟨hm, fun ht => absurd (by simpa using List.find?_some hp) ht⟩
  next hno =>
    obtain ⟨y, hy, e⟩ := Option.map_eq_some_iff.mp h
    obtain ⟨t, -, ht⟩ := List.exists_of_findSome?_eq_some hy
    refine ⟨(hat (List.mem_of_find?_eq_some ht) e).1, fun _ x hx hmx => ?_⟩
    obtain ⟨k, hk⟩ := zipIdx_of_mem hx
    simpa using List.find?_eq_none.mp hno (x, k) (List.mem_filter.mpr ⟨hk, hmx⟩)

theorem State.grantOf_spec {s : State} {q : MReq} {b : Pt × Nat} {park : Bool} (hb : s.bankOf q = some b) (h : s.grantOf q = some park) :
    (park = true → b.1.val < 12 ∧ 256 ≤ s.bankTags q.rg b ∧ s.parked q.rg b.1 < 32) ∧
    (park = false → s.tags q.rg < 2048 ∧ (b.1.val < 12 → s.bankTags q.rg b < 256)) := by
  unfold State.grantOf at h
  dsimp only at h
  rw [hb] at h
  dsimp only at h
  by_cases hfull : b.1.val < 12 ∧ 256 ≤ s.bankTags q.rg b
  · rw [if_pos (by simpa using hfull)] at h
    by_cases hpark : s.parked q.rg b.1 < 32
    · rw [if_pos hpark] at h
      obtain rfl := Option.some.inj h
      exact ⟨fun _ => ⟨hfull.1, hfull.2, hpark⟩, fun e => Bool.noConfusion e⟩
    · rw [if_neg hpark] at h
      cases h
  · rw [if_neg (by simpa using hfull)] at h
    by_cases htag : s.tags q.rg < 2048
    · rw [if_pos htag] at h
      obtain rfl := Option.some.inj h
      exact ⟨fun e => Bool.noConfusion e, fun _ => ⟨htag, fun h12 => Nat.lt_of_not_le fun hle => hfull ⟨h12, hle⟩⟩⟩
    · rw [if_neg htag] at h
      cases h

theorem exec_tagGrant (r : Rg) (s : State) : exec (.tagGrant r) s = execTagGrant r s := rfl

/-- A parked request takes a tag (R401). -/
theorem tagGrant_of_promotion {r : Rg} {s : State} {i : Nat} {q : MReq} (h : s.nextPromotion r = some i) (hq : s.reqs[i]? = some q) :
    exec (.tagGrant r) s = .next (if q.turn.isSome && !q.isRead && decide (q.state = .sorted)
      then (s.onReq i fun q => { q with parked := false }).written q else s.onReq i fun q => { q with parked := false }) := by
  rw [exec_tagGrant]
  unfold execTagGrant
  rw [h]
  dsimp only
  unfold State.promote
  rw [hq]

theorem Region.served_granted (x : Region) (t : Option (Nat × Nat)) : (x.served t).granted = x.granted := by
  unfold Region.served
  split
  · rfl
  · rfl

/-- A waiting request is granted (R396, R399). -/
theorem tagGrant_of_grant {r : Rg} {s : State} {i : Nat} {q : MReq} (hp : s.nextPromotion r = none) (h : s.nextGrant r = some i)
    (hq : s.reqs[i]? = some q) :
    (s.bankOf q = none → exec (.tagGrant r) s = .next ((s.onRg r (·.served q.turn)).serveWindow i q)) ∧
    ∀ (b : Pt × Nat) (park : Bool), s.bankOf q = some b → s.grantOf q = some park →
      let v := s.onRg r (·.served q.turn)
      exec (.tagGrant r) s = .next (({ (if park then v.onPart b.1 Part.park else v) with
        reqs := s.reqs.modify i fun q => { q with state := .net, parked := park, order := (s.rg r).granted } } : State).onRg r
          fun x => { x with granted := (s.rg r).granted + 1 }) := by
  have hexec : exec (.tagGrant r) s = match s.bankOf q with
      | none => .next ((s.onRg r (·.served q.turn)).serveWindow i q)
      | some b =>
        let park := s.grantOf q = some true
        let t := if park then (s.onRg r (·.served q.turn)).onPart b.1 Part.park else s.onRg r (·.served q.turn)
        let n := (t.rg r).granted
        .next ((t.onReq i fun q => { q with state := .net, parked := park, order := n }).onRg r fun x => { x with granted := n + 1 }) := by
    rw [exec_tagGrant]
    unfold execTagGrant
    rw [hp]
    dsimp only
    rw [h]
    dsimp only
    rw [hq]
    rfl
  refine ⟨fun hb => by rw [hexec, hb], fun b park hb hg => ?_⟩
  intro v
  have hgranted (b : Pt) : ((if park then v.onPart b Part.park else v).rg r).granted = (s.rg r).granted := by
    have e : (v.rg r).granted = (s.rg r).granted :=
      (congrArg Region.granted (State.onRg_self s r fun x => x.served q.turn)).trans (Region.served_granted _ _)
    cases park
    · exact e
    · exact e
  rw [hexec, hb]
  dsimp only
  rw [hg]
  have hite (b : Pt) : (if some park = some true then v.onPart b Part.park else v) = if park then v.onPart b Part.park else v := by
    cases park
    · rfl
    · rfl
  have hdec : decide (some park = some true) = park := by
    cases park
    · rfl
    · rfl
  rw [hite, hdec, hgranted]
  cases park
  · rfl
  · rfl

theorem tagsGranted : Claim.TagsGranted := by
  refine fun r s => ⟨fun i q h hq => ?_, fun i q hp h hq => ?_, fun hp h => ?_⟩
  · obtain ⟨htags, hmay, hmin⟩ := State.nextPromotion_spec h hq
    obtain ⟨hr, hpark, hbank⟩ := State.mayPromote_iff.mp hmay
    have hexec := tagGrant_of_promotion h hq
    refine ⟨hr, hpark, htags, fun b hb => hbank b hb, fun x hx hxr hxp hxb => hmin x hx (State.mayPromote_iff.mpr ⟨hxr, hxp, hxb⟩), fun hno => ?_,
      fun c k e hw hwr hst => ?_⟩
    · refine hexec.trans (congrArg _ (if_neg fun hc => ?_))
      simp only [MReq.isRead, Bool.and_eq_true, Bool.not_eq_true', decide_eq_true_eq, List.isEmpty_eq_false_iff] at hc
      obtain ⟨⟨ht, hw⟩, hst⟩ := hc
      rcases hno with hno | hno | hno
      · exact hw hno
      · exact hno hst
      · rw [hno] at ht
        cases ht
    · refine hexec.trans (congrArg _ ((if_pos ?_).trans ?_))
      · simp [MReq.turn, hw, MReq.isRead, hwr, hst]
      · unfold State.written
        rw [hw]
        rfl
  · obtain ⟨hmay, hturn⟩ := State.nextGrant_spec h hq
    obtain ⟨hr, hst, -, hc⟩ := State.mayGrant_iff.mp hmay
    obtain ⟨hwindow, hgrant⟩ := tagGrant_of_grant hp h hq
    refine ⟨hr, hst, hc, fun ht x hx hxr hxs hxg hxc => hturn ht x hx (State.mayGrant_iff.mpr ⟨hxr, hxs, hxg, hxc⟩), fun b park hb hg => ?_, hwindow⟩
    obtain ⟨h1, h2⟩ := State.grantOf_spec hb hg
    exact ⟨h1, h2, hgrant b park hb hg⟩
  · rw [exec_tagGrant]
    unfold execTagGrant
    rw [hp]
    dsimp only
    rw [h]

/-! ### Sorters (R397, R398, R400) -/

/-- A sum of powers of two reads back bit by bit. -/
theorem getLsbD_ofNat_sum (f : Fin 8 → Bool) (k : Fin 8) :
    (BitVec.ofNat 8 ((List.finRange 8).foldl (fun m k => if f k then m + 2 ^ k.val else m) 0)).getLsbD k.val = f k := by
  have hstep : (fun (m : Nat) (k : Fin 8) => if f k then m + 2 ^ k.val else m) = fun m k => m + 2 ^ k.val * (f k).toNat := by
    funext m k
    cases f k
    · simp
    · simp
  have hsum : (List.finRange 8).foldl (fun m k => if f k then m + 2 ^ k.val else m) 0 = Nat.ofBits f := by
    rw [hstep]
    simp [Nat.ofBits, List.finRange, Fin.foldr_succ, List.ofFn_succ]
    omega
  rw [hsum, BitVec.getLsbD_ofNat, Nat.testBit_ofBits_lt f k.val k.isLt]
  simp

theorem exec_sorterAccept (p : Pt) (s : State) : exec (.sorterAccept p) s = execSorterAccept p s := rfl

/-- A request that its sorter has accepted (R397). -/
def State.sorted (s : State) (p : Pt) (q : MReq) : MReq := { q with state := .sorted, since := s.partTicks p }

/-- A read is fixed as it is accepted and closes the writes to its sectors (R397, R398). -/
theorem State.accept_of_read {s : State} {p : Pt} {i : Nat} {q : MReq} (hq : s.reqs[i]? = some q) (hw : q.writes = []) :
    ∃ m : BitVec 8, (∀ k : Fin 8, m.getLsbD k.val = s.mem.ue.contains (q.line / 32 + k.val)) ∧
      s.accept p i = { s with reqs := ((s.reqs.eraseIdx i).map fun x => if x.line = q.line then { x with
          writes := x.writes.map fun w => { w with closed := w.closed || q.sectors.getLsbD w.sector.val } } else x) ++
        [{ q with state := .sorted, since := s.partTicks p, data := s.lineFor q, marks := m }] } := by
  refine ⟨BitVec.ofNat 8 ((List.finRange 8).foldl (fun m k => if s.ueAt q.line k then m + 2 ^ k.val else m) 0),
    getLsbD_ofNat_sum (s.ueAt q.line), ?_⟩
  unfold State.accept
  rw [hq]
  dsimp only
  refine (if_pos ?_).trans rfl
  unfold MReq.isRead
  rw [hw]
  rfl

/-! #### An accepted write -/

/-- One sector more of a write that is accepted. -/
def acceptStep (q : MReq) (a : State × List SecWrite × List (Fin 8)) (w : SecWrite) : State × List SecWrite × List (Fin 8) :=
  ((a.1.acceptSector q w).1, a.2.1 ++ (a.1.acceptSector q w).2.1, a.2.2 ++ (a.1.acceptSector q w).2.2)

theorem State.acceptWrites_eq (s : State) (q : MReq) : s.acceptWrites q = q.writes.foldl (acceptStep q) (s, [], []) := rfl

/-- What the sorter holds once it has accepted a write of its own. -/
def State.withWrites (s : State) (p : Pt) (i : Nat) (q : MReq) : State :=
  let a := ({ s with reqs := s.reqs.eraseIdx i } : State).acceptWrites (s.sorted p q)
  if a.2.1.isEmpty then a.1 else { a.1 with reqs := a.1.reqs ++ [{ s.sorted p q with writes := a.2.1, drops := a.2.2 }] }

theorem State.accept_of_write {s : State} {p : Pt} {i : Nat} {q : MReq} (hq : s.reqs[i]? = some q) (hw : q.writes ≠ []) :
    s.accept p i = if q.parked = true ∧ q.turn ≠ none then s.withWrites p i q else (s.withWrites p i q).written q := by
  have hread : q.isRead = false := by simpa [MReq.isRead] using hw
  have e : s.accept p i = if q.parked && q.turn.isSome then s.withWrites p i q else (s.withWrites p i q).written q := by
    unfold State.accept
    rw [hq]
    dsimp only
    exact (if_neg (by rw [show ({ q with state := .sorted, since := s.partTicks p } : MReq).isRead = false from hread]; decide)).trans rfl
  rw [e]
  refine if_congr ?_ rfl rfl
  simp [Option.isSome_iff_ne_none]

/-- Only requests and memory differ. -/
def State.Sorts (s t : State) : Prop := t = { s with reqs := t.reqs, mem := t.mem }

theorem State.Sorts.trans {s t u : State} (h : s.Sorts t) (h' : t.Sorts u) : s.Sorts u := by
  unfold State.Sorts at h h'
  rw [h] at h'
  exact h'

theorem State.acceptSector_sorts (s : State) (q : MReq) (w : SecWrite) : s.Sorts (s.acceptSector q w).1 := by
  unfold State.acceptSector
  dsimp only
  split
  · split
    · rfl
    · rfl
  · split
    · rfl
    · rfl

theorem State.acceptWrites_sorts (s : State) (q : MReq) : s.Sorts (s.acceptWrites q).1 := by
  rw [State.acceptWrites_eq]
  exact foldl_keeps (f := acceptStep q) (q := fun a : State × List SecWrite × List (Fin 8) => s.Sorts a.1)
    (fun a w h => h.trans (a.1.acceptSector_sorts q w)) q.writes (b := (s, [], [])) (show s.Sorts s from rfl)

theorem State.withWrites_sorts (s : State) (p : Pt) (i : Nat) (q : MReq) : s.Sorts (s.withWrites p i q) := by
  have h : s.Sorts (({ s with reqs := s.reqs.eraseIdx i } : State).acceptWrites (s.sorted p q)).1 :=
    State.Sorts.trans (t := { s with reqs := s.reqs.eraseIdx i }) rfl (State.acceptWrites_sorts _ _)
  unfold State.withWrites
  dsimp only
  split
  · exact h
  · exact h.trans rfl

/-- What a write names, apart from the bytes that it found. -/
def SecWrite.named (w : SecWrite) : Fin 8 × BitVec 32 × BitVec 256 × Bool := (w.sector, w.mask, w.data, w.closed)

/-- The sector as a write finds it, which it keeps (R414). -/
def State.keepOld (s : State) (q : MReq) (w : SecWrite) : SecWrite :=
  { w with old := BitVec.ofNat 256 (leBytes s.mem.get (32 * (q.line / 32 + w.sector.val)) 32) }

theorem State.keepOld_named (s : State) (q : MReq) (w : SecWrite) : (s.keepOld q w).named = w.named := by
  simp only [SecWrite.named, State.keepOld]

theorem State.ueAt_of_clean {s : State} (h : s.mem.ue = []) (line : Nat) (k : Fin 8) : s.ueAt line k = false := by
  unfold State.ueAt
  rw [h]
  rfl

theorem Memory.ext' {m n : Memory} (h1 : m.cells = n.cells) (h2 : m.fills = n.fills) (h3 : m.ue = n.ue) : m = n := by
  cases m
  cases n
  subst h1 h2 h3
  rfl

/-- Where no sector is uncorrectable an accepted write stands in memory at once (R397). -/
theorem State.acceptSector_mem {s : State} (h : s.mem.ue = []) (q : MReq) (w : SecWrite) :
    (s.acceptSector q w).1.mem = s.mem.write (w.bytes q.line) := by
  have hue : (s.mem.write (w.bytes q.line)).ue = [] := (Memory.write_ue _ _).trans h
  have hmem (c : Bool) : ({ s.mem.write (w.bytes q.line) with
      ue := if c then s.mem.ue.filter (· != q.line / 32 + w.sector.val) else s.mem.ue } : Memory) = s.mem.write (w.bytes q.line) := by
    refine Memory.ext' rfl rfl ?_
    rw [hue, h]
    cases c
    · rfl
    · rfl
  unfold State.acceptSector
  dsimp only
  rw [State.ueAt_of_clean h, Bool.false_and]
  split
  · exact hmem _
  · exact hmem _

theorem Memory.write_append (m : Memory) (ws vs : List WByte) : m.write (ws ++ vs) = (m.write ws).write vs := List.foldl_append

/-- A line with no other request: an accepted write stands in the sorter by itself (R398). -/
theorem State.acceptSector_alone {s : State} {q : MReq} (h : s.mem.ue = []) (hline : q.line % 256 = 0)
    (hr : ∀ x ∈ s.reqs, x.line / 256 ≠ q.line / 256) (w : SecWrite) :
    (s.acceptSector q w).1.reqs = s.reqs ∧ (s.acceptSector q w).2 = ([s.keepOld q w], []) := by
  have hmerge : s.mergesWith q w.sector = none := by
    unfold State.mergesWith
    split
    · rfl
    · refine List.findIdx?_eq_none_iff.mpr fun x hx => ?_
      have hne : (x.line == q.line) = false := by
        simpa using fun e => hr x hx (by rw [e])
      rw [hne]
      simp
  have hrewrite : s.reqs.map (fun x : MReq => x.rewrite [q.line / 32 + w.sector.val]) = s.reqs := by
    refine (List.map_congr_left fun x hx => ?_).trans (List.map_id _)
    have hk := w.sector.isLt
    have hne : ¬ (q.line / 32 + w.sector.val) / 8 = x.line / 256 := fun e => hr x hx (by omega)
    simp only [MReq.rewrite, List.foldl_cons, List.foldl_nil, if_neg hne, id]
  unfold State.acceptSector
  dsimp only
  rw [hmerge, State.ueAt_of_clean h]
  dsimp only
  refine ⟨?_, ?_⟩
  · split
    · exact hrewrite
    · rfl
  · rw [Bool.false_and]
    rfl

theorem acceptStep_mem {q : MReq} (ws : List SecWrite) (a : State × List SecWrite × List (Fin 8)) (h : a.1.mem.ue = []) :
    (ws.foldl (acceptStep q) a).1.mem = a.1.mem.write (ws.flatMap fun w => w.bytes q.line) := by
  induction ws generalizing a with
  | nil => rfl
  | cons w ws ih =>
    have e : (acceptStep q a w).1.mem = a.1.mem.write (w.bytes q.line) := State.acceptSector_mem h q w
    rw [List.foldl_cons, ih _ (by rw [e, Memory.write_ue]; exact h), e, List.flatMap_cons, Memory.write_append]

theorem acceptStep_alone {q : MReq} (hline : q.line % 256 = 0) (ws : List SecWrite) (a : State × List SecWrite × List (Fin 8))
    (h : a.1.mem.ue = []) (hr : ∀ x ∈ a.1.reqs, x.line / 256 ≠ q.line / 256) :
    (ws.foldl (acceptStep q) a).1.reqs = a.1.reqs ∧ (ws.foldl (acceptStep q) a).2.2 = a.2.2 ∧
      (ws.foldl (acceptStep q) a).2.1.map SecWrite.named = a.2.1.map SecWrite.named ++ ws.map SecWrite.named := by
  induction ws generalizing a with
  | nil => exact ⟨rfl, rfl, (List.append_nil _).symm⟩
  | cons w ws ih =>
    obtain ⟨hreqs, hkept⟩ := State.acceptSector_alone h hline hr w
    have hmem : (acceptStep q a w).1.mem.ue = [] := by
      rw [show (acceptStep q a w).1.mem = a.1.mem.write (w.bytes q.line) from State.acceptSector_mem h q w, Memory.write_ue]
      exact h
    obtain ⟨h1, h2, h3⟩ := ih (acceptStep q a w) hmem (fun x hx => hr x (hreqs ▸ hx))
    rw [List.foldl_cons]
    refine ⟨h1.trans hreqs, h2.trans ?_, h3.trans ?_⟩
    · unfold acceptStep
      rw [hkept]
      exact List.append_nil _
    · unfold acceptStep
      rw [hkept, List.map_append, List.append_assoc]
      exact congrArg (fun x => a.2.1.map SecWrite.named ++ (x :: ws.map SecWrite.named)) (a.1.keepOld_named q w)

theorem sorterAccepts : Claim.SorterAccepts := by
  refine fun p s => ⟨fun h => ?_, fun h => ?_, fun r i h => ?_, fun i q hq => ⟨State.accept_of_read hq, fun hw => ?_⟩⟩
  · rw [exec_sorterAccept]
    exact if_pos (by rw [h]; rfl)
  · rw [exec_sorterAccept]
    exact if_neg (by rw [h]; decide)
  · obtain ⟨⟨q, j⟩, hmem, rfl, -⟩ := firstGranted_spec h
    have hq := List.mem_zipIdx_iff_getElem?.mp (List.mem_filter.mp hmem).1
    obtain ⟨hf, hmin⟩ := firstGranted_filter (f := fun q => q.rg == r && decide (q.state = .net) && (s.partAt q.line).any fun (x : Pt × Nat) => x.1 == p) h hq
    simp only [Bool.and_eq_true, beq_iff_eq, decide_eq_true_eq, and_imp] at hf hmin
    refine ⟨q, hq, hf.1.1, hf.1.2, fun x hx hr hs ⟨o, ho⟩ => hmin x hx hr hs ?_⟩
    rw [ho]
    simp
  · refine ⟨s.withWrites p i q, s.withWrites_sorts p i q, State.accept_of_write hq hw, fun hue => ?_⟩
    have hsorted : (s.sorted p q).writes = q.writes ∧ (s.sorted p q).line = q.line := ⟨rfl, rfl⟩
    generalize ha : (s.sorted p q).writes.foldl (acceptStep (s.sorted p q)) (({ s with reqs := s.reqs.eraseIdx i } : State), [], []) = a
    have hv : s.withWrites p i q =
        if a.2.1.isEmpty then a.1 else { a.1 with reqs := a.1.reqs ++ [{ s.sorted p q with writes := a.2.1, drops := a.2.2 }] } := by
      rw [← ha]
      rfl
    have hmem : (s.withWrites p i q).mem = s.mem.write (q.writes.flatMap fun w => w.bytes q.line) := by
      have e := acceptStep_mem (q := s.sorted p q) q.writes (({ s with reqs := s.reqs.eraseIdx i } : State), [], []) hue
      rw [hsorted.1] at ha
      rw [ha] at e
      rw [hv]
      split
      · exact e
      · exact e
    refine ⟨hmem, fun hwf b hb => ?_, fun hline hother => ?_⟩
    · rw [hmem]
      exact Memory.get_write_other hwf _ b hb
    · obtain ⟨h1, h2, h3⟩ := acceptStep_alone (q := s.sorted p q) hline q.writes (({ s with reqs := s.reqs.eraseIdx i } : State), [], []) hue hother
      rw [hsorted.1] at ha
      rw [ha] at h1 h2 h3
      refine ⟨a.2.1, h3, ?_⟩
      have hne : a.2.1.isEmpty = false := by
        have hl := congrArg List.length h3
        simp only [List.length_map, List.length_append, List.map_nil, List.length_nil, Nat.zero_add] at hl
        have := List.length_pos_of_ne_nil hw
        cases hx : a.2.1 with
        | nil =>
          rw [hx] at hl
          simp only [List.length_nil] at hl
          omega
        | cons y ys => rfl
      rw [hv, if_neg (by rw [hne]; decide)]
      change a.1.reqs ++ _ = _
      rw [h1, h2]
      rfl

/-! ### Accesses of agents that hold no tags (R386, R404, R405, R413, R414) -/

theorem State.partAt_of_glob {s t : State} (h : t.glob = s.glob) (a : Nat) : t.partAt a = s.partAt a := by
  unfold State.partAt
  rw [h]

theorem State.chargeLine_spec {s : State} {cls : Nat → Nat} {l n : Nat} {p : Pt} {o : Nat} (h : s.partAt l = some (p, o)) :
    (128 * (n : Int) ≤ (s.classAt p (cls l)).credits.toInt → s.chargeLine cls (l, n) = s.onPart p (·.charge (cls l) (128 * n))) ∧
    ((s.classAt p (cls l)).credits.toInt < 128 * (n : Int) → s.chargeLine cls (l, n) = s) := by
  unfold State.chargeLine
  dsimp only
  rw [h]
  exact ⟨fun hc => if_pos hc, fun hc => if_neg (by omega)⟩

/-- Pending reads only learn what has been written whole. -/
theorem State.rewrote_reqs (s : State) (ws : List WByte) :
    (s.rewrote ws).reqs.map (fun q => { q with rewritten := 0 }) = s.reqs.map (fun q => { q with rewritten := 0 }) := by
  unfold State.rewrote
  split
  · rfl
  · simp only [List.map_map]
    exact List.map_congr_left fun x _ => rfl

theorem State.busWrite_reqs {s : State} (h : s.mem.ue = []) (cls : Nat → Nat) (ws : List WByte) :
    (s.busWrite cls ws).reqs = ((s.charged cls (writeLines ws)).rewrote ws).reqs := by
  have hue : ((s.charged cls (writeLines ws)).rewrote ws).mem.ue = [] := by
    have : ((s.charged cls (writeLines ws)).rewrote ws).mem = s.mem := by
      unfold State.rewrote
      split
      · rfl
      · rfl
    rw [this]
    exact h
  unfold State.busWrite
  dsimp only
  split
  · rfl
  next hne => exact absurd (by rw [hue]; rfl) hne

theorem State.busWrite_cleanly {s : State} (h : s.mem.ue = []) (cls : Nat → Nat) (ws : List WByte) :
    ∃ v : State, s.busWrite cls ws = v ∧ v = { s with parts := v.parts, reqs := v.reqs, mem := s.mem.write ws } ∧
      v.reqs.map (fun q => { q with rewritten := 0 }) = s.reqs.map (fun q => { q with rewritten := 0 }) := by
  obtain ⟨hmem, hframe, -⟩ := State.busWrite_of_clean h cls ws
  refine ⟨_, rfl, ?_, ?_⟩
  · rw [hmem] at hframe
    exact hframe
  · rw [State.busWrite_reqs h]
    exact (s.charged cls (writeLines ws)).rewrote_reqs ws

/-! #### Uncorrectable sectors -/

theorem State.markSector_glob (s : State) (p : Pt) (o n : Nat) (fresh : Bool) : (s.markSector p o n fresh).glob = s.glob := by
  unfold State.markSector
  dsimp only
  split
  · rfl
  · rfl

theorem State.markSector_ecc (s : State) (p : Pt) (o n : Nat) (fresh : Bool) : ((s.markSector p o n fresh).part p).ecc.getLsbD 1 = true := by
  have e : ((s.markSector p o n fresh).part p).ecc = (s.part p).ecc ||| 2 := by
    unfold State.markSector
    dsimp only
    rw [State.event_part]
    have h := State.onPart_self s p fun x => { x with
      ueCnt := x.ueCnt + 1, ecc := x.ecc ||| 2
      ueAddr := if x.ecc.getLsbD 1 then x.ueAddr else BitVec.ofNat 48 (32 * n) }
    split
    · exact (congrArg Part.ecc h :)
    · exact (congrArg Part.ecc h :)
  rw [e, BitVec.getLsbD_or]
  simp

theorem State.dropWrite_spec {s : State} {n : Nat} {p : Pt} {o : Nat} (h : s.partAt (32 * n) = some (p, o)) :
    (s.dropWrite n).mem = s.mem ∧ ((s.dropWrite n).part p).ecc = (s.part p).ecc ||| 4 := by
  unfold State.dropWrite
  rw [h]
  dsimp only
  exact ⟨State.event_mem _ _ _ _ _, congrArg Part.ecc ((State.event_part _ _ _ _ _ p).trans (State.onPart_self s p _))⟩

/-- One uncorrectable sector that a reader meets. -/
def State.meets (t : State) (n : Nat) : State := match t.partAt (32 * n) with
  | some (p, o) => t.markSector p o n
  | none => t

theorem State.meets_of {t : State} {n : Nat} {p : Pt} {o : Nat} (h : t.partAt (32 * n) = some (p, o)) : t.meets n = t.markSector p o n := by
  unfold State.meets
  rw [h]

theorem State.ueReads_eq (s : State) (a len : Nat) : s.ueReads a len =
    (s.mem.ue.filter fun n => decide (32 * n < a + len) && decide (a < 32 * n + 32)).foldl State.meets s := rfl

/-- A read of an uncorrectable sector shows at its partition, and leaves memory as it was (R413). -/
theorem State.ueReads_sector {s : State} {n : Nat} (h : n ∈ s.mem.ue) {p : Pt} {o : Nat} (hp : s.partAt (32 * n) = some (p, o)) :
    (s.ueReads (32 * n) 32).glob = s.glob ∧ ((s.ueReads (32 * n) 32).part p).ecc.getLsbD 1 = true := by
  rw [State.ueReads_eq]
  have hall : ∀ m ∈ s.mem.ue.filter (fun m => decide (32 * m < 32 * n + 32) && decide (32 * n < 32 * m + 32)), m = n := fun m hm => by
    have := (List.mem_filter.mp hm).2
    simp only [Bool.and_eq_true, decide_eq_true_eq] at this
    omega
  have hmem : n ∈ s.mem.ue.filter (fun m => decide (32 * m < 32 * n + 32) && decide (32 * n < 32 * m + 32)) :=
    List.mem_filter.mpr ⟨h, by simp⟩
  have hmark (t : State) (ht : t.glob = s.glob) : t.meets n = t.markSector p o n := State.meets_of ((State.partAt_of_glob ht _).trans hp)
  generalize s.mem.ue.filter (fun m => decide (32 * m < 32 * n + 32) && decide (32 * n < 32 * m + 32)) = xs at hall hmem
  cases xs with
  | nil => cases hmem
  | cons m xs =>
    obtain rfl := hall m List.mem_cons_self
    rw [List.foldl_cons, hmark s rfl]
    refine foldl_keeps_mem (q := fun t : State => t.glob = s.glob ∧ (t.part p).ecc.getLsbD 1 = true) (fun t k hk ht => ?_)
      ⟨s.markSector_glob p o m true, s.markSector_ecc p o m true⟩
    obtain rfl := hall k (List.mem_cons_of_mem _ hk)
    rw [hmark t ht.1]
    exact ⟨(t.markSector_glob p o k true).trans ht.1, t.markSector_ecc p o k true⟩

theorem State.writeSector_whole {s : State} {n : Nat} {ws : List WByte} (h : s.mem.ue.contains n = true) (hw : wholeSector ws n = true) :
    s.writeSector n ws = { s with mem := { s.mem.write ws with ue := s.mem.ue.filter (· != n) } } := by
  unfold State.writeSector
  rw [if_pos h, if_pos hw]

theorem State.writeSector_partial {s : State} {n : Nat} {ws : List WByte} (h : s.mem.ue.contains n = true) (hw : wholeSector ws n = false)
    {p : Pt} {o : Nat} (hp : s.partAt (32 * n) = some (p, o)) : (s.writeSector n ws).mem = s.mem ∧
      ((s.writeSector n ws).part p).ecc.getLsbD 1 = true ∧ ((s.writeSector n ws).part p).ecc.getLsbD 2 = true := by
  have e : s.writeSector n ws = (s.ueReads (32 * n) 32).dropWrite n := by
    unfold State.writeSector
    rw [if_pos h, if_neg (by rw [hw]; decide)]
  obtain ⟨hglob, hbit⟩ := State.ueReads_sector (by simpa using h) hp
  obtain ⟨hmem, hecc⟩ := State.dropWrite_spec (s := s.ueReads (32 * n) 32) ((State.partAt_of_glob hglob _).trans hp)
  rw [e]
  refine ⟨hmem.trans (s.ueReads_mem _ _), ?_, ?_⟩
  · rw [hecc, BitVec.getLsbD_or, hbit, Bool.true_or]
  · rw [hecc, BitVec.getLsbD_or]
    simp

/-! #### Services -/

theorem State.svcWrite_of_reached {s : State} {ws : List WByte} (h : ∀ w ∈ ws, s.reach w.addr = .reached) :
    s.svcWrite ws = s.busWrite (fun _ => 15) ws := by
  have hfind : ws.find? (fun w => !(s.reach w.addr == .reached)) = none := List.find?_eq_none.mpr fun w hw => by simp [h w hw]
  have hfilter : ws.filter (fun w => s.reach w.addr == .reached) = ws := List.filter_eq_self.mpr fun w hw => by simp [h w hw]
  unfold State.svcWrite
  dsimp only
  rw [hfind, hfilter]
  rfl

theorem State.noTarget_eq (s : State) (a : Nat) : s.noTarget a = { s with glob := (s.noTarget a).glob } := by
  unfold State.noTarget
  split
  · rfl
  · rfl

theorem State.svcWrite_of_none {s : State} {w : WByte} {rest : List WByte} (h : ∀ x ∈ w :: rest, s.reach x.addr ≠ .reached) :
    s.svcWrite (w :: rest) = (s.noTarget w.addr).busWrite (fun _ => 15) [] := by
  have hfind : (w :: rest).find? (fun w => !(s.reach w.addr == .reached)) = some w := by
    rw [List.find?_cons, beq_false_of_ne (h w List.mem_cons_self)]
    rfl
  have hfilter : (w :: rest).filter (fun w => s.reach w.addr == .reached) = [] :=
    List.filter_eq_nil_iff.mpr fun x hx => by simp [h x hx]
  unfold State.svcWrite
  dsimp only
  rw [hfind, hfilter]
  exact congrArg (fun t : State => t.busWrite (fun _ => 15) []) (s.noTarget_eq w.addr).symm

theorem agentsAccess : Claim.AgentsAccess :=
  ⟨fun _ _ _ _ _ _ h => State.chargeLine_spec h,
    fun s cls a len ws h => ⟨⟨_, rfl, by rw [State.busRead_of_clean h]; rfl⟩, State.busWrite_cleanly h cls ws⟩,
    fun _ _ _ h => ⟨State.writeSector_whole h, fun hw _ _ hp => State.writeSector_partial h hw hp⟩,
    fun _ _ => ⟨State.svcWrite_of_reached, fun _ _ e h => by subst e; exact State.svcWrite_of_none h⟩⟩

/-- Settles O33: tags, sorters, and agents without tags. -/
theorem requestsEnterMemory : Obligations.RequestsEnterMemory := ⟨tagsGranted, sorterAccepts, agentsAccess⟩

end Sys2Proof.Machine
end

section
/-! Proofs. Banks and the lines that return; ports of the fabric; streams. -/
namespace Sys2Proof.Machine

/-! ### Bank schedulers (R398, R402, R405, R406) -/

/-- The first place of a list at which a test holds. -/
theorem find?_zipIdx_spec {α : Type} {l : List α} {f : α → Bool} {y : α × Nat} (h : (l.zipIdx.find? fun x => f x.1) = some y) :
    l[y.2]? = some y.1 ∧ f y.1 = true ∧ ∀ (j : Nat) (x : α), l[j]? = some x → f x = true → y.2 ≤ j := by
  obtain ⟨hf, k, hk, rfl, hbefore⟩ := List.find?_eq_some_iff_getElem.mp h
  have hk' : k < l.length := by simpa using hk
  simp only [List.getElem_zipIdx, Nat.zero_add] at hf hbefore ⊢
  refine ⟨List.getElem?_eq_getElem hk', hf, fun j x hj hx => Nat.le_of_not_lt fun hlt => ?_⟩
  have hno := hbefore j hlt
  obtain ⟨hl, rfl⟩ := List.getElem?_eq_some_iff.mp hj
  rw [hx] at hno
  cases hno

theorem find?_zipIdx_none {α : Type} {l : List α} {f : α → Bool} (h : (l.zipIdx.find? fun x => f x.1) = none) {x : α} (hx : x ∈ l) : f x = false := by
  obtain ⟨j, hj⟩ := zipIdx_of_mem hx
  simpa using List.find?_eq_none.mp h (x, j) hj

theorem MReq.charge_eq (x : MReq) :
    x.charge = 128 * ((if x.writes = [] then (List.range 8).countP x.sectors.getLsbD else x.writes.length : Nat) : Int) := by
  unfold MReq.charge MReq.isRead
  rw [if_congr List.isEmpty_iff rfl rfl]

theorem Part.charge_credits (c : Fin 16) (n : Int) (x : Part) :
    (x.charge c.val n).classes[c].credits = BitVec.ofInt 32 (x.classes[c].credits.toInt - n) := by
  unfold Part.charge
  rw [dif_pos c.isLt]
  simp

/-- Whether a bank's scheduler may choose a request. -/
def State.candidate (s : State) (p : Pt) (bank : Nat) (q : MReq) : Bool := s.bankOf q == some (p, bank) && s.eligible p q

theorem State.candidate_iff {s : State} {p : Pt} {bank : Nat} {q : MReq} :
    s.candidate p bank q = true ↔ s.bankOf q = some (p, bank) ∧ s.eligible p q = true := by
  simp [State.candidate]

/-- Whether a request of a bank is for its open row. -/
def State.hitsRow (s : State) (p : Pt) (bank : Nat) (q : MReq) : Bool := some (s.rowOf q) == smFind (s.part p).openRow bank

/-- The first that passes a test, else the first that passes another, else the first. -/
theorem firstOf (cand : List (MReq × Nat)) (f g : MReq × Nat → Bool) : (match cand.find? f with
    | some x => some x.2
    | none => match cand.find? g with
      | some x => some x.2
      | none => cand.head?.map (·.2)) = ((cand.find? f).or ((cand.find? g).or cand.head?)).map (·.2) := by
  cases cand.find? f with
  | some x => rfl
  | none =>
    cases cand.find? g with
    | some x => rfl
    | none => rfl

/-- A promoted request first, then one of the open row, then the oldest (R402). -/
theorem State.bankChoice_eq (s : State) (p : Pt) (bank : Nat) : s.bankChoice p bank = if s.scrubFirst p bank then none
    else ((s.reqs.zipIdx.find? fun x => s.candidate p bank x.1 && x.1.promoted).or
      ((s.reqs.zipIdx.find? fun x => s.candidate p bank x.1 && s.hitsRow p bank x.1).or
        (s.reqs.zipIdx.find? fun x => s.candidate p bank x.1))).map (·.2) := by
  unfold State.bankChoice
  dsimp only
  refine ite_congr rfl (fun _ => rfl) fun _ => ?_
  have hfind (f : MReq × Nat → Bool) : (s.reqs.zipIdx.filter fun x => s.candidate p bank x.1).find? f =
      s.reqs.zipIdx.find? fun x => s.candidate p bank x.1 && f x := by
    rw [List.find?_filter]
    congr 1
    funext x
    simp
  have hhead : (s.reqs.zipIdx.filter fun x => s.candidate p bank x.1).head? = s.reqs.zipIdx.find? fun x => s.candidate p bank x.1 :=
    List.head?_filter
  refine (firstOf _ (fun x => x.1.promoted) fun x => s.hitsRow p bank x.1).trans ?_
  rw [← hhead, ← hfind fun x => x.1.promoted, ← hfind fun x => s.hitsRow p bank x.1]
  rfl

theorem State.bankChoice_none {s : State} {p : Pt} {bank : Nat} (h : s.bankChoice p bank = none) (hs : s.scrubFirst p bank = false) {x : MReq}
    (hx : x ∈ s.reqs) : s.candidate p bank x = false := by
  rw [State.bankChoice_eq, hs, if_neg Bool.false_ne_true] at h
  simp only [Option.map_eq_none_iff, Option.or_eq_none_iff] at h
  exact find?_zipIdx_none h.2.2 hx

theorem State.bankChoice_some {s : State} {p : Pt} {bank i : Nat} {q : MReq} (h : s.bankChoice p bank = some i) (hq : s.reqs[i]? = some q) :
    s.candidate p bank q = true ∧ ∀ (j : Nat) (x : MReq), s.reqs[j]? = some x → s.candidate p bank x = true →
      (x.promoted = true → q.promoted = true ∧ i ≤ j) ∧
      (q.promoted = false → s.hitsRow p bank x = true → s.hitsRow p bank q = true ∧ i ≤ j) ∧
      (q.promoted = false → s.hitsRow p bank q = false → i ≤ j) := by
  have hat {y : MReq × Nat} (e : y.2 = i) (hy : s.reqs[y.2]? = some y.1) : y.1 = q := by
    rw [e, hq] at hy
    exact (Option.some.inj hy).symm
  rw [State.bankChoice_eq] at h
  split at h
  · cases h
  obtain ⟨y, hy, e⟩ := Option.map_eq_some_iff.mp h
  rcases Option.or_eq_some_iff.mp hy with h1 | ⟨hno, hy⟩
  · obtain ⟨hmem, hf, hmin⟩ := find?_zipIdx_spec (f := fun x => s.candidate p bank x && x.promoted) h1
    obtain rfl := hat e hmem
    rw [Bool.and_eq_true] at hf
    refine ⟨hf.1, fun j x hj hx => ⟨fun hp => ⟨hf.2, ?_⟩, fun hp => ?_, fun hp => ?_⟩⟩
    · exact e ▸ hmin j x hj (by rw [hx, hp]; rfl)
    · rw [hf.2] at hp
      cases hp
    · rw [hf.2] at hp
      cases hp
  have hnot (j : Nat) (x : MReq) (hj : s.reqs[j]? = some x) (hx : s.candidate p bank x = true) : x.promoted = false := by
    have := find?_zipIdx_none (f := fun x => s.candidate p bank x && x.promoted) hno (List.mem_iff_getElem?.mpr ⟨j, hj⟩)
    rwa [hx, Bool.true_and] at this
  rcases Option.or_eq_some_iff.mp hy with h1 | ⟨hno', h1⟩
  · obtain ⟨hmem, hf, hmin⟩ := find?_zipIdx_spec (f := fun x => s.candidate p bank x && s.hitsRow p bank x) h1
    obtain rfl := hat e hmem
    rw [Bool.and_eq_true] at hf
    refine ⟨hf.1, fun j x hj hx => ⟨fun hp => ?_, fun _ hh => ⟨hf.2, ?_⟩, fun _ hh => ?_⟩⟩
    · rw [hnot j x hj hx] at hp
      cases hp
    · exact e ▸ hmin j x hj (by rw [hx, hh]; rfl)
    · rw [hf.2] at hh
      cases hh
  · obtain ⟨hmem, hf, hmin⟩ := find?_zipIdx_spec (f := s.candidate p bank) h1
    obtain rfl := hat e hmem
    refine ⟨hf, fun j x hj hx => ⟨fun hp => ?_, fun _ hh => ?_, fun _ _ => e ▸ hmin j x hj hx⟩⟩
    · rw [hnot j x hj hx] at hp
      cases hp
    · have := find?_zipIdx_none (f := fun x => s.candidate p bank x && s.hitsRow p bank x) hno' (List.mem_iff_getElem?.mpr ⟨j, hj⟩)
      rw [hx, hh] at this
      cases this

theorem exec_bankSchedule (p : Pt) (turn : BankTurn) (s : State) : exec (.bankSchedule p turn) s = execBankSchedule p turn s := rfl

/-- The state in which a chosen request's row is open and its charge is made (R402, R405, R406). -/
def State.scheduled (s : State) (p : Pt) (bank : Nat) (q : MReq) : State :=
  let v := s.onPart p fun x => { x with openRow := smSet x.openRow bank (s.rowOf q) }
  if v.credited p q then v.pay p q else v

theorem State.scheduled_reqs (s : State) (p : Pt) (bank : Nat) (q : MReq) : (s.scheduled p bank q).reqs = s.reqs := by
  unfold State.scheduled
  dsimp only
  split
  · rfl
  · rfl

theorem bankSchedule_of_idle {s : State} {p : Pt} {turn : BankTurn} (h : (s.part p).awake = false ∨ s.bankChoice p turn.bank.toNat = none) :
    exec (.bankSchedule p turn) s = .next s := by
  rw [exec_bankSchedule]
  unfold execBankSchedule
  dsimp only
  by_cases ha : (s.part p).awake = true
  · rw [if_neg (by rw [ha]; decide), h.resolve_left (by rw [ha]; decide)]
  · exact if_pos (by simpa using ha)

section
variable {s : State} {p : Pt} {turn : BankTurn} {i : Nat} {q : MReq} (ha : (s.part p).awake = true) (hc : s.bankChoice p turn.bank.toNat = some i)
  (hq : s.reqs[i]? = some q)
include ha hc hq

theorem bankSchedule_of_write (hw : q.writes ≠ []) : exec (.bankSchedule p turn) s = .next (State.settleWrites
    { q.also.foldl (fun v c => v.onPart p (·.charge c 128)) (s.scheduled p turn.bank.toNat q) with reqs := s.reqs.eraseIdx i } p q turn.found) := by
  have hread : q.isRead = false := by simpa [MReq.isRead] using hw
  rw [exec_bankSchedule]
  unfold execBankSchedule
  dsimp only
  rw [if_neg (by rw [ha]; decide), hc]
  dsimp only
  rw [hq]
  dsimp only
  rw [if_neg (by rw [hread]; decide)]
  rfl

theorem bankSchedule_of_read (hw : q.writes = []) :
    let goes (x : MReq) : Bool := x.isRead && x.line == q.line && decide (x.state = .sorted) && !x.parked
    exec (.bankSchedule p turn) s = .next { ((s.reqs.eraseIdx i).filter goes).foldl (fun v x => v.pay p x) (s.scheduled p turn.bank.toNat q) with
      reqs := s.reqs.map fun x => if goes x then { x with state := .issued } else x } := by
  intro goes
  have hread : q.isRead = true := by simpa [MReq.isRead] using hw
  have hreqs : (((s.reqs.eraseIdx i).filter goes).foldl (fun v x => v.pay p x) (s.scheduled p turn.bank.toNat q)).reqs = s.reqs :=
    foldl_keeps (f := fun (v : State) x => v.pay p x) (q := fun t : State => t.reqs = s.reqs) (fun t x h => h) _ (s.scheduled_reqs p turn.bank.toNat q)
  rw [exec_bankSchedule]
  unfold execBankSchedule
  dsimp only
  rw [if_neg (by rw [ha]; decide), hc]
  dsimp only
  rw [hq]
  dsimp only
  rw [if_pos hread]
  exact congrArg (fun l : List MReq => Host.Outcome.next { ((s.reqs.eraseIdx i).filter goes).foldl (fun v x => v.pay p x)
    (s.scheduled p turn.bank.toNat q) with reqs := l.map fun x => if goes x then { x with state := .issued } else x }) hreqs

end

theorem bankSchedules : Claim.BankSchedules := by
  refine ⟨MReq.charge_eq, Part.charge_credits, fun p turn s => ?_⟩
  intro bank
  refine ⟨bankSchedule_of_idle, fun hc hs x hx hb => ?_, fun hs => ?_, fun i q ha hc hq => ?_⟩
  · have := State.bankChoice_none hc hs hx
    rw [State.candidate, hb] at this
    simpa using this
  · rw [State.bankChoice_eq, if_pos hs]
  · intro hit v pay first
    have hhit (x : MReq) : hit x ↔ s.hitsRow p bank x = true := by
      rw [State.hitsRow, beq_iff_eq]
      exact eq_comm
    obtain ⟨hcand, hmin⟩ := State.bankChoice_some hc hq
    obtain ⟨hb, he⟩ := State.candidate_iff.mp hcand
    refine ⟨⟨hb, he, fun j x hj hxb hxe => ?_⟩, fun hw => bankSchedule_of_write ha hc hq hw, fun hw => bankSchedule_of_read ha hc hq hw⟩
    obtain ⟨h1, h2, h3⟩ := hmin j x hj (State.candidate_iff.mpr ⟨hxb, hxe⟩)
    rw [hhit, hhit]
    exact ⟨h1, h2, fun hp hn => h3 hp (by simpa using hn)⟩

/-! ### Writes that go to memory (R394, R414) -/

theorem wrongSymbols_self (word : List Byte) : wrongSymbols word word = [] := by
  unfold wrongSymbols
  rw [List.map_eq_nil_iff, List.filter_eq_nil_iff]
  intro x hx
  have hz := List.fst_mem_of_mem_zipIdx hx
  have : x.1.1 = x.1.2 := by
    obtain ⟨i, hi, e⟩ := List.getElem_of_mem hz
    rw [← e, List.getElem_zip]
  simp [this]

theorem Erased.symbols_length (e : Erased) : e.symbols.length ≤ 2 := by
  unfold Erased.symbols
  split
  · split
    · simp
    · simp
  · split
    · simp
    · simp

theorem checkSector_nil (e : Erased) : checkSector e [] = .fine := by
  have h := e.symbols_length
  unfold checkSector
  dsimp only [List.filter_nil, List.eraseDups_nil, List.length_nil]
  rw [if_neg (by omega)]
  rfl

/-- A sector without errors that was not marked comes back as it was (R411). -/
theorem State.readSector_fine (s : State) (p : Pt) (line o : Nat) {e : MemError} (he : e.symbols = []) (hl : p.val < 12 ∨ e.link < 2) (fresh : Bool)
    (data : BitVec 2048) (k : Fin 8) : s.readSector p line o e false fresh data k = (s, data, false) := by
  unfold State.readSector
  dsimp only
  by_cases hp : p.val < 12
  · rw [if_pos hp, he]
    have hword : withErrors (codeword data k.val) (([] : List (Fin 8 × Fin 36 × Byte)).map fun x => (x.2.1.val, x.2.2)) = codeword data k.val := rfl
    rw [List.filter_nil, hword, wrongSymbols_self, if_neg Bool.false_ne_true, checkSector_nil]
  · rw [if_neg hp, if_neg (by have := hl.resolve_left hp; omega)]

/-- A marked sector of HBM is uncorrectable whatever memory returns (R413). -/
theorem State.readSector_marked (s : State) {p : Pt} (hp : p.val < 12) (line o : Nat) (e : MemError) (fresh : Bool) (data : BitVec 2048) (k : Fin 8) :
    ∃ d, s.readSector p line o e true fresh data k = (s.markSector p (o + 32 * k.val) (line / 32 + k.val) fresh, d, true) := by
  unfold State.readSector
  dsimp only
  rw [if_pos hp]
  exact ⟨_, rfl⟩

theorem State.settleWrite_of_whole {s : State} {p : Pt} {q : MReq} {e : MemError} {w : SecWrite} (h : 12 ≤ p.val ∨ w.mask = BitVec.allOnes 32) :
    s.settleWrite p q e w = s := if_pos h

theorem State.settleWrite_of_clean {s : State} {p : Pt} {q : MReq} {e : MemError} {w : SecWrite} (hp : p.val < 12) (he : e.symbols = [])
    (hd : q.drops.contains w.sector = false) (hu : s.mem.ue.contains (q.line / 32 + w.sector.val) = false) : s.settleWrite p q e w = s := by
  have hread : s.readForWrite p q e w = (s, false) := by
    unfold State.readForWrite
    dsimp only
    split
    · rw [hd, hu, Bool.or_self, State.readSector_fine _ _ _ _ he (.inl hp)]
    · rfl
  unfold State.settleWrite
  split
  · rfl
  · rw [hread]
    rfl

theorem State.settleWrite_of_dropped {s : State} {p : Pt} {q : MReq} {e : MemError} {w : SecWrite} (hp : p.val < 12) (hm : w.mask ≠ BitVec.allOnes 32)
    (hd : q.drops.contains w.sector = true) {o k : Nat} (hq : s.partAt q.line = some (p, o))
    (hn : s.partAt (32 * (q.line / 32 + w.sector.val)) = some (p, k)) :
    (∀ a, (s.settleWrite p q e w).mem.get a = s.mem.get a) ∧ ((s.settleWrite p q e w).part p).ecc.getLsbD 1 = true ∧
      ((s.settleWrite p q e w).part p).ecc.getLsbD 2 = true := by
  obtain ⟨fresh, hread⟩ : ∃ fresh, s.readForWrite p q e w =
      (s.markSector p (o + 32 * w.sector.val) (q.line / 32 + w.sector.val) fresh, true) := by
    unfold State.readForWrite
    dsimp only
    rw [hq, hd, Bool.true_or]
    dsimp only
    obtain ⟨d, h⟩ := s.readSector_marked hp q.line o e (!s.reqs.any fun x => x.line == q.line && x.writes.any fun y =>
      y.sector == w.sector && y.mask == BitVec.allOnes 32) 0 w.sector
    exact ⟨_, by rw [h]⟩
  have hsettle : s.settleWrite p q e w =
      (s.markSector p (o + 32 * w.sector.val) (q.line / 32 + w.sector.val) fresh).dropWrite (q.line / 32 + w.sector.val) := by
    unfold State.settleWrite
    rw [if_neg (by rintro (h | h); exacts [Nat.not_le.mpr hp h, hm h]), hread]
    dsimp only
    rw [if_pos rfl, if_pos hd]
  generalize hu : s.markSector p (o + 32 * w.sector.val) (q.line / 32 + w.sector.val) fresh = u at hsettle
  have hglob : u.glob = s.glob := by
    rw [← hu]
    exact s.markSector_glob p _ _ fresh
  have hbytes : u.mem.cells = s.mem.cells ∧ u.mem.fills = s.mem.fills := by
    rw [← hu]
    exact s.markSector_bytes p _ _ fresh
  have hbit : (u.part p).ecc.getLsbD 1 = true := by
    rw [← hu]
    exact s.markSector_ecc p _ _ fresh
  obtain ⟨hmem, hecc⟩ := State.dropWrite_spec ((State.partAt_of_glob hglob _).trans hn)
  rw [hsettle, hmem, hecc]
  refine ⟨fun a => ?_, ?_, ?_⟩
  · simp only [Memory.get, hbytes.1, hbytes.2]
  · rw [BitVec.getLsbD_or, hbit, Bool.true_or]
  · rw [BitVec.getLsbD_or]
    simp

theorem writesSettle : Claim.WritesSettle := fun _ _ _ _ _ =>
  ⟨State.settleWrite_of_whole, fun hp hm => ⟨fun he hd hu => State.settleWrite_of_clean hp he hd hu,
    fun _ _ hd hq hn => State.settleWrite_of_dropped hp hm hd hq hn⟩⟩

/-! ### Lines that memory has read (R397, R398, R411, R413) -/

theorem exec_memoryReadReturn (p : Pt) (e : MemError) (s : State) : exec (.memoryReadReturn p e) s = execMemoryReadReturn p e s := rfl

theorem foldl_or_zero {l : List MReq} (h : ∀ x ∈ l, x.marks = 0) : l.foldl (fun m x => m ||| x.marks) (0 : BitVec 8) = 0 :=
  foldl_keeps_mem (q := (· = 0)) (fun b x hx hb => by rw [hb, h x hx]; rfl) rfl

/-- A line without an error, none of whose sectors was marked, comes back as it was fixed. -/
theorem State.readLine_fine (s : State) (p : Pt) (line : Nat) {e : MemError} (he : e.symbols = []) (hl : e.link < 2) (sectors rewritten : BitVec 8)
    (data : BitVec 2048) : s.readLine p line e sectors 0 rewritten data = (s, data, []) := by
  unfold State.readLine
  split
  · rfl
  · refine foldl_keeps (q := (· = (s, data, []))) (fun a k ha => ?_) _ rfl
    subst ha
    split
    · rw [show (0 : BitVec 8).getLsbD k.val = false by simp, State.readSector_fine _ _ _ _ he (.inr hl)]
      rfl
    · rfl

theorem readsReturn : Claim.ReadsReturn := by
  refine fun p e s => ⟨fun h => ?_, fun q hq => ?_⟩
  · rw [exec_memoryReadReturn]
    unfold execMemoryReadReturn
    rw [h]
  · intro mine readers out
    refine ⟨?_, fun he hl hm => ?_⟩
    · rw [exec_memoryReadReturn]
      unfold execMemoryReadReturn
      rw [hq] <;> rfl
    · change s.readLine p q.line e _ (readers.foldl (fun m x => m ||| x.marks) 0) _ q.data = _
      rw [foldl_or_zero hm]
      exact s.readLine_fine p q.line he hl _ _ q.data

/-- Settles O34: the choice of a bank, the writes it sends, the lines that return. -/
theorem banksAndReturns : Obligations.BanksAndReturns := ⟨bankSchedules, writesSettle, readsReturn⟩

/-! ### What a port sends (R426 to R429, R441) -/

theorem Fabric.onLink_onLink (f : Fabric) (p : FPort) (g h : Port → Port) : (f.onLink p g).onLink p h = f.onLink p fun q => h (g q) := by
  have e : (f.ports.set p (g f.ports[p])).set p (h (f.ports.set p (g f.ports[p]))[p]) = f.ports.set p (h (g f.ports[p])) := by simp
  exact congrArg (fun x => { f with ports := x }) e

theorem State.onFab_onFab (s : State) (f g : Fabric → Fabric) : (s.onFab f).onFab g = s.onFab fun x => g (f x) := rfl

/-- A packet that a port may send of a VC (R441). -/
def Fabric.sendable (f : Fabric) (p : FPort) (vc : Nat) (w : Waiting) : Bool :=
  w.output == p && w.packet.vc == vc && f.ports[p].credit (bufClass vc (f.dlOut w.input p w.packet))

theorem Fabric.sendable_iff {f : Fabric} {p : FPort} {vc : Nat} {w : Waiting} : f.sendable p vc w = true ↔
    w.output = p ∧ w.packet.vc = vc ∧ f.ports[p].credit (bufClass vc (f.dlOut w.input p w.packet)) = true := by
  simp [Fabric.sendable, and_assoc]

theorem Fabric.pickIn_some {f : Fabric} {p : FPort} {vc i turn : Nat} {w : Waiting} (h : f.pickIn p vc = some (i, turn))
    (hw : f.waiting[i]? = some w) : f.sendable p vc w = true := by
  obtain ⟨t, -, ht⟩ := List.exists_of_findSome?_eq_some h
  obtain ⟨x, hx, e⟩ := Option.map_eq_some_iff.mp ht
  obtain ⟨rfl, rfl⟩ := Prod.mk.inj e
  obtain ⟨hmem, hs⟩ := List.mem_filter.mp (List.mem_of_find?_eq_some hx)
  have := List.mem_zipIdx_iff_getElem?.mp hmem
  rw [hw] at this
  rw [Option.some.inj this]
  exact hs

/-- Every turn of a VC is tried. -/
theorem turn_mem (r t : Nat) (h : t < 18) : t ∈ (List.range 18).map fun k => (r + 1 + k) % 18 := by
  refine List.mem_map.mpr ⟨(t + 18 - (r + 1) % 18) % 18, List.mem_range.mpr (by omega), ?_⟩
  omega

theorem Fabric.pickIn_none {f : Fabric} {p : FPort} {vc : Nat} (h : f.pickIn p vc = none) {w : Waiting} (hw : w ∈ f.waiting) (hi : w.input ≤ 8) :
    f.sendable p vc w = false := by
  by_contra hs
  have hs : f.sendable p vc w = true := by simpa using hs
  obtain ⟨j, hj⟩ := zipIdx_of_mem hw
  have hturn : w.turn < 18 := by
    unfold Waiting.turn b2n
    split
    · omega
    · omega
  have hno := List.findSome?_eq_none_iff.mp h w.turn (turn_mem _ _ hturn)
  have := List.find?_eq_none.mp (Option.map_eq_none_iff.mp hno) (w, j) (List.mem_filter.mpr ⟨hj, hs⟩)
  simp at this

/-- The response VC goes before every other (R441). -/
theorem Fabric.pick_some {f : Fabric} {p : FPort} {vc i turn : Nat} (h : f.pick p = some (vc, i, turn)) :
    f.pickIn p vc = some (i, turn) ∧ (vc ≠ 1 → f.pickIn p 1 = none) := by
  unfold Fabric.pick at h
  split at h
  next x hx =>
    obtain ⟨rfl, rfl⟩ := Prod.mk.inj (Option.some.inj h)
    exact ⟨hx, fun hn => absurd rfl hn⟩
  next hno =>
    obtain ⟨v, -, hv⟩ := List.exists_of_findSome?_eq_some h
    obtain ⟨x, hx, e⟩ := Option.map_eq_some_iff.mp hv
    obtain ⟨rfl, rfl⟩ := Prod.mk.inj e
    exact ⟨hx, fun _ => hno⟩

theorem exec_portSlotSend (p : FPort) (s : State) : exec (.portSlotSend p) s = execPortSlotSend p s := rfl
theorem exec_linkControlSend (p : FPort) (s : State) : exec (.linkControlSend p) s = execLinkControlSend p s := rfl

theorem portSlotSend_of_dead {p : FPort} {s : State} (h : (s.link p).live = false) : exec (.portSlotSend p) s = .next s := by
  rw [exec_portSlotSend]
  exact if_pos (by rw [h]; rfl)

theorem Port.live_of_up {q : Port} (h : q.link = .up) : q.live = true := by simp [Port.live, h]

theorem portSlotSend_of_fenced {p : FPort} {s : State} (h : (s.link p).link = .remoteFenced) :
    exec (.portSlotSend p) s = .next (s.onFab (·.onLink p Port.idle)) := by
  have hlive : (s.link p).live = true := by simp [Port.live, h]
  rw [exec_portSlotSend]
  unfold execPortSlotSend
  dsimp only
  rw [hlive, if_neg (by decide), if_pos (by rw [h]; decide)]

theorem portSlotSend_of_up {p : FPort} {s : State} (h : (s.link p).link = .up) : exec (.portSlotSend p) s =
    if (s.link p).resend ≠ 0 then
      match (s.link p).replay[(s.link p).replay.length - (s.link p).resend]? with
      | some k => .next (s.onFab (·.onLink p fun q => { q.send k with resend := q.resend - 1 }))
      | none => .next (s.onFab (·.onLink p Port.idle))
    else if 2048 ≤ (s.link p).replay.length then .next (s.onFab (·.onLink p Port.idle))
    else match (if s.fab.valid then s.fab.pick p else none) with
      | none => .next (s.onFab (·.onLink p Port.idle))
      | some (vc, i, turn) =>
        match s.fab.waiting[i]? with
        | none => .next (s.onFab (·.onLink p Port.idle))
        | some w =>
          .next (s.onFab fun f =>
            (({ f with waiting := f.waiting.eraseIdx i } : Fabric).leave w.input w.slot w.packet).onLink p fun q =>
              { q.send (w.packet.withDl (s.fab.dlOut w.input p w.packet)) with
                txNext := q.txNext + 1, replay := q.replay ++ [w.packet.withDl (s.fab.dlOut w.input p w.packet)]
                used := q.used.set! (bufClass vc (s.fab.dlOut w.input p w.packet)) (q.used.getD (bufClass vc (s.fab.dlOut w.input p w.packet)) 0 + 1)
                rr := q.rr.set! vc turn, rrVc := if vc = 1 then q.rrVc else if vc = 0 then 0 else vc - 1 }) := by
  rw [exec_portSlotSend]
  unfold execPortSlotSend
  dsimp only
  rw [Port.live_of_up h, if_neg (by decide), if_neg (by rw [h]; decide)] <;> rfl

/-- Whether data waits at a port or goes again (R426). -/
def State.dataLoad (s : State) (p : FPort) : Prop :=
  (s.link p).link = .up ∧ ((∃ w ∈ s.fab.waiting, w.output = p) ∨ (s.link p).resend ≠ 0)

theorem linkControlSend_spec {p : FPort} {s : State} :
    (((s.link p).live = false ∨ (s.dataLoad p ∧ (s.link p).ctlSlots < 63)) → exec (.linkControlSend p) s = .next s) ∧
    (¬ ((s.link p).live = false ∨ (s.dataLoad p ∧ (s.link p).ctlSlots < 63)) → exec (.linkControlSend p) s = .next (s.onFab (·.sendControl p))) := by
  have e : (!(s.link p).live || (decide ((s.link p).link = .up) && (s.fab.waiting.any (fun w => w.output == p) || decide ((s.link p).resend ≠ 0)) &&
      decide ((s.link p).ctlSlots < 63))) = true ↔ (s.link p).live = false ∨ (s.dataLoad p ∧ (s.link p).ctlSlots < 63) := by
    simp only [Bool.or_eq_true, Bool.not_eq_true', Bool.and_eq_true, decide_eq_true_eq, List.any_eq_true, beq_iff_eq, State.dataLoad]
  exact ⟨fun h => if_pos (e.mpr h), fun h => if_neg fun hc => h (e.mp hc)⟩

theorem portSends : Claim.PortSends := by
  intro p s l
  refine ⟨portSlotSend_of_dead, fun h => ?_, fun hup hr k hk => ?_, fun hup hr hlen => ⟨fun h => ?_, fun vc i turn w hv hpick hw => ?_⟩, ?_⟩
  · rcases h with h | ⟨hup, hr, hlen⟩
    · exact portSlotSend_of_fenced h
    · exact (portSlotSend_of_up hup).trans ((if_neg (not_not.mpr hr)).trans (if_pos hlen))
  · refine (portSlotSend_of_up hup).trans ((if_pos hr).trans ?_)
    rw [hk]
  · have hnone : (if s.fab.valid then s.fab.pick p else none) = none := by
      rcases h with h | h
      · rw [h]
        rfl
      · rw [h, ite_self]
    refine (portSlotSend_of_up hup).trans ((if_neg (not_not.mpr hr)).trans ((if_neg (Nat.not_le.mpr hlen)).trans ?_))
    rw [hnone] <;> rfl
  · intro k c
    obtain ⟨hin, hno⟩ := Fabric.pick_some hpick
    obtain ⟨hout, hvc, hcredit⟩ := Fabric.sendable_iff.mp (Fabric.pickIn_some hin hw)
    refine ⟨?_, hout, hvc, hcredit, fun x hx hxo hxv hxi hxc => ?_⟩
    · refine (portSlotSend_of_up hup).trans ((if_neg (not_not.mpr hr)).trans ((if_neg (Nat.not_le.mpr hlen)).trans ?_))
      rw [hv, if_pos rfl, hpick]
      dsimp only
      rw [hw] <;> rfl
    · by_contra hne
      have := Fabric.pickIn_none (hno hne) hx hxi
      rw [Fabric.sendable_iff.mpr ⟨hxo, hxv, hxc⟩] at this
      cases this
  · intro busy
    refine ⟨fun hlive h => linkControlSend_spec.2 ?_, fun h => linkControlSend_spec.1 (h.imp_right And.symm)⟩
    rintro (hd | ⟨hb, hs⟩)
    · rw [show (s.link p).live = true from hlive] at hd
      cases hd
    · rcases h with h | h
      · exact absurd hs (Nat.not_lt.mpr h)
      · exact h hb

/-! ### What a port does with what it receives (R427 to R430) -/

theorem exec_packetReceive (p : FPort) (rx : RxPacket) (s : State) : exec (.packetReceive p rx) s = execPacketReceive p rx s := rfl
theorem exec_linkControlReceive (p : FPort) (rx : RxPacket) (s : State) : exec (.linkControlReceive p rx) s = execLinkControlReceive p rx s := rfl

theorem Port.fec_rest (q : Port) (rx : RxPacket) :
    q.fec rx = { q with fecCorr := (q.fec rx).fecCorr, most := (q.fec rx).most, fecUncorr := (q.fec rx).fecUncorr } := by
  unfold Port.fec
  dsimp only
  split
  · split
    · rfl
    · rfl
  · split
    · rfl
    · rfl

/-- What an acknowledgement of a link-control packet leaves of a replay buffer (R427). -/
def Port.unacked (q : Port) (seq : BitVec 16) : List Packet :=
  if (seq - (q.txNext - BitVec.ofNat 16 q.replay.length)).toNat ≤ q.replay.length
    then q.replay.drop (seq - (q.txNext - BitVec.ofNat 16 q.replay.length)).toNat else q.replay

theorem Port.acked_rest (q : Port) (seq : BitVec 16) : q.acked seq = { q with replay := q.unacked seq, resend := (q.acked seq).resend } := by
  unfold Port.acked Port.unacked
  dsimp only
  split
  · rfl
  · rfl

/-- How many NAKs in a row have named a packet (R429). -/
def Port.naks (q : Port) (seq : BitVec 16) : Nat := if q.nakRun ≠ 0 ∧ q.nakSeq = seq then q.nakRun + 1 else 1

/-- A port after a good link-control packet, but for what the packet's flags lead to beyond it. -/
def Port.controlled (q : Port) (k : Packet) : Port :=
  let seq := BitVec.ofNat 16 (k.pf 0 2)
  let r := { q.acked seq with credits := creditsOf k }
  let r := if k.pf 2 1 % 2 = 1 then r.nak seq else { r with nakRun := 0 }
  { r with link := if k.pf 2 1 / 2 % 2 = 1 then .remoteFenced else .up }

section
variable (q : Port) (k : Packet)

theorem Port.controlled_link : (q.controlled k).link = if k.pf 2 1 / 2 % 2 = 1 then .remoteFenced else .up := rfl

theorem Port.controlled_replay : (q.controlled k).replay = q.unacked (BitVec.ofNat 16 (k.pf 0 2)) := by
  have h := q.acked_rest (BitVec.ofNat 16 (k.pf 0 2))
  unfold Port.controlled
  dsimp only
  split
  · exact (congrArg Port.replay h :)
  · exact (congrArg Port.replay h :)

theorem Port.controlled_down : (q.controlled k).down = q.down := by
  have h := q.acked_rest (BitVec.ofNat 16 (k.pf 0 2))
  unfold Port.controlled
  dsimp only
  split
  · exact (congrArg Port.down h :)
  · exact (congrArg Port.down h :)

theorem Port.controlled_credits : (q.controlled k).credits = creditsOf k := by
  unfold Port.controlled
  dsimp only
  split
  · rfl
  · rfl

variable {q k}

theorem Port.controlled_nakRun_of_ack (h : k.pf 2 1 % 2 = 0) : (q.controlled k).nakRun = 0 := by
  unfold Port.controlled
  dsimp only
  rw [if_neg (by omega)]

theorem Port.controlled_of_nak (h : k.pf 2 1 % 2 = 1) :
    (q.controlled k).nakRun = q.naks (BitVec.ofNat 16 (k.pf 0 2)) ∧ (q.controlled k).nakSeq = BitVec.ofNat 16 (k.pf 0 2) ∧
      (q.controlled k).resend = (q.controlled k).replay.length ∧ (q.controlled k).retry = q.retry + 1 := by
  have ha := q.acked_rest (BitVec.ofNat 16 (k.pf 0 2))
  unfold Port.controlled
  dsimp only
  rw [if_pos h]
  refine ⟨?_, rfl, rfl, ?_⟩
  · unfold Port.nak Port.naks
    dsimp only
    rw [ha]
  · exact (congrArg (fun r : Port => r.retry + 1) ha :)

end

/-- The state in which a link-control packet has taken effect at its port. -/
def State.controlled (s : State) (p : FPort) (k : Packet) : State :=
  let t := s.onFab (·.onLink p fun _ => (s.link p).controlled k)
  if k.pf 2 1 % 2 = 1 then t.onHlt fun h => { h with rise := { h.rise with retries := h.rise.retries + 1 } } else t

theorem State.controlled_fab (s : State) (p : FPort) (k : Packet) : (s.controlled p k).fab = s.fab.onLink p fun _ => (s.link p).controlled k := by
  unfold State.controlled
  dsimp only
  split
  · rfl
  · rfl

theorem State.controlled_link (s : State) (p : FPort) (k : Packet) : (s.controlled p k).link p = (s.link p).controlled k := by
  unfold State.link
  rw [State.controlled_fab, Fabric.onLink_self]
  rfl

theorem State.controlled_log (s : State) (p : FPort) (k : Packet) :
    (s.controlled p k).evtSeq = s.evtSeq ∧ (s.controlled p k).events = s.events := by
  unfold State.controlled
  dsimp only
  split
  · exact ⟨rfl, rfl⟩
  · exact ⟨rfl, rfl⟩

theorem State.linkControl_eq (s : State) (p : FPort) (k : Packet) : s.linkControl p k =
    if 8 ≤ ((s.link p).controlled k).nakRun then (s.controlled p k).linkDown p
    else if k.pf 2 1 / 2 % 2 = 1 then (s.controlled p k).onFab (·.dropWaiting p) else s.controlled p k := rfl

/-- The port of a packet with the packet's FEC counted (R468). -/
def State.fecCounted (s : State) (p : FPort) (rx : RxPacket) : State := s.onFab (·.onLink p (·.fec rx))

theorem State.fecCounted_link (s : State) (p : FPort) (rx : RxPacket) : (s.fecCounted p rx).link p = (s.link p).fec rx := Fabric.onLink_self _ _ _

theorem State.controlled_onLink (s : State) (p : FPort) (rx : RxPacket) (q : Port) :
    (s.fecCounted p rx).fab.onLink p (fun _ => q) = s.fab.onLink p fun _ => q := s.fab.onLink_onLink p (·.fec rx) fun _ => q

/-- What a good link-control packet leads to. -/
structure Controls (p : FPort) (k : Packet) (q : Port) (s t : State) : Prop where
  ack : k.pf 2 1 % 4 = 0 → t = { s with fab := s.fab.onLink p fun _ => t.link p } ∧ (t.link p).link = .up ∧ (t.link p).nakRun = 0 ∧
    (t.link p).replay = q.unacked (BitVec.ofNat 16 (k.pf 0 2)) ∧ (t.link p).credits = creditsOf k
  nak : k.pf 2 1 % 4 = 1 → q.naks (BitVec.ofNat 16 (k.pf 0 2)) < 8 → (t.link p).link = .up ∧
    (t.link p).nakRun = q.naks (BitVec.ofNat 16 (k.pf 0 2)) ∧ (t.link p).nakSeq = BitVec.ofNat 16 (k.pf 0 2) ∧
    (t.link p).replay = q.unacked (BitVec.ofNat 16 (k.pf 0 2)) ∧ (t.link p).resend = (q.unacked (BitVec.ofNat 16 (k.pf 0 2))).length ∧
    (t.link p).retry = q.retry + 1
  lost : k.pf 2 1 % 2 = 1 → 8 ≤ q.naks (BitVec.ofNat 16 (k.pf 0 2)) → (t.link p).link = .down ∧ (t.link p).replay = [] ∧
    (t.link p).down = q.down + 1 ∧ Logged s t 0x20 [BitVec.ofNat 64 p.val]
  fenced : 2 ≤ k.pf 2 1 % 4 → k.pf 2 1 % 2 = 0 ∨ q.naks (BitVec.ofNat 16 (k.pf 0 2)) < 8 → (t.link p).link = .remoteFenced ∧
    ∀ w ∈ t.fab.waiting, w.output ≠ p

theorem State.linkControl_controls (s : State) (p : FPort) (k : Packet) : Controls p k (s.link p) s (s.linkControl p k) := by
  have hlink := s.controlled_link p k
  have hkeep (h : ((s.link p).controlled k).nakRun < 8) (hf : k.pf 2 1 / 2 % 2 = 0) : s.linkControl p k = s.controlled p k := by
    rw [State.linkControl_eq, if_neg (by omega), if_neg (by omega)]
  constructor
  · intro h
    have hrun := Port.controlled_nakRun_of_ack (q := s.link p) (k := k) (by omega)
    rw [hkeep (by rw [hrun]; decide) (by omega), hlink]
    refine ⟨?_, ?_, hrun, Port.controlled_replay _ _, Port.controlled_credits _ _⟩
    · unfold State.controlled
      dsimp only
      rw [if_neg (by omega)]
      rfl
    · rw [Port.controlled_link, if_neg (by omega)]
  · intro h hn
    obtain ⟨hrun, hseq, hre, hretry⟩ := Port.controlled_of_nak (q := s.link p) (k := k) (by omega)
    rw [hkeep (by rw [hrun]; exact hn) (by omega), hlink]
    refine ⟨?_, hrun, hseq, Port.controlled_replay _ _, ?_, hretry⟩
    · rw [Port.controlled_link, if_neg (by omega)]
    · rw [hre, Port.controlled_replay]
  · intro h hn
    obtain ⟨hrun, -, -, -⟩ := Port.controlled_of_nak (q := s.link p) (k := k) h
    have hne : ((s.controlled p k).link p).link ≠ .down := by
      rw [hlink, Port.controlled_link]
      split
      · decide
      · decide
    obtain ⟨g, ht, hr, -⟩ := State.linkDown_of_ne hne
    have hp := hr.ports p
    rw [Fabric.flag_ports, Fabric.onLink_self] at hp
    have hdown : (Port.lowered (s.controlled p k).fab.ports[p]).down = (s.link p).down + 1 := by
      rw [← Port.controlled_down (s.link p) k, ← hlink]
      rfl
    rw [State.linkControl_eq, if_pos (by rw [hrun]; exact hn), ht]
    obtain ⟨hseq, hevents⟩ := s.controlled_log p k
    refine ⟨?_, ?_, ?_, (State.event_logged ({ s.controlled p k with fab := g } : State) _ _ _ _).congr hseq.symm rfl rfl⟩
    · change g.ports[p].link = _
      rw [hp]
      rfl
    · change g.ports[p].replay = _
      rw [hp]
      rfl
    · change g.ports[p].down = _
      rw [hp]
      exact hdown
  · intro h hn
    have hrun : ((s.link p).controlled k).nakRun < 8 := by
      by_cases hodd : k.pf 2 1 % 2 = 1
      · rw [(Port.controlled_of_nak hodd).1]
        exact hn.resolve_left (by omega)
      · rw [Port.controlled_nakRun_of_ack (by omega)]
        decide
    have hfenced : ((s.controlled p k).link p).link = .remoteFenced := by
      rw [hlink, Port.controlled_link, if_pos (by omega)]
    rw [State.linkControl_eq, if_neg (by omega), if_pos (by omega)]
    obtain ⟨hr, hw⟩ := (s.controlled p k).fab.dropWaiting_routes p
    refine ⟨(hr.link p).trans hfenced, hw ?_⟩
    unfold Fabric.up
    rw [show (s.controlled p k).fab.ports[p].link = .remoteFenced from hfenced]
    rfl

/-- The FEC of a packet does not change what its link control leads to. -/
theorem Controls.of_fec {p : FPort} {rx : RxPacket} {k : Packet} {s t : State} (h : Controls p k ((s.link p).fec rx) (s.fecCounted p rx) t) :
    Controls p k (s.link p) s t := by
  have hfec := (s.link p).fec_rest rx
  generalize (s.link p).fec rx = q at h hfec
  have hun (seq : BitVec 16) : q.unacked seq = (s.link p).unacked seq := by
    rw [hfec]
    rfl
  have hnaks (seq : BitVec 16) : q.naks seq = (s.link p).naks seq := by
    rw [hfec]
    rfl
  have hretry : q.retry = (s.link p).retry := by rw [hfec]
  have hdown : q.down = (s.link p).down := by rw [hfec]
  obtain ⟨h1, h2, h3, h4⟩ := h
  simp only [hun, hnaks, hretry, hdown] at h1 h2 h3 h4
  refine ⟨fun hf => ?_, h2, fun hf hn => ?_, h4⟩
  · obtain ⟨he, hrest⟩ := h1 hf
    rw [State.controlled_onLink] at he
    exact ⟨he, hrest⟩
  · obtain ⟨ha, hb, hc, hd⟩ := h3 hf hn
    exact ⟨ha, hb, hc, hd.congr rfl rfl rfl⟩

theorem packetReceive_of_live {p : FPort} {rx : RxPacket} {s : State} (h : (s.link p).live = true) : exec (.packetReceive p rx) s =
    if !rx.good then .next ((s.fecCounted p rx).onFab (·.onLink p fun q => { q with discard := true }))
    else if rx.packet.type = 0xE then .next ((s.fecCounted p rx).linkControl p rx.packet)
    else if (s.link p).discard && !rx.replayed then .next (s.fecCounted p rx)
    else
      let t := (s.fecCounted p rx).onFab (·.takeData p rx.packet)
      .next (if 64 ≤ (t.link p).sinceCtl then t.onFab (·.sendControl p) else t) := by
  rw [exec_packetReceive]
  exact if_neg (by rw [h]; decide)

theorem linkControlReceive_of_live {p : FPort} {rx : RxPacket} {s : State} (h : (s.link p).live = true) : exec (.linkControlReceive p rx) s =
    if rx.good && rx.packet.type == 0xE then .next ((s.fecCounted p rx).linkControl p rx.packet) else .next (s.fecCounted p rx) := by
  rw [exec_linkControlReceive]
  exact if_neg (by rw [h]; decide)

/-- A good packet that is in order is numbered, and enters the router or, where that is closed, is dropped (R428, R430, R435). -/
theorem Fabric.takeData_fec (f : Fabric) (p : FPort) (rx : RxPacket) (k : Packet) :
    (f.onLink p (·.fec rx)).takeData p k =
      let g := f.onLink p fun q => { q.fec rx with discard := false, rxNext := q.rxNext + 1, sinceCtl := q.sinceCtl + 1 }
      if f.closed then g.noRoute.freeBuffer p.val k else (g.onLink p fun q => { q with rx := q.rx + 1 }).enter p.val k := by
  have e : (f.onLink p (·.fec rx)).onLink p (fun q => { q with discard := false, rxNext := q.rxNext + 1, sinceCtl := q.sinceCtl + 1 }) =
      f.onLink p fun q => { q.fec rx with discard := false, rxNext := q.rxNext + 1, sinceCtl := q.sinceCtl + 1 } := by
    rw [Fabric.onLink_onLink]
    refine congrArg (f.onLink p) (funext fun q => ?_)
    have h := q.fec_rest rx
    generalize q.fec rx = r at h ⊢
    rw [h]
  unfold Fabric.takeData
  rw [e]
  rfl

theorem Fabric.freeBuffer_noroute (f : Fabric) (input : Nat) (k : Packet) : (f.freeBuffer input k).noroute = f.noroute := by
  unfold Fabric.freeBuffer
  split
  · rfl
  · rfl

theorem portReceives : Claim.PortReceives := by
  intro p rx s l k first seq left flags naks
  refine ⟨fun h => ⟨if_pos (by rw [show (s.link p).live = false from h]; rfl), if_pos (by rw [show (s.link p).live = false from h]; rfl)⟩, fun h => ?_⟩
  have hpacket := packetReceive_of_live (rx := rx) (show (s.link p).live = true from h)
  have hcontrol := linkControlReceive_of_live (rx := rx) (show (s.link p).live = true from h)
  refine ⟨fun hg => ?_, fun hg ht hd => ?_, fun hg ht hd hr => ?_, fun hn => ?_, fun i hi hg ht => ?_⟩
  · refine hpacket.trans ((if_pos (by rw [hg]; rfl)).trans (congrArg _ ?_))
    exact congrArg (fun f => { s with fab := f }) (s.fab.onLink_onLink p (·.fec rx) fun q => { q with discard := true })
  · intro f g
    have htake : (s.fecCounted p rx).fab.takeData p k = g := Fabric.takeData_fec s.fab p rx k
    refine ⟨?_, ?_⟩
    · by_cases hc : s.fab.closed = true
      · have hgc : g = f.noRoute.freeBuffer p.val k := if_pos hc
        rw [hgc, Fabric.freeBuffer_noroute]
        exact .inl rfl
      · exact .inr (by simpa using hc)
    · refine hpacket.trans ((if_neg (by rw [hg]; decide)).trans ((if_neg ht).trans ((if_neg ?_).trans ?_)))
      · rcases hd with hd | hd
        · rw [show (s.link p).discard = false from hd]
          simp
        · rw [hd]
          simp
      · have ht : (s.fecCounted p rx).onFab (·.takeData p k) = { s with fab := g } := congrArg (fun f => { s with fab := f }) htake
        change Host.Outcome.next (if 64 ≤ (((s.fecCounted p rx).onFab (·.takeData p k)).link p).sinceCtl
          then ((s.fecCounted p rx).onFab (·.takeData p k)).onFab (·.sendControl p) else (s.fecCounted p rx).onFab (·.takeData p k)) = _
        rw [ht]
        refine congrArg _ ?_
        by_cases h64 : 64 ≤ g.ports[p].sinceCtl
        · exact (if_pos h64).trans (congrArg (fun f => { s with fab := f }) (if_pos h64).symm)
        · exact (if_neg h64).trans (congrArg (fun f => { s with fab := f }) (if_neg h64).symm)
  · refine hpacket.trans ((if_neg (by rw [hg]; decide)).trans ((if_neg ht).trans (if_pos ?_)))
    rw [show (s.link p).discard = true from hd, hr]
    rfl
  · refine hcontrol.trans (if_neg ?_)
    rcases hn with hn | hn
    · rw [hn]
      simp
    · have : (rx.packet.type == 0xE) = false := by simpa using hn
      rw [this, Bool.and_false]
      decide
  · have hexec : exec i s = .next ((s.fecCounted p rx).linkControl p k) := by
      rcases hi with rfl | rfl
      · exact hpacket.trans ((if_neg (by rw [hg]; decide)).trans (if_pos ht))
      · refine hcontrol.trans (if_pos ?_)
        have : (rx.packet.type == 0xE) = true := by simpa using ht
        rw [hg, this]
        rfl
    have hc := (s.fecCounted p rx).linkControl_controls p k
    rw [State.fecCounted_link] at hc
    obtain ⟨h1, h2, h3, h4⟩ := hc.of_fec
    generalize (s.fecCounted p rx).linkControl p k = t at hexec h1 h2 h3 h4
    refine ⟨fun hf => ⟨t, hexec, ?_⟩, fun hf hn => ⟨t, hexec, h2 hf hn⟩, fun hf hn => ⟨t, hexec, h3 hf hn⟩, fun hf hn => ⟨t, hexec, h4 hf hn⟩⟩
    obtain ⟨ha, hb, hc, hd, he⟩ := h1 hf
    refine ⟨ha, hb, hc, hd, fun c => ?_⟩
    rw [he]
    exact Vector.getElem_ofFn _

/-- Settles O38: what a port sends and what it receives. -/
theorem portsSendAndReceive : Obligations.PortsSendAndReceive := ⟨portSends, portReceives⟩

/-! ### Streams open (R391, R455, R459, R483, R490, R589) -/

theorem State.takePacket_frame {s u : State} {g : Packet → Bool} {k : Packet} (h : s.takePacket g = some (k, u)) : u = { s with fab := u.fab } := by
  unfold State.takePacket at h
  split at h
  · obtain ⟨d, -, e⟩ := Option.map_eq_some_iff.mp h
    obtain ⟨-, rfl⟩ := Prod.mk.inj e
    rfl
  · cases h

theorem exec_desc (s : State) : exec .desc s = execDesc s := rfl
theorem exec_data (s : State) : exec .data s = execData s := rfl
theorem exec_ack (s : State) : exec .ack s = execAck s := rfl
theorem exec_nack (s : State) : exec .nack s = execNack s := rfl
theorem exec_cut (s : State) : exec .cut s = execCut s := rfl
theorem exec_streamStallTimeout (n : BitVec 12) (s : State) : exec (.streamStallTimeout n) s = execStreamStallTimeout n s := rfl

theorem DescF.lands_iff {d : DescF} : d.lands = true ↔ d.service = 1 ∨ d.service = 3 := by simp [DescF.lands]

theorem DescF.total_eq_zero {d : DescF} : d.total = 0 ↔ d.bytes = 0 := by
  unfold DescF.total
  omega

/-- A DESC without a place, by its service and its target (R455). -/
theorem State.descBad_of_graph {s : State} {g : Graph} (h : s.run.graph = some g) (d : DescF) : s.descBad d =
    (d.packageId != g.pkg.packageId || d.service == 0 || decide (6 < d.service)
      || (if d.service = 4 ∨ d.service = 6 then decide (s.glob.quarterBytes < d.offset + d.bytes)
        else g.place.all fun pl => s.rangeBad g.pkg pl d)) := by
  unfold State.descBad
  rw [h]
  dsimp only
  congr 2
  split
  · rename_i e
    rw [e]
    rfl
  · rename_i pl e
    rw [e]
    rfl

theorem State.descBad_spec (s : State) (d : DescF) :
    (s.run.graph = none → s.descBad d = true) ∧ ∀ g, s.run.graph = some g →
      (d.packageId ≠ g.pkg.packageId → s.descBad d = true) ∧
      (d.packageId = g.pkg.packageId → d.service = 4 ∨ d.service = 6 → (s.descBad d = true ↔ s.glob.quarterBytes < d.offset + d.bytes)) ∧
      (d.service ≠ 4 → d.service ≠ 6 → d.root = false → d.service ≠ 3 → g.pkg.tensors.length ≤ d.target → s.descBad d = true) := by
  refine ⟨fun h => ?_, fun g h => ⟨fun hp => ?_, fun hp hs => ?_, fun h4 h6 hr h3 ht => ?_⟩⟩
  · unfold State.descBad
    rw [h]
  · rw [State.descBad_of_graph h]
    simp [hp]
  · rw [State.descBad_of_graph h, if_pos hs]
    rcases hs with hs | hs
    · simp [hp, hs]
    · simp [hp, hs]
  · have hrange (pl : Placement) : s.rangeBad g.pkg pl d = true := by
      have h3' : (d.service == 3) = false := beq_false_of_ne h3
      unfold State.rangeBad
      dsimp only
      rw [hr, h3', if_neg (by decide), if_pos ht]
    rw [State.descBad_of_graph h, if_neg (by rintro (e | e); exacts [h4 e, h6 e])]
    simp [hrange]

/-- A stream that opens: its slot or source noted, itself at packet 1. -/
def State.opened (v : State) (before : Option RxStream) (d : DescF) (k : Packet) (base : Nat) : State × RxStream :=
  let w := if d.service = 4 then v.onHlt Health.beginSlot else v
  let w := if (d.service = 5 ∨ d.service = 6) ∧ w.hlt.rcv = 1 then w.onHlt (·.fillSource d.service k.src) else w
  let r : RxStream := { src := k.src, id := k.stream, desc := d, base := base, whole := before.any fun x => x.desc == d && x.whole }
  (w.onFab fun f => { f with rx := f.rx ++ [r] }, r)

section
variable {s u : State} {k : Packet} (h : s.takePacket (fun x => x.type == 1) = some (k, u))
include h

theorem desc_of_asleep (ha : s.pwr.state = .a2 ∨ s.pwr.state = .a3) :
    exec .desc s = .next ((u.onFab (·.dropRx k.src k.stream)).nackWith k 3) := by
  have hu := State.takePacket_frame h
  rw [exec_desc]
  unfold execDesc
  rw [h]
  exact if_pos (by rw [hu]; exact ha)

theorem desc_of_awake (ha : ¬ (s.pwr.state = .a2 ∨ s.pwr.state = .a3)) : exec .desc s =
    if u.descBad (descOf k) then .next (((u.onFab (·.dropRx k.src k.stream)).onFab (·.flag 8)).nackWith k 4)
    else match (if (descOf k).lands then (u.onFab (·.dropRx k.src k.stream)).fab.landAt (u.onFab (·.dropRx k.src k.stream)).glob (descOf k).bytes
        else some 0) with
      | none => .next s
      | some base =>
        let o := (u.onFab (·.dropRx k.src k.stream)).opened (u.fab.rx.find? fun r => r.src == k.src && r.id == k.stream) (descOf k) k base
        .next (if (descOf k).total = 0 then o.1.rxEnd o.2 k else o.1) := by
  have hu := State.takePacket_frame h
  rw [exec_desc]
  unfold execDesc
  rw [h]
  exact (if_neg (by rw [hu]; exact ha)).trans rfl

theorem desc_of_open (ha : ¬ (s.pwr.state = .a2 ∨ s.pwr.state = .a3)) (hb : ¬ u.descBad (descOf k) = true) (base : Nat)
    (hl : if (descOf k).service = 1 ∨ (descOf k).service = 3
      then (u.onFab (·.dropRx k.src k.stream)).fab.landAt (u.onFab (·.dropRx k.src k.stream)).glob (descOf k).bytes = some base else base = 0) :
    let o := (u.onFab (·.dropRx k.src k.stream)).opened (u.fab.rx.find? fun r => r.src == k.src && r.id == k.stream) (descOf k) k base
    ((descOf k).bytes ≠ 0 → exec .desc s = .next o.1) ∧ ((descOf k).bytes = 0 → exec .desc s = .next (o.1.rxEnd o.2 k)) := by
  have hland : (if (descOf k).lands then (u.onFab (·.dropRx k.src k.stream)).fab.landAt (u.onFab (·.dropRx k.src k.stream)).glob (descOf k).bytes
      else some 0) = some base := by
    by_cases hs : (descOf k).service = 1 ∨ (descOf k).service = 3
    · rw [if_pos (DescF.lands_iff.mpr hs)]
      rwa [if_pos hs] at hl
    · rw [if_neg (fun e => hs (DescF.lands_iff.mp e))]
      rw [if_neg hs] at hl
      rw [hl]
  have hexec := (desc_of_awake h ha).trans (if_neg hb)
  rw [hland] at hexec
  intro o
  exact ⟨fun hn => hexec.trans (congrArg _ (if_neg fun e => hn (DescF.total_eq_zero.mp e))),
    fun hz => hexec.trans (congrArg _ (if_pos (DescF.total_eq_zero.mpr hz)))⟩

end

theorem streamOpens : Claim.StreamOpens := by
  intro s isDesc
  refine ⟨fun h => ?_, fun u k h => ?_⟩
  · rw [exec_desc]
    unfold execDesc
    rw [h]
  · intro d asleep bad v
    have hu := State.takePacket_frame h
    have hrun : u.run = s.run := by rw [hu]
    have hglob : u.glob = s.glob := by rw [hu]
    obtain ⟨hnone, hgraph⟩ := u.descBad_spec d
    rw [hrun] at hnone hgraph
    rw [hglob] at hgraph
    refine ⟨desc_of_asleep h, fun ha hb => ?_, fun hs ha hb hl => ?_, fun base ha hb hl => desc_of_open h ha hb base hl, hnone, hgraph⟩
    · exact (desc_of_awake h ha).trans (if_pos hb)
    · refine (desc_of_awake h ha).trans ((if_neg hb).trans ?_)
      have hland : (if (descOf k).lands then (u.onFab (·.dropRx k.src k.stream)).fab.landAt (u.onFab (·.dropRx k.src k.stream)).glob (descOf k).bytes
          else some 0) = none := (if_pos (DescF.lands_iff.mpr hs)).trans hl
      rw [hland]

/-! ### Streams take data (R418, R421, R454, R455) -/

theorem data_of {s u : State} {k : Packet} (h : s.takePacket (fun x => x.type == 2) = some (k, u)) : exec .data s =
    match u.fab.rx.find? fun r => r.src == k.src && r.id == k.stream with
    | none => .next u
    | some r =>
      if k.seq ≠ r.next ∨ r.desc.total < k.seq then .next u
      else if s.dataWaits r k then .next s
      else
        let w := u.writeData r k
        let r' := { w.2 with next := k.seq + 1 }
        let v := w.1.onFab (·.onRx r'.src r'.id fun _ => r')
        .next (if k.seq = r'.desc.total then v.rxEnd r' k else if k.seq % 1024 = 0 then v.answer 3 k (k.seq + 1) [] else v) := by
  rw [exec_data]
  unfold execData
  rw [h] <;> rfl

/-- A service's write changes only bytes that it names, where no sector is uncorrectable. -/
theorem State.svcWrite_get_other {s : State} (hue : s.mem.ue = []) (hwf : s.mem.wf = true) (ws : List WByte) {a : Nat}
    (ha : ∀ w ∈ ws, w.addr ≠ a) : (s.svcWrite ws).mem.get a = s.mem.get a := by
  obtain ⟨g, hg⟩ : ∃ g, s.svcWrite ws = ({ s with glob := g } : State).busWrite svcClass (ws.filter fun w => s.reach w.addr == .reached) := ⟨_, rfl⟩
  rw [hg, (State.busWrite_of_clean (s := { s with glob := g }) hue svcClass (ws.filter fun w => s.reach w.addr == .reached)).1]
  exact Memory.get_write_other hwf _ a fun w hw => ha w (List.mem_of_mem_filter hw)

/-- The bytes of a data packet with their places in the stream. -/
def streamBytes (r : RxStream) (k : Packet) : List (Nat × Byte) :=
  (k.data.take (r.desc.bytes - (k.seq - 1) * 48)).zipIdx.map fun x => ((k.seq - 1) * 48 + x.2, x.1)

theorem streamBytes_range {r : RxStream} {k : Packet} {x : Nat × Byte} (h : x ∈ streamBytes r k) :
    x.1 < r.desc.bytes ∧ (k.seq - 1) * 48 ≤ x.1 ∧ x.1 < (k.seq - 1) * 48 + 48 := by
  obtain ⟨⟨v, j⟩, hj, rfl⟩ := List.mem_map.mp h
  obtain ⟨hlt, -⟩ := List.getElem?_eq_some_iff.mp (List.mem_zipIdx_iff_getElem?.mp hj)
  have hdata : k.data.length = 48 := length_bytesOf 48 _
  rw [List.length_take, hdata] at hlt
  dsimp only at hlt ⊢
  omega

theorem State.writeData_get {s : State} (hue : s.mem.ue = []) (hwf : s.mem.wf = true) (r : RxStream) (k : Packet) {a : Nat}
    (ha : ∀ i, i < r.desc.bytes → (k.seq - 1) * 48 ≤ i → i < (k.seq - 1) * 48 + 48 → a ∉ (s.target r.desc r.base i).getD []) :
    (s.writeData r k).1.mem.get a = s.mem.get a := by
  refine State.svcWrite_get_other hue hwf _ fun w hw e => ?_
  obtain ⟨x, hx, hxw⟩ := List.mem_flatMap.mp hw
  obtain ⟨h1, h2, h3⟩ := streamBytes_range hx
  have hno := ha x.1 h1 h2 h3
  split at hxw
  next as_ hAs =>
    obtain ⟨b, hb, rfl⟩ := List.mem_map.mp hxw
    rw [hAs] at hno
    exact hno (e ▸ hb)
  next => cases hxw

theorem streamData : Claim.StreamData := by
  intro s isData
  refine ⟨fun h => ?_, fun u k h => ?_⟩
  · rw [exec_data]
    unfold execData
    rw [h]
  · intro open_
    have hexec := data_of h
    refine ⟨fun ho => ?_, fun r ho => ?_⟩
    · rw [show (u.fab.rx.find? fun r => r.src == k.src && r.id == k.stream) = none from ho] at hexec
      exact hexec
    · intro w r' v
      rw [show (u.fab.rx.find? fun r => r.src == k.src && r.id == k.stream) = some r from ho] at hexec
      have hdesc : r'.desc = r.desc := rfl
      refine ⟨fun hbad => hexec.trans (if_pos hbad), fun hs ht => ?_, fun hue hwf a ha => State.writeData_get hue hwf r k ha⟩
      have hgood := hexec.trans (if_neg (by rintro (e | e); exacts [e hs, Nat.not_lt.mpr ht e]))
      refine ⟨fun hw => hgood.trans (if_pos hw), fun hw => ?_⟩
      have hwritten := hgood.trans (if_neg (by rw [hw]; decide))
      refine ⟨fun hl => hwritten.trans (congrArg _ (if_pos hl)), fun hl hm => hwritten.trans (congrArg _ ((if_neg hl).trans (if_pos hm))),
        fun hl hm => hwritten.trans (congrArg _ ((if_neg hl).trans (if_neg hm)))⟩

/-! ### Answers to streams (R444, R451 to R457, R492) -/

theorem ack_of {s u : State} {k : Packet} (h : s.takePacket (fun x => x.type == 3) = some (k, u)) : exec .ack s =
    match u.fab.tx.find? fun t => t.id == k.stream with
    | none => .next u
    | some t =>
      if !t.waits.contains k.src then .next u
      else .next (((u.onFab fun f => (if k.poison then f.flag 7 else f).onTx t.id (·.hear k.src k.ackSeq k.poison)).pump t.id).settleStreams t.run) := by
  rw [exec_ack]
  unfold execAck
  rw [h] <;> rfl

theorem nack_of {s u : State} {k : Packet} (h : s.takePacket (fun x => x.type == 4) = some (k, u)) : exec .nack s =
    if endpointOf k.dest = 0 then .next (if k.msg = 4 then u.pollLost k.msgId.toNat else if k.msg = 0x20 then u.verifyLost else u)
    else .next (u.nackStream k) := by
  rw [exec_nack]
  unfold execNack
  rw [h]

/-- The destination that a NACK speaks for (R451, R452). -/
def TxStream.refused (t : TxStream) (src : BitVec 24) : Option (BitVec 24) :=
  match t.mc with
  | some _ => t.waits.find? fun w => coordsAt w == coordsAt src
  | none => t.waits.head?

theorem State.nackStream_eq (u : State) (k : Packet) : u.nackStream k = match u.fab.tx.find? fun t => t.id == k.stream with
    | none => u
    | some t =>
      match t.refused k.src with
      | none => u
      | some a =>
        if t.desc.relay then u.unicastLine t u.firstDim a (decide (k.seq = 0 ∧ [2, 4, 5].contains (k.pf 0 1)))
        else if (k.seq = 0 ∧ [2, 4, 5].contains (k.pf 0 1)) ∨ (t.repair ∧ [1, 2, 4, 5].contains (k.pf 0 1)) ∨ (t.desc.service = 4 ∧ k.pf 0 1 = 3)
          then u.skipDest t.run a t.desc.target else u := rfl

theorem State.nackStream_of {u : State} {k : Packet} {t : TxStream} {a : BitVec 24} (ht : (u.fab.tx.find? fun t => t.id == k.stream) = some t)
    (ha : t.refused k.src = some a) :
    let skips := (k.seq = 0 ∧ k.pf 0 1 ∈ [2, 4, 5]) ∨ (t.repair = true ∧ k.pf 0 1 ∈ [1, 2, 4, 5]) ∨ (t.desc.service = 4 ∧ k.pf 0 1 = 3)
    (t.desc.relay = true → u.nackStream k = u.unicastLine t u.firstDim a (decide (k.seq = 0 ∧ k.pf 0 1 ∈ [2, 4, 5]))) ∧
    (t.desc.relay = false → skips → u.nackStream k = u.skipDest t.run a t.desc.target) ∧
    (t.desc.relay = false → ¬ skips → u.nackStream k = u) := by
  intro skips
  have hexec : u.nackStream k = if t.desc.relay then u.unicastLine t u.firstDim a (decide (k.seq = 0 ∧ [2, 4, 5].contains (k.pf 0 1)))
      else if (k.seq = 0 ∧ [2, 4, 5].contains (k.pf 0 1)) ∨ (t.repair ∧ [1, 2, 4, 5].contains (k.pf 0 1)) ∨ (t.desc.service = 4 ∧ k.pf 0 1 = 3)
        then u.skipDest t.run a t.desc.target else u := by
    rw [State.nackStream_eq, ht]
    dsimp only
    rw [ha]
  simp only [List.contains_iff_mem] at hexec
  refine ⟨fun hr => hexec.trans (if_pos hr), fun hr hs => ?_, fun hr hs => ?_⟩
  · exact hexec.trans ((if_neg (by rw [hr]; decide)).trans (if_pos hs))
  · exact hexec.trans ((if_neg (by rw [hr]; decide)).trans (if_neg hs))

theorem State.nackStream_of_none {u : State} {k : Packet} (ht : (u.fab.tx.find? fun t => t.id == k.stream) = none) : u.nackStream k = u := by
  unfold State.nackStream
  rw [ht]

theorem cut_of {s u : State} {k : Packet} (h : s.takePacket (fun x => x.type == 5) = some (k, u)) : exec .cut s =
    match u.fab.tx.find? fun t => t.id == k.stream with
    | none => .next u
    | some t =>
      match t.mc, t.cut with
      | some (d, _), none =>
        let span := u.fab.line u.fab.coords d (endpointOf t.dest)
        let beyond := span.drop ((span.findIdx? fun w => coordsAt w == coordsAt (BitVec.ofNat 24 (k.pf 0 3))).getD span.length)
        let v := u.onFab fun f => (f.onTx t.id fun t => { t with
          cut := some (BitVec.ofNat 24 (k.pf 3 3)), waits := t.waits.filter fun w => !beyond.contains w }).onRunId t.run fun r =>
            { r with cuts := r.cuts + 1 }
        .next (((v.enqueue t.run (v.fab.unicasts t (beyond.filter t.waits.contains))).pump t.id).settleStreams t.run)
      | _, _ => .next u := by
  rw [exec_cut]
  unfold execCut
  rw [h] <;> rfl

theorem TxStream.silent_eq (t : TxStream) : t.silent =
    if (t.waits.filter fun a => !t.heard.contains a) = [] then t.waits else t.waits.filter fun a => !t.heard.contains a := by
  unfold TxStream.silent
  dsimp only
  rw [if_congr List.isEmpty_iff rfl rfl]

theorem streamStallTimeout_of {s : State} {n : BitVec 12} {t : TxStream} (h : (s.fab.tx.find? fun t => t.id == n.toNat) = some t) :
    (t.resent = false → exec (.streamStallTimeout n) s = .next ((s.onFab fun f =>
      { (f.flag 4).onTx t.id (fun t => { t with resent := true, next := 0, acked := [], heard := [] }) with resendCnt := f.resendCnt + 1 }).pump t.id)) ∧
    (t.resent = true → t.desc.relay = false → exec (.streamStallTimeout n) s = .next (t.silent.foldl (fun s a => s.skipDest t.run a t.desc.target)
      (s.onFab (·.onTx t.id fun t => { t with heard := [] })))) ∧
    (t.resent = true → t.desc.relay = true → exec (.streamStallTimeout n) s = .next (match t.waits with
      | a :: _ => s.unicastLine t s.firstDim a true
      | [] => s)) := by
  rw [exec_streamStallTimeout]
  unfold execStreamStallTimeout
  rw [h]
  dsimp only
  refine ⟨fun hr => ?_, fun hr hrel => ?_, fun hr hrel => ?_⟩
  · exact if_pos (by rw [hr]; rfl)
  · rw [if_neg (by rw [hr]; decide), if_neg (by rw [hrel]; decide)]
  · rw [if_neg (by rw [hr]; decide), if_pos hrel] <;> rfl

theorem streamAnswers : Claim.StreamAnswers := by
  intro s u named
  refine ⟨fun h => ?_, fun h => ?_, fun h => ?_, fun k h => ?_, fun k h he => ?_, fun k h he => ?_, fun k h => ?_, fun n => ?_⟩
  · rw [exec_ack]
    unfold execAck
    rw [h]
  · rw [exec_nack]
    unfold execNack
    rw [h]
  · rw [exec_cut]
    unfold execCut
    rw [h]
  · intro seq
    have hexec := ack_of h
    refine ⟨fun hn => ?_, fun t hn => ?_⟩
    · rw [show (u.fab.tx.find? fun t => t.id == k.stream) = none from hn] at hexec
      exact hexec
    · rw [show (u.fab.tx.find? fun t => t.id == k.stream) = some t from hn] at hexec
      exact ⟨fun hw => hexec.trans (if_pos (by rw [hw]; rfl)), fun hw => hexec.trans (if_neg (by rw [hw]; decide))⟩
  · exact (nack_of h).trans (if_pos he)
  · have hexec := (nack_of h).trans (if_neg he)
    refine ⟨fun hn => hexec.trans (congrArg _ (State.nackStream_of_none hn)), fun t a hn ha => ?_⟩
    intro reason skips
    obtain ⟨h1, h2, h3⟩ := State.nackStream_of hn ha
    exact ⟨fun hr => hexec.trans (congrArg _ (h1 hr)), fun hr hs => hexec.trans (congrArg _ (h2 hr hs)),
      fun hr hs => hexec.trans (congrArg _ (h3 hr hs))⟩
  · have hexec := cut_of h
    refine ⟨fun hn => ?_, fun t d m hn hm hc => ?_⟩
    · rcases hn with hn | ⟨t, hn, hmc⟩
      · rw [show (u.fab.tx.find? fun t => t.id == k.stream) = none from hn] at hexec
        exact hexec
      · rw [show (u.fab.tx.find? fun t => t.id == k.stream) = some t from hn] at hexec
        refine hexec.trans ?_
        dsimp only
        split
        next hm hc =>
          rw [hm, hc] at hmc
          simp at hmc
        next => rfl
    · rw [show (u.fab.tx.find? fun t => t.id == k.stream) = some t from hn] at hexec
      dsimp only at hexec
      rw [hm, hc] at hexec
      exact hexec
  · intro its
    refine ⟨fun h => ?_, fun t h => ?_⟩
    · rw [exec_streamStallTimeout]
      unfold execStreamStallTimeout
      rw [show (s.fab.tx.find? fun t => t.id == n.toNat) = none from h]
    · obtain ⟨h1, h2, h3⟩ := streamStallTimeout_of h
      rw [TxStream.silent_eq] at h2
      exact ⟨h1, h2, h3⟩

/-- Settles O40: how streams open, take data and are answered. -/
theorem streamsRun : Obligations.StreamsRun := ⟨streamOpens, streamData, streamAnswers⟩

end Sys2Proof.Machine
end
